-- ==== Sys2Proof/Word.lean ====
section
/-! DEFINITION. The word types of Stolah: 64-bit registers, 32-bit instruction words, bytes, 128-bit block registers. -/

namespace Sys2Proof

/-- A general register, an address or a control register (R12, R70). -/
abbrev Word := BitVec 64

/-- An instruction word (R5). -/
abbrev W32 := BitVec 32

/-- A byte of memory. -/
abbrev Byte := BitVec 8

/-- A block register: sixteen bytes, lane 0 at the low end (R11). -/
abbrev Quad := BitVec 128

end Sys2Proof
end

