-- ==== Sys2Proof/Machine/Bits.lean ====
section
/-! DEFINITION. Bit fields, sign extension and byte order (R5, R72, R114). -/

namespace Sys2Proof.Machine

/-- Bits(x, hi, lo) of the spec's pseudocode, as a number. -/
def bitsNat {w : Nat} (x : BitVec w) (hi lo : Nat) : Nat := x.toNat / 2 ^ lo % 2 ^ (hi + 1 - lo)

/-- Bits(x, hi, lo) as a word. -/
def bitsW {w : Nat} (x : BitVec w) (hi lo : Nat) : Word := BitVec.ofNat 64 (bitsNat x hi lo)

/-- Bit `k`. -/
def bitAt {w : Nat} (x : BitVec w) (k : Nat) : Bool := x.getLsbD k

/-- A number as a word. -/
def word (n : Nat) : Word := BitVec.ofNat 64 n

/-- The signed value of the low `n` bits. -/
def sextNat (n v : Nat) : Int :=
  if v % 2 ^ n < 2 ^ (n - 1) then (v % 2 ^ n : Nat) else (v % 2 ^ n : Nat) - (2 ^ n : Nat)

/-- Sext of the low `n` bits to a word. -/
def sextW (n v : Nat) : Word := BitVec.ofInt 64 (sextNat n v)

/-- A number's bytes, least significant first. -/
def leBytes : Nat → Nat → List Byte
  | 0, _ => []
  | k + 1, v => BitVec.ofNat 8 v :: leBytes k (v / 256)

/-- The number that bytes hold, least significant first. -/
def leNat : List Byte → Nat
  | [] => 0
  | b :: t => b.toNat + 256 * leNat t

/-- A field of a number. -/
def field (v lo n : Nat) : Nat := v / 2 ^ lo % 2 ^ n

/-- A list cut into runs of `n`, with fuel for its length. -/
def runsOf {α : Type} (n : Nat) : Nat → List α → List (List α)
  | 0, _ => []
  | k + 1, l => if l.isEmpty then [] else l.take n :: runsOf n k (l.drop n)

/-- A list cut into runs of `n`. -/
def chunks {α : Type} (n : Nat) (l : List α) : List (List α) := runsOf n l.length l

/-- The number of one bits. -/
def popcount : Nat → Nat → Nat
  | 0, _ => 0
  | k + 1, v => v % 2 + popcount k (v / 2)

/-- The first element of a list that a test accepts, with its position. -/
def findAt {α : Type} (f : α → Bool) : List α → Nat → Option (Nat × α)
  | [], _ => none
  | x :: t, i => if f x then some (i, x) else findAt f t (i + 1)

/-- An element put before the first one with a larger key. -/
def insertOn {α : Type} (f : α → Nat) (x : α) : List α → List α
  | [] => [x]
  | y :: t => if f x ≤ f y then x :: y :: t else y :: insertOn f x t

/-- A list in rising order of a key. -/
def sortOn {α : Type} (f : α → Nat) (l : List α) : List α := l.foldr (insertOn f) []

end Sys2Proof.Machine
end

