-- ==== Sys2Proof/Machine/Flags.lean ====
section
/-! DEFINITION. The flags of FCTL as a set of five bits, NX lowest (Table 3.8), and the conditions of Table 3.10 that no
rounding decides: how the flags of several results come together. What a rounding sets stands in Num.lean. -/

namespace Sys2Proof.Machine

/-- A set of flags: bit 0 NX, 1 UF, 2 OF, 3 DZ, 4 NV (Table 3.8, FCTL[12:8]). -/
abbrev Flags := BitVec 5

/-- No flag. -/
def noFlags : Flags := 0
/-- Inexact. -/
def flagNX : Flags := 1
/-- Underflow. -/
def flagUF : Flags := 2
/-- Overflow. -/
def flagOF : Flags := 4
/-- Division by zero. -/
def flagDZ : Flags := 8
/-- Invalid operation. -/
def flagNV : Flags := 16

/-- A flag only if a condition holds. -/
def flagIf (c : Bool) (f : Flags) : Flags := if c then f else noFlags

/-- The flags of several results, ORed (R161). -/
def allFlags (l : List Flags) : Flags := l.foldl (fun a b => a ||| b) noFlags

/-- UF for a tiny result that is also inexact (R62), with NX. -/
def underflowFlags (tiny inexact : Bool) : Flags := flagIf inexact flagNX ||| flagIf (tiny && inexact) flagUF

end Sys2Proof.Machine
end

