-- ==== Sys2Proof/Machine/Num.lean ====
section
/-! DEFINITION. Numbers to the bit: the element formats (R45–R50), NaNs and their payloads (R48, R63, R64), exact dyadic
values, the one rounding (R60–R62, R67), conversions to LG6 (R51) and integers (R68), and the random bits of RSR (R61). -/

namespace Sys2Proof.Machine

/-! ## Formats -/

/-- An element format (Table 3.1). -/
inductive Elem where
  | int8 | int16 | int32 | int64 | fp64 | fp32 | bf16 | fp16 | e4m3 | e5m2 | lg6 | uint8
  deriving DecidableEq, Repr

/-- The format of a code; 0xC to 0xF are reserved (R45). -/
def elemOf : Nat → Option Elem
  | 0 => some .int8 | 1 => some .int16 | 2 => some .int32 | 3 => some .int64 | 4 => some .fp64 | 5 => some .fp32
  | 6 => some .bf16 | 7 => some .fp16 | 8 => some .e4m3 | 9 => some .e5m2 | 10 => some .lg6 | 11 => some .uint8
  | _ => none

/-- Bits a lane takes in a block register (R46, R50). -/
def laneBits : Elem → Nat
  | .int8 => 8 | .int16 => 16 | .int32 => 32 | .int64 => 64 | .fp64 => 64 | .fp32 => 32
  | .bf16 => 16 | .fp16 => 16 | .e4m3 => 8 | .e5m2 => 8 | .lg6 => 8 | .uint8 => 8

/-- Lanes of a block register (Table 3.1). -/
def laneCount (f : Elem) : Nat := 128 / laneBits f

/-- An integer format. -/
def isInt : Elem → Bool
  | .int8 | .int16 | .int32 | .int64 | .uint8 => true
  | _ => false

/-- A floating format: neither integer nor LG6. -/
def isFloat (f : Elem) : Bool := !isInt f && f != .lg6

/-- Exponent bits, fraction bits and whether there are infinities (Table 3.2). -/
structure FloatFmt where
  ebits : Nat
  fbits : Nat
  inf   : Bool
  deriving DecidableEq, Repr

/-- The parameters of a floating format; FP64's for a format that has none. -/
def floatFmt : Elem → FloatFmt
  | .fp32 => { ebits := 8, fbits := 23, inf := true }
  | .bf16 => { ebits := 8, fbits := 7, inf := true }
  | .fp16 => { ebits := 5, fbits := 10, inf := true }
  | .e4m3 => { ebits := 4, fbits := 3, inf := false }
  | .e5m2 => { ebits := 5, fbits := 2, inf := true }
  | _ => { ebits := 11, fbits := 52, inf := true }

/-- The bias. -/
def FloatFmt.bias (f : FloatFmt) : Nat := 2 ^ (f.ebits - 1) - 1

/-- The exponent of the last place of a subnormal. -/
def FloatFmt.qmin (f : FloatFmt) : Int := 1 - (f.bias : Int) - (f.fbits : Int)

/-- The largest finite value as exponent and fraction fields. -/
def FloatFmt.maxBits (f : FloatFmt) : Nat :=
  if f.inf then (2 ^ f.ebits - 1) * 2 ^ f.fbits - 1 else 2 ^ (f.ebits + f.fbits) - 2

/-- The sign bit's value. -/
def FloatFmt.signBit (f : FloatFmt) : Nat := 2 ^ (f.ebits + f.fbits)

/-! ## Values -/

/-- A value of an element: an exact dyadic number, an infinity, or a NaN. A NaN's payload is held in FP64's layout
(Table 3.11: core at [21:10], group at [9:0]), the quiet bit apart. -/
inductive Val where
  | num (neg : Bool) (m : Nat) (e : Int)
  | inf (neg : Bool)
  | nan (neg quiet : Bool) (payload : Nat)
  deriving DecidableEq, Repr

/-- A payload from the fraction of a format, its quiet bit apart (R64). -/
def payloadOf (f : Elem) (frac : Nat) : Nat :=
  match f with
  | .fp64 => frac % 2 ^ 51
  | .fp32 => frac % 2 ^ 22
  | .bf16 => frac % 2 ^ 6 * 2 ^ 16
  | .fp16 => frac % 2 ^ 9 * 2 ^ 13
  | .e5m2 => frac % 2 * 2 ^ 21
  | _ => 0

/-- The fraction that holds a payload in a format (Table 3.11). -/
def fracOf (f : Elem) (payload : Nat) : Nat :=
  match f with
  | .fp64 => payload % 2 ^ 51
  | .fp32 => payload % 2 ^ 22
  | .bf16 => payload / 2 ^ 16 % 2 ^ 6
  | .fp16 => payload / 2 ^ 13 % 2 ^ 9
  | .e5m2 => payload / 2 ^ 21 % 2
  | _ => 0

/-- The bits of a quiet or signalling NaN. -/
def nanBits (f : Elem) (neg quiet : Bool) (payload : Nat) : Nat :=
  let p := floatFmt f
  let s := if neg then p.signBit else 0
  if p.inf then s + (2 ^ p.ebits - 1) * 2 ^ p.fbits + (if quiet then 2 ^ (p.fbits - 1) else 0) + fracOf f payload
  else s + 2 ^ (p.ebits + p.fbits) - 1

/-- The value of a floating element's bits (R47, R48). -/
def floatVal (f : Elem) (b : Nat) : Val :=
  let p := floatFmt f
  let neg := b / p.signBit % 2 == 1
  let ex := b / 2 ^ p.fbits % 2 ^ p.ebits
  let fr := b % 2 ^ p.fbits
  if p.inf && ex == 2 ^ p.ebits - 1 then
    (if fr == 0 then .inf neg else .nan neg (fr / 2 ^ (p.fbits - 1) == 1) (payloadOf f fr))
  else if !p.inf && ex == 2 ^ p.ebits - 1 && fr == 2 ^ p.fbits - 1 then .nan neg true 0
  else if ex == 0 then .num neg fr p.qmin
  else .num neg (2 ^ p.fbits + fr) (p.qmin + (ex : Int) - 1)

/-- Table T of R49. -/
def lgTable (q : Nat) : Nat := [0x1000, 0x1307, 0x16A1, 0x1AE9].getD q 0x1000

/-- ℓ of an LG6 code; none for zero (Table 3.3). -/
def lgExp (code : Nat) : Option Int := if code % 32 = 16 then none else some (sextNat 5 code)

/-- lin(q) as a dyadic number (R49). -/
def lgLin (q : Int) : Nat × Int := (lgTable (q % 4).toNat, q / 4 - 12)

/-- The value of an LG6 code under scale `sc` (R49). -/
def lgVal (code : Nat) (sc : Int) : Val :=
  match lgExp code with
  | none => .num (code / 32 % 2 == 1) 0 0
  | some l => .num (code / 32 % 2 == 1) (lgLin l).1 ((lgLin l).2 + sc - 127)

/-- The exact product of two LG6 codes under two scales (R52). -/
def lgProduct (a b : Nat) (sa sb : Int) : Val :=
  let neg := (a / 32 % 2 == 1) != (b / 32 % 2 == 1)
  match lgExp a, lgExp b with
  | some x, some y => .num neg (lgLin (x + y)).1 ((lgLin (x + y)).2 + sa + sb - 254)
  | _, _ => .num neg 0 0

/-- The value of an element's bits under scale 127 (R46–R50, R159). -/
def elemVal (f : Elem) (b : Nat) : Val :=
  match f with
  | .lg6 => lgVal b 127
  | .uint8 => .num false (b % 256) 0
  | .int8 | .int16 | .int32 | .int64 =>
    let v := sextNat (laneBits f) b
    .num (decide (v < 0)) v.natAbs 0
  | _ => floatVal f b

/-! ## NaNs -/

/-- A created NaN's payload: the core and the group (R63). -/
def createdPayload (core group : Nat) : Nat := core % 4096 * 1024 + group % 1024

/-- The NaN an operation of a core creates, with a group index (R63). -/
def createdNaN (core group : Nat) : Val := .nan false true (createdPayload core group)

/-- A NaN. -/
def Val.isNaN : Val → Bool
  | .nan .. => true
  | _ => false

/-- A signalling NaN (R48). -/
def Val.isSignalling : Val → Bool
  | .nan _ quiet _ => !quiet
  | _ => false

/-- A NaN quieted (R48). -/
def Val.quieted : Val → Val
  | .nan neg _ payload => .nan neg true payload
  | v => v

/-- `a` is not after `b` in core order (R64). Two NaNs that R64's fields do not tell apart keep the order in which they stand. [log 85 DESIGN CHOICE] -/
def coreOrder (an : Bool) (ap : Nat) (bn : Bool) (bp : Nat) : Bool :=
  let key := fun (n : Bool) (p : Nat) => (p % 2 ^ 22) * 2 + (if n then 1 else 0)
  decide (key an ap ≤ key bn bp)

/-- The NaN of two values that is earliest in core order, quieted; none when neither is a NaN (R64). [log 85 DESIGN CHOICE] -/
def meetNaN : Val → Val → Option Val
  | .nan an _ ap, .nan bn _ bp => some (if coreOrder an ap bn bp then .nan an true ap else .nan bn true bp)
  | .nan an _ ap, _ => some (.nan an true ap)
  | _, .nan bn _ bp => some (.nan bn true bp)
  | _, _ => none

/-- NV for signalling inputs (R48). -/
def signallingFlags (l : List Val) : Flags := flagIf (l.any Val.isSignalling) flagNV

/-! ## Exact values -/

/-- A positive real known well enough to round: exactly m · 2^e, or, with `sticky`, strictly between m · 2^e and
(m + 1) · 2^e. -/
structure Approx where
  neg    : Bool
  m      : Nat
  e      : Int
  sticky : Bool
  deriving DecidableEq, Repr

/-- An exact value. -/
def Approx.exact (neg : Bool) (m : Nat) (e : Int) : Approx := { neg := neg, m := m, e := e, sticky := false }

/-- A signed dyadic number m · 2^e. -/
structure Dyadic where
  m : Int
  e : Int
  deriving DecidableEq, Repr

/-- A shift left by a nonnegative difference. -/
def shiftUp (m : Int) (d : Int) : Int := m * (2 ^ d.toNat : Nat)

/-- The exact sum. -/
def Dyadic.add (a b : Dyadic) : Dyadic :=
  if a.m = 0 then b else if b.m = 0 then a
  else if a.e ≤ b.e then { m := a.m + shiftUp b.m (b.e - a.e), e := a.e }
  else { m := shiftUp a.m (a.e - b.e) + b.m, e := b.e }

/-- The exact product. -/
def Dyadic.mul (a b : Dyadic) : Dyadic := { m := a.m * b.m, e := a.e + b.e }

/-- The dyadic number of a sign, magnitude and exponent. -/
def dyadicOf (neg : Bool) (m : Nat) (e : Int) : Dyadic := { m := if neg then -(m : Int) else m, e := e }

/-- Comparison of dyadic numbers. -/
def Dyadic.lt (a b : Dyadic) : Bool := decide ((Dyadic.add a { m := -b.m, e := b.e }).m < 0)

/-! ## Rounding (R60–R62) -/

/-- Whether a magnitude between N and N + 1, with remainder r of 2^d, goes to N + 1. -/
def roundsUp (mode : Nat) (neg : Bool) (n r d : Nat) (sticky : Bool) (rnd : Nat) : Bool :=
  match mode with
  | 0 => decide (2 ^ d < 2 * r) || (decide (2 * r = 2 ^ d) && (sticky || n % 2 == 1))
  | 1 => false
  | 2 => (decide (r ≠ 0) || sticky) && !neg
  | 3 => (decide (r ≠ 0) || sticky) && neg
  | 4 => decide (2 ^ d ≤ 2 * r)
  | _ => decide (rnd < r * 65536 / 2 ^ d)

/-- A magnitude cut to a multiple of 2^q: the multiplier, and whether the cut was inexact. -/
def roundAt (mode rnd : Nat) (x : Approx) (q : Int) : Nat × Bool :=
  if q ≤ x.e then (x.m * 2 ^ (x.e - q).toNat, x.sticky)
  else
    let d := (q - x.e).toNat
    let n := x.m / 2 ^ d
    let r := x.m % 2 ^ d
    let up := roundsUp mode x.neg n r d x.sticky rnd
    (if up then n + 1 else n, decide (r ≠ 0) || x.sticky)

/-- A result with its flags. -/
structure Rounded where
  bits  : Nat
  flags : Flags
  deriving DecidableEq, Repr

/-- What an overflow gives (R60, R67). -/
def overflowBits (f : Elem) (sat : Bool) (mode : Nat) (neg : Bool) : Nat :=
  let p := floatFmt f
  let s := if neg then p.signBit else 0
  let infBits := s + (2 ^ p.ebits - 1) * 2 ^ p.fbits
  if sat then s + p.maxBits
  else if !p.inf then s + 2 ^ (p.ebits + p.fbits) - 1
  else match mode with
    | 1 => s + p.maxBits
    | 2 => if neg then s + p.maxBits else infBits
    | 3 => if neg then infBits else s + p.maxBits
    | _ => infBits

/-- Round(x, format, mode) (R60–R62, R67): the bits of a floating format and the flags. -/
def roundTo (f : Elem) (sat : Bool) (mode rnd : Nat) (x : Approx) : Rounded :=
  let p := floatFmt f
  let s := if x.neg then p.signBit else 0
  if x.m = 0 ∧ x.sticky = false then { bits := s, flags := noFlags }
  else
    let top : Int := (Nat.log2 x.m : Int) + x.e
    let free := top - (p.fbits : Int)
    let q := if free < p.qmin then p.qmin else free
    let (n, inexact) := roundAt mode rnd x q
    let (u, _) := roundAt mode rnd x free
    let tiny := decide (free < p.qmin) &&
      (Dyadic.lt { m := u, e := free } { m := (2 ^ p.fbits : Nat), e := p.qmin })
    -- a carry out of the significand moves to the next exponent by itself
    let bits := if n < 2 ^ p.fbits then n else (q - p.qmin).toNat * 2 ^ p.fbits + n
    if p.maxBits < bits then { bits := overflowBits f sat mode x.neg, flags := flagOF ||| flagNX }
    else { bits := s + bits, flags := underflowFlags tiny inexact }

/-- The result of a NaN in a format (R64). -/
def nanResult (f : Elem) : Val → Nat
  | .nan neg quiet payload => nanBits f neg quiet payload
  | _ => nanBits f false true 0

/-- An infinite result in a format (R67). -/
def infResult (f : Elem) (sat : Bool) (neg : Bool) : Rounded :=
  let p := floatFmt f
  let s := if neg then p.signBit else 0
  if p.inf then { bits := s + (2 ^ p.ebits - 1) * 2 ^ p.fbits, flags := noFlags }
  else if sat then { bits := s + p.maxBits, flags := flagOF ||| flagNX }
  else { bits := s + 2 ^ (p.ebits + p.fbits) - 1, flags := flagOF ||| flagNX }

/-! ## LG6 (R51) -/

/-- The greatest k with 2^k below or at y^8, for y = m · 2^e, or for a y strictly between m · 2^e and (m + 1) · 2^e: the second
part says that y^8 is 2^k itself, which a y of no finite binary expansion can be. -/
def eighths (m : Nat) (e : Int) (sticky : Bool) : Int × Bool :=
  let lo : Int := (Nat.log2 (m ^ 8) : Int) + 8 * e
  let hi : Int := if sticky then (Nat.log2 ((m + 1) ^ 8 - 1) : Int) + 8 * e else lo
  (hi, decide (lo < hi))

/-- The integer nearest k / 2 for a k below or at 8 · log2 y: an odd k that is 8 · log2 y itself is a tie, which goes to the even
neighbour (R51). -/
def nearestHalf (k : Int) (itself : Bool) : Int :=
  if itself && k % 2 == 1 then (if (k - 1) / 2 % 2 = 0 then (k - 1) / 2 else (k + 1) / 2) else (k + 1) / 2

/-- A magnitude y = m · 2^e converted to ℓ by R51, with the sign. -/
def lgOfApprox (x : Approx) (sc : Int) : Rounded :=
  let e := x.e - (sc - 127)
  let s := if x.neg then 32 else 0
  if x.m = 0 ∧ x.sticky = false then { bits := s + 16, flags := noFlags }
  else
    let (l8, itself) := eighths x.m e x.sticky
    if l8 < -31 then { bits := s + 16, flags := flagUF ||| flagNX }
    else
      let l := nearestHalf l8 itself
      let lim := if l < -15 then -15 else if 15 < l then 15 else l
      let (tm, te) := lgLin lim
      let exact := !x.sticky && (Dyadic.add { m := x.m, e := e } { m := -(tm : Int), e := te }).m == 0
      let fl := if l = lim then flagIf (!exact) flagNX else flagOF ||| flagNX
      { bits := s + (lim % 32).toNat, flags := fl }

/-- A value converted to LG6 under a scale (R51). [log 48 DEDUCED] -/
def toLg6 (v : Val) (sc : Int) : Rounded :=
  match v with
  | .num neg m e => lgOfApprox (.exact neg m e) sc
  | .inf neg => { bits := (if neg then 32 else 0) + 15, flags := flagOF ||| flagNX }
  | .nan .. => { bits := 0x10, flags := flagNV }

/-! ## Integers (R68) -/

/-- The least and greatest values of an integer format. -/
def intRange : Elem → Int × Int
  | .uint8 => (0, 255)
  | f => (-(2 ^ (laneBits f - 1) : Nat), (2 ^ (laneBits f - 1) : Nat) - 1)

/-- An integer as the bits of a format, cut to its width. -/
def intBits (f : Elem) (v : Int) : Nat := (v % (2 ^ laneBits f : Nat)).toNat

/-- An exact integer result: wrapped, or saturated with OF (R161). -/
def intResult (f : Elem) (sat : Bool) (v : Int) : Rounded :=
  let (lo, hi) := intRange f
  if sat then
    (if v < lo then { bits := intBits f lo, flags := flagOF }
     else if hi < v then { bits := intBits f hi, flags := flagOF }
     else { bits := intBits f v, flags := noFlags })
  else { bits := intBits f v, flags := noFlags }

/-- A real rounded to an integer in a range (R68, R145): out of range gives the nearest limit with NV, not NX. -/
def roundToInt (lo hi : Int) (mode rnd : Nat) (v : Val) : Int × Flags :=
  match v with
  | .nan .. => (0, flagNV)
  | .inf neg => (if neg then lo else hi, flagNV)
  | .num neg m e =>
    let (n, inexact) := roundAt mode rnd (.exact neg m e) 0
    let r : Int := if neg then -(n : Int) else n
    if r < lo then (lo, flagNV) else if hi < r then (hi, flagNV) else (r, flagIf inexact flagNX)

/-! ## Random bits (R61) -/

/-- One step of the LFSR: the bit produced and the new state. -/
def lfsrStep (s : Nat) : Nat × Nat :=
  let bit := (s / 2 ^ 31 + s / 2 ^ 21 + s / 2 + s) % 2
  (bit, (s * 2 + bit) % 2 ^ 32)

/-- `k` steps, the bits collected with the first uppermost. -/
def lfsrSteps : Nat → Nat → Nat → Nat × Nat
  | 0, s, acc => (acc, s)
  | k + 1, s, acc => lfsrSteps k (lfsrStep s).2 (acc * 2 + (lfsrStep s).1)

/-- A 16-bit draw and the state after it. -/
def draw (s : Nat) : Nat × Nat := lfsrSteps 16 s 0

/-- A draw only in RSR: the bits and the new state. -/
def drawIf (mode : Nat) (s : Nat) : Nat × Nat := if mode = 5 then draw s else (0, s)

/-! ## A value rounded or converted into any format (R67, R68, R161) -/

/-- A conversion into a format rounds, and so takes a draw in RSR (R61): to a floating format, or from a value that is not
an integer element to an integer format. -/
def roundsInto (src dst : Elem) : Bool := isFloat dst || (isInt dst && !isInt src)

/-- A value in a floating format (R67). -/
def toFloat (f : Elem) (sat : Bool) (mode rnd : Nat) (v : Val) : Rounded :=
  match v with
  | .num neg m e => roundTo f sat mode rnd (.exact neg m e)
  | .inf neg => infResult f sat neg
  | .nan neg quiet payload => { bits := nanBits f neg true payload, flags := flagIf (!quiet) flagNV }

/-- A conversion between element formats (R51, R67, R68); `sc` is the scale of an LG6 or scaled destination, 127 for
none: the value is divided by 2^(sc − 127) first. -/
def convert (src dst : Elem) (sat : Bool) (mode rnd : Nat) (sc : Int) (v : Val) : Rounded :=
  if dst = .lg6 then toLg6 v sc
  else if isInt dst then
    (if isInt src then
      match v with
      | .num neg m _ => intResult dst sat (if neg then -(m : Int) else m)
      | _ => { bits := 0, flags := noFlags }
    else
      let (lo, hi) := intRange dst
      let (n, fl) := roundToInt lo hi mode rnd v
      { bits := intBits dst n, flags := fl })
  else
    match v with
    | .num neg m e => toFloat dst sat mode rnd (.num neg m (e - (sc - 127)))
    | v => toFloat dst sat mode rnd v

end Sys2Proof.Machine
end

