-- ==== Sys2Proof/Machine/Arith.lean ====
section
/-! DEFINITION. Arithmetic on element values before rounding: sums, products, quotients, roots and the elementary functions,
each exact or enclosed tightly enough to be rounded correctly (R60, R63, R64, R65, R142, R169). -/

namespace Sys2Proof.Machine

/-- A result before it is put into a format: a value (NaNs and infinities among them) or a real to be rounded, with the
flags already raised. -/
structure Pre where
  val    : Val
  approx : Option Approx
  flags  : Flags
  deriving DecidableEq, Repr

/-- A value as it is. -/
def Pre.ofVal (v : Val) (f : Flags) : Pre := { val := v, approx := none, flags := f }

/-- A real to be rounded. -/
def Pre.ofApprox (a : Approx) (f : Flags) : Pre := { val := .num a.neg a.m a.e, approx := some a, flags := f }

/-- A created NaN, with NV. -/
def Pre.created (core group : Nat) (f : Flags) : Pre := .ofVal (createdNaN core group) (flagNV ||| f)

/-- A result put into a floating format or LG6 (R161). -/
def Pre.finish (f : Elem) (sat : Bool) (mode rnd : Nat) (p : Pre) : Rounded :=
  let r := match p.approx with
    | some a => if f = Elem.lg6 then lgOfApprox a 127 else roundTo f sat mode rnd a
    | none => if f = Elem.lg6 then toLg6 p.val 127 else toFloat f sat mode rnd p.val
  { r with flags := r.flags ||| p.flags }

/-- The zero of a sum that is exactly zero (R63). -/
def zeroSum (mode : Nat) (allNeg : Bool) : Val := .num (allNeg || mode == 3) 0 0

/-- A nonzero dyadic number as a value. -/
def dyadicVal (d : Dyadic) : Val := .num (decide (d.m < 0)) d.m.natAbs d.e

/-- The negation of a value. -/
def Val.negate : Val → Val
  | .num neg m e => .num (!neg) m e
  | .inf neg => .inf (!neg)
  | .nan neg quiet payload => .nan (!neg) quiet payload

/-- a + b before rounding (R63, R64). -/
def addPre (core mode : Nat) (a b : Val) : Pre :=
  match meetNaN a b with
  | some n => .ofVal n (signallingFlags [a, b])
  | none =>
    match a, b with
    | .inf an, .inf bn => if an = bn then .ofVal (.inf an) noFlags else .created core 0 noFlags
    | .inf an, _ => .ofVal (.inf an) noFlags
    | _, .inf bn => .ofVal (.inf bn) noFlags
    | .num an am ae, .num bn bm be =>
      let s := Dyadic.add (dyadicOf an am ae) (dyadicOf bn bm be)
      if s.m = 0 then .ofVal (zeroSum mode (am == 0 && bm == 0 && an && bn)) noFlags else .ofVal (dyadicVal s) noFlags
    | _, _ => .ofVal a noFlags

/-- a − b: a plus b with its sign inverted, except that a NaN keeps its sign. -/
def subPre (core mode : Nat) (a b : Val) : Pre :=
  addPre core mode a (if b.isNaN then b else b.negate)

/-- The exact product of two numbers, or the infinity, or none for 0 × ∞. NaNs are handled before. -/
def productOf (a b : Val) : Option Val :=
  match a, b with
  | .num an am ae, .num bn bm be => some (.num (an != bn) (am * bm) (ae + be))
  | .num an am _, .inf bn => if am = 0 then none else some (.inf (an != bn))
  | .inf an, .num bn bm _ => if bm = 0 then none else some (.inf (an != bn))
  | .inf an, .inf bn => some (.inf (an != bn))
  | _, _ => none

/-- a × b before rounding. -/
def mulPre (core : Nat) (a b : Val) : Pre :=
  match meetNaN a b with
  | some n => .ofVal n (signallingFlags [a, b])
  | none =>
    match productOf a b with
    | some v => .ofVal v noFlags
    | none => .created core 0 noFlags

/-- a × b + c with one rounding; 0 × ∞ sets NV even where an input is a NaN (R142). -/
def fmaPre (core mode : Nat) (a b c : Val) : Pre :=
  let sig := signallingFlags [a, b, c]
  let bad := match a, b with
    | .num _ m _, .inf _ => m == 0
    | .inf _, .num _ m _ => m == 0
    | _, _ => false
  let nan := match meetNaN a b with
    | some n => meetNaN n c
    | none => match c with
      | .nan neg _ p => some (.nan neg true p)
      | _ => none
  match nan with
  | some n => .ofVal n (sig ||| flagIf bad flagNV)
  | none =>
    match productOf a b with
    | none => .created core 0 noFlags
    | some v =>
      match v, c with
      | .num pn pm pe, .num cn cm ce =>
        let s := Dyadic.add (dyadicOf pn pm pe) (dyadicOf cn cm ce)
        if s.m = 0 then .ofVal (zeroSum mode (pm == 0 && cm == 0 && pn && cn)) noFlags else .ofVal (dyadicVal s) noFlags
      | v, c => addPre core mode v c

/-- A quotient of positive numbers, to at least 140 bits, with what is left over as `sticky`. -/
def quotient (neg : Bool) (am : Nat) (ae : Int) (bm : Nat) (be : Int) : Approx :=
  let k := 140 + Nat.log2 bm
  let n := am * 2 ^ k
  { neg := neg, m := n / bm, e := ae - be - (k : Int), sticky := decide (n % bm ≠ 0) }

/-- a ÷ b (R142). -/
def divPre (core : Nat) (a b : Val) : Pre :=
  match meetNaN a b with
  | some n => .ofVal n (signallingFlags [a, b])
  | none =>
    match a, b with
    | .inf _, .inf _ => .created core 0 noFlags
    | .inf an, .num bn _ _ => .ofVal (.inf (an != bn)) noFlags
    | .num an _ _, .inf bn => .ofVal (.num (an != bn) 0 0) noFlags
    | .num an am ae, .num bn bm be =>
      if bm = 0 then
        (if am = 0 then .created core 0 noFlags else .ofVal (.inf (an != bn)) flagDZ)
      else if am = 0 then .ofVal (.num (an != bn) 0 0) noFlags
      else .ofApprox (quotient (an != bn) am ae bm be) noFlags
    | _, _ => .ofVal a noFlags

/-- The integer square root: the greatest r with r² ≤ n, one bit of r at a time. -/
def isqrtBits : Nat → Nat → Nat → Nat
  | 0, _, r => r
  | k + 1, n, r =>
    let t := r + 2 ^ k
    isqrtBits k n (if t * t ≤ n then t else r)

/-- The integer square root. -/
def isqrt (n : Nat) : Nat := isqrtBits (Nat.log2 n / 2 + 1) n 0

/-- The root of a positive number, to at least 128 bits. -/
def rootOf (m : Nat) (e : Int) : Approx :=
  let m1 := if e % 2 = 0 then m else 2 * m
  let e1 := if e % 2 = 0 then e else e - 1
  let n := m1 * 2 ^ 256
  let r := isqrt n
  { neg := false, m := r, e := e1 / 2 - 128, sticky := decide (r * r ≠ n) }

/-- √a (R142). -/
def sqrtPre (core : Nat) (a : Val) : Pre :=
  match a with
  | .nan neg _ p => .ofVal (.nan neg true p) (signallingFlags [a])
  | .inf neg => if neg then .created core 0 noFlags else .ofVal (.inf false) noFlags
  | .num neg m e =>
    if m = 0 then .ofVal a noFlags else if neg then .created core 0 noFlags else .ofApprox (rootOf m e) noFlags

/-- 1 ÷ a, with DZ at zero (R169). -/
def rcpPre (core : Nat) (a : Val) : Pre :=
  match a with
  | .num neg m e =>
    if m = 0 then .ofVal (.inf neg) flagDZ else .ofApprox (quotient neg 1 0 m e) noFlags
  | a => divPre core (.num false 1 0) a

/-- The reciprocal root of a positive number. -/
def rsqrtOf (m : Nat) (e : Int) : Approx :=
  let m1 := if e % 2 = 0 then m else 2 * m
  let e1 := if e % 2 = 0 then e else e - 1
  let k := 280 + Nat.log2 m1
  let n := 2 ^ (2 * k) / m1
  let r := isqrt n
  { neg := false, m := r, e := -(e1 / 2) - (k : Int), sticky := decide (r * r * m1 ≠ 2 ^ (2 * k)) }

/-! ## Enclosures of the elementary functions

A real in [0, 2^k) is held as a fixed-point number with `P` fraction bits and an error bound in units of the last place. -/

/-- Fraction bits of the enclosures. -/
def fixBits : Nat := 512

/-- An enclosure lo ≤ x ≤ hi, scaled by 2^fixBits. -/
structure Encl where
  lo : Nat
  hi : Nat
  deriving DecidableEq, Repr

/-- Terms of Σ t^k / k! from a term on, lower and upper bounds, for t given as an enclosure below 1. -/
def expTerms : Nat → Nat → Encl → Encl → Encl → Encl
  | 0, _, _, _, acc => acc
  | n + 1, k, t, term, acc =>
    let next : Encl :=
      { lo := term.lo * t.lo / 2 ^ fixBits / k, hi := (term.hi * t.hi / 2 ^ fixBits + 1) / k + 1 }
    expTerms n (k + 1) t next { lo := acc.lo + next.lo, hi := acc.hi + next.hi }

/-- e^t for 0 ≤ t < 1: 120 terms leave an error below the last place. -/
def expEncl (t : Encl) : Encl :=
  let one : Encl := { lo := 2 ^ fixBits, hi := 2 ^ fixBits }
  let s := expTerms 120 1 t one one
  { lo := s.lo, hi := s.hi + 2 }

/-- Terms of Σ z^(2k+1) / (2k+1), for z below 1/2. -/
def atanhTerms : Nat → Nat → Encl → Encl → Encl → Encl
  | 0, _, _, _, acc => acc
  | n + 1, k, z2, pow, acc =>
    let p : Encl := { lo := pow.lo * z2.lo / 2 ^ fixBits, hi := pow.hi * z2.hi / 2 ^ fixBits + 1 }
    atanhTerms n (k + 2) z2 p { lo := acc.lo + p.lo / k, hi := acc.hi + p.hi / k + 1 }

/-- 2·atanh(a / b) for a / b ≤ 1/3: the natural logarithm of (b + a) / (b − a). -/
def logRatio (a b : Nat) : Encl :=
  let z : Encl := { lo := a * 2 ^ fixBits / b, hi := a * 2 ^ fixBits / b + 1 }
  let z2 : Encl := { lo := z.lo * z.lo / 2 ^ fixBits, hi := z.hi * z.hi / 2 ^ fixBits + 1 }
  let s := atanhTerms 180 3 z2 z z
  { lo := 2 * s.lo, hi := 2 * s.hi + 4 }

/-- ln 2. -/
def ln2 : Encl := logRatio 1 3

/-- An enclosure, times 2^s, as a real to be rounded: its leading bits, where both ends agree on them. With 512 bits the
ends agree on far more bits than any format keeps, except next to a value the callers treat as exact or near. [log 49 UNVERIFIED] -/
def enclApprox (neg : Bool) (x : Encl) (s : Int) : Approx :=
  let k := (Nat.log2 (x.hi + 1)) - 200
  { neg := neg, m := x.lo / 2 ^ k, e := s - (fixBits : Int) + (k : Int), sticky := true }

/-- A value just above (`up`) or just below a positive dyadic number. -/
def nearApprox (neg up : Bool) (m : Nat) (e : Int) : Approx :=
  if up then { neg := neg, m := m * 2 ^ 200, e := e - 200, sticky := true }
  else { neg := neg, m := m * 2 ^ 200 - 1, e := e - 200, sticky := true }

/-- The integer part and the fraction, as an enclosure, of an enclosure of a magnitude. -/
def splitEncl (x : Encl) : Nat × Encl :=
  let n := x.lo / 2 ^ fixBits
  (n, { lo := x.lo - n * 2 ^ fixBits, hi := x.hi - n * 2 ^ fixBits })

/-- |x| as a fixed-point enclosure. -/
def fixOf (m : Nat) (e : Int) : Encl :=
  if 0 ≤ e + (fixBits : Int) then
    let v := m * 2 ^ (e + (fixBits : Int)).toNat
    { lo := v, hi := v }
  else
    let d := (-(e + (fixBits : Int))).toNat
    { lo := m / 2 ^ d, hi := m / 2 ^ d + 1 }

/-- The product of two enclosures. -/
def Encl.mul (a b : Encl) : Encl := { lo := a.lo * b.lo / 2 ^ fixBits, hi := a.hi * b.hi / 2 ^ fixBits + 1 }

/-- The quotient of two enclosures. -/
def Encl.div (a b : Encl) : Encl := { lo := a.lo * 2 ^ fixBits / b.hi, hi := a.hi * 2 ^ fixBits / b.lo + 1 }

/-- The exponent of a number's leading bit. -/
def topExp (m : Nat) (e : Int) : Int := (Nat.log2 m : Int) + e

/-- 2^y for a magnitude y with a sign, y not an integer, given as an enclosure. -/
def exp2Encl (neg : Bool) (y : Encl) : Approx :=
  let (n, f) := splitEncl y
  if neg then
    -- 2^−(n + f) = 2^−(n + 1) · 2^(1 − f)
    let g : Encl := { lo := 2 ^ fixBits - f.hi, hi := 2 ^ fixBits - f.lo }
    enclApprox false (expEncl (g.mul ln2)) (-(n : Int) - 1)
  else enclApprox false (expEncl (f.mul ln2)) n

/-- 2^x (R169, Table 8.4). [log 49 UNVERIFIED] -/
def exp2Pre (a : Val) : Pre :=
  match a with
  | .nan neg _ p => .ofVal (.nan neg true p) (signallingFlags [a])
  | .inf neg => .ofVal (if neg then .num false 0 0 else .inf false) noFlags
  | .num neg m e =>
    if m = 0 then .ofVal (.num false 1 0) noFlags
    else if 16 < topExp m e then
      .ofApprox (.exact false 1 (if neg then -70000 else 70000)) (if neg then flagNX else noFlags)
    else if 0 ≤ e ∨ m % 2 ^ (-e).toNat = 0 then
      let n : Int := if 0 ≤ e then (m * 2 ^ e.toNat : Nat) else (m / 2 ^ (-e).toNat : Nat)
      .ofVal (.num false 1 (if neg then -n else n)) noFlags
    else if topExp m e < -200 then .ofApprox (nearApprox false (!neg) 1 0) noFlags
    else .ofApprox (exp2Encl neg (fixOf m e)) noFlags

/-- log2 of a positive number that is no power of two. -/
def log2Of (m : Nat) (e : Int) : Approx :=
  let t := Nat.log2 m
  -- m = 2^t · y with 1 < y < 2, taken about 1 from the nearer side so that no digits cancel
  let l := t
  let one := 2 ^ l
  let up := decide (2 * m < 3 * one)
  let n : Int := (t : Int) + e + (if up then 0 else 1)
  let r := if up then logRatio (m - one) (m + one) else logRatio (2 * one - m) (m + 2 * one)
  let frac := r.div ln2
  -- the value is n + frac (up) or n − frac
  if up then
    (if 0 ≤ n then enclApprox false { lo := frac.lo + n.toNat * 2 ^ fixBits, hi := frac.hi + n.toNat * 2 ^ fixBits } 0
     else
      let k := n.natAbs * 2 ^ fixBits
      enclApprox true { lo := k - frac.hi, hi := k - frac.lo } 0)
  else
    (if n ≤ 0 then
      enclApprox true { lo := frac.lo + n.natAbs * 2 ^ fixBits, hi := frac.hi + n.natAbs * 2 ^ fixBits } 0
     else
      let k := n.toNat * 2 ^ fixBits
      enclApprox false { lo := k - frac.hi, hi := k - frac.lo } 0)

/-- log2 x (R169, Table 8.4). [log 49 UNVERIFIED] -/
def log2Pre (core : Nat) (a : Val) : Pre :=
  match a with
  | .nan neg _ p => .ofVal (.nan neg true p) (signallingFlags [a])
  | .inf neg => if neg then .created core 0 noFlags else .ofVal (.inf false) noFlags
  | .num neg m e =>
    if m = 0 then .ofVal (.inf true) flagDZ
    else if neg then .created core 0 noFlags
    else if m = 2 ^ Nat.log2 m then
      let n := topExp m e
      .ofVal (.num (decide (n < 0)) n.natAbs 0) noFlags
    else .ofApprox (log2Of m e) noFlags

/-- e^−|x| for a magnitude between 2^−200 and 2^14, as an enclosure and a power of two below it. -/
def expNeg (m : Nat) (e : Int) : Encl × Nat :=
  -- |x| / ln 2 = n + f, and e^−|x| = 2^−(n + 1) · 2^(1 − f)
  let y := (fixOf m e).div ln2
  let (n, f) := splitEncl y
  let g : Encl := { lo := 2 ^ fixBits - f.hi, hi := 2 ^ fixBits - f.lo }
  (expEncl (g.mul ln2), n + 1)

/-- 1 / (1 + e^−x) (R169, Table 8.4). [log 49 UNVERIFIED] -/
def sigmPre (a : Val) : Pre :=
  match a with
  | .nan neg _ p => .ofVal (.nan neg true p) (signallingFlags [a])
  | .inf neg => .ofVal (if neg then .num false 0 0 else .num false 1 0) noFlags
  | .num neg m e =>
    if m = 0 then .ofVal (.num false 1 (-1)) noFlags
    else if topExp m e < -200 then .ofApprox (nearApprox false (!neg) 1 (-1)) noFlags
    else if 10 < topExp m e then
      .ofApprox (if neg then .exact false 1 (-70000) else nearApprox false false 1 0) (if neg then flagNX else noFlags)
    else
      let (t, k) := expNeg m e
      if neg then
        -- e^x / (1 + e^x), with e^x = t · 2^−k
        let d : Encl := { lo := 2 ^ fixBits + t.lo / 2 ^ k, hi := 2 ^ fixBits + t.hi / 2 ^ k + 1 }
        .ofApprox (enclApprox false (t.div d) (-(k : Int))) noFlags
      else
        let one : Encl := { lo := 2 ^ fixBits, hi := 2 ^ fixBits }
        let d : Encl := { lo := 2 ^ fixBits + t.lo / 2 ^ k, hi := 2 ^ fixBits + t.hi / 2 ^ k + 1 }
        if 400 < k then .ofApprox (nearApprox false false 1 0) noFlags
        else .ofApprox (enclApprox false (one.div d) 0) noFlags

/-- tanh x (R169, Table 8.4). [log 49 UNVERIFIED] -/
def tanhPre (a : Val) : Pre :=
  match a with
  | .nan neg _ p => .ofVal (.nan neg true p) (signallingFlags [a])
  | .inf neg => .ofVal (.num neg 1 0) noFlags
  | .num neg m e =>
    if m = 0 then .ofVal a noFlags
    else if topExp m e < -150 then .ofApprox (nearApprox neg false m e) noFlags
    else if 8 < topExp m e then .ofApprox (nearApprox neg false 1 0) noFlags
    else
      let (t, k) := expNeg m (e + 1)
      let lo := t.lo / 2 ^ k
      let hi := t.hi / 2 ^ k + 1
      let n : Encl := { lo := 2 ^ fixBits - hi, hi := 2 ^ fixBits - lo }
      let d : Encl := { lo := 2 ^ fixBits + lo, hi := 2 ^ fixBits + hi }
      if 400 < k then .ofApprox (nearApprox neg false 1 0) noFlags
      else .ofApprox (enclApprox neg (n.div d) 0) noFlags

/-- 1 / √x (R169, Table 8.4). -/
def rsqPre (core : Nat) (a : Val) : Pre :=
  match a with
  | .nan neg _ p => .ofVal (.nan neg true p) (signallingFlags [a])
  | .inf neg => if neg then .created core 0 noFlags else .ofVal (.num false 0 0) noFlags
  | .num neg m e =>
    if m = 0 then .ofVal (.inf neg) flagDZ
    else if neg then .created core 0 noFlags
    else .ofApprox (rsqrtOf m e) noFlags

/-! ## Comparison -/

/-- The order of two values that are no NaNs: −1, 0 or 1, with −0 equal to +0. -/
def cmpVal (a b : Val) : Int :=
  match a, b with
  | .inf an, .inf bn => if an = bn then 0 else if an then -1 else 1
  | .inf an, _ => if an then -1 else 1
  | _, .inf bn => if bn then 1 else -1
  | .num an am ae, .num bn bm be =>
    let d := Dyadic.add (dyadicOf an am ae) (dyadicOf (!bn) bm be)
    if d.m < 0 then -1 else if d.m = 0 then 0 else 1
  | _, _ => 0

/-! ## Group sums (R65, R66) -/

/-- The terms of a group, gathered: the exact sum of the finite ones, whether an infinity of each sign appears, whether a
product of zero and infinity appears, the NaN earliest in core order, whether every term so far is −0, and signalling. -/
structure Gather where
  sum    : Dyadic
  posInf : Bool
  negInf : Bool
  bad    : Bool
  nan    : Option Val
  allNegZero : Bool
  signalling : Bool
  deriving DecidableEq, Repr

/-- Nothing gathered. -/
def Gather.start : Gather :=
  { sum := { m := 0, e := 0 }, posInf := false, negInf := false, bad := false, nan := none, allNegZero := true,
    signalling := false }

/-- A NaN joined with those gathered. -/
def joinNaN (o : Option Val) (v : Val) : Option Val :=
  match o with
  | none => some v.quieted
  | some n => match meetNaN n v with
    | some r => some r
    | none => some n

/-- A value added to the terms. -/
def Gather.addVal (g : Gather) (v : Val) : Gather :=
  match v with
  | .nan .. => { g with nan := joinNaN g.nan v, signalling := g.signalling || v.isSignalling, allNegZero := false }
  | .inf neg =>
    if neg then { g with negInf := true, allNegZero := false } else { g with posInf := true, allNegZero := false }
  | .num neg m e =>
    { g with sum := Dyadic.add g.sum (dyadicOf neg m e), allNegZero := g.allNegZero && m == 0 && neg }

/-- A product added to the terms. -/
def Gather.addProduct (g : Gather) (a b : Val) : Gather :=
  let g1 := if a.isNaN then { g with nan := joinNaN g.nan a, signalling := g.signalling || a.isSignalling } else g
  let g2 := if b.isNaN then { g1 with nan := joinNaN g1.nan b, signalling := g1.signalling || b.isSignalling } else g1
  if a.isNaN || b.isNaN then { g2 with allNegZero := false }
  else match productOf a b with
    | some v => g2.addVal v
    | none => { g2 with bad := true, allNegZero := false }

/-- The sum before rounding (R63–R65). The NaN that infinities of both signs or a zero times an infinity create meets the NaNs
among the terms in core order (R64). -/
def Gather.pre (g : Gather) (core group mode : Nat) : Pre :=
  let sig := flagIf g.signalling flagNV
  let created := g.bad || (g.posInf && g.negInf)
  match if created then joinNaN g.nan (createdNaN core group) else g.nan with
  | some n => .ofVal n (sig ||| flagIf created flagNV)
  | none =>
    if g.posInf then .ofVal (.inf false) noFlags
    else if g.negInf then .ofVal (.inf true) noFlags
    else if g.sum.m = 0 then .ofVal (zeroSum mode g.allNegZero) noFlags
    else .ofVal (dyadicVal g.sum) noFlags

end Sys2Proof.Machine
end

