-- ==== Sys2Proof/Syntax.lean ====
section
/-! DEFINITION. The abstract syntax of Stolah: the ONE inductive of instructions and machine steps, one constructor per row
of spec/opcode_table.json. The first 209 constructors are instruction words, with the fields of their format (Table 6.2,
Table 6.7): register numbers and small codes are `Fin`, immediates and displacements keep their encoded bits. The role bit
[30] of a C word is no field of the instruction: it belongs to the bundle (R111). The other 108 constructors are the steps
of the machine that no word encodes (spec/95_what_each_step_holds.md); their arguments say where the step happens (a core,
a slot, an engine, a request in flight) or what the outside world supplies (a signature verdict, a clock, a posted write). -/

namespace Sys2Proof

/-- An instruction word (without its role), or a step of the machine. -/
inductive Instr where
  /-- ADD (R136). Writes the sum of two g registers, modulo 2^64. -/
  | add (d a b : Fin 32) (gp : Fin 8)
  /-- SUB (R136). Writes a minus b, modulo 2^64. -/
  | sub (d a b : Fin 32) (gp : Fin 8)
  /-- AND (R136). Writes the bitwise AND of a and b. -/
  | and_ (d a b : Fin 32) (gp : Fin 8)
  /-- OR (R136). Writes the bitwise OR of a and b. -/
  | or_ (d a b : Fin 32) (gp : Fin 8)
  /-- XOR (R136). Writes the bitwise XOR of a and b. -/
  | xor_ (d a b : Fin 32) (gp : Fin 8)
  /-- ANDN (R136). Writes a AND NOT b. -/
  | andn (d a b : Fin 32) (gp : Fin 8)
  /-- SHL (R136). Shifts a left by b[5:0]. -/
  | shl (d a b : Fin 32) (gp : Fin 8)
  /-- SHR (R136). Shifts a right logically by b[5:0]. -/
  | shr (d a b : Fin 32) (gp : Fin 8)
  /-- SAR (R136). Shifts a right arithmetically by b[5:0]. -/
  | sar (d a b : Fin 32) (gp : Fin 8)
  /-- MUL (R136). Writes the low 64 bits of a times b. -/
  | mul (d a b : Fin 32) (gp : Fin 8)
  /-- MULH (R136). Writes the high 64 bits of the signed 128-bit product. -/
  | mulh (d a b : Fin 32) (gp : Fin 8)
  /-- MULHU (R136). Writes the high 64 bits of the unsigned 128-bit product. -/
  | mulhu (d a b : Fin 32) (gp : Fin 8)
  /-- DIV (R136). Starts a signed division on the long-operation unit, quotient rounded toward zero. -/
  | div (d a b : Fin 32) (gp : Fin 8)
  /-- DIVU (R136). Starts an unsigned division on the long-operation unit. -/
  | divu (d a b : Fin 32) (gp : Fin 8)
  /-- REM (R136). Starts a signed remainder on the long-operation unit. -/
  | rem (d a b : Fin 32) (gp : Fin 8)
  /-- REMU (R136). Starts an unsigned remainder on the long-operation unit. -/
  | remu (d a b : Fin 32) (gp : Fin 8)
  /-- MIN (R136). Writes the signed minimum of a and b. -/
  | min (d a b : Fin 32) (gp : Fin 8)
  /-- MAX (R136). Writes the signed maximum of a and b. -/
  | max (d a b : Fin 32) (gp : Fin 8)
  /-- MINU (R136). Writes the unsigned minimum of a and b. -/
  | minu (d a b : Fin 32) (gp : Fin 8)
  /-- MAXU (R136). Writes the unsigned maximum of a and b. -/
  | maxu (d a b : Fin 32) (gp : Fin 8)
  /-- CLZ (R136). Writes the number of leading zero bits of a. -/
  | clz (d a : Fin 32) (gp : Fin 8)
  /-- CTZ (R136). Writes the number of trailing zero bits of a. -/
  | ctz (d a : Fin 32) (gp : Fin 8)
  /-- POPC (R136). Writes the number of one bits of a. -/
  | popc (d a : Fin 32) (gp : Fin 8)
  /-- SEL (R136). Writes a if the predicate in gp is true, else b. -/
  | sel (d a b : Fin 32) (s : Fin 8)
  /-- ADDSL1 (R136). Writes (a << 1) + b. -/
  | addsl1 (d a b : Fin 32) (gp : Fin 8)
  /-- ADDSL2 (R136). Writes (a << 2) + b. -/
  | addsl2 (d a b : Fin 32) (gp : Fin 8)
  /-- ADDSL3 (R136). Writes (a << 3) + b. -/
  | addsl3 (d a b : Fin 32) (gp : Fin 8)
  /-- ADDSL4 (R136). Writes (a << 4) + b. -/
  | addsl4 (d a b : Fin 32) (gp : Fin 8)
  /-- CMPEQ (R139). Writes a predicate with a = b. -/
  | cmpeq (d : Fin 8) (a b : Fin 32) (gp : Fin 8)
  /-- CMPNE (R139). Writes a predicate with a ≠ b. -/
  | cmpne (d : Fin 8) (a b : Fin 32) (gp : Fin 8)
  /-- CMPLT (R139). Writes a predicate with signed a < b. -/
  | cmplt (d : Fin 8) (a b : Fin 32) (gp : Fin 8)
  /-- CMPLE (R139). Writes a predicate with signed a ≤ b. -/
  | cmple (d : Fin 8) (a b : Fin 32) (gp : Fin 8)
  /-- CMPLTU (R139). Writes a predicate with unsigned a < b. -/
  | cmpltu (d : Fin 8) (a b : Fin 32) (gp : Fin 8)
  /-- CMPLEU (R139). Writes a predicate with unsigned a ≤ b. -/
  | cmpleu (d : Fin 8) (a b : Fin 32) (gp : Fin 8)
  /-- PAND (R140). Writes pA AND pB to a predicate. -/
  | pand (d a b gp : Fin 8)
  /-- POR (R140). Writes pA OR pB to a predicate. -/
  | por (d a b gp : Fin 8)
  /-- PXOR (R140). Writes pA XOR pB to a predicate. -/
  | pxor (d a b gp : Fin 8)
  /-- PANDN (R140). Writes pA AND NOT pB to a predicate. -/
  | pandn (d a b gp : Fin 8)
  /-- ADDI (R137). Adds a sign-extended immediate to a. -/
  | addi (d a : Fin 32) (i : BitVec 14)
  /-- ANDI (R137). ANDs a with a sign-extended immediate. -/
  | andi (d a : Fin 32) (i : BitVec 14)
  /-- ORI (R137). ORs a with a sign-extended immediate. -/
  | ori (d a : Fin 32) (i : BitVec 14)
  /-- XORI (R137). XORs a with a sign-extended immediate. -/
  | xori (d a : Fin 32) (i : BitVec 14)
  /-- SHLI (R137). Shifts a left by an immediate amount. -/
  | shli (d a : Fin 32) (i : Fin 64)
  /-- SHRI (R137). Shifts a right logically by an immediate amount. -/
  | shri (d a : Fin 32) (i : Fin 64)
  /-- SARI (R137). Shifts a right arithmetically by an immediate amount. -/
  | sari (d a : Fin 32) (i : Fin 64)
  /-- LI (R137). Loads a sign-extended 14-bit immediate. -/
  | li (d : Fin 32) (i : BitVec 14)
  /-- LIS (R137). Writes (a << 14) OR the zero-extended immediate. -/
  | lis (d a : Fin 32) (i : BitVec 14)
  /-- CMPEQI (R137). Writes a predicate with a equal to the sign-extended immediate. -/
  | cmpeqi (d : Fin 8) (a : Fin 32) (i : BitVec 14)
  /-- CMPLTI (R137). Writes a predicate with a signed-less than the immediate. -/
  | cmplti (d : Fin 8) (a : Fin 32) (i : BitVec 14)
  /-- CMPLTUI (R137). Writes a predicate with a unsigned-less than the sign-extended immediate. -/
  | cmpltui (d : Fin 8) (a : Fin 32) (i : BitVec 14)
  /-- BFX (R138). Extracts a zero-extended bit field of a. -/
  | bfx (d a : Fin 32) (l p : Fin 64)
  /-- BFI (R138). Inserts the low bits of a into a field of d. -/
  | bfi (d a : Fin 32) (l p : Fin 64)
  /-- FADD (R142). Adds two floating values with one rounding. -/
  | fadd (d a b : Fin 32) (z : Bool) (gp : Fin 8)
  /-- FSUB (R142). Subtracts two floating values with one rounding. -/
  | fsub (d a b : Fin 32) (z : Bool) (gp : Fin 8)
  /-- FMUL (R142). Multiplies two floating values with one rounding. -/
  | fmul (d a b : Fin 32) (z : Bool) (gp : Fin 8)
  /-- FDIV (R142). Starts a floating division on the long-operation unit. -/
  | fdiv (d a b : Fin 32) (z : Bool) (gp : Fin 8)
  /-- FSQRT (R142). Starts a floating square root on the long-operation unit. -/
  | fsqrt (d a : Fin 32) (z : Bool) (gp : Fin 8)
  /-- FMIN (R143). Returns the lesser operand, with NaN rules of R143. -/
  | fmin (d a b : Fin 32) (z : Bool) (gp : Fin 8)
  /-- FMAX (R143). Returns the greater operand, with NaN rules of R143. -/
  | fmax (d a b : Fin 32) (z : Bool) (gp : Fin 8)
  /-- FFMA (R142). Computes a × b + d with one rounding. -/
  | ffma (d a b : Fin 32) (z : Bool) (gp : Fin 8)
  /-- FABS (R142). Clears the sign bit of a. -/
  | fabs (d a : Fin 32) (z : Bool) (gp : Fin 8)
  /-- FNEG (R142). Inverts the sign bit of a. -/
  | fneg (d a : Fin 32) (z : Bool) (gp : Fin 8)
  /-- FCLASS (R144). Writes a one-hot class mask of a. -/
  | fclass (d a : Fin 32) (z : Bool) (gp : Fin 8)
  /-- FCVTI (R145). Converts a floating value to a 64-bit integer. -/
  | fcvti (d a : Fin 32) (u z : Bool) (gp : Fin 8)
  /-- FCVTF (R145). Converts a 64-bit integer to floating. -/
  | fcvtf (d a : Fin 32) (u z : Bool) (gp : Fin 8)
  /-- FCVTP (R145). Converts between FP64 and FP32. -/
  | fcvtp (d a : Fin 32) (z : Bool) (gp : Fin 8)
  /-- FCMPEQ (R146). Writes a predicate with a = b as floating values. -/
  | fcmpeq (d : Fin 8) (a b : Fin 32) (z : Bool) (gp : Fin 8)
  /-- FCMPLT (R146). Writes a predicate with a < b as floating values. -/
  | fcmplt (d : Fin 8) (a b : Fin 32) (z : Bool) (gp : Fin 8)
  /-- FCMPLE (R146). Writes a predicate with a ≤ b as floating values. -/
  | fcmple (d : Fin 8) (a b : Fin 32) (z : Bool) (gp : Fin 8)
  /-- FCMPUN (R146). Writes a predicate true when either operand is NaN. -/
  | fcmpun (d : Fin 8) (a b : Fin 32) (z : Bool) (gp : Fin 8)
  /-- BADD (R165). Adds block operands lane by lane on the block unit. -/
  | badd (d a b : Fin 64) (h : Fin 4) (w : Fin 16)
  /-- BSUB (R165). Subtracts block operands lane by lane. -/
  | bsub (d a b : Fin 64) (h : Fin 4) (w : Fin 16)
  /-- BMUL (R165). Multiplies block operands lane by lane. -/
  | bmul (d a b : Fin 64) (h : Fin 4) (w : Fin 16)
  /-- BFMA (R165). Computes a × b + d lane by lane with one rounding. -/
  | bfma (d a b : Fin 64) (h : Fin 4) (w : Fin 16)
  /-- BMIN (R166). Takes the lesser lane of two block operands. -/
  | bmin (d a b : Fin 64) (h : Fin 4) (w : Fin 16)
  /-- BMAX (R166). Takes the greater lane of two block operands. -/
  | bmax (d a b : Fin 64) (h : Fin 4) (w : Fin 16)
  /-- BAND (R167). Bitwise AND of block registers. -/
  | band (d a b : Fin 64) (h : Fin 4) (w : Fin 16)
  /-- BOR (R167). Bitwise OR of block registers. -/
  | bor (d a b : Fin 64) (h : Fin 4) (w : Fin 16)
  /-- BXOR (R167). Bitwise XOR of block registers. -/
  | bxor (d a b : Fin 64) (h : Fin 4) (w : Fin 16)
  /-- BDOT (R176). Accumulates a 4×4 dot-product tile into d by the group rule. -/
  | bdot (d a b : Fin 64) (h : Fin 4) (w : Fin 16)
  /-- BRED (R177). Reduces each row of a by sum, minimum or maximum. -/
  | bred (d a o : Fin 64) (h : Fin 4) (w : Fin 16)
  /-- BCMPLT (R168). Writes an all-ones lane mask where a < b. -/
  | bcmplt (d a b : Fin 64) (h : Fin 4) (w : Fin 16)
  /-- BSEL (R168). Selects a or b lanes by the old d mask. -/
  | bsel (d a b : Fin 64) (h : Fin 4) (w : Fin 16)
  /-- BMOV (R167). Copies block registers. -/
  | bmov (d a : Fin 64) (h : Fin 4) (w : Fin 16)
  /-- BNEG (R169). Negates each lane. -/
  | bneg (d a : Fin 64) (h : Fin 4) (w : Fin 16)
  /-- BABS (R169). Takes the absolute value of each lane. -/
  | babs (d a : Fin 64) (h : Fin 4) (w : Fin 16)
  /-- BEXP2 (R169). Computes 2^x per lane, correctly rounded. -/
  | bexp2 (d a : Fin 64) (h : Fin 4) (w : Fin 16)
  /-- BLOG2 (R169). Computes log2 x per lane, correctly rounded. -/
  | blog2 (d a : Fin 64) (h : Fin 4) (w : Fin 16)
  /-- BRCP (R169). Computes 1/x per lane, correctly rounded. -/
  | brcp (d a : Fin 64) (h : Fin 4) (w : Fin 16)
  /-- BRSQ (R169). Computes 1/√x per lane, correctly rounded. -/
  | brsq (d a : Fin 64) (h : Fin 4) (w : Fin 16)
  /-- BSIGM (R169). Computes the logistic sigmoid per lane, correctly rounded. -/
  | bsigm (d a : Fin 64) (h : Fin 4) (w : Fin 16)
  /-- BTANH (R169). Computes tanh per lane, correctly rounded. -/
  | btanh (d a : Fin 64) (h : Fin 4) (w : Fin 16)
  /-- BSQRT (R169). Computes √x per lane, correctly rounded. -/
  | bsqrt (d a : Fin 64) (h : Fin 4) (w : Fin 16)
  /-- BRELU (R169). Keeps positive lanes and zeros the rest. -/
  | brelu (d a : Fin 64) (h : Fin 4) (w : Fin 16)
  /-- BCVT (R170). Converts lanes from the active format to a named format. -/
  | bcvt (d a : Fin 64) (f : Fin 16) (h : Fin 4) (w : Fin 16)
  /-- BSCAL (R171). Multiplies each lane by a scalar from a g register. -/
  | bscal (d a : Fin 64) (g : Fin 32) (h : Fin 4) (w : Fin 16)
  /-- BADDS (R171). Adds a scalar from a g register to each lane. -/
  | badds (d a : Fin 64) (g : Fin 32) (h : Fin 4) (w : Fin 16)
  /-- BBCST (R171). Broadcasts the bits of a scalar to every lane. -/
  | bbcst (d : Fin 64) (g : Fin 32) (h : Fin 4) (w : Fin 16)
  /-- BGET (R172). Copies one lane of a block register to a g register. -/
  | bget (l a : Fin 64) (g : Fin 32) (h : Fin 4) (w : Fin 16)
  /-- BSET (R172). Writes a g register's low bits into one lane. -/
  | bset (d l : Fin 64) (g : Fin 32) (h : Fin 4) (w : Fin 16)
  /-- BGNORM (R178). Normalises lanes by their exact sum and returns the sum. -/
  | bgnorm (d a : Fin 64) (g : Fin 32) (h : Fin 4) (w : Fin 16)
  /-- BSHUF (R173). Permutes lanes within each register by a selector pattern. -/
  | bshuf (d a : Fin 64) (g : Fin 32) (h : Fin 4) (w : Fin 16)
  /-- BSCL (R174). Multiplies each lane by 2^n. -/
  | bscl (d a : Fin 64) (g : Fin 32) (h : Fin 4) (w : Fin 16)
  /-- NOP (R150). Does nothing. -/
  | nop (gp : Fin 8)
  /-- HALT (R151). Takes the thread out of rotation until an enabled user interrupt is pending. -/
  | halt (gp : Fin 8)
  /-- BREAK (R150). Raises a breakpoint fault to the partition's S-mode handler. -/
  | brk (gp : Fin 8)
  /-- SYSCALL (R150). Raises a system-call fault to the partition's S-mode handler. -/
  | syscall (gp : Fin 8)
  /-- YIELD (R152). Makes the slot not ready for the next 15 cycles. -/
  | yield (gp : Fin 8)
  /-- UIRET (R153). Ends the active light or user-interrupt handler and continues at ULINK. -/
  | uiret (gp : Fin 8)
  /-- IFENCE (R154). Discards the core's held instruction words for the context. -/
  | ifence (gp : Fin 8)
  /-- TRET (R301). Returns from S mode to the mode, handler state and wait saved in TSTATE, at TPC. -/
  | tret (gp : Fin 8)
  /-- BR (R147). Branches when the predicate equals the sense bit. -/
  | br (p : Fin 8) (s : Bool) (d : BitVec 20)
  /-- JAL (R148). Writes the next bundle address to a link register and jumps. -/
  | jal (l : Fin 32) (d : BitVec 19)
  /-- JALR (R149). Jumps to a + b and writes the next bundle address. -/
  | jalr (d a b : Fin 32) (gp : Fin 8)
  /-- LD8 (R182). Loads a sign-extended byte. -/
  | ld8 (t s : Fin 32) (o : BitVec 8) (c : Fin 16) (k : Fin 4)
  /-- LD8U (R182). Loads a zero-extended byte. -/
  | ld8U (t s : Fin 32) (o : BitVec 8) (c : Fin 16) (k : Fin 4)
  /-- LD16 (R182). Loads a sign-extended halfword. -/
  | ld16 (t s : Fin 32) (o : BitVec 8) (c : Fin 16) (k : Fin 4)
  /-- LD16U (R182). Loads a zero-extended halfword. -/
  | ld16U (t s : Fin 32) (o : BitVec 8) (c : Fin 16) (k : Fin 4)
  /-- LD32 (R182). Loads a sign-extended word. -/
  | ld32 (t s : Fin 32) (o : BitVec 8) (c : Fin 16) (k : Fin 4)
  /-- LD32U (R182). Loads a zero-extended word. -/
  | ld32U (t s : Fin 32) (o : BitVec 8) (c : Fin 16) (k : Fin 4)
  /-- LD64 (R182). Loads a doubleword. -/
  | ld64 (t s : Fin 32) (o : BitVec 8) (c : Fin 16) (k : Fin 4)
  /-- ST8 (R182). Stores a byte into the store buffer. -/
  | st8 (t s : Fin 32) (o : BitVec 8) (c : Fin 16) (k : Fin 4)
  /-- ST16 (R182). Stores a halfword into the store buffer. -/
  | st16 (t s : Fin 32) (o : BitVec 8) (c : Fin 16) (k : Fin 4)
  /-- ST32 (R182). Stores a word into the store buffer. -/
  | st32 (t s : Fin 32) (o : BitVec 8) (c : Fin 16) (k : Fin 4)
  /-- ST64 (R182). Stores a doubleword into the store buffer. -/
  | st64 (t s : Fin 32) (o : BitVec 8) (c : Fin 16) (k : Fin 4)
  /-- LDV (R185). Loads a block of registers from memory in row-major order. -/
  | ldv (v : Fin 64) (s : Fin 32) (o : BitVec 5) (h : Fin 4) (w : Fin 16) (k : Fin 4)
  /-- STV (R185). Stores a block of registers into the store buffer in row-major order. -/
  | stv (v : Fin 64) (s : Fin 32) (o : BitVec 5) (h : Fin 4) (w : Fin 16) (k : Fin 4)
  /-- AADD (R187). Atomically adds to a word and returns the old value. -/
  | aadd (d s b : Fin 32) (c : Fin 16) (k : Fin 4) (w : Bool)
  /-- AADDF (R188). Atomically adds a floating value in RNE and returns the old value. -/
  | aaddf (d s b : Fin 32) (c : Fin 16) (k : Fin 4) (w : Bool)
  /-- AMIN (R187). Atomic signed minimum. -/
  | amin (d s b : Fin 32) (c : Fin 16) (k : Fin 4) (w : Bool)
  /-- AMAX (R187). Atomic signed maximum. -/
  | amax (d s b : Fin 32) (c : Fin 16) (k : Fin 4) (w : Bool)
  /-- AMINU (R187). Atomic unsigned minimum. -/
  | aminu (d s b : Fin 32) (c : Fin 16) (k : Fin 4) (w : Bool)
  /-- AMAXU (R187). Atomic unsigned maximum. -/
  | amaxu (d s b : Fin 32) (c : Fin 16) (k : Fin 4) (w : Bool)
  /-- AAND (R187). Atomic AND. -/
  | aand (d s b : Fin 32) (c : Fin 16) (k : Fin 4) (w : Bool)
  /-- AOR (R187). Atomic OR. -/
  | aor (d s b : Fin 32) (c : Fin 16) (k : Fin 4) (w : Bool)
  /-- AXOR (R187). Atomic XOR. -/
  | axor (d s b : Fin 32) (c : Fin 16) (k : Fin 4) (w : Bool)
  /-- ASWP (R187). Atomic swap. -/
  | aswp (d s b : Fin 32) (c : Fin 16) (k : Fin 4) (w : Bool)
  /-- ACAS (R187). Atomic compare-and-swap against the expected value in d. -/
  | acas (d s b : Fin 32) (c : Fin 16) (k : Fin 4) (w : Bool)
  /-- FENCE (R190). Orders the thread's accesses for the parties of a scope. -/
  | fence (k : Fin 8) (c : Fin 16)
  /-- PREF (R186). Asks for a line to be brought into a named cache level. -/
  | pref (l : Fin 4) (s : Fin 32) (o : BitVec 8)
  /-- SEND (R194). Sends a data word on an endpoint, waiting for allowance. -/
  | send (a : Fin 32) (q : Fin 8)
  /-- SENDT (R194). Sends a data word if allowance remains and writes a predicate. -/
  | sendt (p : Fin 8) (a : Fin 32) (q : Fin 8)
  /-- RECV (R195). Receives the head word of an endpoint's queue, waiting while empty. -/
  | recv (d : Fin 32) (q : Fin 8)
  /-- RECVT (R195). Receives the head word if present and writes a predicate. -/
  | recvt (d : Fin 32) (p q : Fin 8)
  /-- SENDC (R194). Sends a control-tagged word, waiting for allowance. -/
  | sendc (a : Fin 32) (q : Fin 8)
  /-- ALT (R196). Waits until a masked endpoint is ready and writes its index. -/
  | alt (d a : Fin 32)
  /-- CHGRANT (R197). Grants allowance to the sender of a receive endpoint. -/
  | chgrant (a : Fin 32) (q : Fin 8)
  /-- CHBIND (R192). Binds an endpoint to a local port as sender or receiver. -/
  | chbind (a f : Fin 32) (q : Fin 8)
  /-- CHUNBIND (R193). Unbinds an endpoint, revoking allowance. -/
  | chunbind (q : Fin 8)
  /-- CHSTAT (R198). Writes an endpoint's binding state. -/
  | chstat (d : Fin 32) (q : Fin 8)
  /-- SPAWN (R199). Reads, checks and places a task packet on the own core's deque. -/
  | spawn (p : Fin 8) (a : Fin 32)
  /-- SPAWNAT (R199). Reads, checks and sends a task packet to a named core's deque. -/
  | spawnat (p : Fin 8) (a b : Fin 32)
  /-- JOIN (R200). Waits until a join frame's pending count reads zero. -/
  | join (a : Fin 32)
  /-- RETIRE (R201). Ends the task, updating its frame and freeing its resources. -/
  | retire
  /-- BAR (R203). Arrives at a barrier word and waits for the generation to change. -/
  | bar (a b : Fin 32)
  /-- FMTSEL (R179). Selects the active format descriptor. -/
  | fmtsel (n : Fin 32)
  /-- TASKINFO (R202). Writes the fault word, frame, entry or format-block address. -/
  | taskinfo (d n : Fin 32)
  /-- MWARM (R205). Arms a watch on an aligned 8-byte word. -/
  | mwarm (a : Fin 32)
  /-- MWAIT (R206). Waits for a write to the watched word, a timeout or a spurious event. -/
  | mwait (d a : Fin 32)
  /-- MWDIS (R207). Disarms the slot's watch on a word. -/
  | mwdis (a : Fin 32)
  /-- UISEND (R208). Posts a user interrupt vector to a target thread. -/
  | uisend (a b : Fin 32)
  /-- UIMASK (R209). Swaps UIMASKV with a new enable mask. -/
  | uimask (d a : Fin 32)
  /-- JPOLL (R212). Writes whether a job is complete, never waiting. -/
  | jpoll (p : Fin 8) (a : Fin 32)
  /-- JWAIT (R212). Waits for a job and writes its status. -/
  | jwait (d a : Fin 32)
  /-- RDC (R155). Reads a control register into a g register. -/
  | rdc (d : Fin 32) (n : BitVec 14)
  /-- WRC (R155). Writes a g register to a control register. -/
  | wrc (a : Fin 32) (n : BitVec 14)
  /-- HSIFT (R254). Sifts a candidate into a top-k heap in the scratchpad as one indivisible step. -/
  | hsift (a b c : Fin 32) (k : Fin 16)
  /-- MXMA (R226). Checks a shape record, queues a matrix job and returns its handle. -/
  | mxma (d a : Fin 32)
  /-- MXMAB (R226). Queues a matrix job and waits for it to complete. -/
  | mxmab (a : Fin 32)
  /-- MXLD (R227). Loads an accumulator from memory as a job. -/
  | mxld (a n : Fin 32)
  /-- MXST (R227). Stores an accumulator to memory as a job. -/
  | mxst (a n : Fin 32)
  /-- MXZERO (R228). Queues a job that zeroes an accumulator. -/
  | mxzero (n : Fin 32)
  /-- MXQ (R229). Writes the matrix queue and job counts. -/
  | mxq (d : Fin 32)
  /-- RINGSET (R230). Loads a ring descriptor from a ring record. -/
  | ringset (a n : Fin 32)
  /-- RINGADV (R231). Advances a ring's tail and head. -/
  | ringadv (a n : Fin 32)
  /-- RINGQ (R232). Writes a ring's state. -/
  | ringq (d n : Fin 32)
  /-- CPY (R237). Checks a copy block and starts a copy, returning its handle. -/
  | cpy (d a : Fin 32)
  /-- CPYS (R240). Starts a copy that streams elements into an endpoint. -/
  | cpys (a : Fin 32) (q : Fin 8)
  /-- CPYM (R237). Starts a multicast copy to many scratchpads. -/
  | cpym (d a : Fin 32)
  /-- CPYQ (R241). Writes a copy's progress. -/
  | cpyq (d a : Fin 32)
  /-- PFETCH (R247). Allocates a parison buffer and starts a predicted fetch when confident. -/
  | pfetch (d a b : Fin 32)
  /-- PCONF (R248). Confirms the true index, exposing or refetching the buffer and updating the predictor. -/
  | pconf (a b : Fin 32)
  /-- PCANC (R249). Frees a parison buffer and cancels its fetch. -/
  | pcanc (a : Fin 32)
  /-- PFSET (R250). Writes a predictor entry. -/
  | pfset (a b : Fin 32)
  /-- PFGET (R250). Reads a predictor entry. -/
  | pfget (d a : Fin 32)
  /-- PFSTAT (R250). Reads a parison buffer's state. -/
  | pfstat (d a : Fin 32)
  /-- AEJOB (R258). Checks a drover descriptor and queues an auction job. -/
  | aejob (d a : Fin 32)
  /-- AERES (R262). Writes a drover job's progress. -/
  | aeres (d a : Fin 32)
  /-- AEABORT (R263). Aborts a queued or running drover job. -/
  | aeabort (a : Fin 32)
  /-- ESCREQ (R267). Requests an expert slice be made resident, returning a handle. -/
  | escreq (d a : Fin 32)
  /-- ESCPIN (R268). Adds one to a slice's pin count. -/
  | escpin (a : Fin 32)
  /-- ESCUNPIN (R268). Subtracts one from a slice's pin count. -/
  | escunpin (a : Fin 32)
  /-- ESCHIST (R269). Adds a vector of counts to a layer's histogram, optionally halving first. -/
  | eschist (a b n : Fin 32)
  /-- ESCQ (R270). Writes a slice's state or the context's summary. -/
  | escq (d a : Fin 32)
  /-- KVXL (R273). Translates a sequence and logical block through the KV table. -/
  | kvxl (d a b : Fin 32)
  /-- KVINS (R274). Inserts or references a KV table mapping. -/
  | kvins (d a b : Fin 32)
  /-- KVDEL (R275). Dereferences a KV table mapping, freeing it at zero. -/
  | kvdel (d a b : Fin 32)
  /-- KVEXP (R277). Starts a job that exports a signed prefix record. -/
  | kvexp (d a b : Fin 32)
  /-- KVIMP (R278). Starts a job that imports a signed prefix record. -/
  | kvimp (d a : Fin 32)
  /-- PCOMMIT (R213). Commits a zeroed tile page from the context's pool. -/
  | pcommit (d a : Fin 32)
  /-- PDECOMMIT (R214). Removes a tile page's mapping and starts its invalidation. -/
  | pdecommit (d a : Fin 32)
  /-- PPROBE (R215). Writes a tile page's state and the pool's free count. -/
  | pprobe (d a : Fin 32)
  /-- SWAPCTX (R307). Exchanges the slot's thread with a thread-context image of the same context. -/
  | swapctx (a : Fin 32)
  /-- SLOTHAND (R307). Hands the slot to a thread image of a resident context at the next home cycle. -/
  | slothand (a : Fin 32)
  /-- DIVSET (R308). Starts a save or restore on a diversion entry and waits for it to end. -/
  | divset (a b : Fin 32)
  /-- DIVCLR (R309). Turns a diversion entry OFF without restore. -/
  | divclr (a : Fin 32)
  /-- TLBINV (R310). Removes a context's translations of one page across the span. -/
  | tlbinv (a b : Fin 32)
  /-- TLBINVC (R310). Removes every translation of a context across the span. -/
  | tlbinvc (a : Fin 32)
  /-- PFCLR (R311). Invalidates every predictor entry of the core. -/
  | pfclr
  /-- TASK_DISPATCH (R26). A free slot takes a packet from its deque, spill area or a victim and is set up as R28 states. -/
  | taskDispatch (core slot : Nat)
  /-- IFETCH_FILL (R149). Instruction words arrive after a fetch miss and the slot is ready again. -/
  | ifetchFill (core slot : Nat)
  /-- LOAD_DATA_RETURN (R183). A load's or atomic's value or acknowledgement arrives and the slot is ready. -/
  | loadDataReturn (core slot : Nat)
  /-- STORE_BUFFER_DRAIN (R20). The oldest store buffer entry leaves in order, once a release's writes are visible. -/
  | storeBufferDrain (core slot : Nat)
  /-- HOME_REQUEST_ARRIVAL (R105). A request arrives at its home and is performed in route order. -/
  | homeRequestArrival (rid : Nat)
  /-- ATOMIC_PERFORM (R189). An atomic, BAR arrival or HSIFT step is performed once the store buffer is empty. -/
  | atomicPerform (core slot : Nat)
  /-- LONG_OP_COMPLETE (R135). The long-operation unit writes a divide or square-root result. -/
  | longOpComplete (core slot : Nat)
  /-- BLOCK_OP_COMPLETE (R163). The block unit finishes a block instruction and sets flags. -/
  | blockOpComplete (core slot : Nat)
  /-- FENCE_COMPLETE (R190). An ACQ or FULL fence's condition is met and the slot is ready. -/
  | fenceComplete (core slot : Nat)
  /-- IFENCE_COMPLETE (R154). The core has discarded its held words and the slot is ready. -/
  | ifenceComplete (core slot : Nat)
  /-- YIELD_EXPIRY (R152). The 15 cycles after a YIELD pass and the slot may issue again. -/
  | yieldExpiry (core slot : Nat)
  /-- USER_INTERRUPT_ENTRY (R210). A pending enabled user interrupt is taken at the thread's next issue. -/
  | userInterruptEntry (core slot : Nat)
  /-- COPY_COMPLETION_ENTRY (R239). A queued copy completion enters its handler at the slot's next issue. -/
  | copyCompletionEntry (core slot : Nat)
  /-- CHANNEL_WORD_ARRIVAL (R36). A channel word arrives in a receive port's queue. -/
  | channelWordArrival (mid : Nat)
  /-- GRANT_ARRIVAL (R37). Granted allowance reaches a sender and may wake a blocked send. -/
  | grantArrival (mid : Nat)
  /-- CHUNBIND_ACK (R193). The sender acknowledges revocation and the receiver's port is freed. -/
  | chunbindAck (core slot : Nat)
  /-- SPAWN_COMPLETE (R199). SPAWN's packet read and frame increment end and its predicate is written. -/
  | spawnComplete (core slot : Nat)
  /-- SPAWNAT_PACKET_ARRIVAL (R199). The target core reserves a deque or spill place, or refuses. -/
  | spawnatPacketArrival (rid : Nat)
  /-- SPAWNAT_ACK (R199). The target's answer returns and SPAWNAT writes its predicate. -/
  | spawnatAck (core slot : Nat)
  /-- JOIN_WAKE (R200). A join frame's pending count reaches zero and JOIN wakes with an acquire. -/
  | joinWake (core slot : Nat)
  /-- RETIRE_FRAME_UPDATE (R31). The retiring task's frame decrement and failure count are performed as one release. -/
  | retireFrameUpdate (core slot : Nat)
  /-- RETIRE_SLOT_FREE (R201). The retired slot becomes free once its buffer is empty and accesses returned. -/
  | retireSlotFree (core slot : Nat)
  /-- BAR_WAKE (R203). A waiting BAR reads a new generation and wakes. -/
  | barWake (core slot : Nat)
  /-- MWAIT_WAKE (R206). A write or spurious event ends MWAIT with code 0 or 2. -/
  | mwaitWake (core slot : Nat)
  /-- MWAIT_TIMEOUT (R206). MWAIT's timeout expires and it writes 1. -/
  | mwaitTimeout (core slot : Nat)
  /-- STALL_REPORT (R305). A counted wait passes WAITLIM cycles and posts one stall report. -/
  | stallReport (core slot : Nat)
  /-- UISEND_ARRIVAL (R208). A posted user interrupt sets a bit in the target's UIPEND or saved state. -/
  | uisendArrival (mid : Nat)
  /-- TRAP_ENTRY (R299). An event enters S mode at TVEC, setting the trap registers. -/
  | trapEntry (core slot : Nat)
  /-- SWITCH_REQUEST_TAKEN (R298). A posted switch request is taken at a qualifying home cycle, suspending waits. -/
  | switchRequestTaken (core slot : Nat)
  /-- CONTEXT_EXCHANGE (R307). A SWAPCTX or hand-over exchange takes effect, checking and loading the image. -/
  | contextExchange (core slot : Nat)
  /-- ENGINE_FAULT_DELIVERY (R243). A job's fault is taken by its issuing task at its next U-mode issue. -/
  | engineFaultDelivery (core slot : Nat)
  /-- MATRIX_JOB_START (R217). The matrix engine takes a core's oldest queued job round-robin. -/
  | matrixJobStart (flock : Nat)
  /-- MATRIX_PANEL_FETCH (R221). The copy unit fetches a panel and pushes it into an engine-fed ring. -/
  | matrixPanelFetch (flock : Nat)
  /-- MATRIX_STEP (R223). The engine accumulates one K step from its panels and pops the rings. -/
  | matrixStep (flock : Nat) (mismatch rerunMismatch : Bool)
  /-- MATRIX_JOB_COMPLETE (R223). The job stores C if flagged and completes with its status. -/
  | matrixJobComplete (flock : Nat)
  /-- ACCUM_TRANSFER_COMPLETE (R227). An MXLD or MXST transfer finishes and its slot is ready. -/
  | accumTransferComplete (flock : Nat)
  /-- MXZERO_JOB (R228). The engine zeroes an accumulator and sets its tag and owner. -/
  | mxzeroJob (flock : Nat)
  /-- COPY_START (R236). A copy begins on the copy unit. -/
  | copyStart (core ctx n : Nat)
  /-- COPY_TURN (R236). The copy unit moves up to 256 bytes of one core's next transfer. -/
  | copyTurn (flock : Nat)
  /-- COPY_COMPLETE (R237). A copy completes when every destination is written. -/
  | copyComplete (core ctx n : Nat)
  /-- DROVER_JOB_START (R258). The drover starts a job, reading its vectors or refusing it. -/
  | droverJobStart (band : Nat)
  /-- DROVER_ROUND (R260). The drover performs one bidding round. -/
  | droverRound (band : Nat)
  /-- DROVER_JOB_END (R261). The drover writes prices, results and the status word. -/
  | droverJobEnd (band : Nat)
  /-- SLICE_FILL_COMPLETE (R267). A slice fill ends, making the slice resident or failing. -/
  | sliceFillComplete (ctx tag : Nat)
  /-- SLICE_EVICTION_COMPLETE (R271). An evicting slice is removed when its reads in flight finish. -/
  | sliceEvictionComplete (ctx tag : Nat)
  /-- KV_TRANSLATOR_OP (R276). The KV translator performs a lookup, insert or delete in the table's total order. -/
  | kvTranslatorOp (core slot : Nat)
  /-- KV_EXPORT_JOB (R277). The translator writes a signed prefix record and completes. -/
  | kvExportJob (core ctx n : Nat)
  /-- KV_IMPORT_JOB (R278). The translator verifies a prefix record and adds references, or refuses. -/
  | kvImportJob (core ctx n : Nat)
  /-- SPECULATIVE_FETCH_LINE (R252). A speculative fetch sends one line when a speculation token is available. -/
  | speculativeFetchLine (core buf : Nat)
  /-- PARISON_DATA_LAND (R246). A fetch's or refetch's data lands in its parison buffer. -/
  | parisonDataLand (core buf : Nat)
  /-- PAGE_WALK_COMPLETE (R341). A table walk ends in a translation or a fault. -/
  | pageWalkComplete (core slot : Nat)
  /-- TLBINV_COMPLETE (R310). Every access using a removed translation has ended and the slot is ready. -/
  | tlbinvComplete (core slot : Nat)
  /-- PCOMMIT_COMPLETE (R350). The popped frame is zeroed and mapped, and d is written. -/
  | pcommitComplete (core slot : Nat)
  /-- PDECOMMIT_INVALIDATION_DONE (R350). The decommitted page's invalidation completes and its frame is pushed. -/
  | pdecommitInvalidationDone (ctx page : Nat)
  /-- TOKEN_BUCKET_REFILL (R332). Every 64 flock cycles the ordinary and speculation buckets refill. -/
  | tokenBucketRefill (flock : Nat)
  /-- SLICE_PORT_GRANT (R334). A slice port chooses one request to leave, by tokens or borrowing. -/
  | slicePortGrant (flock slice : Nat)
  /-- PORT_SAVE_STEP (R325). A save writes one held port's queue and state to the lehr image. -/
  | portSaveStep (core entry : Nat)
  /-- SAVE_STEP (R322). A save copies one bank line to the lehr image and advances the cursor. -/
  | saveStep (core entry : Nat)
  /-- RESTORE_READ_ISSUE (R323). A restore sends a read for the next lehr line and marks it pending. -/
  | restoreReadIssue (core entry : Nat)
  /-- RESTORE_LINE_WRITE (R323). The oldest pending line returns, is written to the bank, and held accesses proceed. -/
  | restoreLineWrite (core entry bank : Nat)
  /-- PORT_RESTORE_STEP (R325). A restore loads one port's image back into the port. -/
  | portRestoreStep (core entry : Nat)
  /-- LEHR_ACCESS (R321). A diverted access is performed on a lehr line at its hearth home. -/
  | lehrAccess (core : Nat)
  /-- LEHR_CHANNEL_WRITE (R326). A word or grant for a saved port is written into the lehr image. -/
  | lehrChannelWrite (mid : Nat)
  /-- QUANTUM_END (R317). A Gaffer timer event ends a tenant's quantum and switch requests are posted. -/
  | quantumEnd (core part : Nat)
  /-- POWER_GOOD (R358). Power-good starts the boot ROM on Gaffer hart 0. -/
  | powerGood
  /-- SAFE_STAGE_ENTRY (R358). Stage-one firmware verifies and the package enters Safe. -/
  | safeStageEntry (flashOk sigOk : Bool)
  /-- INVENTORY_STAGE_ENTRY (R358). Stage-one firmware starts self-test and silo training. -/
  | inventoryStageEntry (fresh : List Nat) (working : Nat) (recordSigOk : Bool)
  /-- KERNEL_STAGE_ENTRY (R358). Silos trained and repair applied, Calben's image is sought and verified. -/
  | kernelStageEntry (found0 sig0 found1 sig1 : Bool)
  /-- DIE_ENTERS_SERVICE (R358). A compute die passes its checks and enters service. -/
  | dieEntersService (die : Nat) (repairable : Bool)
  /-- SCRUB_READ (R362). Background scrub reads a line or word and corrects or counts errors. -/
  | scrubRead (unit : Nat) (corrected lost : Bool)
  /-- DOORBELL (R368). A host write to DOORBELL posts an event with its value to Calben. -/
  | doorbell (fn value : Nat)
  /-- HOST_POSTED_WRITE (R110). A host posted write reaches the endpoint and is performed in order. -/
  | hostPostedWrite (addr size value : Nat)
  /-- LINK_FLIT_RECEIVE (R371). A flit arrives on a link and is checked by CRC, retried on failure. -/
  | linkFlitReceive (link : Nat) (crcOk : Bool) (corrected uncorrected : Nat)
  /-- LINK_RETRAIN (R371). After 16 failed retries a link retrains and its traffic moves. -/
  | linkRetrain (link : Nat)
  /-- PEER_LOST (R373). No path to a package remains and its requests end as R373 states. -/
  | peerLost (peer : Nat)
  /-- THERMAL_TRIP (R375). At 115 °C every barrel, engine and link clock stops and TRIP is set. -/
  | thermalTrip
  /-- THERMAL_RESUME (R375). Below 95 °C clocks restart and every party continues. -/
  | thermalResume
  /-- JUNCTION_THROTTLE (R375). Above 105 °C flock clocks are lowered. -/
  | junctionThrottle (flock clock : Nat)
  /-- CLOCK_CHANGE (R375). A flock's clock changes between cycles. -/
  | clockChange (flock clock : Nat)
  /-- PWRCAP (R367). A write to PWRCAP sets the module limit, clamped to 600–2,400 W. -/
  | pwrcap (value : Nat)
  /-- SESSKEY (R369). Writes to SESSKEY; the fourth word loads the session key. -/
  | sesskey (word value : Nat)
  /-- ESCWAYS (R366). A write sets the designated slice ways when no slice is held. -/
  | escways (hearth value : Nat)
  /-- LINK_RETRAIN_CMD (R372). Writing LCTL.RETRAIN starts a retrain. -/
  | linkRetrainCmd (link : Nat)
  /-- LINK_ENABLE (R372). Writing LCTL.ENABLE holds a link down or lets it up. -/
  | linkEnable (link : Nat) (enable : Bool)
  /-- DEVICE_REGISTER_WRITE (R364). A write to a device register with no behaviour of its own. -/
  | deviceRegisterWrite (offset value : Nat)
  /-- HEARTH_CMD_IDLE (R366). Hearth window command 0 does nothing. -/
  | hearthCmdIdle (hearth : Nat)
  /-- HEARTH_SCRUB_LINE (R366). Writes a silo line with given data and clears its poison. -/
  | hearthScrubLine (hearth : Nat)
  /-- HEARTH_SCRUB_WORD (R366). Writes an SRAM word with given data and clears its poison. -/
  | hearthScrubWord (hearth : Nat)
  /-- HEARTH_SLICE_QUOTA (R366). Sets a context's expert-slice quota, evicting unpinned slices above it. -/
  | hearthSliceQuota (hearth : Nat)
  /-- HEARTH_CMD_RESERVED (R366). A reserved hearth command code is refused. -/
  | hearthCmdReserved (hearth : Nat)
  /-- CORE_CMD_IDLE (R365). Core window command 0 does nothing. -/
  | coreCmdIdle (core : Nat)
  /-- CORE_CMD_RESUME (R365). Resumes or replays a held thread, optionally with a replacement cause. -/
  | coreCmdResume (core : Nat)
  /-- CORE_CMD_RETIRE_AS_FAILED (R365). Retires the slot's task as failed. -/
  | coreCmdRetireAsFailed (core : Nat)
  /-- CORE_CMD_MAKE_RESIDENT (R365). Makes a context resident with a partition, buffer mask and spill header. -/
  | coreCmdMakeResident (core : Nat)
  /-- CORE_CMD_REMOVE (R365). Removes a resident context that holds nothing on the core. -/
  | coreCmdRemove (core : Nat)
  /-- CORE_CMD_WRITE_MASKS (R365). Writes SLOTMASK and BANKMASK unless R314 refuses. -/
  | coreCmdWriteMasks (core : Nat)
  /-- CORE_CMD_DIVERT (R365). Performs a DIVSET save or restore from the machine level. -/
  | coreCmdDivert (core : Nat)
  /-- CORE_CMD_CLEAR_ENTRY (R365). Clears a diversion entry as DIVCLR does. -/
  | coreCmdClearEntry (core : Nat)
  /-- CORE_CMD_INSTALL_ENTRY (R365). Sets a diversion entry DIVERTED at once over an existing lehr image. -/
  | coreCmdInstallEntry (core : Nat)
  /-- CORE_CMD_HAND_OVER (R365). Hands a slot to an image as SLOTHAND does, at its next home cycle. -/
  | coreCmdHandOver (core : Nat)
  /-- CORE_CMD_SWITCH_REQUEST (R365). Posts a switch request to a slot. -/
  | coreCmdSwitchRequest (core : Nat)
  /-- CORE_CMD_WRITE_REGISTER (R365). Writes a privileged control register for a slot and context. -/
  | coreCmdWriteRegister (core : Nat)
  /-- CORE_CMD_READ_REGISTER (R365). Reads a privileged control register into VALUE. -/
  | coreCmdReadRegister (core : Nat)
  /-- CORE_CMD_SPILL_DEQUE (R365). Moves a context's whole deque into its spill area. -/
  | coreCmdSpillDeque (core : Nat)
  /-- CORE_CMD_RELEASE_JOB (R365). Resumes a set-aside job or ends it with a replacement cause. -/
  | coreCmdReleaseJob (core : Nat)
  /-- CORE_CMD_RESERVED (R365). A reserved core command code is refused. -/
  | coreCmdReserved (core : Nat)
  /-- LINK_TRAINING_DONE (R372). A link's training ends, leaving LSTATUS with UP set, or with DOWN set when training has failed. -/
  | linkTrainingDone (link : Nat) (up : Bool) (peer peerLink : Nat)
  /-- POWER_LOSS (R370). The package loses its supply, ending all work; it restarts only through a cold boot at the next power-good. -/
  | powerLoss
  deriving DecidableEq, Repr

end Sys2Proof
end

