-- ==== Sys2Proof/Machine/State.lean ====
section
/-! DEFINITION. The state of a whole Krynak package as plain data: every register, table, queue and memory the spec gives
the machine, the operations in progress, and the machine right after reset. Tables with one row per core, slot, flock,
band, die or context are lists of key and row; a key that is not listed stands for the row at its reset value. -/

namespace Sys2Proof.Machine

/-! ## Fixed names of things -/

/-- The two modes a slot may be in (R291). -/
inductive Mode where
  | user
  | supervisor
  deriving DecidableEq, Repr

/-- The handler active in a slot (Table 16.12, HND). -/
inductive Handler where
  | none
  | light
  | user
  deriving DecidableEq, Repr

/-- The part of a slot in an access/execute pair (R42). -/
inductive PairRole where
  | unpaired
  | access
  | execute
  deriving DecidableEq, Repr

/-- What an access does to its bytes (R341). -/
inductive Access where
  | read
  | write
  /-- A read and a write that is no atomic: of a context image (R307). -/
  | update
  /-- An atomic; `pcie` says that it is one of the three that host memory allows (R189). -/
  | atomic (pcie : Bool)
  | fetch
  deriving DecidableEq, Repr

/-- Where an address leads once it has been checked and translated (Tables 4.1 and 18.3). -/
inductive Target where
  /-- Byte `off` of the scratchpad of core `core` (R73, R74). -/
  | pad (core off : Nat)
  /-- Byte `off` of parison buffer `buf` of the issuing core (R75). -/
  | parison (core buf off : Nat)
  /-- Physical address `pa`; `dev` is the page's device attribute (R80). -/
  | phys (pa : Nat) (dev : Bool)
  deriving DecidableEq, Repr

/-! ## What parties know of one another's writes (R85, R94)

A party is named by a number, as `Order.lean` numbers them. A clock names parties, and for each how many of its writes happen before a point. -/

/-- Where a party stands when a scope is taken around another (R85). -/
inductive Place where
  | slot (core slot : Nat)
  /-- The Gaffer cluster (R86). -/
  | gaffer
  /-- The package's host. -/
  | host
  /-- Another package. -/
  | peer (package : Nat)
  deriving DecidableEq, Repr

/-- A release that an acquire may synchronise with (R94): its scope, who released and where, and what happens before it. -/
structure Head where
  scope : Nat
  place : Place
  /-- The party that released (R97). -/
  party : Nat
  clock : List (Nat × Nat)
  deriving DecidableEq, Repr

/-- A write as its party makes it: who, its number among the party's writes, what happens before it, itself included, and what it
releases. -/
structure Writer where
  party : Nat
  die   : Option Nat
  place : Option Place
  n     : Nat
  clock : List (Nat × Nat)
  heads : List Head
  /-- It is the write of a read-modify-write. -/
  rmw   : Bool
  deriving DecidableEq, Repr

/-- A write that has been performed (R88), and what it replaced, which some party may still read. [log 58 DEDUCED] -/
structure PastWrite where
  /-- Its place among all writes performed. -/
  stamp : Nat
  /-- Its location: the key of its first byte, of a scratchpad with its context (R106). -/
  key   : Nat
  /-- The bytes it replaced. -/
  was   : List Byte
  by_   : Writer
  /-- The heads of the release sequences that it belongs to (R97). -/
  heads : List Head
  deriving DecidableEq, Repr

/-- What a party knows and carries (R94, R98). [log 58 DEDUCED] -/
structure Knows where
  clock : List (Nat × Nat)
  /-- Writes that the party has made. -/
  wrote : Nat
  /-- The releases that its reads have met, for its next ACQ fence. -/
  met   : List Head
  /-- What its REL fences make its later writes release. -/
  fences : List Head
  /-- For each byte it has read, the newest write it has seen there (R88). -/
  reads : List (Nat × Nat)
  deriving DecidableEq, Repr

/-- The order of writes among parties (R88, R94). [log 58 DEDUCED] -/
structure Order where
  /-- Writes performed so far. -/
  count  : Nat
  /-- Newest first. -/
  writes : List PastWrite
  knows  : List (Nat × Knows)
  /-- What FULL fences wider than a die have made visible: their scopes, and the writes of their threads (R98). -/
  shown  : List Head
  /-- The writes of jobs whose records have been discarded: core, context and number, and the job's party and how many it made (R101,
  R211). -/
  ended  : List ((Nat × Nat × Nat) × List (Nat × Nat))
  /-- What happens before the sends of the channel words that stand in lehr images, by the words' addresses (R108, R326). -/
  words  : List (Nat × List (Nat × Nat))
  deriving DecidableEq, Repr

/-! ## A thread's registers -/

/-- Registers a thread names directly (R12, R292). -/
structure Regs where
  /-- g0 to g31; g0 is never read from here. -/
  g  : Vector Word 32
  /-- The S-mode shadows of g28 to g31. -/
  sh : Vector Word 4
  /-- p0 to p7; p0 is never read from here. -/
  p  : Vector Bool 8
  /-- b0 to b63. -/
  b  : Vector Quad 64
  /-- The address of the bundle the slot issues next. -/
  pc : Word
  deriving DecidableEq, Repr

/-- The user control registers held per slot (Table 6.8). -/
structure UserCtl where
  fctl    : Word
  rseed   : Word
  fmtact  : Word
  /-- The shadow descriptors fd0 to fd3. -/
  fd      : Vector Word 4
  lhvec   : Word
  ulink   : Word
  ucause  : Word
  uivec   : Word
  xfrid   : Word
  uipend  : Word
  uimaskv : Word
  waitlim : Word
  aeeps   : Word
  aemaxr  : Word
  deriving DecidableEq, Repr

/-- The trap registers of a slot (Tables 16.3 to 16.6). -/
structure TrapRegs where
  tcause : Word
  tval   : Word
  tpc    : Word
  tstate : Word
  deriving DecidableEq, Repr

/-- What a slot keeps of its task (R21, R28, R34, R202). -/
structure TaskRec where
  /-- Priority, domain, policy and task id in the layout of Table 2.5. -/
  task      : Word
  faultWord : Word
  frame     : Word
  entry     : Word
  fmtBlock  : Word
  /-- Arguments 1 to 5, kept for a restart under RETRY. -/
  args      : Vector Word 5
  /-- The model's own name of this dispatch: no two dispatches share it. -/
  serial    : Nat
  deriving DecidableEq, Repr

/-- A wait suspended by a switch request (Table 16.11). -/
inductive Suspended where
  | none
  | bar (gen addr : Word) (scope : Nat)
  | halt
  | mxmab (seq : Nat)
  | mwait (d : Fin 32)
  | replay
  /-- A replay of a RETIRE's frame update, with what the retirement passes on. -/
  | retire (failed : Bool) (escalate : Nat)
  deriving DecidableEq, Repr

/-! ## A bundle in flight -/

/-- What a word will write to its thread's registers (R6): plain data, held until the C word's access has completed. -/
structure AEffect where
  g     : List (Fin 32 × Word)
  p     : List (Fin 8 × Bool)
  b     : List (Fin 64 × Quad)
  /-- The flags to be ORed into FCTL (Table 3.8). -/
  flags : BitVec 5
  /-- The new RSEED, when random bits were taken (R61). -/
  rseed : Option Word
  deriving DecidableEq, Repr

/-- A bundle that has issued and not completed (R5, R111). -/
structure Issue where
  pc    : Word
  size  : Nat
  /-- The first word, as a fault reports it. -/
  word0 : W32
  /-- The second word of a pair, or zero. -/
  word1 : W32
  /-- The C word, when the bundle has one. -/
  c     : Option Instr
  /-- The A word, when the bundle has one. -/
  a     : Option Instr
  /-- What the A word writes instead, when its own fault was ignored (R33). -/
  aOver : Option AEffect
  /-- The second word is no instruction (R113); `a` is then none. -/
  aBad  : Bool
  /-- The bundle has reported its one fault (R113): a further one is not reported. -/
  muted : Bool
  deriving DecidableEq, Repr

/-- The A word's part of a bundle that waits (R135, R161). -/
inductive AWait where
  | none
  /-- On the core's long-operation unit. -/
  | long (e : AEffect)
  /-- On the block unit; `ready` is the first cycle at which the slot may issue again (R163). -/
  | block (e : AEffect) (ready : Nat)
  /-- The unit has finished; the core holds the writes until the C word is done (R6). -/
  | kept (e : AEffect)
  deriving DecidableEq, Repr

/-- One entry of a slot's store buffer (R20, R183, R190). -/
inductive StoreEntry where
  /-- `bytes` from `tgt` on. `rel` is the release scope of an ordered store; `clock` is what happened before it but the thread's own
  writes (R94). -/
  | store (tgt : Target) (bytes : List Byte) (rel : Option Nat) (clock : List (Nat × Nat))
  /-- A REL fence at a scope, and what happened before it. -/
  | fence (scope : Nat) (clock : List (Nat × Nat))
  deriving DecidableEq, Repr

/-- One piece of a load: where it reads and how many bytes. -/
structure Piece where
  tgt  : Target
  size : Nat
  deriving DecidableEq, Repr

/-- What a load, LDV or received value is to be written to. -/
inductive Dest where
  | g (d : Fin 32) (size : Nat) (signed : Bool)
  | block (v : Fin 64) (h w : Nat)
  deriving DecidableEq, Repr

/-- A load whose value has not arrived (R183). -/
structure LoadReq where
  addr   : Word
  /-- The pieces not yet read, in order. -/
  pieces : List Piece
  /-- The bytes read so far. -/
  got    : List Byte
  /-- A byte read was poisoned (R181). -/
  bad    : Bool
  dest   : Dest
  /-- The scope at which it acquires, if it does, and the releases that its pieces have met (R94). -/
  acq    : Option Nat
  met    : List Head
  /-- The model's counter when it began. -/
  begun  : Nat
  /-- The next piece waits in a core's queue toward a lehr image (R321). -/
  queued : Bool
  deriving DecidableEq, Repr

/-- What an atomic step does to its word (Table 9.2, R203, R254). -/
inductive AtomicOp where
  | add | addf | min | max | minu | maxu | and_ | or_ | xor_ | swap
  | cas (expected : Word)
  /-- A BAR arrival with its count. -/
  | arrive (count : Nat)
  /-- An HSIFT of `k` entries: candidate score and index. -/
  | sift (k : Nat) (score index : W32)
  deriving DecidableEq, Repr

/-- An atomic on its way (R189). -/
structure AtomicReq where
  addr    : Word
  tgt     : Target
  /-- 4 or 8, or the bytes of a whole heap. -/
  size    : Nat
  op      : AtomicOp
  operand : Word
  d       : Fin 32
  signed  : Bool
  scope   : Nat
  acq     : Bool
  rel     : Bool
  /-- The access waits in its core's queue toward a lehr image. -/
  queued  : Bool
  deriving DecidableEq, Repr

/-- The conditions a reissuing wait waits for (Table 2.1, the list below Table 16.11). -/
inductive Cond where
  /-- A free entry of the store buffer. -/
  | storeRoom
  /-- No buffered store of the slot overlaps these bytes. -/
  | drained (tgt : Target) (len : Nat)
  /-- No buffered store of the slot goes to silo memory, where tables lie. -/
  | tablesClear
  | allowance (port : Nat)
  | received (port : Nat)
  | anyReady (mask : BitVec 8)
  | jobDone (seq : Nat)
  | jobRoom
  | engineRoom
  | droverRoom
  /-- A SPAWNAT's packet for a core, with a join frame, may leave (R31, R104). -/
  | packetWay (core : Nat) (frame : Word)
  | ringFree (ring : Nat)
  /-- The data of a parison buffer has landed, for a load of an address. -/
  | landed (buf : Nat) (addr : Word)
  deriving DecidableEq, Repr

/-- The wait of a slot's bundle (Table 2.1). -/
inductive Wait where
  | none
  /-- An instruction fetch (R149). -/
  | fetch
  /-- A table walk for an access of the bundle, or for the format block; `going` says that one of the die's walks works for it
  (R345). -/
  | walk (va : Word) (kind : Access) (report : Word) (going : Bool)
  | load (l : LoadReq)
  | atomic (a : AtomicReq)
  /-- The atomic has been performed; its old value is on its way. -/
  | answered (d : Option (Fin 32 × Word))
  | cond (c : Cond)
  /-- The registers of an STV that have not yet entered the store buffer. -/
  | storing (rest : List StoreEntry)
  | fenceFull (scope : Nat)
  | fenceAcq (scope : Nat)
  | ifence
  | yield (until_ : Nat)
  | halt
  | bar (addr gen : Word) (scope : Nat)
  | join (frame : Word)
  | mwait (d : Fin 32) (timeout start : Nat)
  /-- An MXMAB waiting for its job. -/
  | job (seq : Nat)
  /-- An MXLD or MXST waiting for its transfer, by the number of its entry, which is no handle (R227). -/
  | transfer (n : Nat)
  | spawn (p : Fin 8) (addr : Word)
  /-- A SPAWNAT: `stage` 0 before its packet arrives, 1 placed, 2 refused. -/
  | spawnAt (p : Fin 8) (addr : Word) (core stage : Nat)
  | unbind (ep : Fin 8) (port : Nat)
  /-- A KVXL, KVINS or KVDEL (`op` 0, 1, 2); `paid`, here and below, lists the lines whose token it has paid (R333). -/
  | kv (op : Nat) (d : Fin 32) (seq block : W32) (paid : List Nat)
  | pcommit (d : Fin 32) (addr : Word) (paid : List Nat)
  | eschist (addr : Word) (layer count : Nat) (halve : Bool) (paid : List Nat)
  | tlbinv (ctx : Nat) (page : Option Nat) (guest : Bool)
  | divert (entry : Nat)
  /-- A SWAPCTX (`hand` false) or SLOTHAND (`hand` true) before the exchange. -/
  | exchange (hand : Bool) (addr : Word) (writeBack : Bool) (paid wrote : List Nat)
  /-- A RETIRE before its frame update; `escalate` is the cause it passes up, or 0 (Table 2.7); `held` says that the update
  met a not-present fault and waits for its service (R31, R302). -/
  | retiring (failed : Bool) (escalate : Nat) (held : Bool)
  /-- A RETIRE after its frame update. -/
  | leaving
  /-- Held for Calben's service of a not-present fault (R302). -/
  | replay
  /-- Held at the machine level (R300, R303). -/
  | held
  deriving DecidableEq, Repr

/-- A count toward a stall report (R305). -/
structure Stall where
  /-- The code of Table 16.9. -/
  code   : Nat
  start  : Nat
  limit  : Nat
  posted : Bool
  deriving DecidableEq, Repr

/-- A completion that enters a handler (R239). -/
structure Completion where
  handler : Word
  xfrid   : W32
  /-- The copy's writes, which the entry acquires (R101). -/
  clock   : List (Nat × Nat)
  deriving DecidableEq, Repr

/-- A fault of an engine job waiting for its thread (R243). -/
structure EngineFault where
  cause : Nat
  value : Word
  /-- The access was a write. -/
  write : Bool
  /-- The handle of the job, and its context: another thread of the context takes the fault if its own is parked (R329). -/
  handle : Nat
  ctx    : Nat
  deriving DecidableEq, Repr

/-- A slot of a core and the thread in it. [log 2 DESIGN CHOICE] -/
structure Slot where
  occupied : Bool
  ctx      : Nat
  mode     : Mode
  regs     : Regs
  ctl      : UserCtl
  trap     : TrapRegs
  task     : TaskRec
  handler  : Handler
  /-- Endpoints q0 to q7: the local port each is bound to (R35). -/
  q        : Vector (Option Nat) 8
  pair     : PairRole
  /-- The endpoint ALT chose last (R40). -/
  altLast  : Fin 8
  sb       : List StoreEntry
  /-- Entries that have ever entered and left the buffer of this slot: the model's own counts. -/
  sbIn     : Nat
  sbOut    : Nat
  issue    : Option Issue
  /-- An STV whose wait for room was abandoned: its bundle, and how many of its registers have still to enter the buffer. -/
  stv      : Option (Word × Nat)
  /-- The bundle that waits to issue again has reported its A word's fault, which was ignored (R113): its address. -/
  passed   : Option Word
  wait     : Wait
  await    : AWait
  susp     : Suspended
  /-- The cycle of the last issue, while one counts (R17). -/
  last     : Option Nat
  stall    : Option Stall
  ccq      : List Completion
  switchReq : Bool
  engineFaults : List EngineFault
  /-- Asynchronous-fault events: the context, and the address of the record (R329). -/
  asyncEvents  : List (Nat × Word)
  /-- The value that a not-present fault reported: a replacement cause reports it again (R302). -/
  replayValue : Word
  /-- The parison buffer for whose refetch the thread's load waits in replay, and the address that the load named (R248, R249). -/
  replayFor : Option (Nat × Word)
  /-- The cause Calben gave instead of a replay, with its value (R302). -/
  replaceCause : Option (Nat × Word)
  /-- The parison buffers that the thread's PFETCHes hold (R249). -/
  pfbuf    : BitVec 8
  /-- A fault of the dispatch, raised before the first bundle (R29). -/
  dispatchFault : Option (Nat × Word)
  /-- The format block has still to be read (R29). -/
  fmtPending : Bool
  deriving DecidableEq, Repr

/-! ## A core -/

/-- A word of a channel (R36). -/
structure ChWord where
  data : Word
  ctl  : Bool
  poison : Bool
  /-- What happens before its send (R41). -/
  clock : List (Nat × Nat)
  deriving DecidableEq, Repr

/-- The thread that holds a port: its context, its slot and its endpoint. -/
structure PortOwner where
  ctx  : Nat
  slot : Nat
  ep   : Fin 8
  deriving DecidableEq, Repr

/-- A channel port of a core (R35, R37). -/
structure Port where
  owner  : Option PortOwner
  far    : W32
  recv   : Bool
  auto   : Bool
  queue  : List ChWord
  /-- Receiver: the allowance granted and not yet used by an arrived word (G). -/
  granted : Nat
  /-- Sender: the allowance as seen at this end. -/
  allow  : Nat
  /-- The stream copy that feeds the port, by the sequence of its job (R240). -/
  stream : Option Nat
  /-- The port's state has been written to a lehr image (R325). -/
  saved  : Bool
  deriving DecidableEq, Repr

/-- An entry of the watch table (R205). -/
structure Watch where
  slot : Nat
  tgt  : Target
  /-- 0 written, 2 spurious, when an event has come (R206). -/
  event : Option Nat
  /-- The entry has been taken by a later MWARM; only its slot's next MWAIT sees it. -/
  stolen : Bool
  deriving DecidableEq, Repr

/-- An entry of the predictor (R244). -/
structure PredEntry where
  owner : Option Nat
  valid : Bool
  conf  : Nat
  tag   : BitVec 16
  pred  : BitVec 16
  deriving DecidableEq, Repr

/-- The states of a parison buffer (Table 10.8). -/
inductive BufState where
  | free | predicted | unpredicted | void | inFlight | landed | faulted
  deriving DecidableEq, Repr

/-- A fetch descriptor (Table 10.7). -/
structure FetchDesc where
  base   : Word
  stride : Word
  count  : Nat
  site   : Nat
  deriving DecidableEq, Repr

/-- A parison buffer (R246, R247). -/
structure Parison where
  state  : BufState
  ctx    : Nat
  key    : BitVec 16
  entry  : Nat
  desc   : FetchDesc
  index  : BitVec 16
  hit    : Bool
  /-- The bytes that the fetch has read; they land together. -/
  got    : List Byte
  /-- They have landed. -/
  arrived : Bool
  /-- Who fetches: slot, partition and mode, and the slot's stores that the fetch follows (R100). -/
  slot   : Nat
  part   : Nat
  mode   : Mode
  mark   : Nat
  /-- What happens before the fetch (R100). -/
  clock  : List (Nat × Nat)
  /-- Lines of table entries that a speculative walk has paid for (R352). -/
  paid   : List Nat
  /-- Frame and permissions of each 4 KiB page read by the predicted fetch: page, frame, permission bits. -/
  pages  : List (Nat × Nat × Nat)
  fault  : Option (Nat × Word)
  deriving DecidableEq, Repr

/-- A ring descriptor (Table 4.2). -/
structure Ring where
  base  : Nat
  size  : Nat
  count : Nat
  head  : Nat
  tail  : Nat
  /-- Of the tiles that have been pushed and are held, oldest first: the slot that pushed it, the slot's stores that the push releases to the
  job that uses the tile, and what happens before the push (R231). -/
  marks : List (Nat × Nat × List (Nat × Nat))
  deriving DecidableEq, Repr

/-- What goes with a task packet and is no part of it: the id its spawn took (R23), and what its spawn releases to its dispatch (R103,
R104). -/
structure SpawnNote where
  id    : W32
  heads : List Head
  /-- For a SPAWNAT: the party that sent the packet, the writes that it had made, and the core to whose scratchpad the dispatch sees
  them. -/
  pad   : Option (Nat × Nat × Nat)
  deriving DecidableEq, Repr

/-- A task packet (Table 2.3). -/
structure Packet where
  words : Vector Word 8
  note  : SpawnNote
  deriving DecidableEq, Repr

/-- What a core holds for a resident context (R315). [log 2 DESIGN CHOICE] -/
structure Resident where
  ctx     : Nat
  part    : Nat
  bufmask : BitVec 8
  /-- Address of the spill header, or 0 (R25). -/
  spill   : Word
  /-- The deque, newest packet first (R24). -/
  deque   : List Packet
  /-- The notes of the packets in the spill area, oldest first. -/
  spilled : List SpawnNote
  rings   : Vector (Option Ring) 16
  pfthr   : Word
  /-- Spawns from this core (R23). -/
  spawns  : Nat
  /-- Jobs started on this core (R211). -/
  jobs    : Nat
  deriving DecidableEq, Repr

/-- The states of a diversion entry (R319). -/
inductive DivState where
  | off | saving | diverted | restoring
  deriving DecidableEq, Repr

/-- The progress of one bank under a diversion entry (R319). -/
structure BankCursor where
  cursor  : Nat
  done    : Bool
  /-- Lines being read during a restore, oldest first, with the data once it has returned. -/
  pending : List (Nat × Option (List Byte))
  deriving DecidableEq, Repr

/-- A diversion entry (R319). -/
structure Divert where
  ctx    : Nat
  mask   : BitVec 16
  base   : Word
  state  : DivState
  banks  : Vector BankCursor 16
  /-- The next port to be saved or restored (R325). -/
  port   : Nat
  /-- The bank whose turn comes next (R322, R323). -/
  turn   : Nat
  deriving DecidableEq, Repr

/-- An access on a core's route to a lehr image (R321). Addresses are physical. -/
inductive LehrOp where
  /-- A write: a diverted store, with the location that it addressed and its writer, or a write of the route's own. -/
  | write (bytes : List Host.Cell) (of_ : Option (Nat × Writer))
  /-- The read of a restore step: entry, bank, line. -/
  | restore (entry bank line : Nat)
  /-- A piece of a diverted load of a slot of a core. -/
  | load (core slot : Nat) (addr size : Nat)
  /-- A diverted atomic of a slot of a core: for each line the offset of its first byte, its bytes and where they lie. -/
  | atomic (core slot : Nat) (places : List (Nat × Nat × Nat))
  deriving DecidableEq, Repr

/-- A cached thread-context image (R306). -/
structure CachedImage where
  addr  : Nat
  words : List Word
  /-- The words of its memory when it was cached: one that differs now has been written since. -/
  under : List Word
  deriving DecidableEq, Repr

/-- What the model keeps of a parked thread beside its image: who it is, so that its jobs, ports and task arguments are
found again. The image itself stands in memory or in the thread-context cache. -/
structure Parked where
  addr   : Nat
  slot   : Nat
  ctx    : Nat
  serial : Nat
  args   : Vector Word 5
  /-- The suspended wait, which the slot keeps hidden (R298). -/
  susp   : Suspended
  replayValue : Word
  /-- The endpoint ALT chose last (R40), a format block still to be read, a fault of the dispatch still to be raised (R29), and a
  RETIRE or an STV that is still to be finished (R298). -/
  altLast : Fin 8
  fmtPending : Bool
  dispatchFault : Option (Nat × Word)
  retire : Option (Bool × Nat)
  stv    : Option (Word × Nat)
  /-- What the entries of its copy completions acquire, in the order of the image's (R101). -/
  done   : List (List (Nat × Nat))
  deriving DecidableEq, Repr

/-- Words of the instruction cache: one aligned 8-byte unit of one context (R79, R111). -/
structure CodeUnit where
  ctx   : Nat
  va    : Nat
  word0 : W32
  word1 : W32
  /-- The translation permits U mode. -/
  user  : Bool
  deriving DecidableEq, Repr

/-- A translation held by a TLB (R345). Pages are named by their first virtual address. -/
structure TlbEntry where
  ctx   : Nat
  va    : Nat
  /-- Bytes of the page. -/
  size  : Nat
  pa    : Nat
  r     : Bool
  w     : Bool
  x     : Bool
  u     : Bool
  dev   : Bool
  spec  : Bool
  aSeen : Bool
  dSeen : Bool
  deriving DecidableEq, Repr

/-- The registers of a core control window (Table 20.4). -/
structure Window where
  cmd    : Word
  result : Word
  op0    : Word
  op1    : Word
  value  : Word
  /-- The diversion entry whose save or restore the present command 6 has begun. -/
  begun  : Option Nat
  deriving DecidableEq, Repr

/-- One core. -/
structure Core where
  cycle    : Nat
  /-- The present cycle has been taken: by an issue, an entry or an exchange (R17). -/
  spent    : Bool
  slotmask : Word
  bankmask : Word
  tvec     : Vector Word 4
  residents : List Resident
  ports    : Vector Port 32
  watches  : List Watch
  predictor : Vector PredEntry 64
  parison  : Vector Parison 8
  divert   : Vector Divert 8
  lehrQ    : List LehrOp
  code     : List CodeUnit
  /-- For each context, what the threads that have executed IFENCE on the core knew, which fetches see (R79, R154). -/
  codeSeen : List (Nat × Knows)
  /-- The L1 TLB, newest first. -/
  tlb      : List TlbEntry
  images   : List CachedImage
  parked   : List Parked
  window   : Window
  /-- The context served last by a dispatch, per partition (R26). -/
  served   : Vector Nat 4
  /-- The copy of the core that the copy unit served last (R236). -/
  copyLast : Nat
  /-- Slots whose long operation waits for the unit, in issue order (R135). -/
  longQ    : List Nat
  /-- The cycle at which the block unit finishes the last instruction it has taken (R163). -/
  blockFree : Nat
  deriving DecidableEq, Repr

/-! ## Jobs -/

/-- A shape record as read at issue (Table 10.1). -/
structure Shape where
  record  : Word
  a       : Word
  b       : Word
  c       : Word
  aStride : Nat
  bStride : Nat
  cStride : Nat
  groups  : Nat
  m       : Nat
  n       : Nat
  ringA   : Nat
  ringB   : Nat
  acc     : Nat
  flags   : BitVec 8
  cFormat : Nat
  deriving DecidableEq, Repr

/-- A matrix job (R219, R223). -/
structure MatJob where
  shape   : Shape
  fdA     : Word
  fdB     : Word
  mode    : Nat
  step    : Nat
  /-- Panels of A and of B pushed by the copy unit so far (R221), and the rows of the next ones that its turns have moved (R236). -/
  fedA    : Nat
  fedB    : Nat
  rowsA   : Nat
  rowsB   : Nat
  /-- The job has taken its accumulator (R218, R223). -/
  opened  : Bool
  /-- The random state of RSR (R61). -/
  rseed   : Word
  /-- A step's rerun has mismatched (R224). -/
  failed  : Bool
  /-- Rows of C written so far. -/
  rows    : Nat
  deriving DecidableEq, Repr

/-- A copy parameter block as read at issue (Table 10.4). -/
structure CopyBlock where
  block   : Word
  src     : Word
  dst     : Word
  rows    : Nat
  elems   : Nat
  sStride : Nat
  dStride : Nat
  sFormat : Nat
  dFormat : Nat
  mode    : Nat
  sat     : Bool
  completion : Nat
  xfrid   : W32
  handler : Word
  table   : Word
  sScaled : Bool
  dScaled : Bool
  deriving DecidableEq, Repr

/-- A copy (R233, R236). -/
structure CopyJob where
  blk     : CopyBlock
  /-- Global flock numbers of a multicast, or none for a plain copy (R237). -/
  flocks  : Option (List Nat)
  /-- The port a stream copy feeds (R240). -/
  port    : Option Nat
  row     : Nat
  elem    : Nat
  rseed   : Word
  deriving DecidableEq, Repr

/-- A drover descriptor as read at issue (Table 11.2) with the parameters of R258. -/
structure DroverDesc where
  addr    : Word
  score   : Word
  caps    : Word
  prices  : Word
  results : Word
  status  : Word
  n       : Nat
  m       : Nat
  stride  : Nat
  eps     : W32
  maxr    : Nat
  deriving DecidableEq, Repr

/-- A drover job (R260): converted scores row by row, capacities, prices, and each row's column and winning bid. -/
structure DroverJob where
  desc    : DroverDesc
  score   : List (List Int)
  cap     : List Nat
  price   : List Int
  held    : List (Option (Nat × Int))
  rounds  : Nat
  abort   : Bool
  /-- The drover has taken the job. -/
  started : Bool
  /-- The job has read its vectors. -/
  loaded  : Bool
  /-- Pieces of its results that its end has written (R243). -/
  wrote   : Nat
  refusal : Option Nat
  deriving DecidableEq, Repr

/-- The work of a job. -/
inductive JobBody where
  | matrix (j : MatJob)
  | accLoad (acc : Nat) (addr : Word) (fmt : Nat)
  | accStore (acc : Nat) (addr : Word)
  | accZero (acc : Nat) (fmt : Nat)
  | copy (j : CopyJob)
  | drover (j : DroverJob)
  /-- A slice request; `pin` says that an ESCPIN started it, and `line` counts the lines of a fill that have been read. -/
  | slice (tag : Nat) (pin : Bool) (line : Nat)
  | kvExport (record : Word) (seq : W32) (n : Nat) (key : Option (Vector Word 4))
  | kvImport (record : Word) (key : Option (Vector Word 4))
  deriving DecidableEq, Repr

/-- The states of a job. -/
inductive JobState where
  | queued
  | running
  /-- Set aside for a not-present fault (R243). -/
  | aside
  | done
  deriving DecidableEq, Repr

/-- A job of a context on a core (R211): the completion record stays until it expires. [log 2 DESIGN CHOICE] -/
structure Job where
  core   : Nat
  ctx    : Nat
  /-- The job's number on the core for the context, not cut to 16 bits. -/
  n      : Nat
  /-- KIND of Table 9.8; 0 for an MXLD or MXST, which has no handle and is named by a number of the model's own. -/
  kind   : Nat
  slot   : Nat
  part   : Nat
  /-- The mode in which it was issued: its accesses are checked as that mode's. -/
  mode   : Mode
  serial : Nat
  state  : JobState
  /-- Stores of the slot that had entered the buffer at issue: the job starts once they have left it (R100). -/
  mark   : Nat
  /-- Names the job, and places it among all jobs, oldest first. -/
  order  : Nat
  status : Nat
  info   : Nat
  faulted : Bool
  cause  : Nat
  /-- The address of its fault, and whether the access was a write. -/
  value  : Word
  write  : Bool
  /-- Lines whose token it has paid for the step it is about to make (R333). -/
  paid   : List Nat
  /-- What happens before its start (R100). -/
  clock  : List (Nat × Nat)
  body   : JobBody
  deriving DecidableEq, Repr

/-! ## Flocks, bands, dies, contexts -/

/-- Formats an accumulator may hold (R218). -/
inductive AccFormat where
  | fp32 | fp64 | int32
  deriving DecidableEq, Repr

/-- An accumulator of the matrix engine (R218): 64 × 64 values row by row; a value past the end of the list is +0. -/
structure Accum where
  vals  : List Word
  tag   : AccFormat
  owner : Option Nat
  deriving DecidableEq, Repr

/-- A line held in an L2 slice (R336). -/
structure L2Line where
  slice : Nat
  set   : Nat
  way   : Nat
  line  : Nat
  owner : Nat
  /-- Larger is more recently used. -/
  used  : Nat
  /-- It has been written since it was filled: its replacement writes it back (R333). -/
  dirty : Bool
  deriving DecidableEq, Repr

/-- A context's buckets and fill mask at one L2 slice (R332, R336). -/
structure Bucket where
  ctx    : Nat
  slice  : Nat
  rate   : Nat
  depth  : Nat
  count  : Int
  spRate : Nat
  spDepth : Nat
  spec   : Nat
  waymask : BitVec 16
  deriving DecidableEq, Repr

/-- A request waiting at an L2 slice's port (R334). -/
structure PortReq where
  slice : Nat
  ctx   : Nat
  core  : Nat
  /-- The slot that waits for it; 16 for a prefetch or a write-back, which none waits for. -/
  slot  : Nat
  line  : Nat
  /-- The line is brought into the L2. -/
  fill  : Bool
  deriving DecidableEq, Repr

/-- One flock. -/
structure Flock where
  /-- The core of the flock the matrix engine served last (R217). -/
  mxLast  : Nat
  /-- The core the copy unit served last (R236). -/
  cpLast  : Nat
  /-- Accumulators by core-in-flock, partition and number: key 16·core + 4·partition + number. -/
  accs    : List (Nat × Accum)
  l2      : List L2Line
  /-- The L2's own count of uses. -/
  l2Use   : Nat
  /-- The L2 TLB, newest first. -/
  tlb     : List TlbEntry
  buckets : List Bucket
  portQ   : List PortReq
  /-- The context each slice's port served last (R334). -/
  portLast : Vector Nat 8
  /-- The clock in MHz (R375). -/
  clock   : Nat
  deriving DecidableEq, Repr

/-- One band: its drover (R257). -/
structure Band where
  last    : Nat
  deriving DecidableEq, Repr

/-- An entry of an upper level that a die holds (R345): a pointer of a step 0 to 3 of the first or the second stage, for the
addresses that have its index and those of the steps before it. -/
structure UpperEntry where
  ctx    : Nat
  second : Bool
  step   : Nat
  /-- The address bits that lead to the entry. -/
  index  : Nat
  addr   : Nat
  bits   : Nat
  deriving DecidableEq, Repr

/-- One compute die: its last-level TLB, newest first, and the upper entries that it holds (R345). -/
structure Die where
  tlb   : List TlbEntry
  upper : List UpperEntry
  /-- Translations that a TLB of the die has let go of, through which accesses on their way may have been made (R310). -/
  gone  : List TlbEntry
  deriving DecidableEq, Repr

/-- The states of an expert slice (R266). -/
inductive SliceState where
  | absent | filling | resident | evicting
  deriving DecidableEq, Repr

/-- An expert slice of a context (R266, R268). -/
structure Slice where
  tag   : Nat
  state : SliceState
  pins  : Nat
  /-- When it was last filled or read; larger is later. -/
  used  : Nat
  /-- Pins that a running fill keeps only if it succeeds (R268). -/
  pinned : Nat
  /-- The slice whose eviction this fill waits for. -/
  victim : Option Nat
  /-- The model's counter when its eviction began: it waits for reads that began before (R271). -/
  evictAt : Nat
  deriving DecidableEq, Repr

/-- A tile page freed by a PDECOMMIT whose invalidation still runs (R350), with the slot that freed it, the entries that its store buffer
had taken, and what happens before the push of its frame (R349). [log 40 DEDUCED] -/
structure Freeing where
  page  : Nat
  core  : Nat
  slot  : Nat
  mark  : Nat
  clock : List (Nat × Nat)
  deriving DecidableEq, Repr

/-- The registers held per context (Table 16.1), and its expert slices. -/
structure Ctx where
  ptbase   : Word
  gptbase  : Word
  poolbase : Word
  sessModel : Word
  sessDigest : Vector Word 4
  sessTenant : Word
  kvtable  : Word
  escbase  : Word
  mcbase   : Word
  slices   : List Slice
  /-- Pages freed by PDECOMMIT whose invalidation still runs (R350). -/
  freeing  : List Freeing
  deriving DecidableEq, Repr

/-! ## Traffic in flight -/

/-- What a request does at its home. -/
inductive ReqKind where
  | write
  /-- A task packet to a core's deque (R104); `frame` is the home of its join frame, whose update takes the packet's place on the route
  to it (R105). -/
  | packet (core slot : Nat) (words : Vector Word 8) (heads : List Head) (pad : Option (Nat × Nat × Nat)) (frame : Option Nat)
  deriving DecidableEq, Repr

/-- A request that has left its core and has not been performed at its home (R105). [log 2 DESIGN CHOICE] -/
structure Req where
  id    : Nat
  core  : Nat
  ctx   : Nat
  home  : Nat
  kind  : ReqKind
  tgt   : Target
  bytes : List Host.Cell
  /-- The thread that sent it, as WHO names it, and the write as it left the core. -/
  who   : Word
  by_   : Writer
  deriving DecidableEq, Repr

/-- What travels between two ports, or to a thread. -/
inductive MsgKind where
  | word (w : ChWord)
  | grant (n : Nat)
  /-- A user interrupt vector (R208). -/
  | interrupt (vector : Nat)
  deriving DecidableEq, Repr

/-- A message between ports; for an interrupt `port` is the target slot. [log 2 DESIGN CHOICE] -/
structure Msg where
  id       : Nat
  fromCore : Nat
  fromPort : Nat
  core     : Nat
  port     : Nat
  ctx      : Nat
  /-- A send releases (R41): it arrives once the sending slot's buffer has let go of the stores before it, by their count. -/
  slot     : Nat
  mark     : Nat
  kind     : MsgKind
  deriving DecidableEq, Repr

/-- A record posted to Calben (Table 16.8). -/
structure Record where
  cause  : Nat
  flags  : BitVec 8
  wait   : Nat
  handle : Nat
  value  : Word
  pc     : Word
  who    : Word
  deriving DecidableEq, Repr

/-! ## The package -/

/-- The stages of start (Table 20.1). -/
inductive Stage where
  | safe | inventory | kernel | service
  deriving DecidableEq, Repr

/-- The registers of a scale-up link (Table 20.9). -/
structure Link where
  enabled   : Bool
  up        : Bool
  training  : Bool
  down      : Bool
  peer      : Nat
  peerLink  : Nat
  crcfail   : Nat
  retries   : Nat
  retrains  : Nat
  feccorr   : Nat
  fecuncorr : Nat
  /-- Retries of the flit now being sent (R371). -/
  tries     : Nat
  deriving DecidableEq, Repr

/-- The registers of a hearth control window (Table 20.6). -/
structure Hearth where
  cmd    : Word
  result : Word
  addr   : Word
  arg    : Word
  data   : Vector Word 8
  deriving DecidableEq, Repr

/-- An event posted to Calben: a doorbell or a report to the host. -/
inductive PkgEvent where
  | doorbell (fn : Nat) (value : Word)
  | retireRequest (unit : Nat)
  | statusChange
  | peerLost (peer : Nat)
  /-- The control processors of a partition's tenants are to be switched (R317). -/
  | quantum (core part : Nat)
  deriving DecidableEq, Repr

/-- What belongs to no core: stages, host, links, hearths and power. -/
structure Pkg where
  /-- The supply is good (R358). -/
  powered  : Bool
  stage    : Stage
  /-- The boot core has entered Safe. -/
  started  : Bool
  error    : Nat
  dies     : BitVec 4
  repairChg : Bool
  capped   : Bool
  trip     : Bool
  /-- Retire requests that await the host (R362): the row or array, and whether it is a silo row. -/
  retires  : List (Nat × Bool)
  /-- Silo rows that Calben has remapped to spare rows. -/
  remapped : List Nat
  /-- The on-package flash can be read (R361). -/
  flashOk  : Bool
  /-- The repair record in flash and the map in force, as lists of disabled units. -/
  repairRecord : List Nat
  repairMap    : List Nat
  pwrcap   : Nat
  grpbase  : Word
  pkgnum   : Nat
  /-- The words of SESSKEY written, and the key loaded (R369). -/
  keyWords : Vector Word 4
  key      : Option (Vector Word 4)
  escways  : Nat
  /-- Slice quotas: context and quota (R366). -/
  quotas   : List (Nat × Nat)
  hearths  : Vector Hearth 4
  links    : Vector Link 16
  /-- Corrected errors counted per row or array in this scrub cycle (R362). -/
  corrected : List (Nat × Nat)
  events   : List PkgEvent
  /-- The spans that Calben has set up: a partition's number, and its cores (R314). -/
  spans    : List (Nat × List Nat)
  /-- Packages to which no link path remains, as reported (R373). -/
  lost     : List Nat
  /-- Signatures the device key has made (R370). -/
  signed   : Nat
  deriving DecidableEq, Repr

/-- A place that holds translations (R345). -/
inductive TlbLevel where
  | core (core : Nat)
  | flock (flock : Nat)
  | die (die : Nat)
  /-- The upper entries of a die. -/
  | upper (die : Nat)
  deriving DecidableEq, Repr

/-- What the next step does, when the state says it. [log 4 DESIGN CHOICE] -/
inductive Move where
  /-- A core's next cycle (R15, R17). -/
  | cycle (core : Nat)
  /-- A step no instruction word encodes. -/
  | event (i : Instr)
  /-- A write to physical memory by a party outside the barrel cores (R99, R110): the Gaffer cluster, the host in its own
  memory, another package. `rel` says that it releases. -/
  | outside (place : Place) (bytes : List Host.Cell) (rel : Bool)
  /-- A TLB lets go of a translation that it holds, the `k`-th, or a die of an upper entry (R345, R346). -/
  | dropTranslation (level : TlbLevel) (k : Nat)
  /-- The line of a slot's watch is evicted from its core's L1 (R206). -/
  | evictWatched (core slot : Nat)
  /-- Calben sets a partition up on the cores of its span (R314). -/
  | span (part : Nat) (cores : List Nat)
  /-- Calben releases a signature of the device key (R370). -/
  | sign
  /-- The host's new signed repair record replaces the one in flash (R360). -/
  | repair (units : List Nat)
  /-- The on-package flash can be read from now on, or not (R361). -/
  | flash (ok : Bool)
  /-- The host answers a retire request for a row or array (R362). -/
  | answerRetire (row : Nat)
  deriving DecidableEq, Repr, Inhabited

/-- The whole machine. [log 2 DESIGN CHOICE] -/
structure State where
  /-- Memory as (address, byte) pairs, addresses strictly rising, no listed byte zero. -/
  mem    : List Host.Cell
  /-- Poisoned units: the first address of each (R181). -/
  poison : List Nat
  slots  : List (Nat × Slot)
  cores  : List (Nat × Core)
  flocks : List (Nat × Flock)
  bands  : List (Nat × Band)
  diesT  : List (Nat × Die)
  ctxs   : List (Nat × Ctx)
  jobs   : List Job
  /-- Requests in flight, oldest first. -/
  reqs   : List Req
  /-- Messages in flight, oldest first. -/
  msgs   : List Msg
  /-- Records posted to Calben, oldest first. -/
  records : List Record
  pkg    : Pkg
  order  : Order
  /-- The slot whose bundle is being issued by this step, if any. -/
  issuing : Option (Nat × Nat)
  /-- The moves that come next; when it is empty the next move is a free value (R105 and others leave it open). -/
  agenda : List Move
  /-- The model's own counter: it names requests, messages, dispatches and free values. -/
  tick   : Nat
  deriving DecidableEq, Repr

/-- Reasons for which the machine cannot go on. -/
inductive Fault where
  /-- Raised by the meaning of an instruction word in a state in which no slot is issuing a bundle. No step reaches it:
  the step function names the issuing slot before it calls the meaning. Safe. -/
  | noIssue
  deriving DecidableEq, Repr

/-- Reasons for which an instruction has no meaning here. -/
inductive Refusal where
  /-- Raised by an arm of the dispatch whose instruction is not modelled. Safe. -/
  | notModelled (mnemonic : String)
  deriving DecidableEq, Repr

/-! ## Reset -/

/-- The registers of an empty slot. [log 1 DESIGN CHOICE] -/
def Regs.reset : Regs :=
  { g := Vector.replicate 32 0, sh := Vector.replicate 4 0, p := Vector.replicate 8 false,
    b := Vector.replicate 64 0, pc := 0 }

/-- Table 6.8's reset values; RSEED and the descriptors are set at dispatch (R28). [log 1 DESIGN CHOICE] -/
def UserCtl.reset : UserCtl :=
  { fctl := 0, rseed := 1, fmtact := 0, fd := Vector.replicate 4 0x55, lhvec := 0, ulink := 0, ucause := 0, uivec := 0,
    xfrid := 0, uipend := 0, uimaskv := 0, waitlim := 0x100000000, aeeps := 0, aemaxr := 1024 }

/-- Tables 16.3 to 16.6. -/
def TrapRegs.reset : TrapRegs := { tcause := 0, tval := 0, tpc := 0, tstate := 0 }

/-- A slot that has held no task. [log 1 DESIGN CHOICE] -/
def TaskRec.reset : TaskRec :=
  { task := 0, faultWord := 0, frame := 0, entry := 0, fmtBlock := 0, args := Vector.replicate 5 0, serial := 0 }

/-- A slot after core reset: empty (R26). [log 1 DESIGN CHOICE] -/
def Slot.reset : Slot :=
  { occupied := false, ctx := 0, mode := .user, regs := Regs.reset, ctl := UserCtl.reset, trap := TrapRegs.reset,
    task := TaskRec.reset, handler := .none, q := Vector.replicate 8 none, pair := .unpaired, altLast := 7, sb := [],
    sbIn := 0, sbOut := 0, issue := none, stv := none, passed := none, wait := .none, await := .none, susp := .none, last := none, stall := none,
    ccq := [], switchReq := false, engineFaults := [], asyncEvents := [], replayValue := 0, replayFor := none, replaceCause := none, pfbuf := 0,
    dispatchFault := none, fmtPending := false }

/-- An unbound port (R35). -/
def Port.reset : Port :=
  { owner := none, far := 0, recv := false, auto := false, queue := [], granted := 0, allow := 0, stream := none,
    saved := false }

/-- An invalid predictor entry (R244). -/
def PredEntry.reset : PredEntry := { owner := none, valid := false, conf := 0, tag := 0, pred := 0 }

/-- No descriptor. -/
def FetchDesc.reset : FetchDesc := { base := 0, stride := 0, count := 0, site := 0 }

/-- A free parison buffer (R246). -/
def Parison.reset : Parison :=
  { state := .free, ctx := 0, key := 0, entry := 0, desc := FetchDesc.reset, index := 0, hit := false, got := [],
    arrived := false, slot := 0, part := 0, mode := .user, mark := 0, clock := [], paid := [], pages := [], fault := none }

/-- A bank no diversion has touched. -/
def BankCursor.reset : BankCursor := { cursor := 0, done := false, pending := [] }

/-- A diversion entry in state OFF (R319). -/
def Divert.reset : Divert :=
  { ctx := 0, mask := 0, base := 0, state := .off, banks := Vector.replicate 16 BankCursor.reset, port := 0, turn := 0 }

/-- An idle window (Table 20.4). [log 1 DESIGN CHOICE] -/
def Window.reset : Window := { cmd := 0, result := 0, op0 := 0, op1 := 0, value := 0, begun := none }

/-- A core after reset: no context resident, every slot and bank in partition 0 until Calben writes the masks (R313). [log 1 DESIGN CHOICE] -/
def Core.reset : Core :=
  { cycle := 0, spent := false, slotmask := 0, bankmask := 0, tvec := Vector.replicate 4 0, residents := [],
    ports := Vector.replicate 32 Port.reset, watches := [], predictor := Vector.replicate 64 PredEntry.reset,
    parison := Vector.replicate 8 Parison.reset, divert := Vector.replicate 8 Divert.reset, lehrQ := [], code := [], codeSeen := [], tlb := [],
    images := [], parked := [], window := Window.reset, served := Vector.replicate 4 0, copyLast := 0, longQ := [], blockFree := 0 }

/-- An accumulator after core reset (R218). -/
def Accum.reset : Accum := { vals := [], tag := .fp32, owner := none }

/-- A flock after reset, at the nominal clock of R2. [log 1 DESIGN CHOICE] -/
def Flock.reset : Flock :=
  { mxLast := 7, cpLast := 7, accs := [], l2 := [], l2Use := 0, tlb := [], buckets := [], portQ := [],
    portLast := Vector.replicate 8 0, clock := 2250 }

/-- A drover that has served no core. [log 1 DESIGN CHOICE] -/
def Band.reset : Band := { last := 71 }

/-- A die with no translation held. -/
def Die.reset : Die := { tlb := [], upper := [], gone := [] }

/-- A context's registers at the reset values of Table 6.10. -/
def Ctx.reset : Ctx :=
  { ptbase := 0, gptbase := 0, poolbase := 0, sessModel := 0, sessDigest := Vector.replicate 4 0, sessTenant := 0,
    kvtable := 0, escbase := 0, mcbase := 0, slices := [], freeing := [] }

/-- A bucket when its context becomes resident in the flock (Tables 17.7 to 17.10). -/
def Bucket.reset (ctx slice : Nat) : Bucket :=
  { ctx := ctx, slice := slice, rate := 8, depth := 32, count := 32, spRate := 2, spDepth := 8, spec := 8,
    waymask := 0xFFFF }

/-- A link after reset (Table 20.9): enabled, not yet trained. -/
def Link.reset : Link :=
  { enabled := true, up := false, training := false, down := false, peer := 0, peerLink := 0, crcfail := 0, retries := 0,
    retrains := 0, feccorr := 0, fecuncorr := 0, tries := 0 }

/-- A hearth window after reset. [log 1 DESIGN CHOICE] -/
def Hearth.reset : Hearth := { cmd := 0, result := 0, addr := 0, arg := 0, data := Vector.replicate 8 0 }

/-- The package before power-good (Tables 20.3, 20.7 and 20.8). [log 1 DESIGN CHOICE] -/
def Pkg.reset : Pkg :=
  { powered := false, stage := .safe, started := false, error := 0, dies := 0, repairChg := false, capped := false,
    trip := false, retires := [], remapped := [], flashOk := true, repairRecord := [], repairMap := [], pwrcap := 2400, grpbase := 0, pkgnum := 0,
    keyWords := Vector.replicate 4 0, key := none, escways := 0, quotas := [], hearths := Vector.replicate 4 Hearth.reset,
    links := Vector.replicate 16 Link.reset, corrected := [], events := [], spans := [], lost := [], signed := 0 }

/-- No write performed. -/
def Order.reset : Order := { count := 0, writes := [], knows := [], shown := [], ended := [], words := [] }

/-- The machine right after reset: nothing powered, nothing placed, nothing in flight. [log 1, 2, 3, 12 DESIGN CHOICE] -/
def State.reset : State :=
  { mem := [], poison := [], slots := [], cores := [], flocks := [], bands := [], diesT := [], ctxs := [], jobs := [],
    reqs := [], msgs := [], records := [], pkg := Pkg.reset, order := Order.reset,
    issuing := none, agenda := [], tick := 0 }

end Sys2Proof.Machine
end

