-- ==== Sys2Proof/Config.lean ====
section
/-! DEFINITION. What the spec leaves open: each is a constant with no body, so that no proof can see its value and a claim
holds whatever it is. Log entries 4 to 7 and 10 name them. -/

namespace Sys2Proof.Config

/-- The move that comes next when the agenda is empty: the spec bounds no latency and fixes no arbitration between units
(R44, R105), so the order of the package's steps is free. Log entry 4. -/
opaque freeMove : Nat → Machine.Move

/-- A word the spec leaves unspecified, by the counter of the state at which it is drawn. Log entry 5. -/
opaque freeWord : Nat → Word

/-- The L2 slice to which a 128-byte line of a flock's addresses maps, before reduction modulo 8: "not architectural"
(R333). Log entry 6. -/
opaque sliceOf : Nat → Nat

/-- The set of its slice in which a line is held, before reduction modulo 64 (R336 names no mapping). Log entry 6. -/
opaque setOf : Nat → Nat

/-- Corrected errors of one row or array in one scrub cycle that make a retire request (R362 names a threshold and not its
value). Log entry 7. -/
opaque scrubThreshold : Nat

/-- The silo row or SRAM array that holds a scrubbed unit, by a number (R362, R374 number arrays and give no numbering). Log
entry 10. -/
opaque rowOf : Nat → Nat

/-- The number of the SRAM array that holds a word of a core, as the record of its uncorrectable error and command 7 name it (R366, R374).
Log entry 10. -/
opaque arrayOf : Nat → Nat

/-- The number of a word of a core in its SRAM array, as they name it. Log entry 10. -/
opaque wordOf : Nat → Nat

/-- Word `word` of SRAM array `array` of hearth die `hearth` or of the compute die above it (R366): none when there is no such
word, else the scratchpad, parison or channel-queue word it holds, or none where the array holds nothing that a program reads. A word
to which `arrayOf` and `wordOf` give other numbers does not count. Log entry 10. -/
opaque arrayWord : (hearth array word : Nat) → Option (Option Nat)

end Sys2Proof.Config
end

