-- ==== Sys2Proof/Machine/Ops.lean ====
section
/-! DEFINITION. The named operations over the state: reading its tables and its memory, the updates a step may make, how
steps are put together from updates, and the numbering of the package (R3). A meaning is a function from the state to the
list of its updates; nothing else changes the state, so what an update keeps, every step keeps. -/

namespace Sys2Proof.Machine

/-! ## Tables -/

/-- The row of a key; a key that is not listed has row `d`. -/
def lookup {α : Type} (d : α) : List (Nat × α) → Nat → α
  | [], _ => d
  | (j, v) :: t, k => if k = j then v else lookup d t k

/-- A table with a row replaced. -/
def assign {α : Type} : List (Nat × α) → Nat → α → List (Nat × α)
  | [], k, v => [(k, v)]
  | (j, x) :: t, k, v => if k = j then (j, v) :: t else (j, x) :: assign t k v

/-! ## Memory -/

/-- The byte at an address; an unlisted address reads zero (log entry 3). [log 3 DESIGN CHOICE] -/
def memRead : List Host.Cell → Nat → Byte
  | [], _ => 0
  | (b, x) :: t, a => if a = b then x else memRead t a

/-- Memory with one byte written, in canonical form. -/
def memWrite : List Host.Cell → Nat → Byte → List Host.Cell
  | [], a, v => if v = 0 then [] else [(a, v)]
  | (b, x) :: t, a, v =>
    if a < b then (if v = 0 then (b, x) :: t else (a, v) :: (b, x) :: t)
    else if a = b then (if v = 0 then t else (a, v) :: t)
    else (b, x) :: memWrite t a v

/-- Memory with several bytes written, in order. -/
def memWriteAll (m : List Host.Cell) (cs : List Host.Cell) : List Host.Cell :=
  cs.foldl (fun m c => memWrite m c.1 c.2) m

/-- The canonical form: addresses strictly rising, no listed byte zero. [log 3 DESIGN CHOICE] -/
def Memory.wf : List Host.Cell → Bool
  | [] => true
  | [(_, v)] => v != 0
  | (a, v) :: (b, w) :: t => v != 0 && decide (a < b) && Memory.wf ((b, w) :: t)

/-- Bytes as cells from an address on. -/
def cellsAt : Nat → List Byte → List Host.Cell
  | _, [] => []
  | a, b :: t => (a, b) :: cellsAt (a + 1) t

/-! ## Numbering (R3) -/

/-- Global flock of a core. [log 84 DEDUCED] -/
def flockOf (core : Nat) : Nat := core / 8

/-- Compute die of a core. [log 84 DEDUCED] -/
def dieOf (core : Nat) : Nat := core / 576

/-- Global band of a core. [log 84 DEDUCED] -/
def bandOf (core : Nat) : Nat := dieOf core * 8 + core % 576 / 8 / 9

/-- Cores of a package. [log 84 DEDUCED] -/
def coreCount : Nat := 2304

/-! ## Keys of memory -/

/-- First address of the global scratchpad aperture (Table 4.1). -/
def apertureBase : Nat := 0x00F0000000000000

/-- The key of a target's first byte. Scratchpad bytes are keyed by their aperture address (R74), parison bytes by the
addresses after them, which the aperture never reaches (R74), and everything else by its physical address. -/
def keyOf : Target → Nat
  | .pad core off => apertureBase + core * 0x100000 + off
  | .parison core buf off => apertureBase + core * 0x100000 + 0x40000 + buf * 0x4000 + off
  | .phys pa _ => pa

/-- A target some bytes further on. -/
def targetPlus : Target → Nat → Target
  | .pad core off, k => .pad core (off + k)
  | .parison core buf off, k => .parison core buf (off + k)
  | .phys pa dev, k => .phys (pa + k) dev

/-- The first key of the poison unit that holds a key: a 64-byte silo line, or an 8-byte word of an SRAM (R181). -/
def poisonUnit (key : Nat) : Nat := if key < apertureBase then key / 64 * 64 else key / 8 * 8

/-! ## Reading the state -/

/-- A slot of a core. -/
def slotAt (s : State) (core slot : Nat) : Slot := lookup Slot.reset s.slots (core * 16 + slot)

/-- A core. -/
def coreAt (s : State) (core : Nat) : Core := lookup Core.reset s.cores core

/-- A flock. -/
def flockAt (s : State) (flock : Nat) : Flock := lookup Flock.reset s.flocks flock

/-- A band. -/
def bandAt (s : State) (band : Nat) : Band := lookup Band.reset s.bands band

/-- A die. -/
def dieAt (s : State) (die : Nat) : Die := lookup Die.reset s.diesT die

/-- A context. -/
def ctxAt (s : State) (ctx : Nat) : Ctx := lookup Ctx.reset s.ctxs ctx

/-- The newest write to a key among the requests in flight from a die (R89). -/
def inFlightByte (die key : Nat) : List Req → Option Byte → Option Byte
  | [], found => found
  | r :: t, found =>
    if dieOf r.core = die then
      match r.bytes.find? (fun c => c.1 == key) with
      | some c => inFlightByte die key t (some c.2)
      | none => inFlightByte die key t found
    else inFlightByte die key t found

/-- The byte a thread of a die reads at a key: the newest of its die's store order (R89). -/
def dieByte (s : State) (die key : Nat) : Byte := (inFlightByte die key s.reqs none).getD (memRead s.mem key)

/-- The bytes at keys `a` and up as performed at their homes. -/
def memBytes (s : State) (a : Nat) : Nat → List Byte
  | 0 => []
  | k + 1 => memRead s.mem a :: memBytes s (a + 1) k

/-- The bytes at keys `a` and up as the threads of a die see them. -/
def dieBytes (s : State) (die a : Nat) : Nat → List Byte
  | 0 => []
  | k + 1 => dieByte s die a :: dieBytes s die (a + 1) k

/-- Some byte of a range lies in a poisoned unit (R181). -/
def poisonedIn (s : State) (a : Nat) (n : Nat) : Bool :=
  (List.range n).any (fun k => s.poison.contains (poisonUnit (a + k)))

/-- A little-endian number at a key, as performed at its home. -/
def memNat (s : State) (a n : Nat) : Nat := leNat (memBytes s a n)

/-! ## Updates -/

/-- What a step may do to the state: each constructor replaces one row or one table. -/
inductive Upd where
  | mem (cells : List Host.Cell)
  | poison (units : List Nat)
  | slot (core slot : Nat) (v : Slot)
  | core (core : Nat) (v : Core)
  | flock (flock : Nat) (v : Flock)
  | band (band : Nat) (v : Band)
  | die (die : Nat) (v : Die)
  | ctx (ctx : Nat) (v : Ctx)
  | jobs (v : List Job)
  | reqs (v : List Req)
  | msgs (v : List Msg)
  | records (v : List Record)
  | pkg (v : Pkg)
  | order (v : Order)
  | issuing (v : Option (Nat × Nat))
  | agenda (v : List Move)
  | tick (v : Nat)
  deriving DecidableEq, Repr

/-- One update performed. -/
def applyUpd (s : State) : Upd → State
  | .mem cells => { s with mem := memWriteAll s.mem cells }
  | .poison units => { s with poison := units }
  | .slot core slot v => { s with slots := assign s.slots (core * 16 + slot) v }
  | .core core v => { s with cores := assign s.cores core v }
  | .flock flock v => { s with flocks := assign s.flocks flock v }
  | .band band v => { s with bands := assign s.bands band v }
  | .die die v => { s with diesT := assign s.diesT die v }
  | .ctx ctx v => { s with ctxs := assign s.ctxs ctx v }
  | .jobs v => { s with jobs := v }
  | .reqs v => { s with reqs := v }
  | .msgs v => { s with msgs := v }
  | .records v => { s with records := v }
  | .pkg v => { s with pkg := v }
  | .order v => { s with order := v }
  | .issuing v => { s with issuing := v }
  | .agenda v => { s with agenda := v }
  | .tick v => { s with tick := v }

/-- Updates performed in order. -/
def applyAll (s : State) (us : List Upd) : State := us.foldl applyUpd s

/-- A piece of a step: the updates it makes in a state. -/
abbrev Micro := State → List Upd

/-- Nothing. -/
def skip : Micro := fun _ => []

/-- One piece, then another in the state the first leaves. -/
def andThen (f g : Micro) : Micro := fun s => f s ++ g (applyAll s (f s))

/-- Several pieces, one after another. -/
def doAll : List Micro → Micro
  | [] => skip
  | f :: t => andThen f (doAll t)

/-- A piece for each element of a list, one after another. -/
def forAll {α : Type} (l : List α) (f : α → Micro) : Micro := doAll (l.map f)

/-- A piece chosen by looking at the state. -/
def ask (k : State → Micro) : Micro := fun s => k s s

/-- A piece only if a condition holds. [log 11 DESIGN CHOICE] -/
def onlyIf (c : Bool) (f : Micro) : Micro := if c then f else skip

/-- The outcome of a step that makes these updates. -/
def commit (s : State) (f : Micro) : Host.Outcome State Fault Refusal := .next (applyAll s (f s))

/-! ## Pieces that change one row -/

/-- A slot changed by a function of itself. -/
def modSlot (core slot : Nat) (f : Slot → Slot) : Micro := fun s => [.slot core slot (f (slotAt s core slot))]

/-- A core changed by a function of itself. -/
def modCore (core : Nat) (f : Core → Core) : Micro := fun s => [.core core (f (coreAt s core))]

/-- A flock changed by a function of itself. -/
def modFlock (flock : Nat) (f : Flock → Flock) : Micro := fun s => [.flock flock (f (flockAt s flock))]

/-- A band changed by a function of itself. -/
def modBand (band : Nat) (f : Band → Band) : Micro := fun s => [.band band (f (bandAt s band))]

/-- A die changed by a function of itself. -/
def modDie (die : Nat) (f : Die → Die) : Micro := fun s => [.die die (f (dieAt s die))]

/-- A context changed by a function of itself. -/
def modCtx (ctx : Nat) (f : Ctx → Ctx) : Micro := fun s => [.ctx ctx (f (ctxAt s ctx))]

/-- The package changed by a function of itself. -/
def modPkg (f : Pkg → Pkg) : Micro := fun s => [.pkg (f s.pkg)]

/-- The jobs changed by a function of themselves. -/
def modJobs (f : List Job → List Job) : Micro := fun s => [.jobs (f s.jobs)]

/-- Bytes written at keys `a` and up. -/
def putBytes (a : Nat) (bs : List Byte) : Micro := fun _ => [.mem (cellsAt a bs)]

/-- A number of `n` bytes written at a key. -/
def putNat (a n v : Nat) : Micro := putBytes a (leBytes n v)

/-- A record posted to Calben (R304). -/
def postRecord (r : Record) : Micro := fun s => [.records (s.records ++ [r])]

/-- The state's counter advanced. -/
def bump : Micro := fun s => [.tick (s.tick + 1)]

/-- An event posted to Calben or the host (R368). -/
def postEvent (e : PkgEvent) : Micro := modPkg (fun p => { p with events := p.events ++ [e] })

/-! ## General registers and predicates -/

/-- A general register as the slot's mode names it: g0 reads zero, and in S mode g28 to g31 are the shadows (R292). -/
def gRead (sl : Slot) (r : Fin 32) : Word :=
  if r.val = 0 then 0
  else if sl.mode = .supervisor ∧ 28 ≤ r.val then sl.regs.sh.toList.getD (r.val - 28) 0
  else sl.regs.g.get r

/-- A general register written: a write to g0 is discarded (R115), and in S mode g28 to g31 are the shadows (R292). -/
def gWrite (sl : Slot) (r : Fin 32) (v : Word) : Slot :=
  if r.val = 0 then sl
  else if sl.mode = .supervisor ∧ 28 ≤ r.val then
    { sl with regs := { sl.regs with sh := sl.regs.sh.set (r.val - 28) v (by omega) } }
  else { sl with regs := { sl.regs with g := sl.regs.g.set r.val v r.isLt } }

/-- A predicate; p0 reads true (R140). -/
def pRead (sl : Slot) (p : Fin 8) : Bool := if p.val = 0 then true else sl.regs.p.get p

/-- A predicate written; a write to p0 is discarded (R115). -/
def pWrite (sl : Slot) (p : Fin 8) (v : Bool) : Slot :=
  if p.val = 0 then sl else { sl with regs := { sl.regs with p := sl.regs.p.set p.val v p.isLt } }

/-- A guard: gp = 0 is no guard (R8, R134). -/
def guardHolds (sl : Slot) (gp : Fin 8) : Bool := pRead sl gp

/-! ## The slot's place -/

/-- The partition of a slot (Table 17.1). -/
def partOf (c : Core) (slot : Nat) : Nat := bitsNat c.slotmask (2 * slot + 1) (2 * slot)

/-- The partition of a bank (Table 17.2). -/
def bankPart (c : Core) (bank : Nat) : Nat := bitsNat c.bankmask (2 * bank + 1) (2 * bank)

/-- The resident row of a context on a core (R315). [log 9 DEDUCED] -/
def residentOf (c : Core) (ctx : Nat) : Option Resident := c.residents.find? (fun r => r.ctx == ctx)

/-! ## Built units and spans (R314, R359, R360) -/

/-- The number of a built core: its die, band, built flock and place in it. -/
def coreUnit (die band flock k : Nat) : Nat := ((die * 8 + band) * 10 + flock) * 9 + k
/-- The number of a drover. -/
def droverUnit (die band : Nat) : Nat := 2880 + die * 8 + band
/-- The number of a channel. -/
def channelUnit (silo k : Nat) : Nat := 2912 + silo * 136 + k

/-- The cores of a built flock that a map selects: 8 of those it enables (R360). [log 61 DESIGN CHOICE] -/
def mapCores (map : List Nat) (die band flock : Nat) : List Nat :=
  ((List.range 9).filter (fun k => !map.contains (coreUnit die band flock k))).take 8

/-- The built flocks of a band that a map selects: 9 of those with 8 cores. [log 61 DESIGN CHOICE] -/
def mapFlocks (map : List Nat) (die band : Nat) : List Nat :=
  ((List.range 10).filter (fun f => (mapCores map die band f).length == 8)).take 9

/-- The channels of a silo that a map selects: 128 of those it enables. -/
def mapChannels (map : List Nat) (silo : Nat) : List Nat :=
  ((List.range 136).filter (fun k => !map.contains (channelUnit silo k))).take 128

/-- A die can be repaired: nine flocks of eight cores, and a drover, in each band (R359). [log 84 DEDUCED] -/
def dieRepairable (map : List Nat) (die : Nat) : Bool := (List.range 8).all (fun band =>
  (mapFlocks map die band).length == 9 && !map.contains (droverUnit die band))

/-- The cores of the span that Calben has set a core's partition up on (R314). [log 9 DEDUCED] -/
def spanOf (s : State) (core part : Nat) : Option (List Nat) :=
  (s.pkg.spans.find? (fun x => x.1 == part && x.2.contains core)).map (fun x => x.2)

/-- Core `n` lies in the span of a partition of a core (R314): Calben has set the partition up there, and where it has named no span, the
context is resident in that partition on it (log entry 9). A core of a die that cannot be repaired has no number (R359). [log 9 DEDUCED] -/
def inSpan (s : State) (core part ctx n : Nat) : Bool :=
  n == core || (dieRepairable s.pkg.repairMap (dieOf n) &&
    (match spanOf s core part with
     | some l => l.contains n
     | none => (residentOf (coreAt s n) ctx).any (fun r => r.part == part)))

/-- A core's window changed. -/
def modWindow (core : Nat) (f : Window → Window) : Micro := modCore core (fun c => { c with window := f c.window })

/-- A resident row changed. -/
def modResident (core ctx : Nat) (f : Resident → Resident) : Micro :=
  modCore core (fun c => { c with residents := c.residents.map (fun r => if r.ctx = ctx then f r else r) })

/-- WHO of a slot (Table 6.9), also the identity of a record (Table 16.8). -/
def whoOf (s : State) (core slot : Nat) : Word :=
  word ((slotAt s core slot).ctx % 0x10000 * 0x100000000 + partOf (coreAt s core) slot * 0x10000 + slot % 16 * 0x1000 +
    core % 0x1000)

/-! ## Taking an exception and returning from it (R299–R301) -/

/-- HND of Tables 16.6 and 16.12. -/
def handlerCode : Handler → Nat
  | .none => 0
  | .light => 1
  | .user => 2

/-- The handler an HND code names. -/
def handlerOf : Nat → Handler
  | 1 => .light
  | 2 => .user
  | _ => .none

/-- The kind of a suspended wait (Table 16.11). -/
def suspKind : Suspended → Nat
  | .none => 0
  | .bar .. => 1
  | .halt => 2
  | .mxmab _ => 3
  | .mwait _ => 4
  | .replay => 5
  | .retire .. => 5

/-- The wait a suspended wait resumes as (Table 16.11); MWAIT ends with its code 2 instead. -/
def resumed : Suspended → Wait
  | .bar gen addr scope => .bar addr gen scope
  | .halt => .halt
  | .mxmab seq => .job seq
  | .replay => .replay
  | .retire failed escalate => .retiring failed escalate true
  | .mwait _ => .none
  | .none => .none

/-- Bits [55:2] of an address, in place. -/
def pcField (pc : Word) : Word := word (pc.toNat / 4 % 2 ^ 54 * 4)

/-- TCAUSE (Table 16.5). -/
def tcauseOf (async esc : Bool) (cause : Nat) : Word :=
  word ((if async then 0x8000 else 0) + (if esc then 0x4000 else 0) + cause % 256)

/-- TSTATE at an entry (Table 16.6): FAIL is 0. -/
def tstateOf (sl : Slot) : Word :=
  word (suspKind sl.susp * 16 + handlerCode sl.handler * 2 + (if sl.mode = .supervisor then 1 else 0))

/-- A slot that leaves its bundle: nothing in flight. -/
def Slot.quiet (sl : Slot) : Slot := 
  { sl with issue := none, wait := .none, await := .none, stall := none, passed := none }

/-- The event that a trap reports. -/
structure TrapEvent where
  /-- The faulting bundle, or the one that would have issued. -/
  pc    : Word
  async : Bool
  esc   : Bool
  cause : Nat
  value : Word
  /-- The access was a write, and the handle of the job that raised it, for the record posted in its place (R300, R304). -/
  write : Bool := false
  engine : Option Nat := none
  deriving DecidableEq, Repr

/-- A slot that has entered S mode at `entry` (R299). -/
def trapped (entry : Word) (e : TrapEvent) (sl : Slot) : Slot :=
  { sl.quiet with
    mode := .supervisor
    handler := .none
    trap := { tcause := tcauseOf e.async e.esc e.cause, tval := e.value, tpc := pcField e.pc, tstate := tstateOf sl }
    regs := { sl.regs with pc := entry } }

/-- TVEC of a slot's partition (R293). -/
def tvecOf (c : Core) (slot : Nat) : Word := c.tvec.toList.getD (partOf c slot) 0

/-- The flags of a record (Table 16.8): ASYNC, ESC, S-MODE, ENGINE, WRITE. -/
def recordFlags (async esc smode engine write : Bool) : BitVec 8 :=
  BitVec.ofNat 8 ((if async then 1 else 0) + (if esc then 2 else 0) + (if smode then 4 else 0) + (if engine then 8 else 0) +
    (if write then 16 else 0))

/-- A slot held at the machine level at an address (R300, R303). [log 53 DEDUCED] -/
def heldAt (pc : Word) (sl : Slot) : Slot := { sl.quiet with wait := .held, regs := { sl.regs with pc := pc } }

/-- Taking an exception into S mode: the one operation that every trap of every cause uses (R299). With TVEC zero the event
is posted as a record and the thread leaves rotation (R300). [log 19 and 53 DEDUCED] -/
def enterTrap (core slot : Nat) (e : TrapEvent) : Micro := ask (fun s =>
  let entry := tvecOf (coreAt s core) slot
  if entry = 0 then
    andThen
      (postRecord { cause := e.cause, flags := recordFlags e.async e.esc true e.engine.isSome e.write, wait := 0,
                    handle := e.engine.getD 0, value := e.value, pc := if e.engine.isSome then 0 else e.pc,
                    who := whoOf s core slot })
      (modSlot core slot (heldAt e.pc))
  else modSlot core slot (trapped entry e))

/-- The stall count of a wait that is taken up again: a BAR's counts from zero (R305). -/
def resumedStall (w : Wait) (now : Nat) (limit : Word) : Option Stall :=
  match w with
  | .bar .. => some { code := 5, start := now, limit := limit.toNat, posted := false }
  | _ => none

/-- A slot after TRET at a cycle (R301): the mode, the handler state and the suspended wait come back, and the next bundle is
TPC. A suspended MWAIT writes 2 to its register (Table 16.11). -/
def returned (now : Nat) (sl : Slot) : Slot :=
  let ts := sl.trap.tstate
  let s1 := { sl.quiet with
    mode := if bitAt ts 0 then .supervisor else .user
    handler := handlerOf (bitsNat ts 2 1)
    wait := resumed sl.susp
    stall := resumedStall (resumed sl.susp) now sl.ctl.waitlim
    susp := .none
    regs := { sl.regs with pc := sl.trap.tpc } }
  match sl.susp with
  | .mwait d => gWrite s1 d 2
  | _ => s1

end Sys2Proof.Machine
end

