-- ==== Sys2Proof/Machine/Order.lean ====
section
/-! DEFINITION. Who sees whose writes (R85–R98, R102, R107): scopes, what happens before what, and what a read may return. Memory
holds, for every location, the newest write of its coherence order; what a write replaced is kept beside it, and a read of a
party may return it unless the write happens before the read (R95), the party has seen it (R88), or both are threads of one die,
whose stores all its threads see at one moment (R89). -/

namespace Sys2Proof.Machine

/-! ## Parties and clocks -/

/-- How many writes of each party happen before a point. -/
abbrev Clock := List (Nat × Nat)

/-- The writes of one party. -/
def Clock.at (c : Clock) (p : Nat) : Nat := lookup 0 c p

/-- A clock that holds `n` writes of a party as well. -/
def Clock.raise (c : Clock) (p n : Nat) : Clock := if lookup 0 c p < n then assign c p n else c

/-- What either clock holds. -/
def Clock.join (a b : Clock) : Clock := b.foldl (fun c x => Clock.raise c x.1 x.2) a

/-- The party of a slot's thread, which stays with the thread: by the model's name of its dispatch. -/
def slotParty (s : State) (core slot : Nat) : Nat := 0x1000000 + (slotAt s core slot).task.serial * 2

/-- The party of a job, and of what it reads and writes (R100). -/
def jobParty (order : Nat) : Nat := 0x1000001 + order * 2

/-- The party of a place outside the barrel cores. -/
def placeParty (s : State) : Place → Nat
  | .slot core slot => slotParty s core slot
  | .gaffer => 0x10000
  | .host => 0x10001
  | .peer k => 0x10002 + k

/-- A party that has done nothing. -/
def Knows.none : Knows := { clock := [], wrote := 0, met := [], fences := [], reads := [] }

/-- What a party knows. -/
def knowsOf (s : State) (party : Nat) : Knows := lookup Knows.none s.order.knows party

/-- What either of two parties knows of others' writes. -/
def Knows.join (a b : Knows) : Knows :=
  { a with
    clock := Clock.join a.clock b.clock
    reads := b.reads.foldl (fun r x => assign r x.1 (max x.2 (lookup 0 r x.1))) a.reads }

/-- What a party knows changed by a function of itself. -/
def modKnows (party : Nat) (f : Knows → Knows) : Micro := fun s =>
  [.order { s.order with knows := assign s.order.knows party (f (knowsOf s party)) }]

/-! ## Scopes (R85–R87) -/

/-- The code of DIE, the widest scope inside which stores are visible at one moment (R89). -/
def scopeDie : Nat := 5

/-- The code of PKG. -/
def scopePkg : Nat := 6

/-- The code of SYSTEM. -/
def scopeSystem : Nat := 11

/-- The smallest scope, from CORE to PKG, that holds two cores (R86). -/
def scopeOf (a b : Nat) : Nat :=
  if a = b then 2 else if flockOf a = flockOf b then 3 else if bandOf a = bandOf b then 4
  else if dieOf a = dieOf b then scopeDie else scopePkg

/-- A package is in the GROUP scope of a context: by the mask of the group table, where the package's own bit counts for nothing
and GRPBASE zero names no package (R367). -/
def inGroup (s : State) (ctx package : Nat) : Bool :=
  s.pkg.grpbase != 0 && package != s.pkg.pkgnum &&
  bitAt (word (memNat s (s.pkg.grpbase.toNat + 128 * ctx + package / 8) 1)) (package % 8)

/-- A place lies in a scope around a slot (Table 5.1). `peer` is the package that a PEER access names by its location; any other
use of PEER is FABRIC (R87). -/
def placeIn (s : State) (scope : Nat) (peer : Option Nat) (core slot : Nat) (x : Place) : Bool :=
  match x with
  | .slot c k =>
    (match scope with
     | 0 => c == core && k == slot
     | 1 => c == core && (k == slot || ((slotAt s core slot).pair != .unpaired && k == (slot + 8) % 16))
     | n => decide (scopeOf c core ≤ n))
  | .gaffer => decide (scopePkg ≤ scope)
  | .host => scope == 7 || scope == scopeSystem
  | .peer p =>
    (match scope with
     | 8 => (match peer with
       | some q => p == q
       | none => true)
     | 9 => inGroup s (slotAt s core slot).ctx p
     | 10 => true
     | 11 => true
     | _ => false)

/-- The scope of a release holds a place (R94). -/
def Head.holds (s : State) (h : Head) (x : Place) : Bool :=
  match h.place with
  | .slot c k => placeIn s h.scope none c k x
  | _ => true

/-- A release and an acquire of a slot at a scope hold each other's parties (R94). -/
def syncs (s : State) (scope : Nat) (peer : Option Nat) (core slot : Nat) (h : Head) : Bool :=
  placeIn s scope peer core slot h.place && h.holds s (.slot core slot)

/-! ## Acquires -/

/-- What releases bring an acquire of a slot at a scope. -/
def acquired (s : State) (scope : Nat) (peer : Option Nat) (core slot : Nat) (heads : List Head) (c : Clock) : Clock :=
  (heads.filter (syncs s scope peer core slot)).foldl (fun c h => Clock.join c h.clock) c

/-- A slot acquires releases at a scope (R94). [log 58 DEDUCED] -/
def acquire (core slot scope : Nat) (peer : Option Nat) (heads : List Head) : Micro := ask (fun s =>
  modKnows (slotParty s core slot) (fun k => { k with clock := acquired s scope peer core slot heads k.clock }))

/-- A slot acquires what happens before a point (R41, R101, R103). -/
def acquireClock (core slot : Nat) (c : Clock) : Micro := ask (fun s =>
  modKnows (slotParty s core slot) (fun k => { k with clock := Clock.join k.clock c }))

/-- An ACQ fence of a slot: its earlier reads act as acquires at the fence's scope (R98). -/
def acquireMet (core slot scope : Nat) : Micro := ask (fun s =>
  acquire core slot scope none (knowsOf s (slotParty s core slot)).met)

/-! ## Writes -/

/-- Two ranges of keys overlap. -/
def overlaps (a n b m : Nat) : Bool := decide (a < b + m) && decide (b < a + n)

/-- What a slot's thread knows. -/
def threadKnows (s : State) (core slot : Nat) : Knows := knowsOf s (slotParty s core slot)

/-- What happens before the next access of a slot's thread, but its own writes. -/
def threadClock (s : State) (core slot : Nat) : Clock := (threadKnows s core slot).clock

/-- Writes that buffered stores will make: an STV's register makes two (R90). -/
def pendingWrites (sb : List StoreEntry) : Nat :=
  sb.foldl (fun n e => match e with
    | .store _ bs _ _ => n + (bs.length + 7) / 8
    | .fence .. => n) 0

/-- What a release of a slot's thread releases: all that happens before it, the stores that it has buffered included. -/
def releaseClock (s : State) (core slot : Nat) : Clock :=
  Clock.raise (threadClock s core slot) (slotParty s core slot)
    ((threadKnows s core slot).wrote + pendingWrites (slotAt s core slot).sb)

/-- A release of a slot's thread at a scope. -/
def releaseHead (s : State) (core slot scope : Nat) : Head :=
  { scope := scope, place := .slot core slot, party := slotParty s core slot, clock := releaseClock s core slot }

/-- The next write of a slot's thread, before which `clock` happened, and which releases at a scope if `rel` says so; after a REL
fence every write releases at the fence's scope too (R98). -/
def slotWriter (s : State) (core slot : Nat) (clock : Clock) (rel : Option Nat) (rmw : Bool) : Writer :=
  let p := slotParty s core slot
  let k := threadKnows s core slot
  let c := Clock.raise clock p (k.wrote + 1)
  { party := p, die := some (dieOf core), place := some (.slot core slot), n := k.wrote + 1, clock := c,
    heads := (match rel with
      | some scope => [{ scope := scope, place := .slot core slot, party := p, clock := c }]
      | none => []) ++ k.fences, rmw := rmw }

/-- A write of a party counted: its own later releases carry it. -/
def countWrite (w : Writer) : Micro := modKnows w.party (fun k =>
  { k with wrote := w.n, clock := Clock.raise k.clock w.party w.n })

/-- A REL fence of a slot leaves its buffer: its later writes release what happens before the fence (R98). -/
def fenceRelease (core slot scope : Nat) (clock : Clock) : Micro := ask (fun s =>
  modKnows (slotParty s core slot) (fun k =>
    { k with fences :=
        { scope := scope, place := .slot core slot, party := slotParty s core slot
          clock := Clock.raise clock (slotParty s core slot) k.wrote } ::
        k.fences.filter (fun h => h.scope != scope) }))

/-- A FULL fence of a slot makes the stores of its thread visible to the parties of its scope (R98). -/
def showWrites (core slot scope : Nat) : Micro := ask (fun s =>
  let p := slotParty s core slot
  let h : Head := { scope := scope, place := .slot core slot, party := p, clock := [(p, (threadKnows s core slot).wrote)] }
  fun s => [.order { s.order with
    shown := h :: s.order.shown.filter (fun x => !(x.scope == scope && x.place == h.place && x.party == p)) }])

/-- The next write of a job (R102). -/
def jobWriter (s : State) (order : Nat) : Writer :=
  let p := jobParty order
  let k := knowsOf s p
  { party := p, die := none, place := none, n := k.wrote + 1, clock := [(p, k.wrote + 1)], heads := [], rmw := false }

/-- The next write of a place outside the barrel cores: one that releases does so at SYSTEM (R99), as every write of a host does, whose
writes are performed in the order in which it makes them (R110). -/
def outsideWriter (s : State) (x : Place) (rel : Bool) : Writer :=
  let p := placeParty s x
  let k := knowsOf s p
  let clock := Clock.raise k.clock p (k.wrote + 1)
  { party := p, die := none, place := some x, n := k.wrote + 1, clock := clock,
    heads := if rel || x == .host then [{ scope := scopeSystem, place := x, party := p, clock := clock }] else [], rmw := false }

/-- The release sequences that a write goes on with, from the write it follows (R97): all of them for a read-modify-write, and
its own thread's for a plain write. -/
def carried (w : Writer) (before : Option PastWrite) : List Head :=
  match before with
  | none => []
  | some p => p.heads.filter (fun h => w.rmw || h.party == w.party)

/-- A write performed at a key takes its place in the coherence order; `was` is what it replaces. [log 58 DEDUCED] -/
def noteWrite (w : Writer) (key : Nat) (was : List Byte) : Micro := fun s =>
  let o := s.order
  let before := o.writes.find? (fun p => overlaps p.key p.was.length key was.length)
  [.order { o with
    count := o.count + 1
    writes := { stamp := o.count + 1, key := key, was := was, by_ := w, heads := w.heads ++ carried w before } ::
      o.writes }]

/-! ## Reads -/

/-- Who reads: a party, the die of a thread, where it stands, what happens before the read, what it has seen of each byte, and the
count of writes that stood when it could first have read. -/
structure Reader where
  party : Nat
  die   : Option Nat
  place : Option Place
  clock : Clock
  reads : List (Nat × Nat)
  since : Nat
  deriving DecidableEq, Repr

/-- A slot's thread as a reader. -/
def slotReader (s : State) (core slot : Nat) : Reader :=
  let k := threadKnows s core slot
  { party := slotParty s core slot, die := some (dieOf core), place := some (.slot core slot), clock := k.clock, reads := k.reads,
    since := 0 }

/-- A job of a core as a reader: it sees what its start released to it and its own writes (R100, R102). -/
def jobReader (core order : Nat) (clock : Clock) : Reader :=
  { party := jobParty order, die := none, place := some (.slot core 0), clock := clock, reads := [], since := 0 }

/-- A reader that misses nothing which has been performed. -/
def plainReader (s : State) : Reader :=
  { party := 0x10000, die := none, place := none, clock := [], reads := [], since := s.order.count }

/-- The location of a target's first byte for a party of a context: its key, where a scratchpad byte of each context is a location of
its own, in the bank or in the context's lehr image (R106). [log 58 DEDUCED] -/
def locOf (ctx : Nat) (t : Target) : Nat :=
  match t with
  | .pad .. => ctx * 2 ^ 64 + keyOf t
  | _ => keyOf t

/-- A write covers a byte. -/
def PastWrite.covers (w : PastWrite) (b : Nat) : Bool := decide (w.key ≤ b ∧ b < w.key + w.was.length)

/-- A reader has seen a write, or a newer one, at some byte of a range (R88). -/
def sawSince (r : Reader) (w : PastWrite) (loc n : Nat) : Bool :=
  (List.range n).any (fun i => w.covers (loc + i) && decide (w.stamp ≤ lookup 0 r.reads (loc + i)))

/-- A FULL fence has made a write visible to a reader (R98). [log 58 DEDUCED] -/
def shownTo (s : State) (r : Reader) (w : PastWrite) : Bool :=
  s.order.shown.any (fun h => h.party == w.by_.party && decide (w.by_.n ≤ Clock.at h.clock w.by_.party) &&
    (match r.place with
     | some x => h.holds s x
     | none => false))

/-- A write may not be missed by a read of a range. [log 58 DEDUCED] -/
def mustSee (s : State) (r : Reader) (w : PastWrite) (loc n : Nat) : Bool :=
  (r.die.isSome && w.by_.die == r.die) || w.by_.party == r.party || decide (w.by_.n ≤ Clock.at r.clock w.by_.party) ||
  sawSince r w loc n || decide (w.stamp ≤ r.since) || shownTo s r w

/-- The writes to a range, newest first. -/
def writesTo (s : State) (loc n : Nat) : List PastWrite :=
  s.order.writes.filter (fun w => overlaps w.key w.was.length loc n)

/-- Of some writes, newest first, those that a reader misses: each that it may miss and that `miss` picks, as long as it has read no
newer write of a byte of it; `seen` are the bytes of the range that it has read. [log 58 DEDUCED] -/
def pickMissed (miss : PastWrite → Bool) (loc n : Nat) : List PastWrite → List Nat → List PastWrite
  | [], _ => []
  | w :: t, seen =>
    let mine := (List.range n).filter (fun i => w.covers (loc + i))
    if miss w && mine.all (fun i => !seen.contains i) then w :: pickMissed miss loc n t seen
    else pickMissed miss loc n t (mine ++ seen)

/-- Bytes at a location as they stood before a write. -/
def before (w : PastWrite) (loc : Nat) (bs : List Byte) : List Byte :=
  (List.range bs.length).map (fun i => if w.covers (loc + i) then w.was.getD (loc + i - w.key) 0 else bs.getD i 0)

/-- Whether a read misses a write that it may miss: a free choice for each draw and each write. -/
def freeMiss (s : State) (choice : Nat) (w : PastWrite) : Bool :=
  bitAt (Config.freeWord ((s.tick * 2 ^ 160 + choice) * 2 ^ 64 + w.stamp)) 0

/-- The writes to a range that a reader misses (log entry 58). [log 5 DESIGN CHOICE, 58 DEDUCED] -/
def missed (s : State) (r : Reader) (loc n choice : Nat) : List PastWrite :=
  pickMissed (fun w => !mustSee s r w loc n && freeMiss s choice w) loc n (writesTo s loc n) []

/-- The writes that a read of a range takes its bytes from: for each byte the newest that it does not miss. [log 58 DEDUCED] -/
def readFrom (s : State) (miss : List PastWrite) (loc n : Nat) : List PastWrite :=
  ((List.range n).filterMap (fun i =>
    (writesTo s loc n).find? (fun w => w.covers (loc + i) && !(miss.any (fun m => m.stamp == w.stamp))))).eraseDups

/-- What a reader finds at a location, where the newest bytes are `now`: the bytes, and the writes it has read from. [log 58 DEDUCED] -/
def readAt (s : State) (r : Reader) (loc : Nat) (now : List Byte) (choice : Nat) : List Byte × List PastWrite :=
  let m := missed s r loc now.length choice
  (m.foldl (fun bs w => before w loc bs) now, readFrom s m loc now.length)

/-! ## Writes on their way -/

/-- A write that has left its party and has not been performed. -/
structure Flight where
  cells : List Host.Cell
  by_   : Writer
  deriving DecidableEq, Repr

/-- A diverted write on a core's route, at the location that it addressed. -/
def LehrOp.flight : LehrOp → Option Flight
  | .write bs (some (loc, w)) => some { cells := cellsAt loc (bs.map (fun c => c.2)), by_ := w }
  | _ => none

/-- The writes on their way, for each location oldest first: those on a route to a lehr image have left their cores before those that
have still to come to it. -/
def flights (s : State) : List Flight :=
  s.cores.flatMap (fun x => x.2.lehrQ.filterMap LehrOp.flight) ++ s.reqs.map (fun r => { cells := r.bytes, by_ := r.by_ })

/-- A write on its way that a reader on a die reads already: its die's (R89), or its own. -/
def Flight.seenBy (f : Flight) (r : Reader) (die : Nat) : Bool := f.by_.die == some die || f.by_.party == r.party

/-- The newest write on its way that a reader reads at a byte. -/
def flightOf (s : State) (r : Reader) (die b : Nat) : Option Flight :=
  ((flights s).filter (fun f => f.seenBy r die && f.cells.any (fun c => c.1 == b))).getLast?

/-- The byte of a write on its way. -/
def Flight.byteAt (f : Flight) (b : Nat) : Option Byte := (f.cells.find? (fun c => c.1 == b)).map (fun c => c.2)

/-- Bytes at a location, where the writes on their way that a reader reads already stand over them (R89). -/
def overlay (s : State) (r : Reader) (die loc : Nat) (bs : List Byte) : List Byte :=
  (List.range bs.length).map (fun i => ((flightOf s r die (loc + i)).bind (fun f => f.byteAt (loc + i))).getD (bs.getD i 0))

/-- What a read has found: its bytes, the performed writes and the writes on their way that they come from. -/
structure Found where
  bytes : List Byte
  froms : List PastWrite
  ways  : List Writer
  deriving DecidableEq, Repr

/-- Bytes that come from no write. -/
def Found.plain (bs : List Byte) : Found := { bytes := bs, froms := [], ways := [] }

/-- What two reads have found, one after another. -/
def Found.append (a b : Found) : Found := { bytes := a.bytes ++ b.bytes, froms := a.froms ++ b.froms, ways := a.ways ++ b.ways }

/-- The releases that a read has met. -/
def Found.heads (f : Found) : List Head := f.froms.flatMap (fun w => w.heads)

/-- What a reader finds at a location, where `now` has been performed: the newest writes of its die, and elsewhere what has been
performed, as far as it does not miss it. -/
def lookAt (s : State) (r : Reader) (die loc : Nat) (now : List Byte) (choice : Nat) : Found :=
  let x := readAt s r loc now choice
  { bytes := overlay s r die loc x.1
    froms := x.2
    ways := ((List.range now.length).filterMap (fun i => (flightOf s r die (loc + i)).map (fun f => f.by_))).eraseDups }

/-- The bytes that a reader finds. -/
def viewOf (s : State) (r : Reader) (die loc : Nat) (now : List Byte) (choice : Nat) : List Byte :=
  overlay s r die loc (readAt s r loc now choice).1

/-- What a reader finds in memory. [log 22 and 58 DEDUCED] -/
def viewBytes (s : State) (r : Reader) (die key n choice : Nat) : List Byte := viewOf s r die key (memBytes s key n) choice

/-- A write read at a range: what it brings to what a thread knows (R88, R94). -/
def Knows.saw (die loc n : Nat) (k : Knows) (w : PastWrite) : Knows :=
  { k with
    clock := if w.by_.die = some die then Clock.join k.clock w.by_.clock else k.clock
    met := w.heads ++ k.met.filter (fun h => !w.heads.contains h)
    reads := ((List.range n).filter (fun i => w.covers (loc + i))).foldl (fun rs i =>
      assign rs (loc + i) (max w.stamp (lookup 0 rs (loc + i)))) k.reads }

/-- A slot has read from writes: a store of its die orders what came before it (R94), releases are met, and no older write is read
from then on (R88). [log 58 DEDUCED] -/
def sawWrites (core slot loc n : Nat) (ws : List PastWrite) : Micro := ask (fun s =>
  modKnows (slotParty s core slot) (fun k => ws.foldl (Knows.saw (dieOf core) loc n) k))

/-- A thread has read the words at some addresses, each by the choice that its address names (R347). [log 58 DEDUCED] -/
def sawWords (r : Reader) (addrs : List Nat) : Micro := ask (fun s =>
  match r.die with
  | some die => forAll addrs (fun a => modKnows r.party (fun k =>
      ((readAt s r a (memBytes s a 8) a).2).foldl (Knows.saw die a 8) k))
  | none => skip)

/-- A slot has read at a location: what it has found there brings it, from writes on their way too, what came before them (R94). -/
def sawFound (core slot loc n : Nat) (f : Found) : Micro := andThen (sawWrites core slot loc n f.froms)
  (forAll f.ways (fun w => acquireClock core slot w.clock))

/-- A slot sees the writes of a party to a core's scratchpad, up to a number, whatever else it knows (R104). -/
def sawPad (core slot party n pad : Nat) : Micro := ask (fun s =>
  let mine := s.order.writes.filter (fun w => w.by_.party == party && decide (w.by_.n ≤ n) &&
    overlaps w.key w.was.length (locOf (slotAt s core slot).ctx (.pad pad 0)) 0x40000)
  modKnows (slotParty s core slot) (fun k =>
    { k with reads := mine.foldl (fun r w => (List.range w.was.length).foldl (fun r i =>
        assign r (w.key + i) (max w.stamp (lookup 0 r (w.key + i)))) r) k.reads }))

/-! ## Watches (R205, R206) -/

/-- The event a write gives a watch: 0 for its word, 2 for another word of its line. [log 57 DEDUCED] -/
def watchEvent (w : Watch) (key n : Nat) : Option Nat :=
  let k := keyOf w.tgt
  if overlaps key n k 8 then some 0
  else if overlaps (key / 64 * 64) ((key + n - 1) / 64 * 64 + 64 - key / 64 * 64) k 8 then some 2
  else none

/-- A watch after an event; the lowest code stands. -/
def Watch.note (w : Watch) (e : Nat) : Watch :=
  if w.stolen then w else { w with event := some (match w.event with
    | none => e
    | some f => min e f) }

/-- A watch after a write. [log 16 and 57 DEDUCED] -/
def watchTouched (key n : Nat) (w : Watch) : Watch :=
  match watchEvent w key n with
  | some e => w.note e
  | none => w

/-- The watches of the cores that `here` picks after a write. -/
def touchWatches (here : Nat → Bool) (key n : Nat) : Micro := ask (fun s =>
  forAll (s.cores.filter (fun x => here x.1 && !x.2.watches.isEmpty)) (fun x =>
    modCore x.1 (fun c => { c with watches := c.watches.map (watchTouched key n) })))

/-- The watches of every core. -/
def touchAll (key n : Nat) : Micro := touchWatches (fun _ => true) key n

/-! ## Writes at home -/

/-- A write of a party performed in memory at its home, as one step: its bytes, its place in the coherence order, and what watches
see of it. [log 22 DEDUCED] -/
def writeHome (w : Writer) (key : Nat) (bs : List Byte) : Micro := ask (fun s => doAll [
  noteWrite w key (memBytes s key bs.length),
  putBytes key bs,
  touchAll key bs.length])

/-- The next write of a unit that acts for no thread: it releases nothing. -/
def unitWriter (s : State) (party : Nat) (rmw : Bool) : Writer :=
  let k := knowsOf s party
  { party := party, die := none, place := none, n := k.wrote + 1, clock := [(party, k.wrote + 1)], heads := [], rmw := rmw }

/-- The party of a die's walkers, in what they write to page-table entries (R348). -/
def walkerParty (die : Nat) : Nat := 0x20000 + die

/-- The party of a core's own writes, of spilled packets, context images and channel images. -/
def coreParty (core : Nat) : Nat := 0x30000 + core

/-- The party that pushes the frames of decommitted pages (R350). -/
def poolParty : Nat := 0x50000

/-- What a unit has done up to now, as one that acquires from it takes it. -/
def unitClock (s : State) (party : Nat) : Clock := [(party, (knowsOf s party).wrote)]

/-- Memory freed and given out afresh: what was written there before can be read no more (R84). -/
def forget (key n : Nat) : Micro := fun s =>
  [.order { s.order with writes := s.order.writes.filter (fun w => !overlaps w.key w.was.length key n) }]

/-- The next write of a core's own, which its die sees at once. -/
def coreWriter (s : State) (core : Nat) : Writer := { unitWriter s (coreParty core) false with die := some (dieOf core) }

/-- A core's own write of memory. -/
def coreWrite (core key : Nat) (bs : List Byte) : Micro := ask (fun s =>
  let w := coreWriter s core
  andThen (countWrite w) (writeHome w key bs))

end Sys2Proof.Machine
end

