-- ==== Sys2Proof/Machine/Operands.lean ====
section
/-! DEFINITION. Every operand form: immediates and displacements (R116), block operands and the grid (R11, R129), and the
registers a word will write (R6). Registers and guards stand in Ops.lean. -/

namespace Sys2Proof.Machine

/-! ## Immediates and displacements (R116) -/

/-- A signed 14-bit immediate. -/
def imm14 (i : BitVec 14) : Word := i.signExtend 64

/-- A CM offset, scaled by the access size. -/
def off8 (o : BitVec 8) (scale : Nat) : Word := o.signExtend 64 * word scale

/-- A CV offset, scaled by 16. -/
def off5 (o : BitVec 5) : Word := o.signExtend 64 * 16

/-- A branch displacement in bytes. -/
def disp20 (d : BitVec 20) : Word := d.signExtend 64 * 4

/-- A jump displacement in bytes. -/
def disp19 (d : BitVec 19) : Word := d.signExtend 64 * 4

/-! ## Block operands -/

/-- Rows of an operand from its field. -/
def rows (h : Fin 4) : Nat := h.val + 1

/-- Columns of an operand from its field. -/
def cols (w : Fin 16) : Nat := w.val + 1

/-- An operand of an extent lies inside the grid (R129). -/
def inGrid (v : Fin 64) (h w : Nat) : Bool := decide (v.val / 16 + h ≤ 4) && decide (v.val % 16 + w ≤ 16)

/-- The number of a register in the grid. -/
def gridReg (row col : Nat) : Fin 64 := Fin.ofNat 64 (row * 16 + col)

/-- The registers of an operand, in row-major order (R11). -/
def blockRegs (v : Fin 64) (h w : Nat) : List (Fin 64) :=
  (List.range h).flatMap (fun i => (List.range w).map (fun j => gridReg (v.val / 16 + i) (v.val % 16 + j)))

/-- A block register. -/
def bRead (sl : Slot) (b : Fin 64) : Quad := sl.regs.b.get b

/-- A block register written. -/
def bWrite (sl : Slot) (b : Fin 64) (v : Quad) : Slot :=
  { sl with regs := { sl.regs with b := sl.regs.b.set b.val v b.isLt } }

/-- The contents of an operand, in row-major order. -/
def blockRead (sl : Slot) (v : Fin 64) (h w : Nat) : List Quad := (blockRegs v h w).map (bRead sl)

/-! ## What a word writes -/

/-- Nothing written. -/
def AEffect.nothing : AEffect := { g := [], p := [], b := [], flags := 0, rseed := none }

/-- One general register. -/
def AEffect.ofG (d : Fin 32) (v : Word) : AEffect := { AEffect.nothing with g := [(d, v)] }

/-- One predicate. -/
def AEffect.ofP (d : Fin 8) (v : Bool) : AEffect := { AEffect.nothing with p := [(d, v)] }

/-- Block registers. -/
def AEffect.ofB (bs : List (Fin 64 × Quad)) : AEffect := { AEffect.nothing with b := bs }

/-- The flags of an FCTL value, NX lowest (Table 3.8). -/
def orFlags (fctl : Word) (f : BitVec 5) : Word := fctl ||| (f.zeroExtend 64 <<< 8)

/-- A word's writes made (R6, R156). -/
def applyEffect (sl : Slot) (e : AEffect) : Slot :=
  let s1 := e.g.foldl (fun s x => gWrite s x.1 x.2) sl
  let s2 := e.p.foldl (fun s x => pWrite s x.1 x.2) s1
  let s3 := e.b.foldl (fun s x => bWrite s x.1 x.2) s2
  { s3 with ctl := { s3.ctl with
      fctl := orFlags s3.ctl.fctl e.flags
      rseed := e.rseed.getD s3.ctl.rseed } }

/-! ## What a slot's words run under -/

/-- The rounding mode of a slot (Table 3.8). -/
def modeOf (sl : Slot) : Nat := bitsNat sl.ctl.fctl 2 0

/-- The descriptor that FMTACT selects, or the one after it (R158, R220). -/
def descriptorAt (sl : Slot) (k : Nat) : Word := sl.ctl.fd.toList.getD ((bitsNat sl.ctl.fmtact 1 0 + k) % 4) 0

end Sys2Proof.Machine
end

