-- ==== Sys2Proof/Machine/Scalar.lean ====
section
/-! DEFINITION. What the integer, immediate, bit-field, compare and predicate words write (R134–R140, R69): one definition per
instruction, over shared forms. An A word's effect is a function of its slot alone, so the same definition serves the lone
word and the word of a pair (R6). -/

namespace Sys2Proof.Machine

/-- When an A word's effect is in place (R134, R135, R163). -/
inductive AKind where
  | now
  /-- The long-operation unit. -/
  | long
  /-- The block unit for so many cycles (Table 8.2). -/
  | block (occ : Nat)
  deriving DecidableEq, Repr

/-- What an A word does: its writes and when they are in place. -/
structure AOut where
  eff  : AEffect
  kind : AKind
  deriving DecidableEq, Repr

/-- The effect of an A word, or the cause of its fault. -/
abbrev ARes := Except Nat AOut

/-- Writes in place at once. -/
def aNow (e : AEffect) : ARes := .ok { eff := e, kind := .now }

/-- A word under a guard (R134): guarded off it writes nothing, takes no unit and raises no fault of class 4. -/
def guarded (gp : Fin 8) (sl : Slot) (r : ARes) : ARes := if guardHolds sl gp then r else aNow AEffect.nothing

/-- d := f a b, under a guard. -/
def intOp (f : Word → Word → Word) (d a b : Fin 32) (gp : Fin 8) (sl : Slot) : ARes :=
  guarded gp sl (aNow (.ofG d (f (gRead sl a) (gRead sl b))))

/-- d := f a, under a guard. -/
def intOp1 (f : Word → Word) (d a : Fin 32) (gp : Fin 8) (sl : Slot) : ARes :=
  guarded gp sl (aNow (.ofG d (f (gRead sl a))))

/-- d := f a b on the long-operation unit, under a guard. -/
def longOp (f : Word → Word → Word) (d a b : Fin 32) (gp : Fin 8) (sl : Slot) : ARes :=
  guarded gp sl (.ok { eff := .ofG d (f (gRead sl a) (gRead sl b)), kind := .long })

/-- d := f a imm. -/
def immOp (f : Word → Word → Word) (d a : Fin 32) (v : Word) (sl : Slot) : ARes := aNow (.ofG d (f (gRead sl a) v))

/-- p(d) := f a b, under a guard (R139). -/
def cmpOp (f : Word → Word → Bool) (d : Fin 8) (a b : Fin 32) (gp : Fin 8) (sl : Slot) : ARes :=
  guarded gp sl (aNow (.ofP d (f (gRead sl a) (gRead sl b))))

/-- p(d) := f a imm. -/
def cmpImm (f : Word → Word → Bool) (d : Fin 8) (a : Fin 32) (v : Word) (sl : Slot) : ARes :=
  aNow (.ofP d (f (gRead sl a) v))

/-- p(d) := f pA pB, under a guard (R140). -/
def predOp (f : Bool → Bool → Bool) (d a b gp : Fin 8) (sl : Slot) : ARes :=
  guarded gp sl (aNow (.ofP d (f (pRead sl a) (pRead sl b))))

/-! ## The functions of Table 7.2 -/

/-- A shift amount: the low six bits (R136). -/
def amount (b : Word) : Nat := b.toNat % 64

/-- The high half of the signed product. -/
def mulHigh (a b : Word) : Word := BitVec.ofInt 64 (a.toInt * b.toInt / (2 ^ 64 : Nat))

/-- The high half of the unsigned product. -/
def mulHighU (a b : Word) : Word := word (a.toNat * b.toNat / 2 ^ 64)

/-- Signed quotient toward zero; all ones for b = 0, and MIN ÷ −1 is MIN (Table 3.12). -/
def divS (a b : Word) : Word := if b = 0 then BitVec.allOnes 64 else BitVec.ofInt 64 (a.toInt.tdiv b.toInt)

/-- Unsigned quotient; all ones for b = 0. -/
def divU (a b : Word) : Word := if b = 0 then BitVec.allOnes 64 else word (a.toNat / b.toNat)

/-- Signed remainder with the sign of the dividend; a for b = 0. -/
def remS (a b : Word) : Word := if b = 0 then a else BitVec.ofInt 64 (a.toInt.tmod b.toInt)

/-- Unsigned remainder; a for b = 0. -/
def remU (a b : Word) : Word := if b = 0 then a else word (a.toNat % b.toNat)

/-- Signed minimum. -/
def minS (a b : Word) : Word := if a.toInt ≤ b.toInt then a else b
/-- Signed maximum. -/
def maxS (a b : Word) : Word := if a.toInt ≤ b.toInt then b else a
/-- Unsigned minimum. -/
def minU (a b : Word) : Word := if a.toNat ≤ b.toNat then a else b
/-- Unsigned maximum. -/
def maxU (a b : Word) : Word := if a.toNat ≤ b.toNat then b else a

/-- Leading zero bits; 64 for zero. -/
def leadingZeros (a : Word) : Word := if a = 0 then 64 else word (63 - Nat.log2 a.toNat)

/-- Trailing zero bits among `k`, from bit 0 up. -/
def trailing : Nat → Nat → Nat
  | 0, _ => 0
  | k + 1, v => if v % 2 = 1 then 0 else 1 + trailing k (v / 2)

/-- Trailing zero bits; 64 for zero. -/
def trailingZeros (a : Word) : Word := word (trailing 64 a.toNat)

/-- One bits. -/
def oneBits (a : Word) : Word := word (popcount 64 a.toNat)

/-- (a << n) + b. -/
def addShifted (n : Nat) (a b : Word) : Word := a <<< n + b

/-! ## Major 0x00 -/

/-- ADD (R136). -/
def effAdd := intOp (fun a b => a + b)
/-- SUB (R136). -/
def effSub := intOp (fun a b => a - b)
/-- AND (R136). -/
def effAnd := intOp (fun a b => a &&& b)
/-- OR (R136). -/
def effOr := intOp (fun a b => a ||| b)
/-- XOR (R136). -/
def effXor := intOp (fun a b => a ^^^ b)
/-- ANDN (R136). -/
def effAndn := intOp (fun a b => a &&& ~~~b)
/-- SHL (R136). -/
def effShl := intOp (fun a b => a <<< amount b)
/-- SHR (R136). -/
def effShr := intOp (fun a b => a >>> amount b)
/-- SAR (R136). -/
def effSar := intOp (fun a b => a.sshiftRight (amount b))
/-- MUL (R136). -/
def effMul := intOp (fun a b => a * b)
/-- MULH (R136). -/
def effMulh := intOp mulHigh
/-- MULHU (R136). -/
def effMulhu := intOp mulHighU
/-- DIV (R135, R136). -/
def effDiv := longOp divS
/-- DIVU (R135, R136). -/
def effDivu := longOp divU
/-- REM (R135, R136). -/
def effRem := longOp remS
/-- REMU (R135, R136). -/
def effRemu := longOp remU
/-- MIN (R136). -/
def effMin := intOp minS
/-- MAX (R136). -/
def effMax := intOp maxS
/-- MINU (R136). -/
def effMinu := intOp minU
/-- MAXU (R136). -/
def effMaxu := intOp maxU
/-- CLZ (R136). -/
def effClz := intOp1 leadingZeros
/-- CTZ (R136). -/
def effCtz := intOp1 trailingZeros
/-- POPC (R136). -/
def effPopc := intOp1 oneBits
/-- SEL (R118): gp is its selector and no guard. -/
def effSel (d a b : Fin 32) (p : Fin 8) (sl : Slot) : ARes :=
  aNow (.ofG d (if pRead sl p then gRead sl a else gRead sl b))
/-- ADDSL1 (R136). -/
def effAddsl1 := intOp (addShifted 1)
/-- ADDSL2 (R136). -/
def effAddsl2 := intOp (addShifted 2)
/-- ADDSL3 (R136). -/
def effAddsl3 := intOp (addShifted 3)
/-- ADDSL4 (R136). -/
def effAddsl4 := intOp (addShifted 4)

/-! ## Major 0x01 -/

/-- CMPEQ (R139). -/
def effCmpeq := cmpOp (fun a b => a == b)
/-- CMPNE (R139). -/
def effCmpne := cmpOp (fun a b => a != b)
/-- CMPLT (R139). -/
def effCmplt := cmpOp (fun a b => decide (a.toInt < b.toInt))
/-- CMPLE (R139). -/
def effCmple := cmpOp (fun a b => decide (a.toInt ≤ b.toInt))
/-- CMPLTU (R139). -/
def effCmpltu := cmpOp (fun a b => decide (a.toNat < b.toNat))
/-- CMPLEU (R139). -/
def effCmpleu := cmpOp (fun a b => decide (a.toNat ≤ b.toNat))
/-- PAND (R140). -/
def effPand := predOp (fun a b => a && b)
/-- POR (R140). -/
def effPor := predOp (fun a b => a || b)
/-- PXOR (R140). -/
def effPxor := predOp (fun a b => a != b)
/-- PANDN (R140). -/
def effPandn := predOp (fun a b => a && !b)

/-! ## Majors 0x02 to 0x0F -/

/-- ADDI (R137). -/
def effAddi (d a : Fin 32) (i : BitVec 14) := immOp (fun a b => a + b) d a (imm14 i)
/-- ANDI (R137). -/
def effAndi (d a : Fin 32) (i : BitVec 14) := immOp (fun a b => a &&& b) d a (imm14 i)
/-- ORI (R137). -/
def effOri (d a : Fin 32) (i : BitVec 14) := immOp (fun a b => a ||| b) d a (imm14 i)
/-- XORI (R137). -/
def effXori (d a : Fin 32) (i : BitVec 14) := immOp (fun a b => a ^^^ b) d a (imm14 i)
/-- SHLI (R137). -/
def effShli (d a : Fin 32) (n : Fin 64) := immOp (fun a b => a <<< amount b) d a (word n.val)
/-- SHRI (R137). -/
def effShri (d a : Fin 32) (n : Fin 64) := immOp (fun a b => a >>> amount b) d a (word n.val)
/-- SARI (R137). -/
def effSari (d a : Fin 32) (n : Fin 64) := immOp (fun a b => a.sshiftRight (amount b)) d a (word n.val)
/-- LI (R137). -/
def effLi (d : Fin 32) (i : BitVec 14) (_ : Slot) : ARes := aNow (.ofG d (imm14 i))
/-- LIS (R137): the immediate is zero-extended. -/
def effLis (d a : Fin 32) (i : BitVec 14) := immOp (fun a b => a <<< 14 ||| b) d a (i.zeroExtend 64)
/-- CMPEQI (R137). -/
def effCmpeqi (d : Fin 8) (a : Fin 32) (i : BitVec 14) := cmpImm (fun a b => a == b) d a (imm14 i)
/-- CMPLTI (R137). -/
def effCmplti (d : Fin 8) (a : Fin 32) (i : BitVec 14) := cmpImm (fun a b => decide (a.toInt < b.toInt)) d a (imm14 i)
/-- CMPLTUI (R137): the immediate is sign-extended, then both are unsigned. -/
def effCmpltui (d : Fin 8) (a : Fin 32) (i : BitVec 14) :=
  cmpImm (fun a b => decide (a.toNat < b.toNat)) d a (imm14 i)

/-- The mask of R138: `len` ones at `pos`, cut to a word. -/
def fieldMask (len pos : Nat) : Word := word ((2 ^ len - 1) * 2 ^ pos)

/-- BFX (R138). -/
def effBfx (d a : Fin 32) (l p : Fin 64) (sl : Slot) : ARes :=
  if 64 < p.val + (l.val + 1) then .error 0x04
  else aNow (.ofG d ((gRead sl a &&& fieldMask (l.val + 1) p.val) >>> p.val))

/-- BFI (R138): reads d as well as a. -/
def effBfi (d a : Fin 32) (l p : Fin 64) (sl : Slot) : ARes :=
  if 64 < p.val + (l.val + 1) then .error 0x04
  else
    let m := fieldMask (l.val + 1) p.val
    aNow (.ofG d ((gRead sl d &&& ~~~m) ||| ((gRead sl a <<< p.val) &&& m)))

end Sys2Proof.Machine
end

