-- ==== Sys2Proof/Machine/Float.lean ====
section
/-! DEFINITION. What the scalar floating-point words write (R141–R146). The precision bit selects FP64 (0) or FP32 (1); an
FP32 operand is the low half of its register, and an FP32 result clears the high half. -/

namespace Sys2Proof.Machine

/-- The format of a precision bit (R141). -/
def precision (z : Bool) : Elem := if z then .fp32 else .fp64

/-- An operand's value. -/
def fpVal (z : Bool) (x : Word) : Val := floatVal (precision z) (if z then x.toNat % 2 ^ 32 else x.toNat)

/-- The 16 bits a result takes in RSR from the slot's RSEED, and the RSEED after them (R141). -/
def slotDraw (sl : Slot) : Nat × Option Word :=
  if modeOf sl = 5 then
    let (b, s) := draw (sl.ctl.rseed.toNat % 2 ^ 32)
    (b, some (word s))
  else (0, none)

/-- A rounded result in d with its flags. -/
def fpResult (z : Bool) (d : Fin 32) (p : Pre) (sl : Slot) : AEffect :=
  let (rnd, seed) := slotDraw sl
  let r := p.finish (precision z) false (modeOf sl) rnd
  { g := [(d, word r.bits)], p := [], b := [], flags := r.flags, rseed := seed }

/-- A two-operand form. -/
def fpOp (f : Nat → Nat → Val → Val → Pre) (d a b : Fin 32) (z : Bool) (gp : Fin 8) (core : Nat) (sl : Slot) : ARes :=
  guarded gp sl (aNow (fpResult z d (f core (modeOf sl) (fpVal z (gRead sl a)) (fpVal z (gRead sl b))) sl))

/-- FADD (R142). -/
def effFadd := fpOp addPre
/-- FSUB (R142). -/
def effFsub := fpOp subPre
/-- FMUL (R142). -/
def effFmul := fpOp (fun core _ a b => mulPre core a b)

/-- FDIV (R142), on the long-operation unit. -/
def effFdiv (d a b : Fin 32) (z : Bool) (gp : Fin 8) (core : Nat) (sl : Slot) : ARes :=
  guarded gp sl
    (.ok { eff := fpResult z d (divPre core (fpVal z (gRead sl a)) (fpVal z (gRead sl b))) sl, kind := .long })

/-- FSQRT (R142), on the long-operation unit. -/
def effFsqrt (d a : Fin 32) (z : Bool) (gp : Fin 8) (core : Nat) (sl : Slot) : ARes :=
  guarded gp sl (.ok { eff := fpResult z d (sqrtPre core (fpVal z (gRead sl a))) sl, kind := .long })

/-- The one of two elements that a minimum (`less` true) or maximum returns (R143, R166): bits unchanged but for a
quieted NaN, −0 below +0. -/
def pickElem (f : Elem) (less : Bool) (x y : Nat) : Nat × Flags :=
  let a := elemVal f x
  let b := elemVal f y
  let fl := signallingFlags [a, b]
  let out := fun (w : Nat) (v : Val) => match v with
    | .nan neg _ p => nanBits f neg true p
    | _ => w
  match a.isNaN, b.isNaN with
  | true, true => ((meetNaN a b).elim x (nanResult f), fl)
  | true, false => (out y b, fl)
  | false, true => (out x a, fl)
  | false, false =>
    let c := cmpVal a b
    let negA := match a with
      | .num neg _ _ => neg
      | .inf neg => neg
      | .nan neg _ _ => neg
    let aLess := decide (c < 0) || (decide (c = 0) && negA)
    if aLess == less then (x, fl) else (y, fl)

/-- FMIN and FMAX on registers. -/
def fpPick (less z : Bool) (x y : Word) : Word × Flags :=
  let bitsOf := fun (w : Word) => if z then w.toNat % 2 ^ 32 else w.toNat
  let (v, fl) := pickElem (precision z) less (bitsOf x) (bitsOf y)
  (word v, fl)

/-- FMIN and FMAX. -/
def fpMinMax (less : Bool) (d a b : Fin 32) (z : Bool) (gp : Fin 8) (sl : Slot) : ARes :=
  let (v, fl) := fpPick less z (gRead sl a) (gRead sl b)
  guarded gp sl (aNow { AEffect.ofG d v with flags := fl })

/-- FMIN (R143). -/
def effFmin := fpMinMax true
/-- FMAX (R143). -/
def effFmax := fpMinMax false

/-- FFMA (R142): d is read as the addend. -/
def effFfma (d a b : Fin 32) (z : Bool) (gp : Fin 8) (core : Nat) (sl : Slot) : ARes :=
  guarded gp sl (aNow (fpResult z d
    (fmaPre core (modeOf sl) (fpVal z (gRead sl a)) (fpVal z (gRead sl b)) (fpVal z (gRead sl d))) sl))

/-- FABS (R142): the sign bit cleared. -/
def effFabs (d a : Fin 32) (z : Bool) (gp : Fin 8) (sl : Slot) : ARes :=
  let x := gRead sl a
  guarded gp sl (aNow (.ofG d (if z then word (x.toNat % 2 ^ 31) else word (x.toNat % 2 ^ 63))))

/-- FNEG (R142): the sign bit inverted. -/
def effFneg (d a : Fin 32) (z : Bool) (gp : Fin 8) (sl : Slot) : ARes :=
  let x := gRead sl a
  guarded gp sl (aNow (.ofG d (if z then word (x.toNat % 2 ^ 32) ^^^ 0x80000000 else x ^^^ 0x8000000000000000)))

/-- The bit of Table 7.5 for a value of a precision. -/
def classBit (z : Bool) (v : Val) : Nat :=
  match v with
  | .inf neg => if neg then 0 else 7
  | .nan _ quiet _ => if quiet then 9 else 8
  | .num neg m _ =>
    let sub := decide (m < 2 ^ (floatFmt (precision z)).fbits)
    if m = 0 then (if neg then 3 else 4)
    else if sub then (if neg then 2 else 5) else (if neg then 1 else 6)

/-- FCLASS (R144). -/
def effFclass (d a : Fin 32) (z : Bool) (gp : Fin 8) (sl : Slot) : ARes :=
  guarded gp sl (aNow (.ofG d (word (2 ^ classBit z (fpVal z (gRead sl a))))))

/-- FCVTI (R145): to a signed (`u` false) or unsigned 64-bit integer. -/
def effFcvti (d a : Fin 32) (u z : Bool) (gp : Fin 8) (sl : Slot) : ARes :=
  let (rnd, seed) := slotDraw sl
  let lo : Int := if u then 0 else -(2 ^ 63 : Nat)
  let hi : Int := if u then (2 ^ 64 : Nat) - 1 else (2 ^ 63 : Nat) - 1
  let (n, fl) := roundToInt lo hi (modeOf sl) rnd (fpVal z (gRead sl a))
  guarded gp sl (aNow { AEffect.ofG d (BitVec.ofInt 64 n) with flags := fl, rseed := seed })

/-- FCVTF (R145): from a signed or unsigned 64-bit integer. -/
def effFcvtf (d a : Fin 32) (u z : Bool) (gp : Fin 8) (sl : Slot) : ARes :=
  let x := gRead sl a
  let n : Int := if u then x.toNat else x.toInt
  guarded gp sl (aNow (fpResult z d (.ofVal (.num (decide (n < 0)) n.natAbs 0) noFlags) sl))

/-- FCVTP (R145): from the other precision. FCVTP.d takes no random bits. -/
def effFcvtp (d a : Fin 32) (z : Bool) (gp : Fin 8) (sl : Slot) : ARes :=
  let v := fpVal (!z) (gRead sl a)
  let (rnd, seed) := if z then slotDraw sl else (0, none)
  let r := toFloat (precision z) false (modeOf sl) rnd v
  guarded gp sl (aNow { AEffect.ofG d (word r.bits) with flags := r.flags, rseed := seed })

/-- A compare: its value on numbers, its value on NaNs, and whether a quiet NaN sets NV (R146). -/
def fpCmp (f : Int → Bool) (onNaN quietNV : Bool) (d : Fin 8) (a b : Fin 32) (z : Bool) (gp : Fin 8) (sl : Slot) : ARes :=
  let x := fpVal z (gRead sl a)
  let y := fpVal z (gRead sl b)
  let nan := x.isNaN || y.isNaN
  let fl := signallingFlags [x, y] ||| flagIf (nan && quietNV) flagNV
  guarded gp sl (aNow { AEffect.ofP d (if nan then onNaN else f (cmpVal x y)) with flags := fl })

/-- FCMPEQ (R146). -/
def effFcmpeq := fpCmp (fun c => decide (c = 0)) false false
/-- FCMPLT (R146). -/
def effFcmplt := fpCmp (fun c => decide (c < 0)) false true
/-- FCMPLE (R146). -/
def effFcmple := fpCmp (fun c => decide (c ≤ 0)) false true
/-- FCMPUN (R146). -/
def effFcmpun := fpCmp (fun _ => false) true false

end Sys2Proof.Machine
end

