-- ==== Sys2Proof/Machine/Block.lean ====
section
/-! DEFINITION. What the block words write (R158–R178): one definition per instruction over lanes read from the grid. Every
lane value is taken under scale 127 (R159). A fault is decided before anything is computed (R162). -/

namespace Sys2Proof.Machine

/-! ## Lanes -/

/-- Bits of a lane that a format uses: six of an LG6 lane's eight (R50). -/
def usedBits (f : Elem) : Nat := if f = .lg6 then 6 else laneBits f

/-- Lane `i` of a register, its unused bits dropped (R46, R50). -/
def laneOf (f : Elem) (x : Quad) (i : Nat) : Nat := x.toNat / 2 ^ (laneBits f * i) % 2 ^ usedBits f

/-- The lanes of a register, lowest first. -/
def lanesOf (f : Elem) (x : Quad) : List Nat := (List.range (laneCount f)).map (laneOf f x)

/-- The number whose lanes are these. -/
def packNat (w : Nat) : List Nat → Nat
  | [] => 0
  | v :: t => v % 2 ^ w + 2 ^ w * packNat w t

/-- A register from its lanes. -/
def packLanes (f : Elem) (l : List Nat) : Quad := BitVec.ofNat 128 (packNat (laneBits f) l)

/-- The zero of a format: 0, +0, or 0x10 for LG6 (R169, R177). -/
def zeroElem (f : Elem) : Nat := if f = .lg6 then 0x10 else 0

/-- The integer of an element. -/
def elemInt (f : Elem) (b : Nat) : Int :=
  match elemVal f b with
  | .num neg m _ => if neg then -(m : Int) else m
  | _ => 0

/-- What a block word works under: its core, the active format, SAT, the rounding mode and RSEED (R158). -/
structure BEnv where
  core : Nat
  fmt  : Elem
  sat  : Bool
  mode : Nat
  seed : Nat
  deriving DecidableEq, Repr

/-- The environment; none for a reserved format (R160). -/
def blockEnv (core : Nat) (sl : Slot) : Option BEnv :=
  (elemOf (bitsNat (descriptorAt sl 0) 3 0)).map (fun f =>
    { core := core, fmt := f, sat := bitAt (descriptorAt sl 0) 9, mode := modeOf sl,
      seed := sl.ctl.rseed.toNat % 2 ^ 32 })

/-- A lane's result before it is put into its format. -/
inductive LaneRes where
  /-- A real or a NaN, to be rounded or converted. -/
  | real (p : Pre)
  /-- An exact integer, to be wrapped or saturated. -/
  | int (v : Int)
  /-- Bits as they are, with flags. -/
  | raw (b : Nat) (f : Flags)
  deriving DecidableEq, Repr

/-- A result rounds, and so takes bits in RSR (R61). -/
def LaneRes.draws (f : Elem) : LaneRes → Bool
  | .real _ => isFloat f
  | _ => false

/-- A lane's result in its format (R161). -/
def LaneRes.finish (e : BEnv) (rnd : Nat) : LaneRes → Rounded
  | .real p => p.finish e.fmt e.sat e.mode rnd
  | .int v => intResult e.fmt e.sat v
  | .raw b f => { bits := b, flags := f }

/-- Lanes finished in order, each taking its draw (R61): their results and the seed left. -/
def finishAll (e : BEnv) : Nat → List LaneRes → List Rounded × Nat
  | seed, [] => ([], seed)
  | seed, r :: t =>
    let (rnd, s1) := if r.draws e.fmt then drawIf e.mode seed else (0, seed)
    let (rs, s2) := finishAll e s1 t
    (r.finish e rnd :: rs, s2)

/-- The seed as a write to RSEED, when the mode is RSR. -/
def seedWrite (e : BEnv) (s : Nat) : Option Word := if e.mode = 5 then some (word s) else none

/-- Registers written with finished lanes, in row-major order. -/
def laneEffect (e : BEnv) (regs : List (Fin 64)) (rs : List Rounded) (seed : Nat) : AEffect :=
  { g := [], p := [], rseed := seedWrite e seed, flags := allFlags (rs.map (fun r => r.flags)),
    b := regs.zip ((chunks (laneCount e.fmt) (rs.map (fun r => r.bits))).map (packLanes e.fmt)) }

/-- A block word: its fault (R160, R129) or its result. -/
def blockWord (core : Nat) (sl : Slot) (ok : Elem → Bool) (ops : List (Fin 64)) (h : Fin 4) (w : Fin 16) (occ : Nat)
    (k : BEnv → Except Nat AEffect) : ARes :=
  match blockEnv core sl with
  | none => .error 0x04
  | some e =>
    if ok e.fmt && ops.all (fun v => inGrid v (rows h) (cols w)) then
      (k e).map (fun eff => { eff := eff, kind := .block occ })
    else .error 0x04

/-- Registers of an extent. -/
def extent (h : Fin 4) (w : Fin 16) : Nat := rows h * cols w

/-- Half the registers of an extent, rounded up (Table 8.2). -/
def halfOcc (h : Fin 4) (w : Fin 16) : Nat := (extent h w + 1) / 2

/-- Every format is accepted. -/
def anyFormat (_ : Elem) : Bool := true

/-- The formats of the elementary functions and BSCL (Table 8.1). -/
def notInt (f : Elem) : Bool := !isInt f

/-- All lanes of an operand, register by register in row-major order. -/
def operandLanes (e : BEnv) (sl : Slot) (v : Fin 64) (h : Fin 4) (w : Fin 16) : List Nat :=
  (blockRead sl v (rows h) (cols w)).flatMap (lanesOf e.fmt)

/-- A word whose lanes are each computed from the lanes of d, a and b at the same place. -/
def lanewise (f : BEnv → Nat → Nat → Nat → LaneRes) (ok : Elem → Bool) (d a b : Fin 64) (h : Fin 4) (w : Fin 16)
    (occ core : Nat) (sl : Slot) : ARes :=
  blockWord core sl ok [d, a, b] h w occ (fun e =>
    let ds := operandLanes e sl d h w
    let as := operandLanes e sl a h w
    let bs := operandLanes e sl b h w
    let (rs, seed) := finishAll e e.seed ((ds.zip (as.zip bs)).map (fun x => f e x.1 x.2.1 x.2.2))
    .ok (laneEffect e (blockRegs d (rows h) (cols w)) rs seed))

/-! ## Elementwise arithmetic (R165) -/

/-- A lane of integers or of reals. -/
def arith (int : Int → Int → Int → Int) (real : Nat → Nat → Val → Val → Val → Pre) (e : BEnv) (d a b : Nat) : LaneRes :=
  if isInt e.fmt then .int (int (elemInt e.fmt d) (elemInt e.fmt a) (elemInt e.fmt b))
  else .real (real e.core e.mode (elemVal e.fmt d) (elemVal e.fmt a) (elemVal e.fmt b))

/-- A lane of a + b. -/
def laneAdd := arith (fun _ a b => a + b) (fun c m _ a b => addPre c m a b)
/-- A lane of a × b; the product of two LG6 lanes is R52's. -/
def laneMul (e : BEnv) (d a b : Nat) : LaneRes :=
  if e.fmt = .lg6 then .real (.ofVal (lgProduct a b 127 127) noFlags)
  else arith (fun _ a b => a * b) (fun c _ _ a b => mulPre c a b) e d a b
/-- A lane of a × b + d. -/
def laneFma (e : BEnv) (d a b : Nat) : LaneRes :=
  if e.fmt = .lg6 then .real (addPre e.core e.mode (lgProduct a b 127 127) (elemVal .lg6 d))
  else arith (fun d a b => a * b + d) (fun c m d a b => fmaPre c m a b d) e d a b

/-- BADD (R165). -/
def effBadd (d a b : Fin 64) (h : Fin 4) (w : Fin 16) := lanewise laneAdd anyFormat d a b h w (halfOcc h w)
/-- BSUB (R165). -/
def effBsub (d a b : Fin 64) (h : Fin 4) (w : Fin 16) :=
  lanewise (arith (fun _ a b => a - b) (fun c m _ a b => subPre c m a b)) anyFormat d a b h w (halfOcc h w)
/-- BMUL (R165). -/
def effBmul (d a b : Fin 64) (h : Fin 4) (w : Fin 16) := lanewise laneMul anyFormat d a b h w (halfOcc h w)
/-- BFMA (R165). -/
def effBfma (d a b : Fin 64) (h : Fin 4) (w : Fin 16) := lanewise laneFma anyFormat d a b h w (halfOcc h w)

/-! ## Minimum, maximum, bitwise, compare and select (R166–R168) -/

/-- A lane of BMIN or BMAX. -/
def lanePick (less : Bool) (e : BEnv) (_ a b : Nat) : LaneRes :=
  let (v, fl) := pickElem e.fmt less a b
  .raw v fl

/-- A lane of bits. -/
def laneBitwise (f : Nat → Nat → Nat) (_ : BEnv) (_ a b : Nat) : LaneRes := .raw (f a b) noFlags

/-- BMIN (R166). -/
def effBmin (d a b : Fin 64) (h : Fin 4) (w : Fin 16) := lanewise (lanePick true) anyFormat d a b h w (halfOcc h w)
/-- BMAX (R166). -/
def effBmax (d a b : Fin 64) (h : Fin 4) (w : Fin 16) := lanewise (lanePick false) anyFormat d a b h w (halfOcc h w)
/-- BAND (R167). -/
def effBand (d a b : Fin 64) (h : Fin 4) (w : Fin 16) :=
  lanewise (laneBitwise (fun a b => a &&& b)) anyFormat d a b h w (halfOcc h w)
/-- BOR (R167). -/
def effBor (d a b : Fin 64) (h : Fin 4) (w : Fin 16) :=
  lanewise (laneBitwise (fun a b => a ||| b)) anyFormat d a b h w (halfOcc h w)
/-- BXOR (R167). -/
def effBxor (d a b : Fin 64) (h : Fin 4) (w : Fin 16) :=
  lanewise (laneBitwise (fun a b => a ^^^ b)) anyFormat d a b h w (halfOcc h w)
/-- BMOV (R167). -/
def effBmov (d a : Fin 64) (h : Fin 4) (w : Fin 16) :=
  lanewise (fun _ _ a _ => .raw a noFlags) anyFormat d a a h w (halfOcc h w)

/-- A lane of BCMPLT: all ones of the lane when a < b. -/
def laneLess (e : BEnv) (_ a b : Nat) : LaneRes :=
  let x := elemVal e.fmt a
  let y := elemVal e.fmt b
  if x.isNaN || y.isNaN then .raw 0 flagNV
  else .raw (if cmpVal x y < 0 then 2 ^ usedBits e.fmt - 1 else 0) noFlags

/-- BCMPLT (R168). -/
def effBcmplt (d a b : Fin 64) (h : Fin 4) (w : Fin 16) := lanewise laneLess anyFormat d a b h w (halfOcc h w)
/-- BSEL (R168): d is read as the mask. -/
def effBsel (d a b : Fin 64) (h : Fin 4) (w : Fin 16) :=
  lanewise (fun _ d a b => .raw (if d = 0 then b else a) noFlags) anyFormat d a b h w (halfOcc h w)

/-! ## Unary functions (R169) -/

/-- A lane of an elementary function of a value. -/
def laneFn (f : Nat → Val → Pre) (e : BEnv) (_ a _ : Nat) : LaneRes := .real (f e.core (elemVal e.fmt a))

/-- The value of the sign bit of a lane. -/
def laneSign (f : Elem) : Nat := 2 ^ (usedBits f - 1)

/-- A lane of BNEG. -/
def laneNeg (e : BEnv) (_ a _ : Nat) : LaneRes :=
  if isInt e.fmt then .int (0 - elemInt e.fmt a) else .raw (a ^^^ laneSign e.fmt) noFlags

/-- A lane of BABS. -/
def laneAbs (e : BEnv) (_ a _ : Nat) : LaneRes :=
  if isInt e.fmt then .int (elemInt e.fmt a).natAbs else .raw (a % laneSign e.fmt) noFlags

/-- A lane of BRELU. -/
def laneRelu (e : BEnv) (_ a _ : Nat) : LaneRes :=
  match elemVal e.fmt a with
  | .nan neg quiet p => .raw (nanBits e.fmt neg true p) (flagIf (!quiet) flagNV)
  | v => .raw (if 0 < cmpVal v (.num false 0 0) then a else zeroElem e.fmt) noFlags

/-- Cycles of an elementary function (Table 8.2); FP64 takes twice as many. -/
def fnOcc (sl : Slot) (h : Fin 4) (w : Fin 16) : Nat :=
  if bitsNat (descriptorAt sl 0) 3 0 = 4 then 2 * extent h w else extent h w

/-- An elementary function. -/
def blockFn (f : Nat → Val → Pre) (d a : Fin 64) (h : Fin 4) (w : Fin 16) (core : Nat) (sl : Slot) : ARes :=
  lanewise (laneFn f) notInt d a a h w (fnOcc sl h w) core sl

/-- BNEG (R169). -/
def effBneg (d a : Fin 64) (h : Fin 4) (w : Fin 16) := lanewise laneNeg anyFormat d a a h w (halfOcc h w)
/-- BABS (R169). -/
def effBabs (d a : Fin 64) (h : Fin 4) (w : Fin 16) := lanewise laneAbs anyFormat d a a h w (halfOcc h w)
/-- BRELU (R169). -/
def effBrelu (d a : Fin 64) (h : Fin 4) (w : Fin 16) := lanewise laneRelu anyFormat d a a h w (halfOcc h w)
/-- BEXP2 (R169). -/
def effBexp2 := blockFn (fun _ v => exp2Pre v)
/-- BLOG2 (R169). -/
def effBlog2 := blockFn log2Pre
/-- BRCP (R169). -/
def effBrcp := blockFn rcpPre
/-- BRSQ (R169). -/
def effBrsq := blockFn rsqPre
/-- BSIGM (R169). -/
def effBsigm := blockFn (fun _ v => sigmPre v)
/-- BTANH (R169). -/
def effBtanh := blockFn (fun _ v => tanhPre v)
/-- BSQRT (R169). -/
def effBsqrt := blockFn sqrtPre

/-! ## Conversion (R170) -/

/-- One lane converted, with its draw: its result and the seed left. -/
def convertLane (e : BEnv) (dst : Elem) (b seed : Nat) : Rounded × Nat :=
  if e.fmt = dst then
    match elemVal dst b with
    | .nan neg quiet p => ({ bits := nanBits dst neg true p, flags := flagIf (!quiet) flagNV }, seed)
    | _ => ({ bits := b, flags := noFlags }, seed)
  else
    let (rnd, s) := if roundsInto e.fmt dst then drawIf e.mode seed else (0, seed)
    (convert e.fmt dst e.sat e.mode rnd 127 (elemVal e.fmt b), s)

/-- Lanes converted in order. -/
def convertLanes (e : BEnv) (dst : Elem) : Nat → List Nat → List Rounded × Nat
  | seed, [] => ([], seed)
  | seed, b :: t =>
    let (r, s1) := convertLane e dst b seed
    let (rs, s2) := convertLanes e dst s1 t
    (r :: rs, s2)

/-- Registers converted in order: the registers written, their flags, and the seed left. -/
def convertRegs (e : BEnv) (dst : Elem) : Nat → List Quad → List Quad × Flags × Nat
  | seed, [] => ([], noFlags, seed)
  | seed, x :: t =>
    let n := min (laneCount e.fmt) (laneCount dst)
    let (rs, s1) := convertLanes e dst seed ((lanesOf e.fmt x).take n)
    let lanes := rs.map (fun r => r.bits) ++ List.replicate (laneCount dst - n) (zeroElem dst)
    let (qs, fl, s2) := convertRegs e dst s1 t
    (packLanes dst lanes :: qs, allFlags (rs.map (fun r => r.flags)) ||| fl, s2)

/-- BCVT (R170). -/
def effBcvt (d a : Fin 64) (f : Fin 16) (h : Fin 4) (w : Fin 16) (core : Nat) (sl : Slot) : ARes :=
  blockWord core sl anyFormat [d, a] h w (halfOcc h w) (fun e =>
    match elemOf f.val with
    | none => .error 0x04
    | some dst =>
      let (qs, fl, seed) := convertRegs e dst e.seed (blockRead sl a (rows h) (cols w))
      .ok { g := [], p := [], b := (blockRegs d (rows h) (cols w)).zip qs, flags := fl, rseed := seedWrite e seed })

/-! ## Operations with a scalar (R171–R174) -/

/-- The element in the low bits of a g register (R171). -/
def scalarOf (e : BEnv) (g : Word) : Nat := g.toNat % 2 ^ usedBits e.fmt

/-- BSCAL (R171). -/
def effBscal (d a : Fin 64) (g : Fin 32) (h : Fin 4) (w : Fin 16) (core : Nat) (sl : Slot) : ARes :=
  lanewise (fun e _ a _ => laneMul e 0 a (scalarOf e (gRead sl g))) anyFormat d a a h w (halfOcc h w) core sl

/-- BADDS (R171). -/
def effBadds (d a : Fin 64) (g : Fin 32) (h : Fin 4) (w : Fin 16) (core : Nat) (sl : Slot) : ARes :=
  lanewise (fun e _ a _ => laneAdd e 0 a (scalarOf e (gRead sl g))) anyFormat d a a h w (halfOcc h w) core sl

/-- BBCST (R171). -/
def effBbcst (d : Fin 64) (g : Fin 32) (h : Fin 4) (w : Fin 16) (core : Nat) (sl : Slot) : ARes :=
  lanewise (fun e _ _ _ => .raw (scalarOf e (gRead sl g)) noFlags) anyFormat d d d h w (halfOcc h w) core sl

/-- BGET (R172). -/
def effBget (l a : Fin 64) (g : Fin 32) (h : Fin 4) (w : Fin 16) (core : Nat) (sl : Slot) : ARes :=
  blockWord core sl (fun f => decide (h.val = 0 ∧ w.val = 0 ∧ l.val < laneCount f)) [a] h w 1 (fun e =>
    let v := laneOf e.fmt (bRead sl a) l.val
    .ok (.ofG g (if isInt e.fmt && e.fmt != .uint8 then sextW (laneBits e.fmt) v else word v)))

/-- A register with lane `i` replaced. -/
def setLane (f : Elem) (x : Quad) (i v : Nat) : Quad := packLanes f ((lanesOf f x).set i v)

/-- BSET (R172). The register's other lanes keep their bits. -/
def effBset (d l : Fin 64) (g : Fin 32) (h : Fin 4) (w : Fin 16) (core : Nat) (sl : Slot) : ARes :=
  blockWord core sl (fun f => decide (h.val = 0 ∧ w.val = 0 ∧ l.val < laneCount f)) [d] h w 1 (fun e =>
    let width := laneBits e.fmt
    let keep : Quad := ~~~(BitVec.ofNat 128 ((2 ^ width - 1) * 2 ^ (width * l.val)))
    let put : Quad := BitVec.ofNat 128 (scalarOf e (gRead sl g) * 2 ^ (width * l.val))
    .ok (.ofB [(d, (bRead sl d &&& keep) ||| put)]))

/-- Selector `i` of a BSHUF pattern. -/
def selector (g : Word) (i : Nat) : Nat := bitsNat g (4 * i + 3) (4 * i)

/-- BSHUF (R173). -/
def effBshuf (d a : Fin 64) (g : Fin 32) (h : Fin 4) (w : Fin 16) (core : Nat) (sl : Slot) : ARes :=
  let pattern := gRead sl g
  blockWord core sl (fun f => (List.range (laneCount f)).all (fun i => decide (selector pattern i < laneCount f)))
    [d, a] h w (halfOcc h w) (fun e =>
      let pick := fun (x : Quad) =>
        packLanes e.fmt ((List.range (laneCount e.fmt)).map (fun i => laneOf e.fmt x (selector pattern i)))
      .ok (.ofB ((blockRegs d (rows h) (cols w)).zip ((blockRead sl a (rows h) (cols w)).map pick))))

/-- The shift of BSCL, held within ±8192: beyond that every nonzero result of every format has long overflowed or rounded
as the smallest magnitudes do, so the result is the same. [log 50 DEDUCED] -/
def sclShift (g : Word) : Int := max (-8192) (min 8192 g.toInt)

/-- A value times a power of two. [log 50 DEDUCED] -/
def scaleVal (n : Int) : Val → Val
  | .num neg m e => .num neg m (e + n)
  | v => v

/-- BSCL (R174). -/
def effBscl (d a : Fin 64) (g : Fin 32) (h : Fin 4) (w : Fin 16) (core : Nat) (sl : Slot) : ARes :=
  lanewise (fun e _ a _ =>
      .real (.ofVal (scaleVal (sclShift (gRead sl g)) (elemVal e.fmt a)) noFlags))
    notInt d a a h w (halfOcc h w) core sl

/-! ## Dot products (R175, R176) -/

/-- The class of a format: class, group size and accumulator code (Table 3.6). -/
def classOf : Elem → Option (Nat × Nat × Nat)
  | .bf16 | .fp16 | .e4m3 | .e5m2 => some (0, 32, 5)
  | .lg6 => some (1, 32, 5)
  | .fp32 => some (2, 8, 5)
  | .fp64 => some (3, 1, 4)
  | .int8 | .uint8 | .int16 => some (4, 32, 2)
  | _ => none

/-- The terms of one group added to what is gathered. -/
def gatherAll (fa fb : Elem) (g : Gather) (l : List (Nat × Nat)) : Gather :=
  l.foldl (fun g x =>
    if fa = .lg6 then g.addVal (lgProduct x.1 x.2 127 127) else g.addProduct (elemVal fa x.1) (elemVal fb x.2)) g

/-- The integer sum of a group (R66). -/
def intDot (fa fb : Elem) (l : List (Nat × Nat)) : Int := l.foldl (fun s x => s + elemInt fa x.1 * elemInt fb x.2) 0

/-- One accumulator after one group (R65, R66). -/
def groupStep (acc fa fb : Elem) (core group mode : Nat) (sat : Bool) (rnd : Nat) (v : Nat) (l : List (Nat × Nat)) :
    Rounded :=
  if isInt acc then { intResult acc sat (elemInt acc v + intDot fa fb l) with flags := noFlags }
  else
    let p := (gatherAll fa fb (Gather.start.addVal (elemVal acc v)) l).pre core (group % 1024) mode
    p.finish acc sat mode rnd

/-- The accumulators after one group: `xs` and `ys` are the rows' elements of the group, and accumulators go row by row. -/
def dotGroup (e : BEnv) (acc fa fb : Elem) (group : Nat) : Nat → List ((List Nat × List Nat) × Nat) →
    List Rounded × Nat
  | seed, [] => ([], seed)
  | seed, (xy, v) :: t =>
    let (rnd, s1) := if isFloat acc then drawIf e.mode seed else (0, seed)
    let r := groupStep acc fa fb e.core group e.mode e.sat rnd v (xy.1.zip xy.2)
    let (rs, s2) := dotGroup e acc fa fb group s1 t
    (r :: rs, s2)

/-- All groups of a BDOT: the accumulators, their flags and the seed left. -/
def dotGroups (e : BEnv) (acc fa fb : Elem) : List (List (List Nat × List Nat)) → Nat → Nat → List Nat → Flags →
    List Nat × Flags × Nat
  | [], _, seed, vs, fl => (vs, fl, seed)
  | g :: t, k, seed, vs, fl =>
    let (rs, s) := dotGroup e acc fa fb k seed (g.zip vs)
    dotGroups e acc fa fb t (k + 1) s (rs.map (fun r => r.bits)) (fl ||| allFlags (rs.map (fun r => r.flags)))

/-- The elements of row `i` of an operand of BDOT, k = column × lanes + lane. -/
def dotRow (f : Elem) (sl : Slot) (v : Fin 64) (w : Fin 16) (i : Nat) : List Nat :=
  ((List.range (cols w)).map (fun c => bRead sl (gridReg (v.val / 16 + i) (v.val % 16 + c)))).flatMap (lanesOf f)

/-- The pairs of row elements of group `k`, accumulator by accumulator. -/
def dotPairs (as bs : List (List Nat)) (n k : Nat) : List (List Nat × List Nat) :=
  as.flatMap (fun x => bs.map (fun y => ((x.drop (k * n)).take n, (y.drop (k * n)).take n)))

/-- The formats of a BDOT that R175 accepts: a's, b's, the accumulator's and the group size. -/
def dotFormats (sl : Slot) : Option (Elem × Elem × Elem × Nat) :=
  let fd := descriptorAt sl 0
  match elemOf (bitsNat fd 3 0), elemOf (bitsNat (descriptorAt sl 1) 3 0), elemOf (bitsNat fd 7 4) with
  | some fa, some fb, some acc =>
    (match classOf fa, classOf fb with
     | some (ka, n, code), some (kb, _, _) =>
       if ka = kb ∧ ka ≠ 3 ∧ bitsNat fd 7 4 = code ∧ laneCount fa = laneCount fb then some (fa, fb, acc, n) else none
     | _, _ => none)
  | _, _, _ => none

/-- BDOT (R175, R176). -/
def effBdot (d a b : Fin 64) (h : Fin 4) (w : Fin 16) (core : Nat) (sl : Slot) : ARes :=
  match dotFormats sl, blockEnv core sl with
  | some (fa, fb, acc, n), some e =>
    if h.val = 3 ∧ inGrid d 4 1 ∧ inGrid a 4 (cols w) ∧ inGrid b 4 (cols w) then
      let as := (List.range 4).map (dotRow fa sl a w)
      let bs := (List.range 4).map (dotRow fb sl b w)
      let regs := blockRegs d 4 1
      let vs := (regs.map (bRead sl)).flatMap (lanesOf acc)
      let count := (cols w * laneCount fa + n - 1) / n
      let (rs, fl, seed) := dotGroups e acc fa fb ((List.range count).map (dotPairs as bs n)) 0 e.seed vs noFlags
      .ok {
        eff := { g := [], p := [], b := regs.zip ((chunks 4 rs).map (packLanes acc)), flags := fl,
                 rseed := seedWrite e seed }
        kind := .block (if fa = .fp32 then 8 * cols w else 4 * cols w) }
    else .error 0x04
  | _, _ => .error 0x04

/-! ## Reductions (R177) -/

/-- The least (`less` true) or greatest non-NaN element of a row; with NaNs alone, the earliest in core order. -/
def pickRow (f : Elem) (less : Bool) : List Nat → Nat × Flags
  | [] => (zeroElem f, noFlags)
  | [x] => pickElem f less x x
  | x :: t =>
    let (v, fl) := pickRow f less t
    let (r, fl2) := pickElem f less x v
    (r, fl ||| fl2)

/-- The value a row reduces to. -/
def reduceRow (e : BEnv) (op : Nat) (l : List Nat) : LaneRes :=
  if op = 0 then
    (if isInt e.fmt then .int (l.foldl (fun s x => s + elemInt e.fmt x) 0)
     else .real ((l.foldl (fun g x => g.addVal (elemVal e.fmt x)) Gather.start).pre e.core 0 e.mode))
  else
    let (v, fl) := pickRow e.fmt (op == 1) l
    .raw v fl

/-- BRED (R177). -/
def effBred (d a o : Fin 64) (h : Fin 4) (w : Fin 16) (core : Nat) (sl : Slot) : ARes :=
  blockWord core sl anyFormat [d, a] h w (halfOcc h w + 2) (fun e =>
    let row := fun (i : Nat) => (blockRead sl (gridReg (a.val / 16 + i) (a.val % 16)) 1 (cols w)).flatMap (lanesOf e.fmt)
    let (rs, seed) := finishAll e e.seed ((List.range (rows h)).map (fun i => reduceRow e o.val (row i)))
    let out := fun (r : Rounded) =>
      packLanes e.fmt (r.bits :: List.replicate (laneCount e.fmt - 1) (zeroElem e.fmt))
    .ok { g := [], p := [], b := (blockRegs d (rows h) 1).zip (rs.map out),
          flags := allFlags (rs.map (fun r => r.flags)), rseed := seedWrite e seed })

/-! ## Gate normalisation (R178) -/

/-- A signed zero. -/
def zeroVal (neg : Bool) : Val := .num neg 0 0

/-- The sign of a value. -/
def Val.sign : Val → Bool
  | .num neg _ _ => neg
  | .inf neg => neg
  | .nan neg _ _ => neg

/-- An infinite value. -/
def Val.isInf : Val → Bool
  | .inf _ => true
  | _ => false

/-- The lane of BGNORM for element x of a vector of `k` elements whose exact sum is `s`, `m` of them infinite. -/
def gnormLane (s : Pre) (k m : Nat) (x : Val) : Pre :=
  match s.val with
  | .nan .. => s
  | .inf neg => if x.isInf then .ofApprox (quotient x.sign 1 0 m 0) noFlags else .ofVal (zeroVal (x.sign != neg)) noFlags
  | .num _ 0 _ => .ofApprox (quotient false 1 0 k 0) noFlags
  | v => { divPre 0 x v with flags := noFlags }

/-- The lanes of BGNORM finished in order; every lane takes bits in RSR, and a sum of zero gives lanes rounded RNE. -/
def gnormAll (e : BEnv) (laneMode : Nat) : Nat → List Pre → List Rounded × Nat
  | seed, [] => ([], seed)
  | seed, p :: t =>
    let (rnd, s1) := drawIf e.mode seed
    let (rs, s2) := gnormAll e laneMode s1 t
    (p.finish .fp32 e.sat laneMode rnd :: rs, s2)

/-- BGNORM (R178). -/
def effBgnorm (d a : Fin 64) (g : Fin 32) (h : Fin 4) (w : Fin 16) (core : Nat) (sl : Slot) : ARes :=
  blockWord core sl (fun f => f == .fp32) [d, a] h w (halfOcc h w + 8) (fun e =>
    let xs := (operandLanes e sl a h w).map (elemVal .fp32)
    let s := (xs.foldl (fun g x => g.addVal x) Gather.start).pre core 0 e.mode
    let m := (xs.filter Val.isInf).length
    let zero := match s.val with
      | .num _ 0 _ => true
      | _ => false
    let (rs, s1) := gnormAll e (if zero then 0 else e.mode) e.seed (xs.map (gnormLane s xs.length m))
    let (rnd, s2) := drawIf e.mode s1
    let sum := s.finish .fp32 e.sat e.mode rnd
    .ok { laneEffect e (blockRegs d (rows h) (cols w)) rs s2 with
            g := [(g, word sum.bits)]
            flags := allFlags (sum.flags :: rs.map (fun r => r.flags)) })

end Sys2Proof.Machine
end

