-- ==== Sys2Proof/Machine/AWord.lean ====
section
/-! DEFINITION. Every A word's effect by its constructor: what the lone words and the A words of pairs share (R5, R6). -/

namespace Sys2Proof.Machine

/-- What an A word does in a slot of a core; none for an instruction that is no A word. -/
def aEffect (core : Nat) (sl : Slot) (i : Instr) : Option ARes :=
  match i with
  | .add d a b gp => some (effAdd d a b gp sl)
  | .sub d a b gp => some (effSub d a b gp sl)
  | .and_ d a b gp => some (effAnd d a b gp sl)
  | .or_ d a b gp => some (effOr d a b gp sl)
  | .xor_ d a b gp => some (effXor d a b gp sl)
  | .andn d a b gp => some (effAndn d a b gp sl)
  | .shl d a b gp => some (effShl d a b gp sl)
  | .shr d a b gp => some (effShr d a b gp sl)
  | .sar d a b gp => some (effSar d a b gp sl)
  | .mul d a b gp => some (effMul d a b gp sl)
  | .mulh d a b gp => some (effMulh d a b gp sl)
  | .mulhu d a b gp => some (effMulhu d a b gp sl)
  | .div d a b gp => some (effDiv d a b gp sl)
  | .divu d a b gp => some (effDivu d a b gp sl)
  | .rem d a b gp => some (effRem d a b gp sl)
  | .remu d a b gp => some (effRemu d a b gp sl)
  | .min d a b gp => some (effMin d a b gp sl)
  | .max d a b gp => some (effMax d a b gp sl)
  | .minu d a b gp => some (effMinu d a b gp sl)
  | .maxu d a b gp => some (effMaxu d a b gp sl)
  | .clz d a gp => some (effClz d a gp sl)
  | .ctz d a gp => some (effCtz d a gp sl)
  | .popc d a gp => some (effPopc d a gp sl)
  | .sel d a b s => some (effSel d a b s sl)
  | .addsl1 d a b gp => some (effAddsl1 d a b gp sl)
  | .addsl2 d a b gp => some (effAddsl2 d a b gp sl)
  | .addsl3 d a b gp => some (effAddsl3 d a b gp sl)
  | .addsl4 d a b gp => some (effAddsl4 d a b gp sl)
  | .cmpeq d a b gp => some (effCmpeq d a b gp sl)
  | .cmpne d a b gp => some (effCmpne d a b gp sl)
  | .cmplt d a b gp => some (effCmplt d a b gp sl)
  | .cmple d a b gp => some (effCmple d a b gp sl)
  | .cmpltu d a b gp => some (effCmpltu d a b gp sl)
  | .cmpleu d a b gp => some (effCmpleu d a b gp sl)
  | .pand d a b gp => some (effPand d a b gp sl)
  | .por d a b gp => some (effPor d a b gp sl)
  | .pxor d a b gp => some (effPxor d a b gp sl)
  | .pandn d a b gp => some (effPandn d a b gp sl)
  | .addi d a i => some (effAddi d a i sl)
  | .andi d a i => some (effAndi d a i sl)
  | .ori d a i => some (effOri d a i sl)
  | .xori d a i => some (effXori d a i sl)
  | .shli d a i => some (effShli d a i sl)
  | .shri d a i => some (effShri d a i sl)
  | .sari d a i => some (effSari d a i sl)
  | .li d i => some (effLi d i sl)
  | .lis d a i => some (effLis d a i sl)
  | .cmpeqi d a i => some (effCmpeqi d a i sl)
  | .cmplti d a i => some (effCmplti d a i sl)
  | .cmpltui d a i => some (effCmpltui d a i sl)
  | .bfx d a l p => some (effBfx d a l p sl)
  | .bfi d a l p => some (effBfi d a l p sl)
  | .fadd d a b z gp => some (effFadd d a b z gp core sl)
  | .fsub d a b z gp => some (effFsub d a b z gp core sl)
  | .fmul d a b z gp => some (effFmul d a b z gp core sl)
  | .fdiv d a b z gp => some (effFdiv d a b z gp core sl)
  | .fsqrt d a z gp => some (effFsqrt d a z gp core sl)
  | .fmin d a b z gp => some (effFmin d a b z gp sl)
  | .fmax d a b z gp => some (effFmax d a b z gp sl)
  | .ffma d a b z gp => some (effFfma d a b z gp core sl)
  | .fabs d a z gp => some (effFabs d a z gp sl)
  | .fneg d a z gp => some (effFneg d a z gp sl)
  | .fclass d a z gp => some (effFclass d a z gp sl)
  | .fcvti d a u z gp => some (effFcvti d a u z gp sl)
  | .fcvtf d a u z gp => some (effFcvtf d a u z gp sl)
  | .fcvtp d a z gp => some (effFcvtp d a z gp sl)
  | .fcmpeq d a b z gp => some (effFcmpeq d a b z gp sl)
  | .fcmplt d a b z gp => some (effFcmplt d a b z gp sl)
  | .fcmple d a b z gp => some (effFcmple d a b z gp sl)
  | .fcmpun d a b z gp => some (effFcmpun d a b z gp sl)
  | .badd d a b h w => some (effBadd d a b h w core sl)
  | .bsub d a b h w => some (effBsub d a b h w core sl)
  | .bmul d a b h w => some (effBmul d a b h w core sl)
  | .bfma d a b h w => some (effBfma d a b h w core sl)
  | .bmin d a b h w => some (effBmin d a b h w core sl)
  | .bmax d a b h w => some (effBmax d a b h w core sl)
  | .band d a b h w => some (effBand d a b h w core sl)
  | .bor d a b h w => some (effBor d a b h w core sl)
  | .bxor d a b h w => some (effBxor d a b h w core sl)
  | .bdot d a b h w => some (effBdot d a b h w core sl)
  | .bred d a o h w => some (effBred d a o h w core sl)
  | .bcmplt d a b h w => some (effBcmplt d a b h w core sl)
  | .bsel d a b h w => some (effBsel d a b h w core sl)
  | .bmov d a h w => some (effBmov d a h w core sl)
  | .bneg d a h w => some (effBneg d a h w core sl)
  | .babs d a h w => some (effBabs d a h w core sl)
  | .bexp2 d a h w => some (effBexp2 d a h w core sl)
  | .blog2 d a h w => some (effBlog2 d a h w core sl)
  | .brcp d a h w => some (effBrcp d a h w core sl)
  | .brsq d a h w => some (effBrsq d a h w core sl)
  | .bsigm d a h w => some (effBsigm d a h w core sl)
  | .btanh d a h w => some (effBtanh d a h w core sl)
  | .bsqrt d a h w => some (effBsqrt d a h w core sl)
  | .brelu d a h w => some (effBrelu d a h w core sl)
  | .bcvt d a f h w => some (effBcvt d a f h w core sl)
  | .bscal d a g h w => some (effBscal d a g h w core sl)
  | .badds d a g h w => some (effBadds d a g h w core sl)
  | .bbcst d g h w => some (effBbcst d g h w core sl)
  | .bget l a g h w => some (effBget l a g h w core sl)
  | .bset d l g h w => some (effBset d l g h w core sl)
  | .bgnorm d a g h w => some (effBgnorm d a g h w core sl)
  | .bshuf d a g h w => some (effBshuf d a g h w core sl)
  | .bscl d a g h w => some (effBscl d a g h w core sl)
  | _ => none

end Sys2Proof.Machine
end

