-- ==== Sys2Proof/Machine/Translate.lean ====
section
/-! DEFINITION. Where an address leads: the address map (R70, R71), the region rules of R73–R75 and R83, page tables and guests
(R338–R344), the translations a die holds (R345–R348), and the order of address checks (R180, Table 9.1). -/

namespace Sys2Proof.Machine

/-! ## The address map (Table 4.1) -/

/-- A region of the virtual space. -/
inductive Region where
  | pad | parison | ordinary | expert | aperture | reserved
  deriving DecidableEq, Repr

/-- First address of the expert slice cache aperture. -/
def expertBase : Nat := 0x00E0000000000000

/-- The region of an address; a nonzero bit in [63:56] makes it reserved (R70). -/
def regionOf (va : Nat) : Region :=
  if va < 0x40000 then .pad
  else if va < 0x60000 then .parison
  else if va < expertBase then .ordinary
  else if va < 0x00E0800000000000 then .expert
  else if va < apertureBase then .reserved
  else if va < apertureBase + 0x90000000 then .aperture
  else .reserved

/-- First address past silo memory (Table 18.3). -/
def siloEnd : Nat := 0x00C000000000

/-- The silo of a physical address: its 256-byte granules go round the twelve (R81). -/
def siloOf (pa : Nat) : Nat := pa / 256 % 12

/-- The channel of its silo that holds a physical address: the granule's index in the silo, its low seven bits crossed with the next
seven (R81). -/
def channelOf (pa : Nat) : Nat :=
  let h := pa / 256 / 12
  (h % 2 ^ 7) ^^^ (h / 2 ^ 7 % 2 ^ 7)

/-- A physical address in silo memory. -/
def inSilo (pa : Nat) : Bool := decide (pa < siloEnd)

/-- A physical address in this package's device registers. -/
def inDevice (pa : Nat) : Bool := decide (0x1000000000000 ≤ pa ∧ pa < 0x1000100000000)

/-- A physical address in host memory. -/
def inHost (pa : Nat) : Bool := decide (0x8000000000000 ≤ pa ∧ pa < 0x10000000000000)

/-- A physical address in the silo memory of another package. -/
def inPeer (s : State) (pa : Nat) : Bool :=
  decide (0x4000000000000 ≤ pa ∧ pa < 0x8000000000000) &&
  decide ((pa - 0x4000000000000) / 0x10000000000 ≠ s.pkg.pkgnum) &&
  decide ((pa - 0x4000000000000) % 0x10000000000 < siloEnd)

/-- A physical address outside every reserved range of Table 18.3. -/
def physExists (s : State) (pa : Nat) : Bool := inSilo pa || inDevice pa || inPeer s pa || inHost pa

/-! ## Page-table entries (R339) -/

/-- An entry's bits by name (Table 18.2). -/
structure Pte where
  addr : Nat
  bits : Nat
  deriving DecidableEq, Repr

/-- Bit `k` of an entry. -/
def Pte.has (e : Pte) (k : Nat) : Bool := e.bits / 2 ^ k % 2 == 1

/-- V. -/
def Pte.v (e : Pte) : Bool := e.has 0

/-- An entry that permits nothing points to the next table. -/
def Pte.pointer (e : Pte) : Bool := !(e.has 1) && !(e.has 2) && !(e.has 3)

/-- Bits [51:12], in place. -/
def Pte.frame (e : Pte) : Nat := e.bits / 2 ^ 12 % 2 ^ 40 * 2 ^ 12

/-- Bytes that a leaf of a step maps (R338). -/
def stepSize : Nat → Nat
  | 2 => 2 ^ 30
  | 3 => 2 ^ 21
  | _ => 2 ^ 12

/-- Bytes a leaf's translation covers, with the hint of R340. -/
def leafSize (step : Nat) (e : Pte) : Nat :=
  if e.has 9 then (if step = 3 then 2 ^ 26 else if step = 4 then 2 ^ 16 else stepSize step) else stepSize step

/-- An entry with V set that R341 item 2 refuses; where the next table lies is checked apart. [log 46 DEDUCED] -/
def Pte.malformed (step : Nat) (e : Pte) : Bool :=
  decide (e.bits / 2 ^ 61 ≠ 0) ||
  (if e.pointer then decide (e.bits / 2 ^ 4 % 2 ^ 8 ≠ 0) || decide (step = 4)
   else
    decide (step < 2) || decide (e.frame % stepSize step ≠ 0) || (e.has 2 && !(e.has 1)) ||
    (e.has 10 && (decide (step ≠ 4) || !(e.has 9) || e.has 8)))

/-- The index of a step (R338). -/
def stepIndex (va step : Nat) : Nat := if step = 0 then va / 2 ^ 48 % 2 ^ 8 else va / 2 ^ (48 - 9 * step) % 2 ^ 9

/-- What a walk of one stage ends in: its leaf, and the pointers that it went through, by step. -/
structure Leaf where
  step : Nat
  pte  : Pte
  path : List (Nat × Pte)
  deriving DecidableEq, Repr

/-- The addresses of a walk's entries. -/
def Leaf.entries (l : Leaf) : List Nat := l.path.map (fun x => x.2.addr) ++ [l.pte.addr]

/-- A walk's leaf, or the cause it fails with. Cause 0, here and below, is no fault: the walk cannot be made yet. -/
abbrev LeafRes := Except Nat Leaf

/-- A walk from step `step` on, through a table: `rd` reads the entry of a step at a table address, or fails. -/
def walkFrom (rd : Nat → Nat → Except Nat Pte) (va : Nat) : Nat → Nat → Nat → List (Nat × Pte) → LeafRes
  | 0, _, _, _ => .error 0x08
  | fuel + 1, step, table, path =>
    match rd step (table + 8 * stepIndex va step) with
    | .error c => .error c
    | .ok e =>
      if !e.v then .error 0x07
      else if e.malformed step then .error 0x08
      else if e.pointer then walkFrom rd va fuel (step + 1) e.frame (path ++ [(step, e)])
      else .ok { step := step, pte := e, path := path }

/-- Who walks: a die's walker for a party of a context, and the store buffer of the slot, if it is one (R347). -/
structure Walker where
  die    : Nat
  ctx    : Nat
  reader : Reader
  sb     : List StoreEntry
  deriving DecidableEq, Repr

/-- A buffered store touches some of these bytes. -/
def StoreEntry.touches (e : StoreEntry) (a n : Nat) : Bool :=
  match e with
  | .store t bs _ _ => overlaps (keyOf t) bs.length a n
  | .fence .. => false

/-- A slot's thread as a walker. -/
def slotWalker (s : State) (core slot : Nat) : Walker :=
  { die := dieOf core, ctx := (slotAt s core slot).ctx, reader := slotReader s core slot, sb := (slotAt s core slot).sb }

/-- A party that acts for a context from a core, as a walker. -/
def partyWalker (core ctx : Nat) (r : Reader) : Walker := { die := dieOf core, ctx := ctx, reader := r, sb := [] }

/-- An entry read at a physical address by the accessing party (R347), whose own buffered store to it must leave first (R88); a
table outside silo memory is malformed (R341), and an entry in a poisoned line is data poison (R374). [log 45 DEDUCED] -/
def readPte (s : State) (w : Walker) (pa : Nat) : Except Nat Pte :=
  if !inSilo pa then .error 0x08
  else if poisonedIn s pa 8 then .error 0x0A
  else if w.sb.any (fun e => e.touches pa 8) then .error 0
  else .ok { addr := pa, bits := leNat (viewBytes s w.reader w.die pa 8 pa) }

/-- The index bits that lead to an entry of a step. -/
def upperIndex (va step : Nat) : Nat := va / 2 ^ (48 - 9 * step)

/-- An upper entry that a die holds (R345). -/
def upperFind (s : State) (w : Walker) (second : Bool) (step va : Nat) : Option Pte :=
  ((dieAt s w.die).upper.find? (fun u => u.ctx == w.ctx && u.second == second && u.step == step &&
    u.index == upperIndex va step)).map (fun u => { addr := u.addr, bits := u.bits })

/-- An entry of a stage's tables: as the die holds it, or as `rd` reads it. -/
def stepEntry (s : State) (w : Walker) (second : Bool) (va : Nat) (rd : Nat → Except Nat Pte) (step a : Nat) : Except Nat Pte :=
  match upperFind s w second step va with
  | some e => .ok e
  | none => rd a

/-- One stage's walk from a root. A root of zero has no tables (R338). -/
def walkRoot (s : State) (w : Walker) (second : Bool) (rd : Nat → Except Nat Pte) (root va : Nat) : LeafRes :=
  if root = 0 then .error 0x07 else walkFrom (stepEntry s w second va rd) va 5 0 root []

/-- The address a leaf gives. -/
def leafAddr (step : Nat) (e : Pte) (a : Nat) : Nat := e.frame / leafSize step e * leafSize step e + a % leafSize step e

/-- The second stage of a guest for a guest-physical address (R343): its leaf and the physical address. -/
def stageTwo (s : State) (w : Walker) (gpa : Nat) : Except Nat (Leaf × Nat) :=
  if 2 ^ 52 ≤ gpa then .error 0x08
  else (walkRoot s w true (readPte s w) (ctxAt s w.ctx).gptbase.toNat gpa).map (fun l => (l, leafAddr l.step l.pte gpa))

/-- An entry of a guest's own tables, read through the second stage. [log 108 DEDUCED] -/
def readGuestPte (s : State) (w : Walker) (gpa : Nat) : Except Nat Pte :=
  match stageTwo s w gpa with
  | .error c => .error c
  | .ok (l, pa) => if l.pte.has 1 then readPte s w pa else .error 0x08

/-- Where the first entry of a leaf's group lies, which keeps A and D (R340). -/
def groupFirst (step : Nat) (e : Pte) : Nat :=
  if e.has 9 ∧ step = 4 then e.addr / 128 * 128 else if e.has 9 ∧ step = 3 then e.addr / 256 * 256 else e.addr

/-- The entry that keeps A and D for a leaf, as the walker reads it. A table never crosses a page, so a guest's first entry lies in
the same physical page as the leaf. -/
def markOf (s : State) (w : Walker) (l : Leaf) : Except Nat Pte :=
  if groupFirst l.step l.pte = l.pte.addr then .ok l.pte else readPte s w (groupFirst l.step l.pte)

/-- What a walk gives: the translation, the entries that keep its A and D, the second-stage leaves through which it has read a guest's
tables, those among them through which the guest's own A and D are written, the upper entries that it went through, and where the
entries that it has read lie. -/
structure Walked where
  entry   : TlbEntry
  marks   : List Pte
  through : List Pte
  under   : List Pte
  upper   : List UpperEntry
  reads   : List Nat
  deriving DecidableEq, Repr

/-- The upper entries of a stage's walk. -/
def upperOf (ctx : Nat) (second : Bool) (va : Nat) (path : List (Nat × Pte)) : List UpperEntry :=
  path.map (fun x => { ctx := ctx, second := second, step := x.1, index := upperIndex va x.1, addr := x.2.addr, bits := x.2.bits })

/-- A translation of a context for an address and a size, its A and D not seen. -/
def tlbEntry (ctx va size pa : Nat) (r w x u dev spec : Bool) : TlbEntry :=
  { ctx := ctx, va := va / size * size, size := size, pa := pa / size * size, r := r, w := w, x := x, u := u, dev := dev,
    spec := spec, aSeen := false, dSeen := false }

/-- Where the entries of a stage that a walk has read lie, each with its step: those that the die did not hold. -/
def readSteps (s : State) (w : Walker) (second : Bool) (va : Nat) (l : Leaf) : List (Nat × Nat) :=
  (l.path.filter (fun x => (upperFind s w second x.1 va).isNone)).map (fun x => (x.1, x.2.addr)) ++ [(l.step, l.pte.addr)]

/-- The guest-physical addresses of the entries that a guest's walk has read, from its root (R343). -/
def guestAddrs (s : State) (w : Walker) (root va : Nat) (l : Leaf) : List Nat :=
  let tables := root :: l.path.map (fun x => x.2.frame)
  (readSteps s w false va l).map (fun x => tables.getD x.1 0 + 8 * stepIndex va x.1)

/-- The second-stage walks for some guest-physical addresses. -/
def throughOf (s : State) (w : Walker) (gpas : List Nat) : List (Nat × Leaf) :=
  gpas.filterMap (fun a => match stageTwo s w a with
    | .ok (l, _) => some (a, l)
    | .error _ => none)

/-- The entries that keep A and D for some leaves of the second stage. -/
def markAll (s : State) (w : Walker) (ls : List Leaf) : Except Nat (List Pte) := ls.mapM (fun l => markOf s w l)

/-- A walk of a context's tables for a virtual address (R338, R343, R344). -/
def walkTables (s : State) (w : Walker) (va : Nat) : Except Nat Walked :=
  let pt := (ctxAt s w.ctx).ptbase.toNat
  if (ctxAt s w.ctx).gptbase = 0 then
    match walkRoot s w false (readPte s w) pt va with
    | .error c => .error c
    | .ok l =>
      (markOf s w l).map (fun m =>
        { entry := tlbEntry w.ctx va (leafSize l.step l.pte) (leafAddr l.step l.pte va) (l.pte.has 1) (l.pte.has 2) (l.pte.has 3)
            (l.pte.has 4) (l.pte.has 8) (l.pte.has 7)
          marks := [m], through := [], under := [], upper := upperOf w.ctx false va l.path
          reads := (readSteps s w false va l).map (fun x => x.2) })
  else
    match walkRoot s w false (readGuestPte s w) pt va with
    | .error c => .error c
    | .ok l =>
      match stageTwo s w (leafAddr l.step l.pte va) with
      | .error c => .error c
      | .ok (l2, pa) =>
        let gpa := leafAddr l.step l.pte va
        let thru := throughOf s w (guestAddrs s w pt va l)
        match markOf s w l, markOf s w l2, markAll s w (thru.map (fun x => x.2)), markAll s w ((thru.getLast?.map (fun x => x.2)).toList) with
        | .ok m, .ok m2, .ok ts, .ok us =>
          .ok {
            entry := tlbEntry w.ctx va (min (leafSize l.step l.pte) (leafSize l2.step l2.pte)) pa (l.pte.has 1 && l2.pte.has 1)
              (l.pte.has 2 && l2.pte.has 2) (l.pte.has 3 && l2.pte.has 3) (l.pte.has 4) (l.pte.has 8 || l2.pte.has 8)
              (l.pte.has 7 && l2.pte.has 7)
            marks := [m, m2]
            through := ts
            under := us
            upper := thru.flatMap (fun x => upperOf w.ctx true x.1 x.2.path) ++ upperOf w.ctx false va l.path ++
              upperOf w.ctx true gpa l2.path
            reads := thru.flatMap (fun x => (readSteps s w true x.1 x.2).map (fun y => y.2)) ++
              (readSteps s w false va l).map (fun x => x.2) ++ (readSteps s w true gpa l2).map (fun x => x.2) }
        | .error c, _, _, _ => .error c
        | _, .error c, _, _ => .error c
        | _, _, .error c, _ => .error c
        | _, _, _, .error c => .error c

/-! ## Permissions (R341 items 3 and 4) -/

/-- A translation permits an access in a mode. -/
def permits (t : TlbEntry) (m : Mode) (k : Access) : Bool :=
  (match k with
   | .read => t.r
   | .write => t.w
   | .update => t.r && t.w
   | .atomic _ => t.r && t.w
   | .fetch => t.x && !t.dev) && (m == .supervisor || t.u)

/-- The physical address of a virtual one under a translation. -/
def TlbEntry.phys (t : TlbEntry) (va : Nat) : Nat := t.pa + va % t.size

/-- First physical address of the device registers. -/
def deviceBase : Nat := 0x1000000000000

/-- The fault of a barrel core's access to a device register (R364): only the registers of the function mailboxes answer it,
every other region refuses it, and a reserved offset is no address. -/
def deviceFault (pa : Nat) : Option Nat :=
  let off := pa - deviceBase
  if off < 0x09040000 ∨ (0x10000000 ≤ off ∧ off < 0x10001000) ∨ (0x30000000 ≤ off ∧ off < 0x30010000) then some 0x08
  else if 0x20000000 ≤ off ∧ off < 0x20210000 then
    (let o := off % 0x10000
     if o < 0x10 ∨ (0x1000 ≤ o ∧ o < 0x3000) then none else some 0x06)
  else some 0x06

/-- An atomic that is none of the three of PCI Express is refused on host memory, and every atomic on a device page
(R189). -/
def atomicRefused (t : TlbEntry) (k : Access) (va : Nat) : Bool :=
  match k with
  | .atomic pcie => t.dev || (inHost (t.phys va) && !pcie)
  | _ => false

/-- The fault of an access through a translation, if any: what R341 and R189 refuse, and then the physical range. [log 52 DEDUCED] -/
def refusal (s : State) (t : TlbEntry) (m : Mode) (k : Access) (va : Nat) : Option Nat :=
  if !permits t m k || atomicRefused t k va then some 0x08
  else if !physExists s (t.phys va) then some 0x06
  else if inDevice (t.phys va) then (if t.dev then deviceFault (t.phys va) else some 0x08)
  else none

/-! ## The translations that are held (R345) -/

/-- A translation of a context covers an address. -/
def TlbEntry.covers (t : TlbEntry) (ctx va : Nat) : Bool := t.ctx == ctx && decide (va / t.size * t.size = t.va)

/-- The translation that a core finds for an address: in its own TLB, its flock's, or its die's. [log 87 DESIGN CHOICE] -/
def tlbFind (s : State) (core ctx va : Nat) : Option TlbEntry :=
  ((coreAt s core).tlb.find? (fun t => t.covers ctx va)).or
    (((flockAt s (flockOf core)).tlb.find? (fun t => t.covers ctx va)).or
      ((dieAt s (dieOf core)).tlb.find? (fun t => t.covers ctx va)))

/-- Where an access leads, or why not. -/
inductive TRes where
  | ok (t : Target)
  | fault (cause : Nat)
  /-- A table walk is needed for an address. -/
  | miss (va : Nat)
  /-- The data of a parison buffer is in flight (R75). -/
  | landing (buf : Nat)
  /-- The refetch of a parison buffer met a fault (R248); none once that fault has been raised for its replay. -/
  | refetch (core slot buf : Nat) (fault : Option (Nat × Word))
  deriving DecidableEq, Repr

/-- Writes and atomics need D (R348). -/
def setsDirty : Access → Bool
  | .write | .update | .atomic _ => true
  | .read | .fetch => false

/-- A translated access: it misses where no translation is held, or one that has not seen A, or D for a write (R348); a context with
no tables has no page at all (R338). -/
def translate (s : State) (core ctx : Nat) (m : Mode) (va : Nat) (k : Access) : TRes :=
  if (ctxAt s ctx).ptbase = 0 then .fault 0x07
  else match tlbFind s core ctx va with
  | none => .miss va
  | some t =>
    match refusal s t m k va with
    | some c => .fault c
    | none =>
      if t.aSeen && (!setsDirty k || t.dSeen) then .ok (.phys (t.phys va) t.dev) else .miss va

/-- The backing address of an offset in the aperture (R83). Where ESCBASE places it past the translated space, no table maps it
(R338): it is no address. [log 86 DESIGN CHOICE] -/
def backing (base : Word) (va : Nat) : Except Nat Nat :=
  let a := base.toNat + (va - expertBase)
  if expertBase ≤ a then .error 0x06 else .ok a

/-! ## Region rules -/

/-- A buffer is between PFETCH and PCONF (R246). -/
def quarantined : BufState → Bool
  | .predicted | .unpredicted | .void => true
  | _ => false

/-- A read of the parison region (R75). -/
def parisonCheck (s : State) (core ctx va : Nat) : TRes :=
  let buf := (va - 0x40000) / 0x4000
  let p := (coreAt s core).parison.toList.getD buf Parison.reset
  if p.state = .free ∨ p.ctx ≠ ctx then .fault 0x06
  else if quarantined p.state then .fault 0x09
  else if p.state = .landed then .ok (.parison core buf ((va - 0x40000) % 0x4000))
  else if p.state = .faulted then .refetch core 0 buf p.fault
  else .landing buf

/-- A scratchpad byte of a core for a partition (R73). -/
def padCheck (s : State) (owner part off : Nat) : TRes :=
  if bankPart (coreAt s owner) (off / 0x4000) = part then .ok (.pad owner off) else .fault 0x08

/-- An access through the global aperture (R74). -/
def apertureCheck (s : State) (core ctx part va : Nat) : TRes :=
  let n := (va - apertureBase) / 0x100000
  let off := (va - apertureBase) % 0x100000
  if 0x40000 ≤ off then .fault 0x06
  else if !inSpan s core part ctx n then .fault 0x08
  else padCheck s n part off

/-- The checks of Table 9.1 up to step 6 for one access of a slot's thread. -/
def checkAddr (s : State) (core slot : Nat) (addr : Word) (size : Nat) (k : Access) : TRes :=
  let sl := slotAt s core slot
  let va := addr.toNat
  let region := regionOf va
  let part := partOf (coreAt s core) slot
  if region = .reserved then .fault 0x06
  else if sl.pair = .execute ∧ (region = .pad ∨ region = .parison ∨ region = .aperture) then .fault 0x06
  else if va % size ≠ 0 then .fault 0x05
  else match region with
    | .pad => padCheck s core part va
    | .aperture => apertureCheck s core sl.ctx part va
    | .parison =>
      if k = .read then
        (match parisonCheck s core sl.ctx va with
         | .refetch c _ b f => .refetch c slot b f
         | r => r)
      else .fault 0x08
    | .expert =>
      let base := (ctxAt s sl.ctx).escbase
      if k ≠ .read ∨ base = 0 then .fault 0x08
      else match backing base va with
        | .error c => .fault c
        | .ok a => translate s core sl.ctx sl.mode a k
    | .ordinary => translate s core sl.ctx sl.mode va k
    | .reserved => .fault 0x06

/-- The checks for an atomic. -/
def checkAtomic (s : State) (core slot : Nat) (addr : Word) (size : Nat) (pcie : Bool) : TRes :=
  checkAddr s core slot addr size (.atomic pcie)

/-- Several pieces of one access checked in order: the targets, or the first that fails, with its address. [log 29 DEDUCED] -/
def checkPieces (s : State) (core slot : Nat) (addr : Word) (size : Nat) (k : Access) :
    Nat → Except (TRes × Word) (List Target)
  | 0 => .ok []
  | n + 1 =>
    match checkAddr s core slot addr size k with
    | .ok t => (checkPieces s core slot (addr + word size) size k n).map (fun ts => t :: ts)
    | r => .error (r, addr)

/-! ## The end of a walk (R341, R345, R348) -/

/-- The pages for which a die's walks work (R345): misses to one page of one context join one walk. -/
def walksOf (s : State) (die : Nat) : List (Nat × Nat) :=
  (s.slots.filterMap (fun x => match x.2.wait with
    | .walk va _ _ true => if dieOf (x.1 / 16) = die then some (x.2.ctx, va.toNat / 4096) else none
    | _ => none)).eraseDups

/-- A walk for a page may begin, or one is in flight already: fewer than `most` walks are in flight (R345, R352). -/
def walkRoom (s : State) (die ctx va most : Nat) : Bool :=
  decide ((walksOf s die).length < most) || (walksOf s die).contains (ctx, va / 4096)

/-- Walks in flight on a die, and how many there may be for a speculative fetch to begin one. -/
def walkLimit : Nat := 64
/-- For a speculative fetch (R352). -/
def specLimit : Nat := 48

/-- An entry has changed at its home since the walker read it, so that V is clear or its PPN differs (R348). -/
def Pte.stale (s : State) (e : Pte) : Bool :=
  let now : Pte := { addr := e.addr, bits := memNat s e.addr 8 }
  (e.v && !now.v) || now.frame != e.frame

/-- An entry whose A, or whose D if that is asked for, a walk has not seen set. -/
def Pte.lacks (e : Pte) (dirty : Bool) : Bool := !e.has 5 || (dirty && !e.has 6)

/-- The entries that an access through a walk's translation marks, each with whether D is set in it: both stages' leaves, the
second-stage leaves through which the walk has read a guest's tables, and for a write that through which the guest's own leaf is
marked (R344, R348). [log 108 DEDUCED] -/
def Walked.needs (r : Walked) (dirty : Bool) : List (Pte × Bool) :=
  let l := (r.marks.map (fun e => (e, dirty)) ++ r.through.map (fun e => (e, false)) ++
    (if (r.marks.head?).any (fun e => e.lacks dirty) then r.under.map (fun e => (e, true)) else [])).filter (fun x => x.1.lacks x.2)
  l.eraseDups.filter (fun x => x.2 || !l.contains (x.1, true))

/-- A walk's marks set in its entries at their homes, as one OR on each (R348). -/
def markEntries (die : Nat) (needs : List (Pte × Bool)) : Micro := forAll needs (fun e => ask (fun s =>
  let w := unitWriter s (walkerParty die) true
  andThen (countWrite w) (writeHome w e.1.addr [memRead s.mem e.1.addr ||| (if e.2 then 0x60 else 0x20)])))

/-- A translation permits at least one kind of access (R346). -/
def TlbEntry.permitsSome (t : TlbEntry) : Bool := t.r || t.w || (t.x && !t.dev)

/-- Two translations of a context overlap. -/
def TlbEntry.overlaps (t x : TlbEntry) : Bool := x.ctx == t.ctx && decide (x.va < t.va + t.size ∧ t.va < x.va + x.size)

/-- A TLB of a capacity with a translation put in, in place of those it overlaps; where it is full, the oldest goes. [log 87 DESIGN CHOICE] -/
def putTlb (size : Nat) (t : TlbEntry) (l : List TlbEntry) : List TlbEntry := (t :: l.filter (fun x => !t.overlaps x)).take size

/-- Entries of a core's TLB, of a flock's and of a die's (R345). -/
def coreTlbSize : Nat := 64
/-- Of a flock's. -/
def flockTlbSize : Nat := 2048
/-- Of a die's. -/
def dieTlbSize : Nat := 16384

/-- Upper entries put among those a die holds, in place of those at the same indices. -/
def putUpper (us l : List UpperEntry) : List UpperEntry :=
  us ++ l.filter (fun x => !(us.any (fun u => u.ctx == x.ctx && u.second == x.second && u.step == x.step && u.index == x.index)))

/-- Translations that a TLB of a die lets go of: accesses on their way may have been made through them (R310). [log 32 DEDUCED] -/
def letGo (die : Nat) (ts : List TlbEntry) : Micro := onlyIf (!ts.isEmpty)
  (modDie die (fun d => { d with gone := ts.filter (fun t => !d.gone.contains t) ++ d.gone }))

/-- What a TLB of a capacity lets go of when a translation is put in. -/
def pushedOut (size : Nat) (t : TlbEntry) (l : List TlbEntry) : List TlbEntry := l.filter (fun x => !(putTlb size t l).contains x)

/-- A walk's translation held in the last-level TLB of a die, and its upper entries with it: one that permits some access (R346). -/
def installDie (die : Nat) (t : TlbEntry) (us : List UpperEntry) : Micro := ask (fun s =>
  onlyIf t.permitsSome (andThen (letGo die (pushedOut dieTlbSize t (dieAt s die).tlb))
    (modDie die (fun d => { d with tlb := putTlb dieTlbSize t d.tlb, upper := putUpper us d.upper }))))

/-- A walk's translation held at every level for a core. [log 87 DESIGN CHOICE] -/
def installTlb (core : Nat) (t : TlbEntry) (us : List UpperEntry) : Micro := ask (fun s => onlyIf t.permitsSome (doAll [
  letGo (dieOf core) (pushedOut coreTlbSize t (coreAt s core).tlb ++ pushedOut flockTlbSize t (flockAt s (flockOf core)).tlb),
  modCore core (fun c => { c with tlb := putTlb coreTlbSize t c.tlb }),
  modFlock (flockOf core) (fun f => { f with tlb := putTlb flockTlbSize t f.tlb }),
  installDie (dieOf core) t us]))

/-- The outcome of a walk for an access from a core: the fault, or the translation with the marks it makes. The walker walks again
where an entry that it must mark has changed at its home (R348). [log 45 DEDUCED] -/
def finishWalk (s : State) (core : Nat) (w : Walker) (m : Mode) (va : Nat) (k : Access) : Except Nat (TlbEntry × Micro) :=
  match walkTables s w va with
  | .error c => .error c
  | .ok r =>
    match refusal s r.entry m k va with
    | some c => .error c
    | none =>
      if (r.needs (setsDirty k)).any (fun x => x.1.stale s) then .error 0
      else
        let t := { r.entry with aSeen := true, dSeen := setsDirty k || r.marks.all (fun e => e.has 6) }
        .ok (t, doAll [sawWords w.reader r.reads, markEntries w.die (r.needs (setsDirty k)), installTlb core t r.upper])

/-- A translation found by a party that waits on no slot's walk: through what is held, or by a walk of its own. -/
def translateNow (s : State) (core : Nat) (w : Walker) (m : Mode) (va : Nat) (k : Access) : Except Nat (Target × Micro) :=
  match translate s core w.ctx m va k with
  | .ok t => .ok (t, skip)
  | .fault c => .error c
  | _ =>
    if walkRoom s w.die w.ctx va walkLimit then
      (finishWalk s core w m va k).map (fun x => (.phys (x.1.phys va) x.1.dev, x.2))
    else .error 0

/-- A TLB lets go of a translation, or a die of an upper entry, at any moment (R345, R346). [log 87 DESIGN CHOICE] -/
def dropTlb (level : TlbLevel) (k : Nat) : Micro :=
  match level with
  | .core n => ask (fun s => andThen (letGo (dieOf n) ((coreAt s n).tlb[k]?).toList)
      (modCore n (fun c => { c with tlb := c.tlb.eraseIdx k })))
  | .flock n => ask (fun s => andThen (letGo (dieOf (n * 8)) ((flockAt s n).tlb[k]?).toList)
      (modFlock n (fun f => { f with tlb := f.tlb.eraseIdx k })))
  | .die n => ask (fun s => andThen (letGo n ((dieAt s n).tlb[k]?).toList)
      (modDie n (fun d => { d with tlb := d.tlb.eraseIdx k })))
  | .upper n => modDie n (fun d => { d with upper := d.upper.eraseIdx k })

end Sys2Proof.Machine
end

