-- ==== Sys2Proof/Machine/Pipeline.lean ====
section
/-! DEFINITION. A bundle from its issue to its end: the registers a word names as destinations (R6), what a faulting word
writes under IGNORE (R33), containment (R32–R34, R297), faults and their replay (R302, R303), and the ways a C word's meaning
goes on: it faults, it waits, or it acts (R5, R6, R113). -/

namespace Sys2Proof.Machine

/-! ## Destinations -/

/-- A destination of a word. -/
inductive Dst where
  | g (r : Fin 32)
  | p (r : Fin 8)
  | b (regs : List (Fin 64))
  deriving DecidableEq, Repr

/-- The registers of a block destination that lie in the grid. -/
def destBlock (v : Fin 64) (h w : Nat) : List (Fin 64) :=
  (List.range h).flatMap (fun i => (List.range w).filterMap (fun j =>
    if v.val / 16 + i < 4 ∧ v.val % 16 + j < 16 then some (gridReg (v.val / 16 + i) (v.val % 16 + j)) else none))

/-- The registers that an instruction word writes. [log 51 and 96 DEDUCED] -/
def destsOf (i : Instr) : List Dst :=
  match i with
  | .add d _ _ _ => [.g d]
  | .sub d _ _ _ => [.g d]
  | .and_ d _ _ _ => [.g d]
  | .or_ d _ _ _ => [.g d]
  | .xor_ d _ _ _ => [.g d]
  | .andn d _ _ _ => [.g d]
  | .shl d _ _ _ => [.g d]
  | .shr d _ _ _ => [.g d]
  | .sar d _ _ _ => [.g d]
  | .mul d _ _ _ => [.g d]
  | .mulh d _ _ _ => [.g d]
  | .mulhu d _ _ _ => [.g d]
  | .div d _ _ _ => [.g d]
  | .divu d _ _ _ => [.g d]
  | .rem d _ _ _ => [.g d]
  | .remu d _ _ _ => [.g d]
  | .min d _ _ _ => [.g d]
  | .max d _ _ _ => [.g d]
  | .minu d _ _ _ => [.g d]
  | .maxu d _ _ _ => [.g d]
  | .clz d _ _ => [.g d]
  | .ctz d _ _ => [.g d]
  | .popc d _ _ => [.g d]
  | .sel d _ _ _ => [.g d]
  | .addsl1 d _ _ _ => [.g d]
  | .addsl2 d _ _ _ => [.g d]
  | .addsl3 d _ _ _ => [.g d]
  | .addsl4 d _ _ _ => [.g d]
  | .cmpeq d _ _ _ => [.p d]
  | .cmpne d _ _ _ => [.p d]
  | .cmplt d _ _ _ => [.p d]
  | .cmple d _ _ _ => [.p d]
  | .cmpltu d _ _ _ => [.p d]
  | .cmpleu d _ _ _ => [.p d]
  | .pand d _ _ _ => [.p d]
  | .por d _ _ _ => [.p d]
  | .pxor d _ _ _ => [.p d]
  | .pandn d _ _ _ => [.p d]
  | .addi d _ _ => [.g d]
  | .andi d _ _ => [.g d]
  | .ori d _ _ => [.g d]
  | .xori d _ _ => [.g d]
  | .shli d _ _ => [.g d]
  | .shri d _ _ => [.g d]
  | .sari d _ _ => [.g d]
  | .li d _ => [.g d]
  | .lis d _ _ => [.g d]
  | .cmpeqi d _ _ => [.p d]
  | .cmplti d _ _ => [.p d]
  | .cmpltui d _ _ => [.p d]
  | .bfx d _ _ _ => [.g d]
  | .bfi d _ _ _ => [.g d]
  | .fadd d _ _ _ _ => [.g d]
  | .fsub d _ _ _ _ => [.g d]
  | .fmul d _ _ _ _ => [.g d]
  | .fdiv d _ _ _ _ => [.g d]
  | .fsqrt d _ _ _ => [.g d]
  | .fmin d _ _ _ _ => [.g d]
  | .fmax d _ _ _ _ => [.g d]
  | .ffma d _ _ _ _ => [.g d]
  | .fabs d _ _ _ => [.g d]
  | .fneg d _ _ _ => [.g d]
  | .fclass d _ _ _ => [.g d]
  | .fcvti d _ _ _ _ => [.g d]
  | .fcvtf d _ _ _ _ => [.g d]
  | .fcvtp d _ _ _ => [.g d]
  | .fcmpeq d _ _ _ _ => [.p d]
  | .fcmplt d _ _ _ _ => [.p d]
  | .fcmple d _ _ _ _ => [.p d]
  | .fcmpun d _ _ _ _ => [.p d]
  | .badd d _ _ h w => [.b (destBlock d (rows h) (cols w))]
  | .bsub d _ _ h w => [.b (destBlock d (rows h) (cols w))]
  | .bmul d _ _ h w => [.b (destBlock d (rows h) (cols w))]
  | .bfma d _ _ h w => [.b (destBlock d (rows h) (cols w))]
  | .bmin d _ _ h w => [.b (destBlock d (rows h) (cols w))]
  | .bmax d _ _ h w => [.b (destBlock d (rows h) (cols w))]
  | .band d _ _ h w => [.b (destBlock d (rows h) (cols w))]
  | .bor d _ _ h w => [.b (destBlock d (rows h) (cols w))]
  | .bxor d _ _ h w => [.b (destBlock d (rows h) (cols w))]
  | .bdot d _ _ _ _ => [.b (destBlock d 4 1)]
  | .bred d _ _ h _ => [.b (destBlock d (rows h) 1)]
  | .bcmplt d _ _ h w => [.b (destBlock d (rows h) (cols w))]
  | .bsel d _ _ h w => [.b (destBlock d (rows h) (cols w))]
  | .bmov d _ h w => [.b (destBlock d (rows h) (cols w))]
  | .bneg d _ h w => [.b (destBlock d (rows h) (cols w))]
  | .babs d _ h w => [.b (destBlock d (rows h) (cols w))]
  | .bexp2 d _ h w => [.b (destBlock d (rows h) (cols w))]
  | .blog2 d _ h w => [.b (destBlock d (rows h) (cols w))]
  | .brcp d _ h w => [.b (destBlock d (rows h) (cols w))]
  | .brsq d _ h w => [.b (destBlock d (rows h) (cols w))]
  | .bsigm d _ h w => [.b (destBlock d (rows h) (cols w))]
  | .btanh d _ h w => [.b (destBlock d (rows h) (cols w))]
  | .bsqrt d _ h w => [.b (destBlock d (rows h) (cols w))]
  | .brelu d _ h w => [.b (destBlock d (rows h) (cols w))]
  | .bcvt d _ _ h w => [.b (destBlock d (rows h) (cols w))]
  | .bscal d _ _ h w => [.b (destBlock d (rows h) (cols w))]
  | .badds d _ _ h w => [.b (destBlock d (rows h) (cols w))]
  | .bbcst d _ h w => [.b (destBlock d (rows h) (cols w))]
  | .bget _ _ g _ _ => [.g g]
  | .bset d _ _ h w => [.b (destBlock d (rows h) (cols w))]
  | .bgnorm d _ g h w => [.g g, .b (destBlock d (rows h) (cols w))]
  | .bshuf d _ _ h w => [.b (destBlock d (rows h) (cols w))]
  | .bscl d _ _ h w => [.b (destBlock d (rows h) (cols w))]
  | .jal l _ => [.g l]
  | .jalr d _ _ _ => [.g d]
  | .ld8 t _ _ _ _ => [.g t]
  | .ld8U t _ _ _ _ => [.g t]
  | .ld16 t _ _ _ _ => [.g t]
  | .ld16U t _ _ _ _ => [.g t]
  | .ld32 t _ _ _ _ => [.g t]
  | .ld32U t _ _ _ _ => [.g t]
  | .ld64 t _ _ _ _ => [.g t]
  | .ldv v _ _ h w _ => [.b (destBlock v (rows h) (cols w))]
  | .aadd d _ _ _ _ _ => [.g d]
  | .aaddf d _ _ _ _ _ => [.g d]
  | .amin d _ _ _ _ _ => [.g d]
  | .amax d _ _ _ _ _ => [.g d]
  | .aminu d _ _ _ _ _ => [.g d]
  | .amaxu d _ _ _ _ _ => [.g d]
  | .aand d _ _ _ _ _ => [.g d]
  | .aor d _ _ _ _ _ => [.g d]
  | .axor d _ _ _ _ _ => [.g d]
  | .aswp d _ _ _ _ _ => [.g d]
  | .acas d _ _ _ _ _ => [.g d]
  | .sendt p _ _ => [.p p]
  | .recv d _ => [.g d]
  | .recvt d p _ => [.g d, .p p]
  | .alt d _ => [.g d]
  | .chstat d _ => [.g d]
  | .spawn p _ => [.p p]
  | .spawnat p _ _ => [.p p]
  | .taskinfo d _ => [.g d]
  | .mwait d _ => [.g d]
  | .uimask d _ => [.g d]
  | .jpoll p _ => [.p p]
  | .jwait d _ => [.g d]
  | .rdc d _ => [.g d]
  | .mxma d _ => [.g d]
  | .mxq d => [.g d]
  | .ringq d _ => [.g d]
  | .cpy d _ => [.g d]
  | .cpym d _ => [.g d]
  | .cpyq d _ => [.g d]
  | .pfetch d _ _ => [.g d]
  | .pfget d _ => [.g d]
  | .pfstat d _ => [.g d]
  | .aejob d _ => [.g d]
  | .aeres d _ => [.g d]
  | .escreq d _ => [.g d]
  | .escq d _ => [.g d]
  | .kvxl d _ _ => [.g d]
  | .kvins d _ _ => [.g d]
  | .kvdel d _ _ => [.g d]
  | .kvexp d _ _ => [.g d]
  | .kvimp d _ => [.g d]
  | .pcommit d _ => [.g d]
  | .pdecommit d _ => [.g d]
  | .pprobe d _ => [.g d]
  | _ => []

/-- Two destinations are the same one (R6). -/
def sameDst : Dst → Dst → Bool
  | .g a, .g b => a == b && a.val != 0
  | .p a, .p b => a == b && a.val != 0
  | .b l, .b m => l.any (fun x => m.contains x)
  | _, _ => false

/-- The destinations that a word names (R6): BRED's operand d has the word's whole extent (R122), of which it writes column 0
(R177). [log 96 DEDUCED] -/
def namedOf (i : Instr) : List Dst :=
  match i with
  | .bred d _ _ h w => [.b (destBlock d (rows h) (cols w))]
  | i => destsOf i

/-- A pair whose words name the same destination. [log 96 DEDUCED] -/
def clash (c a : Instr) : Bool := (namedOf c).any (fun x => (namedOf a).any (sameDst x))

/-! ## What a faulting word writes under IGNORE (R33) -/

/-- A block register filled with the value of R33 for the active format. -/
def ignoredQuad (core : Nat) (sl : Slot) : Quad :=
  match elemOf (bitsNat (descriptorAt sl 0) 3 0) with
  | none => 0
  | some f =>
    let v := if isFloat f then nanBits f false true (createdPayload core 0) else zeroElem f
    packLanes f (List.replicate (laneCount f) v)

/-- The writes of R33 for a word. [log 51 DEDUCED] -/
def ignored (core : Nat) (sl : Slot) (i : Instr) : AEffect :=
  (destsOf i).foldl (fun e d =>
    match d with
    | .g r => { e with g := e.g ++ [(r, 0)] }
    | .p r => { e with p := e.p ++ [(r, false)] }
    | .b l => { e with b := e.b ++ l.map (fun r => (r, ignoredQuad core sl)) }) AEffect.nothing

/-! ## Steps of the machine -/

/-- The package has its supply and its clocks (R358, R375). -/
def running (s : State) : Bool := s.pkg.powered && !s.pkg.trip

/-- A core exists, its die is in service, and its clock runs. [log 84 DEDUCED] -/
def coreUp (s : State) (core : Nat) : Bool := running s && decide (core < coreCount) && bitAt s.pkg.dies (dieOf core)

/-- A flock exists, its die is in service, and its clock runs. -/
def flockUp (s : State) (flock : Nat) : Bool := coreUp s (flock * 8)

/-- A step of a core, where the core works. [log 11 DESIGN CHOICE] -/
def coreStep (s : State) (core : Nat) (f : Micro) : Host.Outcome State Fault Refusal :=
  commit s (onlyIf (coreUp s core) f)

/-- A step of a slot, where the core works and has that slot. -/
def slotStep (s : State) (core slot : Nat) (f : Micro) : Host.Outcome State Fault Refusal :=
  commit s (onlyIf (coreUp s core && decide (slot < 16)) f)

/-- A step of a flock's unit, where the flock works. [log 11 DESIGN CHOICE] -/
def flockStep (s : State) (flock : Nat) (f : Micro) : Host.Outcome State Fault Refusal :=
  commit s (onlyIf (flockUp s flock) f)

/-! ## Traffic -/

/-- A message on its way (R36, R37). -/
def sendMsg (fromCore fromPort core port ctx slot mark : Nat) (k : MsgKind) : Micro :=
  andThen (fun s => [.msgs (s.msgs ++
    [{ id := s.tick, fromCore := fromCore, fromPort := fromPort, core := core, port := port, ctx := ctx, slot := slot,
       mark := mark, kind := k }])]) bump

/-- A request on its way to its home (R105). -/
def sendReq (core slot ctx home : Nat) (k : ReqKind) (tgt : Target) (cells : List Host.Cell) (w : Writer) : Micro :=
  andThen (fun s => [.reqs (s.reqs ++
    [{ id := s.tick, core := core, ctx := ctx, home := home, kind := k, tgt := tgt, bytes := cells,
       who := whoOf s core slot, by_ := w }])]) bump

/-! ## Ports that are let go (R193) -/

/-- Port number of a port name (R35). -/
def portOfName (n : W32) : Nat := bitsNat n 16 12

/-- Core of a port name. -/
def coreOfName (n : W32) : Nat := bitsNat n 11 0

/-- The name of a port. -/
def portName (core port : Nat) : W32 := BitVec.ofNat 32 (port * 0x1000 + core)

/-- A port of a core. -/
def portAt (s : State) (core port : Nat) : Port := (coreAt s core).ports.toList.getD port Port.reset

/-- A port changed. -/
def modPort (core port : Nat) (f : Port → Port) : Micro :=
  modCore core (fun c => if h : port < 32 then { c with ports := c.ports.set port (f (c.ports.get ⟨port, h⟩)) h } else c)

/-- Both ends of a port's channel are bound to each other (R35). -/
def live (s : State) (core port : Nat) : Bool :=
  let p := portAt s core port
  let q := portAt s (coreOfName p.far) (portOfName p.far)
  p.owner.isSome && q.owner.isSome && q.far == portName core port && p.recv != q.recv && p.stream.isNone &&
  q.stream.isNone

/-- Words on their way to a port from its far end. [log 26 DEDUCED] -/
def wordsTo (s : State) (core port : Nat) : Nat :=
  (s.msgs.filter (fun m => m.core == core && m.port == port &&
    (match m.kind with
     | .word _ => true
     | _ => false))).length

/-- A message is a word for a port. -/
def Msg.isWordFor (m : Msg) (core port : Nat) : Bool :=
  match m.kind with
  | .word _ => m.core == core && m.port == port
  | _ => false

/-- A message is a grant for a port. -/
def Msg.isGrantFor (m : Msg) (core port : Nat) : Bool :=
  match m.kind with
  | .grant _ => m.core == core && m.port == port
  | _ => false

/-- A message is a grant that a port has made. -/
def Msg.isGrantOf (m : Msg) (core port : Nat) : Bool :=
  match m.kind with
  | .grant _ => m.fromCore == core && m.fromPort == port
  | _ => false

/-- A stream copy cancelled: its job ends (R240). -/
def cancelStream (core ctx n : Nat) : Micro := modJobs (fun js => js.map (fun j =>
  if j.kind = 2 ∧ j.core = core ∧ j.ctx = ctx ∧ j.n = n then { j with state := .done } else j))

/-- The allowance of a port replaced: in the port, or in the lehr image that holds it (Table 17.6). -/
def setAllow (core port n : Nat) : Micro := ask (fun s =>
  let p := portAt s core port
  if p.saved then
    match p.owner.bind (fun o => (coreAt s core).divert.toList.find? (fun d => d.state != .off && d.ctx == o.ctx)) with
    | some d => modCore core (fun c => { c with
        lehrQ := c.lehrQ ++ [.write [(d.base.toNat + 0x41007 + 16 * port,
          BitVec.ofNat 8 n)] none] })
    | none => skip
  else modPort core port (fun q => if q.recv then { q with granted := n } else { q with allow := n }))

/-- A port let go. A stream copy that feeds it is cancelled. A sender drops its allowance, and its receiver counts only the words still on their way. A receiver
revokes its sender's allowance, and the words on their way and in its queue are discarded (R193). -/
def closePort (core port : Nat) : Micro := ask (fun s =>
  let p := portAt s core port
  let fc := coreOfName p.far
  let fp := portOfName p.far
  doAll [
    (match p.stream, p.owner with
     | some n, some o => cancelStream core o.ctx n
     | _, _ => skip),
    onlyIf (live s core port && !p.recv) (setAllow fc fp (wordsTo s fc fp)),
    onlyIf (live s core port && p.recv) (setAllow fc fp 0),
    (fun s => [.msgs (s.msgs.filter (fun m =>
      !(if p.recv then m.isWordFor core port || m.isGrantOf core port else m.isGrantFor core port)))]),
    modPort core port (fun _ => Port.reset)])

/-- A slot's watch disarmed (R201, R206). -/
def disarm (core slot : Nat) : Micro :=
  modCore core (fun c => { c with watches := c.watches.filter (fun w => w.slot != slot) })

/-- Every endpoint of a slot unbound (R28, R201). -/
def closeAll (core slot : Nat) : Micro := ask (fun s =>
  andThen (forAll ((slotAt s core slot).q.toList.filterMap id) (closePort core))
    (modSlot core slot (fun sl => { sl with q := Vector.replicate 8 none })))

/-- The access/execute pair of a slot dissolved (R42). -/
def dissolve (core slot : Nat) : Micro := ask (fun s =>
  let other := (slot + 8) % 16
  onlyIf ((slotAt s core slot).pair != .unpaired) (andThen
    (modSlot core slot (fun sl => { sl with pair := .unpaired }))
    (modSlot core other (fun sl => { sl with pair := .unpaired }))))

/-! ## The end of a bundle -/

/-- The effect of the A word of the bundle in flight, as its registers stand: what was put in its place when its own fault was
ignored, or what it does; a fault is its cause. [log 13 DEDUCED] -/
def companion (core : Nat) (sl : Slot) (iss : Issue) : Except Nat (Option AOut) :=
  match iss.aOver with
  | some e => .ok (some { eff := e, kind := .now })
  | none =>
    if iss.aBad then .error 0x01
    else match iss.a with
      | none => .ok none
      | some i =>
        match aEffect core sl i with
        | none => .ok none
        | some (.ok o) => .ok (some o)
        | some (.error c) => .error c

/-- A bundle whose C word is done: it waits only for its A word, if at all. -/
def Slot.doneAt (sl : Slot) (next : Word) : Slot :=
  { sl with issue := none, wait := .none, stall := none, passed := none, regs := { sl.regs with pc := next } }

/-- The A word's writes without its advance of RSEED, where the C word wrote RSEED (R156). [log 60 DEDUCED] -/
def AEffect.keepSeed (e : AEffect) (own : Bool) : AEffect := if own then { e with rseed := none } else e

/-- An A word begun: a unit takes it, and its writes wait until the bundle's C word is done (R6, R135, R163). [log 70 DEDUCED] -/
def startUnit (core slot : Nat) (e : AEffect) : AKind → Micro
  | .now => skip
  | .long => andThen (modSlot core slot (fun sl => { sl with await := .long e }))
      (modCore core (fun c => { c with longQ := c.longQ.filter (fun k => k != slot) ++ [slot] }))
  | .block occ => ask (fun s =>
      let c := coreAt s core
      let f := max c.cycle c.blockFree + occ
      andThen (modSlot core slot (fun sl => { sl with await := .block e (f + 7) }))
        (modCore core (fun c => { c with blockFree := f })))

/-- The end of a bundle's C word (R6): its own change `f` of the slot, the next bundle, and the A word's writes or the start
of its unit. `own` says that the C word wrote RSEED. -/
def finishWith (core slot : Nat) (a : Option AOut) (f : Slot → Slot) (next : Option Word) (own : Bool) : Micro :=
  ask (fun s =>
    let sl := slotAt s core slot
    match sl.issue with
    | none => skip
    | some iss =>
      let npc := next.getD (iss.pc + word iss.size)
      match sl.await, a with
      | .none, some o =>
        (match o.kind with
         | .now => modSlot core slot (fun sl => applyEffect ((f sl).doneAt npc) (o.eff.keepSeed own))
         | k => andThen (modSlot core slot (fun sl => (f sl).doneAt npc)) (startUnit core slot (o.eff.keepSeed own) k))
      | .none, none => modSlot core slot (fun sl => (f sl).doneAt npc)
      | .long e, _ => modSlot core slot (fun sl => { (f sl).doneAt npc with await := .long (e.keepSeed own) })
      | .block e r, _ => modSlot core slot (fun sl => { (f sl).doneAt npc with await := .block (e.keepSeed own) r })
      | .kept e, _ => modSlot core slot (fun sl =>
          { applyEffect ((f sl).doneAt npc) (e.keepSeed own) with await := .none }))

/-- The A word of the bundle in flight, its fault having been decided. -/
def companionOut (core : Nat) (sl : Slot) : Option AOut :=
  match sl.issue with
  | none => none
  | some iss =>
    match companion core sl iss with
    | .ok o => o
    | .error _ => none

/-- The end of a bundle whose faults are all decided. -/
def endBundle (core slot : Nat) (f : Slot → Slot) (next : Option Word) (own : Bool) : Micro := ask (fun s =>
  finishWith core slot (companionOut core (slotAt s core slot)) f next own)

/-- The A word of a bundle begun while its C word waits. -/
def beginA (core slot : Nat) : Micro := ask (fun s =>
  match (slotAt s core slot).await, companionOut core (slotAt s core slot) with
  | .none, some o => startUnit core slot o.eff o.kind
  | _, _ => skip)

/-- A stall count begun (R305). -/
def stallOf (s : State) (core : Nat) (sl : Slot) (code : Nat) : Option Stall :=
  if code = 0 then none
  else match sl.stall with
    | some x => if x.code = code then some x else
        some { code := code, start := (coreAt s core).cycle, limit := sl.ctl.waitlim.toNat, posted := false }
    | none => some { code := code, start := (coreAt s core).cycle, limit := sl.ctl.waitlim.toNat, posted := false }

/-- A wait that ends with the bundle's C word: the A word's unit works meanwhile. -/
def waitFor (core slot : Nat) (w : Wait) (code : Nat) : Micro := andThen (beginA core slot) (ask (fun s =>
  modSlot core slot (fun sl => { sl with wait := w, stall := stallOf s core sl code })))

/-- The bundle in flight has reported its fault, which was ignored. -/
def Slot.muted (sl : Slot) : Bool := (sl.issue.map (fun iss => iss.muted)).getD false

/-- A wait as it begins: one for a table walk has one of the die's walks work for it, if there is room (R345). -/
def Wait.begun (s : State) (core slot : Nat) (w : Wait) : Wait :=
  match w with
  | .walk va k r _ => .walk va k r (walkRoom s (dieOf core) (slotAt s core slot).ctx va.toNat walkLimit)
  | w => w

/-- A wait after which the bundle issues again. A bundle that has reported its A word's fault does not report it again (R113). [log 14 DEDUCED] -/
def waitAgain (core slot : Nat) (w : Wait) (code : Nat) : Micro := ask (fun s =>
  modSlot core slot (fun sl =>
    { sl with
      wait := w.begun s core slot, await := .none, stall := stallOf s core sl code
      passed := if sl.muted then sl.issue.map (fun iss => iss.pc) else none }))

/-! ## Containment (R32–R34, R297) -/

/-- A fault of a bundle. -/
structure Trouble where
  cause : Nat
  value : Word
  write : Bool
  /-- No bundle of the task raised it. -/
  async : Bool := false
  /-- The handle of the job that raised it (R243). -/
  engine : Option Nat := none
  deriving DecidableEq, Repr

/-- A trouble with no write. -/
def Trouble.of (cause : Nat) (value : Word) : Trouble := { cause := cause, value := value, write := false }

/-- The fault word with one more fault (R34). -/
def recordFault (fw pc : Word) (cause : Nat) : Word :=
  let n := bitsNat fw 15 8
  if n = 0 then word (pc.toNat % 2 ^ 48 * 2 ^ 16 + 0x100 + cause % 256)
  else if n < 255 then fw + 0x100 else fw

/-- A slot's registers as at a dispatch (R28): arguments, task id and RSEED; its fault word stays. [log 56 DEDUCED] -/
def bootSlot (sl : Slot) : Slot :=
  let id := bitsW sl.task.task 31 0
  let g := ((List.range 5).foldl (fun (v : Vector Word 32) (k : Nat) =>
    if h : k + 1 < 32 then v.set (k + 1) (sl.task.args.toList.getD k 0) h else v) (Vector.replicate 32 0)).set 6 id
  { sl.quiet with
    mode := .user
    handler := .none
    regs := { sl.regs with g := g, p := Vector.replicate 8 false, b := Vector.replicate 64 0, pc := sl.task.entry }
    ctl := { UserCtl.reset with rseed := if id = 0 then 1 else id }
    altLast := 7
    stv := none
    ccq := []
    dispatchFault := none
    fmtPending := true }

/-- POLICY of a task (Table 2.5). -/
def policyOf (sl : Slot) : Nat := bitsNat sl.task.task 33 32

/-- A task that goes on to retire as failed, passing a cause up or none (Table 2.7). -/
def retireFailed (core slot escalate : Nat) : Micro :=
  modSlot core slot (fun sl => { sl.quiet with wait := .retiring true escalate false })

/-- An event passed up (R297): to the frame, or at a root into S mode with the fault word. [log 56 DEDUCED] -/
def passUp (core slot : Nat) (pc : Word) (t : Trouble) : Micro := ask (fun s =>
  let sl := slotAt s core slot
  if sl.task.frame = 0 then
    enterTrap core slot { pc := pc, async := t.async, esc := true, cause := t.cause, value := sl.task.faultWord,
                          write := t.write, engine := t.engine }
  else retireFailed core slot t.cause)

/-- A task that retires as failed by KILL_SELF; a root's failure is reported (0x15). -/
def killSelf (core slot : Nat) : Micro := ask (fun s =>
  let sl := slotAt s core slot
  andThen
    (onlyIf (sl.task.frame == 0)
      (postRecord { cause := 0x15, flags := 0, wait := 0, handle := 0, value := sl.task.faultWord, pc := 0,
                    who := whoOf s core slot }))
    (retireFailed core slot 0))

/-- A task restarted from its packet (RETRY). -/
def restart (core slot : Nat) : Micro := andThen (closeAll core slot) (modSlot core slot bootSlot)

/-- The containment of a U-mode fault of the bundle at `pc`: the fault is recorded, then the policy acts; `go` is what IGNORE
goes on with, while a unit that the A word has started works on (R33, R163). -/
def contain (core slot : Nat) (pc : Word) (t : Trouble) (go : Micro) : Micro := ask (fun s =>
  let old := slotAt s core slot
  andThen
    (modSlot core slot (fun sl =>
      { sl with task := { sl.task with faultWord := recordFault sl.task.faultWord pc t.cause } }))
    (match policyOf old with
     | 0 => go
     | 1 => if bitsNat old.task.faultWord 15 8 = 0 then restart core slot else passUp core slot pc t
     | 2 => killSelf core slot
     | _ => passUp core slot pc t))

/-- A fault raised at the bundle at `pc` (R302, R303, R32): not present is posted and waits for service; in S mode any other
is posted and the slot is held; breakpoints and system calls enter S mode; the rest go through containment, `go` being what
IGNORE goes on with. [log 19 and 56 DEDUCED] -/
def raiseAt (core slot : Nat) (pc : Word) (t : Trouble) (go : Micro) : Micro := ask (fun s =>
  let sl := slotAt s core slot
  let smode := sl.mode == .supervisor
  let post := fun (value : Word) =>
    postRecord { cause := t.cause, flags := recordFlags t.async false smode t.engine.isSome t.write, wait := 0,
                 handle := t.engine.getD 0, value := value, pc := if t.engine.isSome then 0 else pc,
                 who := whoOf s core slot }
  if t.cause = 0x07 then
    andThen (post t.value) (modSlot core slot (fun sl =>
      { sl with
        wait := .replay, await := .none, stall := none, replayValue := t.value, replayFor := none, regs := { sl.regs with pc := pc } }))
  else if smode then andThen (post t.value) (modSlot core slot (heldAt pc))
  else if t.cause = 0x0E ∨ t.cause = 0x0F then
    enterTrap core slot { pc := pc, async := false, esc := false, cause := t.cause, value := t.value }
  else contain core slot pc t go)

/-- The address of the bundle in flight. -/
def bundlePc (sl : Slot) : Word :=
  match sl.issue with
  | some iss => iss.pc
  | none => sl.regs.pc

/-- The A word's writes put aside for R33's, when its fault is ignored; the bundle reports no other fault (R113). [log 14 DEDUCED] -/
def overrideA (core slot : Nat) : Micro := modSlot core slot (fun sl =>
  match sl.issue with
  | none => sl
  | some iss => { sl with issue := some { iss with
      aOver := some ((iss.a.map (ignored core sl)).getD AEffect.nothing), muted := true } })

/-- The A word's writes as R33 leaves them, if the A word of a bundle whose C word has faulted faults too. -/
def quietA (core slot : Nat) : Micro := ask (fun s =>
  let sl := slotAt s core slot
  match sl.issue with
  | none => skip
  | some iss =>
    match companion core sl iss with
    | .error _ => overrideA core slot
    | .ok _ => skip)

/-- A bundle whose C word has faulted goes on under IGNORE: the C word writes R33's values, and the A word completes as it
would have. [log 13 and 14 DEDUCED] -/
def passC (core slot : Nat) : Micro := andThen (quietA core slot) (ask (fun s =>
  let sl := slotAt s core slot
  let e := match sl.issue with
    | some iss => (iss.c.map (ignored core sl)).getD AEffect.nothing
    | none => AEffect.nothing
  endBundle core slot (fun sl => applyEffect sl e) none false))

/-- A fault of the bundle's C word, unless the bundle has already reported its A word's: exactly one is reported (R113). [log 13 DEDUCED] -/
def raiseC (core slot : Nat) (t : Trouble) : Micro := ask (fun s =>
  if (slotAt s core slot).muted then passC core slot
  else raiseAt core slot (bundlePc (slotAt s core slot)) t (passC core slot))

/-- The value a fault of an A word reports: its own word (Table 16.7). -/
def aWordValue (sl : Slot) : Word :=
  match sl.issue with
  | none => 0
  | some iss => (if iss.c.isSome then iss.word1 else iss.word0).zeroExtend 64

/-- The value a fault of a C word reports where its rule names no other. -/
def cWordValue (sl : Slot) : Word :=
  match sl.issue with
  | none => 0
  | some iss => iss.word0.zeroExtend 64

/-! ## The meaning of a word -/

/-- What the C word of a bundle does in a state: it faults, it waits and the bundle issues again, or it acts. -/
inductive CRes where
  | fault (t : Trouble)
  /-- `code` is the code of Table 16.9 when the wait is counted, else 0. -/
  | again (w : Wait) (code : Nat)
  | act (f : Micro)
  /-- An access that may still fault when it is performed: that fault comes before the A word's (R6, R113). -/
  | access (f : Micro)
  /-- Something else happens in the bundle's place: neither word completes. -/
  | turn (f : Micro)

/-- A fault whose value is the word itself. -/
def CRes.illegal (sl : Slot) (cause : Nat) : CRes := .fault (Trouble.of cause (cWordValue sl))

/-- The A word's fault, if it has one. -/
def companionFault (core : Nat) (sl : Slot) : Option Nat :=
  match sl.issue with
  | none => none
  | some iss =>
    match companion core sl iss with
    | .error c => some c
    | .ok _ => none

/-- The second word of the bundle is no instruction, and that has not been reported. -/
def Slot.badA (sl : Slot) : Bool := (sl.issue.map (fun iss => iss.aBad && iss.aOver.isNone)).getD false

/-- The A word's fault raised at issue; under IGNORE the C word goes on as `f`. -/
def raiseA (core slot : Nat) (cause : Nat) (f : Micro) : Micro := ask (fun s =>
  let sl := slotAt s core slot
  raiseAt core slot (bundlePc sl) (Trouble.of cause (aWordValue sl)) (andThen (overrideA core slot) f))

/-- `f`, unless the A word of the bundle in flight faults: then that fault is raised, and `f` is what IGNORE goes on with. [log 13 DEDUCED] -/
def unlessA (core slot : Nat) (f : Micro) : Micro := ask (fun s =>
  match companionFault core (slotAt s core slot) with
  | none => f
  | some c => raiseA core slot c f)

/-- The end of a bundle by its C word, which met no fault: the A word's comes now, if it has one (R113). `own` says that the C word
wrote RSEED. -/
def finishOwn (core slot : Nat) (f : Slot → Slot) (next : Option Word) (own : Bool) : Micro :=
  unlessA core slot (endBundle core slot f next own)

/-- The end of a bundle whose C word did not write RSEED. [log 60 DEDUCED] -/
def finishBundle (core slot : Nat) (f : Slot → Slot) (next : Option Word) : Micro := finishOwn core slot f next false

/-- The end of a bundle whose C word changes nothing more. -/
def finishPlain (core slot : Nat) : Micro := finishBundle core slot id none

/-- A C word whose A word is no illegal word: its wait, its own fault, its A word's fault, then its effect (R113). -/
def runLegal (core slot : Nat) (k : State → CRes) : Micro := ask (fun s =>
  match k s with
  | .again w code => waitAgain core slot w code
  | .fault t => raiseC core slot t
  | .turn f => f
  | .access f => f
  | .act f => unlessA core slot f)

/-- A C word performed. An illegal A word is decided by the bundle's words alone and comes before all that the C word does
(R113). -/
def runC (core slot : Nat) (k : State → CRes) : Micro := ask (fun s =>
  if (slotAt s core slot).badA then raiseA core slot 0x01 (runLegal core slot k) else runLegal core slot k)

/-- The meaning of an instruction word: it needs a slot that is issuing a bundle. -/
def onIssue (s : State) (f : Nat → Nat → Micro) : Host.Outcome State Fault Refusal :=
  match s.issuing with
  | some (core, slot) =>
    if (slotAt s core slot).issue.isSome then commit s (andThen (f core slot) (fun _ => [.issuing none]))
    else .fault .noIssue
  | none => .fault .noIssue

/-- A C word. [log 11 DESIGN CHOICE, 13 DEDUCED] -/
def cWord (s : State) (k : Nat → Nat → State → CRes) : Host.Outcome State Fault Refusal :=
  onIssue s (fun core slot => runC core slot (k core slot))

/-- A C word under a guard (R8, R134): guarded off, only its A word acts. -/
def cGuarded (gp : Fin 8) (core slot : Nat) (s : State) (r : CRes) : CRes :=
  if guardHolds (slotAt s core slot) gp then r else .act (finishPlain core slot)

/-- A lone A word. -/
def loneA (s : State) (r : Nat → Slot → ARes) : Host.Outcome State Fault Refusal :=
  onIssue s (fun core slot => ask (fun s =>
    match r core (slotAt s core slot) with
    | .ok o => finishWith core slot (some o) id none false
    | .error c => raiseA core slot c (finishPlain core slot)))

/-- A parison buffer changed. -/
def modBuffer (core buf : Nat) (f : Parison → Parison) : Micro := modCore core (fun c =>
  if h : buf < 8 then { c with parison := c.parison.set buf (f (c.parison.get ⟨buf, h⟩)) h } else c)

/-- A load meets the fault of a buffer's refetch (R248): it raises that fault, with the refetch address. A not-present fault is
raised once; the load's replay lets the refetch resume. -/
def refetchFault (core slot buf : Nat) (f : Option (Nat × Word)) (addr : Word) : Micro :=
  match f with
  | some (c, a) => doAll [
      onlyIf (c == 0x07) (modBuffer core buf (fun p => { p with fault := none })),
      raiseC core slot (Trouble.of c a),
      onlyIf (c == 0x07) (modSlot core slot (fun sl => { sl with replayFor := some (buf, addr) }))]
  | none => andThen (modBuffer core buf (fun p => { p with state := .inFlight }))
      (waitAgain core slot (.cond (.landed buf addr)) 0)

/-- An address check's result as a C word's: `k` goes on with the target. -/
def onTarget (addr : Word) (kind : Access) (r : TRes) (k : Target → CRes) : CRes :=
  match r with
  | .ok t => k t
  | .fault c => .fault { cause := c, value := addr, write := setsDirty kind }
  | .miss va => .again (.walk (word va) kind addr false) 0
  | .landing buf => .again (.cond (.landed buf addr)) 0
  | .refetch core slot buf f => .turn (refetchFault core slot buf f addr)

end Sys2Proof.Machine
end

