-- ==== Sys2Proof/Machine/Lone.lean ====
section
/-! DEFINITION. The A words standing alone (R5): one meaning per instruction, over the effects of Scalar.lean, Float.lean and
Block.lean. -/

namespace Sys2Proof.Machine

/-- ADD (R136). -/
def execAdd (d a b : Fin 32) (gp : Fin 8) (st : State) : Host.Outcome State Fault Refusal :=
  loneA st (fun _ sl => effAdd d a b gp sl)

/-- SUB (R136). -/
def execSub (d a b : Fin 32) (gp : Fin 8) (st : State) : Host.Outcome State Fault Refusal :=
  loneA st (fun _ sl => effSub d a b gp sl)

/-- AND (R136). -/
def execAnd (d a b : Fin 32) (gp : Fin 8) (st : State) : Host.Outcome State Fault Refusal :=
  loneA st (fun _ sl => effAnd d a b gp sl)

/-- OR (R136). -/
def execOr (d a b : Fin 32) (gp : Fin 8) (st : State) : Host.Outcome State Fault Refusal :=
  loneA st (fun _ sl => effOr d a b gp sl)

/-- XOR (R136). -/
def execXor (d a b : Fin 32) (gp : Fin 8) (st : State) : Host.Outcome State Fault Refusal :=
  loneA st (fun _ sl => effXor d a b gp sl)

/-- ANDN (R136). -/
def execAndn (d a b : Fin 32) (gp : Fin 8) (st : State) : Host.Outcome State Fault Refusal :=
  loneA st (fun _ sl => effAndn d a b gp sl)

/-- SHL (R136). -/
def execShl (d a b : Fin 32) (gp : Fin 8) (st : State) : Host.Outcome State Fault Refusal :=
  loneA st (fun _ sl => effShl d a b gp sl)

/-- SHR (R136). -/
def execShr (d a b : Fin 32) (gp : Fin 8) (st : State) : Host.Outcome State Fault Refusal :=
  loneA st (fun _ sl => effShr d a b gp sl)

/-- SAR (R136). -/
def execSar (d a b : Fin 32) (gp : Fin 8) (st : State) : Host.Outcome State Fault Refusal :=
  loneA st (fun _ sl => effSar d a b gp sl)

/-- MUL (R136). -/
def execMul (d a b : Fin 32) (gp : Fin 8) (st : State) : Host.Outcome State Fault Refusal :=
  loneA st (fun _ sl => effMul d a b gp sl)

/-- MULH (R136). -/
def execMulh (d a b : Fin 32) (gp : Fin 8) (st : State) : Host.Outcome State Fault Refusal :=
  loneA st (fun _ sl => effMulh d a b gp sl)

/-- MULHU (R136). -/
def execMulhu (d a b : Fin 32) (gp : Fin 8) (st : State) : Host.Outcome State Fault Refusal :=
  loneA st (fun _ sl => effMulhu d a b gp sl)

/-- DIV (R136). -/
def execDiv (d a b : Fin 32) (gp : Fin 8) (st : State) : Host.Outcome State Fault Refusal :=
  loneA st (fun _ sl => effDiv d a b gp sl)

/-- DIVU (R136). -/
def execDivu (d a b : Fin 32) (gp : Fin 8) (st : State) : Host.Outcome State Fault Refusal :=
  loneA st (fun _ sl => effDivu d a b gp sl)

/-- REM (R136). -/
def execRem (d a b : Fin 32) (gp : Fin 8) (st : State) : Host.Outcome State Fault Refusal :=
  loneA st (fun _ sl => effRem d a b gp sl)

/-- REMU (R136). -/
def execRemu (d a b : Fin 32) (gp : Fin 8) (st : State) : Host.Outcome State Fault Refusal :=
  loneA st (fun _ sl => effRemu d a b gp sl)

/-- MIN (R136). -/
def execMin (d a b : Fin 32) (gp : Fin 8) (st : State) : Host.Outcome State Fault Refusal :=
  loneA st (fun _ sl => effMin d a b gp sl)

/-- MAX (R136). -/
def execMax (d a b : Fin 32) (gp : Fin 8) (st : State) : Host.Outcome State Fault Refusal :=
  loneA st (fun _ sl => effMax d a b gp sl)

/-- MINU (R136). -/
def execMinu (d a b : Fin 32) (gp : Fin 8) (st : State) : Host.Outcome State Fault Refusal :=
  loneA st (fun _ sl => effMinu d a b gp sl)

/-- MAXU (R136). -/
def execMaxu (d a b : Fin 32) (gp : Fin 8) (st : State) : Host.Outcome State Fault Refusal :=
  loneA st (fun _ sl => effMaxu d a b gp sl)

/-- CLZ (R136). -/
def execClz (d a : Fin 32) (gp : Fin 8) (st : State) : Host.Outcome State Fault Refusal :=
  loneA st (fun _ sl => effClz d a gp sl)

/-- CTZ (R136). -/
def execCtz (d a : Fin 32) (gp : Fin 8) (st : State) : Host.Outcome State Fault Refusal :=
  loneA st (fun _ sl => effCtz d a gp sl)

/-- POPC (R136). -/
def execPopc (d a : Fin 32) (gp : Fin 8) (st : State) : Host.Outcome State Fault Refusal :=
  loneA st (fun _ sl => effPopc d a gp sl)

/-- SEL (R136). -/
def execSel (d a b : Fin 32) (s : Fin 8) (st : State) : Host.Outcome State Fault Refusal :=
  loneA st (fun _ sl => effSel d a b s sl)

/-- ADDSL1 (R136). -/
def execAddsl1 (d a b : Fin 32) (gp : Fin 8) (st : State) : Host.Outcome State Fault Refusal :=
  loneA st (fun _ sl => effAddsl1 d a b gp sl)

/-- ADDSL2 (R136). -/
def execAddsl2 (d a b : Fin 32) (gp : Fin 8) (st : State) : Host.Outcome State Fault Refusal :=
  loneA st (fun _ sl => effAddsl2 d a b gp sl)

/-- ADDSL3 (R136). -/
def execAddsl3 (d a b : Fin 32) (gp : Fin 8) (st : State) : Host.Outcome State Fault Refusal :=
  loneA st (fun _ sl => effAddsl3 d a b gp sl)

/-- ADDSL4 (R136). -/
def execAddsl4 (d a b : Fin 32) (gp : Fin 8) (st : State) : Host.Outcome State Fault Refusal :=
  loneA st (fun _ sl => effAddsl4 d a b gp sl)

/-- CMPEQ (R139). -/
def execCmpeq (d : Fin 8) (a b : Fin 32) (gp : Fin 8) (st : State) : Host.Outcome State Fault Refusal :=
  loneA st (fun _ sl => effCmpeq d a b gp sl)

/-- CMPNE (R139). -/
def execCmpne (d : Fin 8) (a b : Fin 32) (gp : Fin 8) (st : State) : Host.Outcome State Fault Refusal :=
  loneA st (fun _ sl => effCmpne d a b gp sl)

/-- CMPLT (R139). -/
def execCmplt (d : Fin 8) (a b : Fin 32) (gp : Fin 8) (st : State) : Host.Outcome State Fault Refusal :=
  loneA st (fun _ sl => effCmplt d a b gp sl)

/-- CMPLE (R139). -/
def execCmple (d : Fin 8) (a b : Fin 32) (gp : Fin 8) (st : State) : Host.Outcome State Fault Refusal :=
  loneA st (fun _ sl => effCmple d a b gp sl)

/-- CMPLTU (R139). -/
def execCmpltu (d : Fin 8) (a b : Fin 32) (gp : Fin 8) (st : State) : Host.Outcome State Fault Refusal :=
  loneA st (fun _ sl => effCmpltu d a b gp sl)

/-- CMPLEU (R139). -/
def execCmpleu (d : Fin 8) (a b : Fin 32) (gp : Fin 8) (st : State) : Host.Outcome State Fault Refusal :=
  loneA st (fun _ sl => effCmpleu d a b gp sl)

/-- PAND (R140). -/
def execPand (d a b gp : Fin 8) (st : State) : Host.Outcome State Fault Refusal :=
  loneA st (fun _ sl => effPand d a b gp sl)

/-- POR (R140). -/
def execPor (d a b gp : Fin 8) (st : State) : Host.Outcome State Fault Refusal :=
  loneA st (fun _ sl => effPor d a b gp sl)

/-- PXOR (R140). -/
def execPxor (d a b gp : Fin 8) (st : State) : Host.Outcome State Fault Refusal :=
  loneA st (fun _ sl => effPxor d a b gp sl)

/-- PANDN (R140). -/
def execPandn (d a b gp : Fin 8) (st : State) : Host.Outcome State Fault Refusal :=
  loneA st (fun _ sl => effPandn d a b gp sl)

/-- ADDI (R137). -/
def execAddi (d a : Fin 32) (i : BitVec 14) (st : State) : Host.Outcome State Fault Refusal :=
  loneA st (fun _ sl => effAddi d a i sl)

/-- ANDI (R137). -/
def execAndi (d a : Fin 32) (i : BitVec 14) (st : State) : Host.Outcome State Fault Refusal :=
  loneA st (fun _ sl => effAndi d a i sl)

/-- ORI (R137). -/
def execOri (d a : Fin 32) (i : BitVec 14) (st : State) : Host.Outcome State Fault Refusal :=
  loneA st (fun _ sl => effOri d a i sl)

/-- XORI (R137). -/
def execXori (d a : Fin 32) (i : BitVec 14) (st : State) : Host.Outcome State Fault Refusal :=
  loneA st (fun _ sl => effXori d a i sl)

/-- SHLI (R137). -/
def execShli (d a : Fin 32) (i : Fin 64) (st : State) : Host.Outcome State Fault Refusal :=
  loneA st (fun _ sl => effShli d a i sl)

/-- SHRI (R137). -/
def execShri (d a : Fin 32) (i : Fin 64) (st : State) : Host.Outcome State Fault Refusal :=
  loneA st (fun _ sl => effShri d a i sl)

/-- SARI (R137). -/
def execSari (d a : Fin 32) (i : Fin 64) (st : State) : Host.Outcome State Fault Refusal :=
  loneA st (fun _ sl => effSari d a i sl)

/-- LI (R137). -/
def execLi (d : Fin 32) (i : BitVec 14) (st : State) : Host.Outcome State Fault Refusal :=
  loneA st (fun _ sl => effLi d i sl)

/-- LIS (R137). -/
def execLis (d a : Fin 32) (i : BitVec 14) (st : State) : Host.Outcome State Fault Refusal :=
  loneA st (fun _ sl => effLis d a i sl)

/-- CMPEQI (R137). -/
def execCmpeqi (d : Fin 8) (a : Fin 32) (i : BitVec 14) (st : State) : Host.Outcome State Fault Refusal :=
  loneA st (fun _ sl => effCmpeqi d a i sl)

/-- CMPLTI (R137). -/
def execCmplti (d : Fin 8) (a : Fin 32) (i : BitVec 14) (st : State) : Host.Outcome State Fault Refusal :=
  loneA st (fun _ sl => effCmplti d a i sl)

/-- CMPLTUI (R137). -/
def execCmpltui (d : Fin 8) (a : Fin 32) (i : BitVec 14) (st : State) : Host.Outcome State Fault Refusal :=
  loneA st (fun _ sl => effCmpltui d a i sl)

/-- BFX (R138). -/
def execBfx (d a : Fin 32) (l p : Fin 64) (st : State) : Host.Outcome State Fault Refusal :=
  loneA st (fun _ sl => effBfx d a l p sl)

/-- BFI (R138). -/
def execBfi (d a : Fin 32) (l p : Fin 64) (st : State) : Host.Outcome State Fault Refusal :=
  loneA st (fun _ sl => effBfi d a l p sl)

/-- FADD (R142). -/
def execFadd (d a b : Fin 32) (z : Bool) (gp : Fin 8) (st : State) : Host.Outcome State Fault Refusal :=
  loneA st (fun core sl => effFadd d a b z gp core sl)

/-- FSUB (R142). -/
def execFsub (d a b : Fin 32) (z : Bool) (gp : Fin 8) (st : State) : Host.Outcome State Fault Refusal :=
  loneA st (fun core sl => effFsub d a b z gp core sl)

/-- FMUL (R142). -/
def execFmul (d a b : Fin 32) (z : Bool) (gp : Fin 8) (st : State) : Host.Outcome State Fault Refusal :=
  loneA st (fun core sl => effFmul d a b z gp core sl)

/-- FDIV (R142). -/
def execFdiv (d a b : Fin 32) (z : Bool) (gp : Fin 8) (st : State) : Host.Outcome State Fault Refusal :=
  loneA st (fun core sl => effFdiv d a b z gp core sl)

/-- FSQRT (R142). -/
def execFsqrt (d a : Fin 32) (z : Bool) (gp : Fin 8) (st : State) : Host.Outcome State Fault Refusal :=
  loneA st (fun core sl => effFsqrt d a z gp core sl)

/-- FMIN (R143). -/
def execFmin (d a b : Fin 32) (z : Bool) (gp : Fin 8) (st : State) : Host.Outcome State Fault Refusal :=
  loneA st (fun _ sl => effFmin d a b z gp sl)

/-- FMAX (R143). -/
def execFmax (d a b : Fin 32) (z : Bool) (gp : Fin 8) (st : State) : Host.Outcome State Fault Refusal :=
  loneA st (fun _ sl => effFmax d a b z gp sl)

/-- FFMA (R142). -/
def execFfma (d a b : Fin 32) (z : Bool) (gp : Fin 8) (st : State) : Host.Outcome State Fault Refusal :=
  loneA st (fun core sl => effFfma d a b z gp core sl)

/-- FABS (R142). -/
def execFabs (d a : Fin 32) (z : Bool) (gp : Fin 8) (st : State) : Host.Outcome State Fault Refusal :=
  loneA st (fun _ sl => effFabs d a z gp sl)

/-- FNEG (R142). -/
def execFneg (d a : Fin 32) (z : Bool) (gp : Fin 8) (st : State) : Host.Outcome State Fault Refusal :=
  loneA st (fun _ sl => effFneg d a z gp sl)

/-- FCLASS (R144). -/
def execFclass (d a : Fin 32) (z : Bool) (gp : Fin 8) (st : State) : Host.Outcome State Fault Refusal :=
  loneA st (fun _ sl => effFclass d a z gp sl)

/-- FCVTI (R145). -/
def execFcvti (d a : Fin 32) (u z : Bool) (gp : Fin 8) (st : State) : Host.Outcome State Fault Refusal :=
  loneA st (fun _ sl => effFcvti d a u z gp sl)

/-- FCVTF (R145). -/
def execFcvtf (d a : Fin 32) (u z : Bool) (gp : Fin 8) (st : State) : Host.Outcome State Fault Refusal :=
  loneA st (fun _ sl => effFcvtf d a u z gp sl)

/-- FCVTP (R145). -/
def execFcvtp (d a : Fin 32) (z : Bool) (gp : Fin 8) (st : State) : Host.Outcome State Fault Refusal :=
  loneA st (fun _ sl => effFcvtp d a z gp sl)

/-- FCMPEQ (R146). -/
def execFcmpeq (d : Fin 8) (a b : Fin 32) (z : Bool) (gp : Fin 8) (st : State) : Host.Outcome State Fault Refusal :=
  loneA st (fun _ sl => effFcmpeq d a b z gp sl)

/-- FCMPLT (R146). -/
def execFcmplt (d : Fin 8) (a b : Fin 32) (z : Bool) (gp : Fin 8) (st : State) : Host.Outcome State Fault Refusal :=
  loneA st (fun _ sl => effFcmplt d a b z gp sl)

/-- FCMPLE (R146). -/
def execFcmple (d : Fin 8) (a b : Fin 32) (z : Bool) (gp : Fin 8) (st : State) : Host.Outcome State Fault Refusal :=
  loneA st (fun _ sl => effFcmple d a b z gp sl)

/-- FCMPUN (R146). -/
def execFcmpun (d : Fin 8) (a b : Fin 32) (z : Bool) (gp : Fin 8) (st : State) : Host.Outcome State Fault Refusal :=
  loneA st (fun _ sl => effFcmpun d a b z gp sl)

/-- BADD (R165). -/
def execBadd (d a b : Fin 64) (h : Fin 4) (w : Fin 16) (st : State) : Host.Outcome State Fault Refusal :=
  loneA st (fun core sl => effBadd d a b h w core sl)

/-- BSUB (R165). -/
def execBsub (d a b : Fin 64) (h : Fin 4) (w : Fin 16) (st : State) : Host.Outcome State Fault Refusal :=
  loneA st (fun core sl => effBsub d a b h w core sl)

/-- BMUL (R165). -/
def execBmul (d a b : Fin 64) (h : Fin 4) (w : Fin 16) (st : State) : Host.Outcome State Fault Refusal :=
  loneA st (fun core sl => effBmul d a b h w core sl)

/-- BFMA (R165). -/
def execBfma (d a b : Fin 64) (h : Fin 4) (w : Fin 16) (st : State) : Host.Outcome State Fault Refusal :=
  loneA st (fun core sl => effBfma d a b h w core sl)

/-- BMIN (R166). -/
def execBmin (d a b : Fin 64) (h : Fin 4) (w : Fin 16) (st : State) : Host.Outcome State Fault Refusal :=
  loneA st (fun core sl => effBmin d a b h w core sl)

/-- BMAX (R166). -/
def execBmax (d a b : Fin 64) (h : Fin 4) (w : Fin 16) (st : State) : Host.Outcome State Fault Refusal :=
  loneA st (fun core sl => effBmax d a b h w core sl)

/-- BAND (R167). -/
def execBand (d a b : Fin 64) (h : Fin 4) (w : Fin 16) (st : State) : Host.Outcome State Fault Refusal :=
  loneA st (fun core sl => effBand d a b h w core sl)

/-- BOR (R167). -/
def execBor (d a b : Fin 64) (h : Fin 4) (w : Fin 16) (st : State) : Host.Outcome State Fault Refusal :=
  loneA st (fun core sl => effBor d a b h w core sl)

/-- BXOR (R167). -/
def execBxor (d a b : Fin 64) (h : Fin 4) (w : Fin 16) (st : State) : Host.Outcome State Fault Refusal :=
  loneA st (fun core sl => effBxor d a b h w core sl)

/-- BDOT (R176). -/
def execBdot (d a b : Fin 64) (h : Fin 4) (w : Fin 16) (st : State) : Host.Outcome State Fault Refusal :=
  loneA st (fun core sl => effBdot d a b h w core sl)

/-- BRED (R177). -/
def execBred (d a o : Fin 64) (h : Fin 4) (w : Fin 16) (st : State) : Host.Outcome State Fault Refusal :=
  loneA st (fun core sl => effBred d a o h w core sl)

/-- BCMPLT (R168). -/
def execBcmplt (d a b : Fin 64) (h : Fin 4) (w : Fin 16) (st : State) : Host.Outcome State Fault Refusal :=
  loneA st (fun core sl => effBcmplt d a b h w core sl)

/-- BSEL (R168). -/
def execBsel (d a b : Fin 64) (h : Fin 4) (w : Fin 16) (st : State) : Host.Outcome State Fault Refusal :=
  loneA st (fun core sl => effBsel d a b h w core sl)

/-- BMOV (R167). -/
def execBmov (d a : Fin 64) (h : Fin 4) (w : Fin 16) (st : State) : Host.Outcome State Fault Refusal :=
  loneA st (fun core sl => effBmov d a h w core sl)

/-- BNEG (R169). -/
def execBneg (d a : Fin 64) (h : Fin 4) (w : Fin 16) (st : State) : Host.Outcome State Fault Refusal :=
  loneA st (fun core sl => effBneg d a h w core sl)

/-- BABS (R169). -/
def execBabs (d a : Fin 64) (h : Fin 4) (w : Fin 16) (st : State) : Host.Outcome State Fault Refusal :=
  loneA st (fun core sl => effBabs d a h w core sl)

/-- BEXP2 (R169). -/
def execBexp2 (d a : Fin 64) (h : Fin 4) (w : Fin 16) (st : State) : Host.Outcome State Fault Refusal :=
  loneA st (fun core sl => effBexp2 d a h w core sl)

/-- BLOG2 (R169). -/
def execBlog2 (d a : Fin 64) (h : Fin 4) (w : Fin 16) (st : State) : Host.Outcome State Fault Refusal :=
  loneA st (fun core sl => effBlog2 d a h w core sl)

/-- BRCP (R169). -/
def execBrcp (d a : Fin 64) (h : Fin 4) (w : Fin 16) (st : State) : Host.Outcome State Fault Refusal :=
  loneA st (fun core sl => effBrcp d a h w core sl)

/-- BRSQ (R169). -/
def execBrsq (d a : Fin 64) (h : Fin 4) (w : Fin 16) (st : State) : Host.Outcome State Fault Refusal :=
  loneA st (fun core sl => effBrsq d a h w core sl)

/-- BSIGM (R169). -/
def execBsigm (d a : Fin 64) (h : Fin 4) (w : Fin 16) (st : State) : Host.Outcome State Fault Refusal :=
  loneA st (fun core sl => effBsigm d a h w core sl)

/-- BTANH (R169). -/
def execBtanh (d a : Fin 64) (h : Fin 4) (w : Fin 16) (st : State) : Host.Outcome State Fault Refusal :=
  loneA st (fun core sl => effBtanh d a h w core sl)

/-- BSQRT (R169). -/
def execBsqrt (d a : Fin 64) (h : Fin 4) (w : Fin 16) (st : State) : Host.Outcome State Fault Refusal :=
  loneA st (fun core sl => effBsqrt d a h w core sl)

/-- BRELU (R169). -/
def execBrelu (d a : Fin 64) (h : Fin 4) (w : Fin 16) (st : State) : Host.Outcome State Fault Refusal :=
  loneA st (fun core sl => effBrelu d a h w core sl)

/-- BCVT (R170). -/
def execBcvt (d a : Fin 64) (f : Fin 16) (h : Fin 4) (w : Fin 16) (st : State) : Host.Outcome State Fault Refusal :=
  loneA st (fun core sl => effBcvt d a f h w core sl)

/-- BSCAL (R171). -/
def execBscal (d a : Fin 64) (g : Fin 32) (h : Fin 4) (w : Fin 16) (st : State) : Host.Outcome State Fault Refusal :=
  loneA st (fun core sl => effBscal d a g h w core sl)

/-- BADDS (R171). -/
def execBadds (d a : Fin 64) (g : Fin 32) (h : Fin 4) (w : Fin 16) (st : State) : Host.Outcome State Fault Refusal :=
  loneA st (fun core sl => effBadds d a g h w core sl)

/-- BBCST (R171). -/
def execBbcst (d : Fin 64) (g : Fin 32) (h : Fin 4) (w : Fin 16) (st : State) : Host.Outcome State Fault Refusal :=
  loneA st (fun core sl => effBbcst d g h w core sl)

/-- BGET (R172). -/
def execBget (l a : Fin 64) (g : Fin 32) (h : Fin 4) (w : Fin 16) (st : State) : Host.Outcome State Fault Refusal :=
  loneA st (fun core sl => effBget l a g h w core sl)

/-- BSET (R172). -/
def execBset (d l : Fin 64) (g : Fin 32) (h : Fin 4) (w : Fin 16) (st : State) : Host.Outcome State Fault Refusal :=
  loneA st (fun core sl => effBset d l g h w core sl)

/-- BGNORM (R178). -/
def execBgnorm (d a : Fin 64) (g : Fin 32) (h : Fin 4) (w : Fin 16) (st : State) : Host.Outcome State Fault Refusal :=
  loneA st (fun core sl => effBgnorm d a g h w core sl)

/-- BSHUF (R173). -/
def execBshuf (d a : Fin 64) (g : Fin 32) (h : Fin 4) (w : Fin 16) (st : State) : Host.Outcome State Fault Refusal :=
  loneA st (fun core sl => effBshuf d a g h w core sl)

/-- BSCL (R174). -/
def execBscl (d a : Fin 64) (g : Fin 32) (h : Fin 4) (w : Fin 16) (st : State) : Host.Outcome State Fault Refusal :=
  loneA st (fun core sl => effBscl d a g h w core sl)

end Sys2Proof.Machine
end

