-- ==== Sys2Proof/WellFormed.lean ====
section
/-! DEFINITION. The checks of R125, R127, R122 and R186 on the small codes of an instruction that its field widths do not
already make. A word whose instruction fails one of them is an illegal instruction. A scope code of 12 to 15 and an
element format code are not among them: those words decode, and fault when they execute (R115). -/

namespace Sys2Proof

/-- Why an instruction is not well formed. -/
inductive Defect where
  /-- An ord value outside the set R125 allows the word. -/
  | ordering
  /-- A scope code on an unordered access (R125). -/
  | scopeOfPlain
  /-- A FENCE kind of 3 or more (R127). -/
  | fenceKind
  /-- PREF's reserved level 3 (R125). -/
  | prefLevel
  /-- A BRED operation of 3 or more (R122). -/
  | reduction
  deriving DecidableEq, Repr

/-- The check of an ordered access: `rel` is the one ord value besides 0 that it allows. -/
def orderDefect (k sc rel : Nat) : Option Defect :=
  if k = 0 then (if sc = 0 then none else some .scopeOfPlain)
  else if k = rel then none else some .ordering

/-- The defect of an instruction, if it has one. -/
def Instr.defect : Instr → Option Defect
  | .ld8 _ _ _ c k => orderDefect k.val c.val 1
  | .ld8U _ _ _ c k => orderDefect k.val c.val 1
  | .ld16 _ _ _ c k => orderDefect k.val c.val 1
  | .ld16U _ _ _ c k => orderDefect k.val c.val 1
  | .ld32 _ _ _ c k => orderDefect k.val c.val 1
  | .ld32U _ _ _ c k => orderDefect k.val c.val 1
  | .ld64 _ _ _ c k => orderDefect k.val c.val 1
  | .st8 _ _ _ c k => orderDefect k.val c.val 2
  | .st16 _ _ _ c k => orderDefect k.val c.val 2
  | .st32 _ _ _ c k => orderDefect k.val c.val 2
  | .st64 _ _ _ c k => orderDefect k.val c.val 2
  | .ldv _ _ _ _ _ k => orderDefect k.val 0 1
  | .stv _ _ _ _ _ k => orderDefect k.val 0 2
  | .fence k _ => if k.val ≤ 2 then none else some .fenceKind
  | .pref l _ _ => if l.val ≤ 2 then none else some .prefLevel
  | .bred _ _ o _ _ => if o.val ≤ 2 then none else some .reduction
  | _ => none

/-- An instruction that its word's checks accept. -/
def Instr.WellFormed (i : Instr) : Bool := i.defect.isNone

end Sys2Proof
end

