-- ==== Sys2Proof/Decode.lean ====
section
/-! DEFINITION. Decoding of instruction words and bundles (R5, R111, R112, R114–R128), total on any bits, every rejection
with its reason; and after it the encoder, written from the same tables. -/

namespace Sys2Proof

/-- Why bits are no instruction word. -/
inductive DecodeError where
  /-- Role 0b11 (R5): an illegal bundle. -/
  | badRole
  /-- A reserved major (R117, R124). -/
  | reservedMajor
  /-- A reserved function code (R118–R122, R124, R128). -/
  | reservedFunction
  /-- A nonzero field that must be zero (R115). -/
  | mustBeZero
  /-- A p field with a nonzero upper bit (R115). -/
  | predicateField
  /-- A q field with a nonzero upper bit (R115). -/
  | endpointField
  /-- A code that the checks of WellFormed refuse. -/
  | illFormed (d : Defect)
  /-- Fewer bytes than a word. -/
  | short
  deriving DecidableEq, Repr

/-- Bits [31:30] of a word (R5, R111). -/
inductive Role where
  /-- 00: the C word of a pair. -/
  | pairC
  /-- 01: a lone C word. -/
  | loneC
  /-- 10: an A word. -/
  | wordA
  /-- 11: no word. -/
  | reserved
  deriving DecidableEq, Repr

/-- The field of `n` bits at bit `lo`. -/
def fld (w lo n : Nat) : Nat := w / 2 ^ lo % 2 ^ n

/-- A field as a number below a bound. -/
def fin (n : Nat) [NeZero n] (lo w : Nat) : Fin n := Fin.ofNat n (w / 2 ^ lo)

/-- A field as bits. -/
def bits (n lo w : Nat) : BitVec n := BitVec.ofNat n (w / 2 ^ lo)

/-- A field of one bit. -/
def flag (lo w : Nat) : Bool := w / 2 ^ lo % 2 == 1

/-- The role of a word. -/
def roleOf (w : Nat) : Role :=
  match fld w 30 2 with
  | 0 => .pairC
  | 1 => .loneC
  | 2 => .wordA
  | _ => .reserved

/-- A field that must be zero, with the reason when it is not. -/
def zero (e : DecodeError) (f : Nat) (r : Except DecodeError Instr) : Except DecodeError Instr :=
  if f = 0 then r else .error e

/-- JALR's function code must be 0 (Table 6.12). -/
def fnZero (f : Nat) (r : Except DecodeError Instr) : Except DecodeError Instr := zero .reservedFunction f r

/-- An instruction after the checks of WellFormed. -/
def sound (i : Instr) : Except DecodeError Instr :=
  match i.defect with
  | none => .ok i
  | some d => .error (.illFormed d)

/-- Major 0x00 of the C class (R124, Table 6.12). -/
def decodeControl (w : Nat) : Except DecodeError Instr :=
  match fld w 3 6 with
  | 0x00 => zero .mustBeZero (fld w 9 15) (.ok (.nop (fin 8 0 w)))
  | 0x01 => zero .mustBeZero (fld w 9 15) (.ok (.halt (fin 8 0 w)))
  | 0x02 => zero .mustBeZero (fld w 9 15) (.ok (.brk (fin 8 0 w)))
  | 0x03 => zero .mustBeZero (fld w 9 15) (.ok (.syscall (fin 8 0 w)))
  | 0x04 => zero .mustBeZero (fld w 9 15) (.ok (.yield (fin 8 0 w)))
  | 0x05 => zero .mustBeZero (fld w 9 15) (.ok (.uiret (fin 8 0 w)))
  | 0x06 => zero .mustBeZero (fld w 9 15) (.ok (.ifence (fin 8 0 w)))
  | 0x07 => zero .mustBeZero (fld w 9 15) (.ok (.tret (fin 8 0 w)))
  | _ => .error .reservedFunction

/-- Major 0x1E of the C class (R128, Table 6.7). -/
def decodeChannel (w : Nat) : Except DecodeError Instr :=
  match fld w 0 4 with
  | 0x00 => zero .mustBeZero (fld w 19 5) (zero .mustBeZero (fld w 9 5) (zero .endpointField (fld w 7 2) (.ok (.send (fin 32 14 w) (fin 8 4 w)))))
  | 0x01 => zero .predicateField (fld w 22 2) (zero .mustBeZero (fld w 9 5) (zero .endpointField (fld w 7 2) (.ok (.sendt (fin 8 19 w) (fin 32 14 w) (fin 8 4 w)))))
  | 0x02 => zero .mustBeZero (fld w 9 10) (zero .endpointField (fld w 7 2) (.ok (.recv (fin 32 19 w) (fin 8 4 w))))
  | 0x03 => zero .mustBeZero (fld w 14 5) (zero .predicateField (fld w 12 2) (zero .endpointField (fld w 7 2) (.ok (.recvt (fin 32 19 w) (fin 8 9 w) (fin 8 4 w)))))
  | 0x04 => zero .mustBeZero (fld w 19 5) (zero .mustBeZero (fld w 9 5) (zero .endpointField (fld w 7 2) (.ok (.sendc (fin 32 14 w) (fin 8 4 w)))))
  | 0x05 => zero .mustBeZero (fld w 4 10) (.ok (.alt (fin 32 19 w) (fin 32 14 w)))
  | 0x06 => zero .mustBeZero (fld w 19 5) (zero .mustBeZero (fld w 9 5) (zero .endpointField (fld w 7 2) (.ok (.chgrant (fin 32 14 w) (fin 8 4 w)))))
  | 0x07 => zero .mustBeZero (fld w 19 5) (zero .mustBeZero (fld w 7 2) (.ok (.chbind (fin 32 14 w) (fin 32 9 w) (fin 8 4 w))))
  | 0x08 => zero .mustBeZero (fld w 9 15) (zero .endpointField (fld w 7 2) (.ok (.chunbind (fin 8 4 w))))
  | 0x09 => zero .mustBeZero (fld w 9 10) (zero .endpointField (fld w 7 2) (.ok (.chstat (fin 32 19 w) (fin 8 4 w))))
  | _ => .error .reservedFunction

/-- Major 0x1F of the C class (R128, Table 6.7). -/
def decodeTask (w : Nat) : Except DecodeError Instr :=
  match fld w 0 4 with
  | 0x00 => zero .predicateField (fld w 22 2) (zero .mustBeZero (fld w 4 10) (.ok (.spawn (fin 8 19 w) (fin 32 14 w))))
  | 0x01 => zero .predicateField (fld w 22 2) (zero .mustBeZero (fld w 4 5) (.ok (.spawnat (fin 8 19 w) (fin 32 14 w) (fin 32 9 w))))
  | 0x02 => zero .mustBeZero (fld w 19 5) (zero .mustBeZero (fld w 4 10) (.ok (.join (fin 32 14 w))))
  | 0x03 => zero .mustBeZero (fld w 4 20) (.ok .retire)
  | 0x04 => zero .mustBeZero (fld w 19 5) (zero .mustBeZero (fld w 4 5) (.ok (.bar (fin 32 14 w) (fin 32 9 w))))
  | 0x05 => zero .mustBeZero (fld w 9 15) (.ok (.fmtsel (fin 32 4 w)))
  | 0x06 => zero .mustBeZero (fld w 9 10) (.ok (.taskinfo (fin 32 19 w) (fin 32 4 w)))
  | _ => .error .reservedFunction

/-- Major 0x20 of the C class (R128, Table 6.7). -/
def decodeWatch (w : Nat) : Except DecodeError Instr :=
  match fld w 0 4 with
  | 0x00 => zero .mustBeZero (fld w 19 5) (zero .mustBeZero (fld w 4 10) (.ok (.mwarm (fin 32 14 w))))
  | 0x01 => zero .mustBeZero (fld w 4 10) (.ok (.mwait (fin 32 19 w) (fin 32 14 w)))
  | 0x02 => zero .mustBeZero (fld w 19 5) (zero .mustBeZero (fld w 4 10) (.ok (.mwdis (fin 32 14 w))))
  | 0x03 => zero .mustBeZero (fld w 19 5) (zero .mustBeZero (fld w 4 5) (.ok (.uisend (fin 32 14 w) (fin 32 9 w))))
  | 0x04 => zero .mustBeZero (fld w 4 10) (.ok (.uimask (fin 32 19 w) (fin 32 14 w)))
  | 0x05 => zero .predicateField (fld w 22 2) (zero .mustBeZero (fld w 4 10) (.ok (.jpoll (fin 8 19 w) (fin 32 14 w))))
  | 0x06 => zero .mustBeZero (fld w 4 10) (.ok (.jwait (fin 32 19 w) (fin 32 14 w)))
  | _ => .error .reservedFunction

/-- Major 0x24 of the C class (R128, Table 6.7). -/
def decodeMatrix (w : Nat) : Except DecodeError Instr :=
  match fld w 0 4 with
  | 0x00 => zero .mustBeZero (fld w 4 10) (.ok (.mxma (fin 32 19 w) (fin 32 14 w)))
  | 0x01 => zero .mustBeZero (fld w 19 5) (zero .mustBeZero (fld w 4 10) (.ok (.mxmab (fin 32 14 w))))
  | 0x02 => zero .mustBeZero (fld w 19 5) (zero .mustBeZero (fld w 9 5) (.ok (.mxld (fin 32 14 w) (fin 32 4 w))))
  | 0x03 => zero .mustBeZero (fld w 19 5) (zero .mustBeZero (fld w 9 5) (.ok (.mxst (fin 32 14 w) (fin 32 4 w))))
  | 0x04 => zero .mustBeZero (fld w 9 15) (.ok (.mxzero (fin 32 4 w)))
  | 0x05 => zero .mustBeZero (fld w 4 15) (.ok (.mxq (fin 32 19 w)))
  | _ => .error .reservedFunction

/-- Major 0x25 of the C class (R128, Table 6.7). -/
def decodeRing (w : Nat) : Except DecodeError Instr :=
  match fld w 0 4 with
  | 0x00 => zero .mustBeZero (fld w 19 5) (zero .mustBeZero (fld w 9 5) (.ok (.ringset (fin 32 14 w) (fin 32 4 w))))
  | 0x01 => zero .mustBeZero (fld w 19 5) (zero .mustBeZero (fld w 9 5) (.ok (.ringadv (fin 32 14 w) (fin 32 4 w))))
  | 0x02 => zero .mustBeZero (fld w 9 10) (.ok (.ringq (fin 32 19 w) (fin 32 4 w)))
  | _ => .error .reservedFunction

/-- Major 0x26 of the C class (R128, Table 6.7). -/
def decodeCopy (w : Nat) : Except DecodeError Instr :=
  match fld w 0 4 with
  | 0x00 => zero .mustBeZero (fld w 4 10) (.ok (.cpy (fin 32 19 w) (fin 32 14 w)))
  | 0x01 => zero .mustBeZero (fld w 19 5) (zero .mustBeZero (fld w 9 5) (zero .endpointField (fld w 7 2) (.ok (.cpys (fin 32 14 w) (fin 8 4 w)))))
  | 0x02 => zero .mustBeZero (fld w 4 10) (.ok (.cpym (fin 32 19 w) (fin 32 14 w)))
  | 0x03 => zero .mustBeZero (fld w 4 10) (.ok (.cpyq (fin 32 19 w) (fin 32 14 w)))
  | _ => .error .reservedFunction

/-- Major 0x27 of the C class (R128, Table 6.7). -/
def decodePredict (w : Nat) : Except DecodeError Instr :=
  match fld w 0 4 with
  | 0x00 => zero .mustBeZero (fld w 4 5) (.ok (.pfetch (fin 32 19 w) (fin 32 14 w) (fin 32 9 w)))
  | 0x01 => zero .mustBeZero (fld w 19 5) (zero .mustBeZero (fld w 4 5) (.ok (.pconf (fin 32 14 w) (fin 32 9 w))))
  | 0x02 => zero .mustBeZero (fld w 19 5) (zero .mustBeZero (fld w 4 10) (.ok (.pcanc (fin 32 14 w))))
  | 0x03 => zero .mustBeZero (fld w 19 5) (zero .mustBeZero (fld w 4 5) (.ok (.pfset (fin 32 14 w) (fin 32 9 w))))
  | 0x04 => zero .mustBeZero (fld w 4 10) (.ok (.pfget (fin 32 19 w) (fin 32 14 w)))
  | 0x05 => zero .mustBeZero (fld w 4 10) (.ok (.pfstat (fin 32 19 w) (fin 32 14 w)))
  | _ => .error .reservedFunction

/-- Major 0x28 of the C class (R128, Table 6.7). -/
def decodeDrover (w : Nat) : Except DecodeError Instr :=
  match fld w 0 4 with
  | 0x00 => zero .mustBeZero (fld w 4 10) (.ok (.aejob (fin 32 19 w) (fin 32 14 w)))
  | 0x01 => zero .mustBeZero (fld w 4 10) (.ok (.aeres (fin 32 19 w) (fin 32 14 w)))
  | 0x02 => zero .mustBeZero (fld w 19 5) (zero .mustBeZero (fld w 4 10) (.ok (.aeabort (fin 32 14 w))))
  | _ => .error .reservedFunction

/-- Major 0x29 of the C class (R128, Table 6.7). -/
def decodeSlice (w : Nat) : Except DecodeError Instr :=
  match fld w 0 4 with
  | 0x00 => zero .mustBeZero (fld w 4 10) (.ok (.escreq (fin 32 19 w) (fin 32 14 w)))
  | 0x01 => zero .mustBeZero (fld w 19 5) (zero .mustBeZero (fld w 4 10) (.ok (.escpin (fin 32 14 w))))
  | 0x02 => zero .mustBeZero (fld w 19 5) (zero .mustBeZero (fld w 4 10) (.ok (.escunpin (fin 32 14 w))))
  | 0x03 => zero .mustBeZero (fld w 19 5) (.ok (.eschist (fin 32 14 w) (fin 32 9 w) (fin 32 4 w)))
  | 0x04 => zero .mustBeZero (fld w 4 10) (.ok (.escq (fin 32 19 w) (fin 32 14 w)))
  | _ => .error .reservedFunction

/-- Major 0x2A of the C class (R128, Table 6.7). -/
def decodeKv (w : Nat) : Except DecodeError Instr :=
  match fld w 0 4 with
  | 0x00 => zero .mustBeZero (fld w 4 5) (.ok (.kvxl (fin 32 19 w) (fin 32 14 w) (fin 32 9 w)))
  | 0x01 => zero .mustBeZero (fld w 4 5) (.ok (.kvins (fin 32 19 w) (fin 32 14 w) (fin 32 9 w)))
  | 0x02 => zero .mustBeZero (fld w 4 5) (.ok (.kvdel (fin 32 19 w) (fin 32 14 w) (fin 32 9 w)))
  | 0x03 => zero .mustBeZero (fld w 4 5) (.ok (.kvexp (fin 32 19 w) (fin 32 14 w) (fin 32 9 w)))
  | 0x04 => zero .mustBeZero (fld w 4 10) (.ok (.kvimp (fin 32 19 w) (fin 32 14 w)))
  | _ => .error .reservedFunction

/-- Major 0x2B of the C class (R128, Table 6.7). -/
def decodeTile (w : Nat) : Except DecodeError Instr :=
  match fld w 0 4 with
  | 0x00 => zero .mustBeZero (fld w 4 10) (.ok (.pcommit (fin 32 19 w) (fin 32 14 w)))
  | 0x01 => zero .mustBeZero (fld w 4 10) (.ok (.pdecommit (fin 32 19 w) (fin 32 14 w)))
  | 0x02 => zero .mustBeZero (fld w 4 10) (.ok (.pprobe (fin 32 19 w) (fin 32 14 w)))
  | _ => .error .reservedFunction

/-- Major 0x30 of the C class (R128, Table 6.7). -/
def decodePrivileged (w : Nat) : Except DecodeError Instr :=
  match fld w 0 4 with
  | 0x00 => zero .mustBeZero (fld w 19 5) (zero .mustBeZero (fld w 4 10) (.ok (.swapctx (fin 32 14 w))))
  | 0x01 => zero .mustBeZero (fld w 19 5) (zero .mustBeZero (fld w 4 10) (.ok (.slothand (fin 32 14 w))))
  | 0x02 => zero .mustBeZero (fld w 19 5) (zero .mustBeZero (fld w 4 5) (.ok (.divset (fin 32 14 w) (fin 32 9 w))))
  | 0x03 => zero .mustBeZero (fld w 19 5) (zero .mustBeZero (fld w 4 10) (.ok (.divclr (fin 32 14 w))))
  | 0x04 => zero .mustBeZero (fld w 19 5) (zero .mustBeZero (fld w 4 5) (.ok (.tlbinv (fin 32 14 w) (fin 32 9 w))))
  | 0x05 => zero .mustBeZero (fld w 19 5) (zero .mustBeZero (fld w 4 10) (.ok (.tlbinvc (fin 32 14 w))))
  | 0x06 => zero .mustBeZero (fld w 4 20) (.ok .pfclr)
  | _ => .error .reservedFunction

/-- Major 0x00 of the A class (R118, Table 6.4). -/
def decodeInt (w : Nat) : Except DecodeError Instr :=
  match fld w 3 6 with
  | 0x00 => .ok (.add (fin 32 19 w) (fin 32 14 w) (fin 32 9 w) (fin 8 0 w))
  | 0x01 => .ok (.sub (fin 32 19 w) (fin 32 14 w) (fin 32 9 w) (fin 8 0 w))
  | 0x02 => .ok (.and_ (fin 32 19 w) (fin 32 14 w) (fin 32 9 w) (fin 8 0 w))
  | 0x03 => .ok (.or_ (fin 32 19 w) (fin 32 14 w) (fin 32 9 w) (fin 8 0 w))
  | 0x04 => .ok (.xor_ (fin 32 19 w) (fin 32 14 w) (fin 32 9 w) (fin 8 0 w))
  | 0x05 => .ok (.andn (fin 32 19 w) (fin 32 14 w) (fin 32 9 w) (fin 8 0 w))
  | 0x06 => .ok (.shl (fin 32 19 w) (fin 32 14 w) (fin 32 9 w) (fin 8 0 w))
  | 0x07 => .ok (.shr (fin 32 19 w) (fin 32 14 w) (fin 32 9 w) (fin 8 0 w))
  | 0x08 => .ok (.sar (fin 32 19 w) (fin 32 14 w) (fin 32 9 w) (fin 8 0 w))
  | 0x09 => .ok (.mul (fin 32 19 w) (fin 32 14 w) (fin 32 9 w) (fin 8 0 w))
  | 0x0A => .ok (.mulh (fin 32 19 w) (fin 32 14 w) (fin 32 9 w) (fin 8 0 w))
  | 0x0B => .ok (.mulhu (fin 32 19 w) (fin 32 14 w) (fin 32 9 w) (fin 8 0 w))
  | 0x0C => .ok (.div (fin 32 19 w) (fin 32 14 w) (fin 32 9 w) (fin 8 0 w))
  | 0x0D => .ok (.divu (fin 32 19 w) (fin 32 14 w) (fin 32 9 w) (fin 8 0 w))
  | 0x0E => .ok (.rem (fin 32 19 w) (fin 32 14 w) (fin 32 9 w) (fin 8 0 w))
  | 0x0F => .ok (.remu (fin 32 19 w) (fin 32 14 w) (fin 32 9 w) (fin 8 0 w))
  | 0x10 => .ok (.min (fin 32 19 w) (fin 32 14 w) (fin 32 9 w) (fin 8 0 w))
  | 0x11 => .ok (.max (fin 32 19 w) (fin 32 14 w) (fin 32 9 w) (fin 8 0 w))
  | 0x12 => .ok (.minu (fin 32 19 w) (fin 32 14 w) (fin 32 9 w) (fin 8 0 w))
  | 0x13 => .ok (.maxu (fin 32 19 w) (fin 32 14 w) (fin 32 9 w) (fin 8 0 w))
  | 0x14 => zero .mustBeZero (fld w 9 5) (.ok (.clz (fin 32 19 w) (fin 32 14 w) (fin 8 0 w)))
  | 0x15 => zero .mustBeZero (fld w 9 5) (.ok (.ctz (fin 32 19 w) (fin 32 14 w) (fin 8 0 w)))
  | 0x16 => zero .mustBeZero (fld w 9 5) (.ok (.popc (fin 32 19 w) (fin 32 14 w) (fin 8 0 w)))
  | 0x17 => .ok (.sel (fin 32 19 w) (fin 32 14 w) (fin 32 9 w) (fin 8 0 w))
  | 0x18 => .ok (.addsl1 (fin 32 19 w) (fin 32 14 w) (fin 32 9 w) (fin 8 0 w))
  | 0x19 => .ok (.addsl2 (fin 32 19 w) (fin 32 14 w) (fin 32 9 w) (fin 8 0 w))
  | 0x1A => .ok (.addsl3 (fin 32 19 w) (fin 32 14 w) (fin 32 9 w) (fin 8 0 w))
  | 0x1B => .ok (.addsl4 (fin 32 19 w) (fin 32 14 w) (fin 32 9 w) (fin 8 0 w))
  | _ => .error .reservedFunction

/-- Major 0x01 of the A class (R119). -/
def decodeCompare (w : Nat) : Except DecodeError Instr :=
  match fld w 3 6 with
  | 0x00 => zero .predicateField (fld w 22 2) (.ok (.cmpeq (fin 8 19 w) (fin 32 14 w) (fin 32 9 w) (fin 8 0 w)))
  | 0x01 => zero .predicateField (fld w 22 2) (.ok (.cmpne (fin 8 19 w) (fin 32 14 w) (fin 32 9 w) (fin 8 0 w)))
  | 0x02 => zero .predicateField (fld w 22 2) (.ok (.cmplt (fin 8 19 w) (fin 32 14 w) (fin 32 9 w) (fin 8 0 w)))
  | 0x03 => zero .predicateField (fld w 22 2) (.ok (.cmple (fin 8 19 w) (fin 32 14 w) (fin 32 9 w) (fin 8 0 w)))
  | 0x04 => zero .predicateField (fld w 22 2) (.ok (.cmpltu (fin 8 19 w) (fin 32 14 w) (fin 32 9 w) (fin 8 0 w)))
  | 0x05 => zero .predicateField (fld w 22 2) (.ok (.cmpleu (fin 8 19 w) (fin 32 14 w) (fin 32 9 w) (fin 8 0 w)))
  | 0x08 => zero .predicateField (fld w 22 2) (zero .predicateField (fld w 17 2) (zero .predicateField (fld w 12 2) (.ok (.pand (fin 8 19 w) (fin 8 14 w) (fin 8 9 w) (fin 8 0 w)))))
  | 0x09 => zero .predicateField (fld w 22 2) (zero .predicateField (fld w 17 2) (zero .predicateField (fld w 12 2) (.ok (.por (fin 8 19 w) (fin 8 14 w) (fin 8 9 w) (fin 8 0 w)))))
  | 0x0A => zero .predicateField (fld w 22 2) (zero .predicateField (fld w 17 2) (zero .predicateField (fld w 12 2) (.ok (.pxor (fin 8 19 w) (fin 8 14 w) (fin 8 9 w) (fin 8 0 w)))))
  | 0x0B => zero .predicateField (fld w 22 2) (zero .predicateField (fld w 17 2) (zero .predicateField (fld w 12 2) (.ok (.pandn (fin 8 19 w) (fin 8 14 w) (fin 8 9 w) (fin 8 0 w)))))
  | _ => .error .reservedFunction

/-- Major 0x10 of the A class (R121). -/
def decodeFloat (w : Nat) : Except DecodeError Instr :=
  match fld w 3 5 with
  | 0x00 => .ok (.fadd (fin 32 19 w) (fin 32 14 w) (fin 32 9 w) (flag 8 w) (fin 8 0 w))
  | 0x01 => .ok (.fsub (fin 32 19 w) (fin 32 14 w) (fin 32 9 w) (flag 8 w) (fin 8 0 w))
  | 0x02 => .ok (.fmul (fin 32 19 w) (fin 32 14 w) (fin 32 9 w) (flag 8 w) (fin 8 0 w))
  | 0x03 => .ok (.fdiv (fin 32 19 w) (fin 32 14 w) (fin 32 9 w) (flag 8 w) (fin 8 0 w))
  | 0x04 => zero .mustBeZero (fld w 9 5) (.ok (.fsqrt (fin 32 19 w) (fin 32 14 w) (flag 8 w) (fin 8 0 w)))
  | 0x05 => .ok (.fmin (fin 32 19 w) (fin 32 14 w) (fin 32 9 w) (flag 8 w) (fin 8 0 w))
  | 0x06 => .ok (.fmax (fin 32 19 w) (fin 32 14 w) (fin 32 9 w) (flag 8 w) (fin 8 0 w))
  | 0x07 => .ok (.ffma (fin 32 19 w) (fin 32 14 w) (fin 32 9 w) (flag 8 w) (fin 8 0 w))
  | 0x08 => zero .mustBeZero (fld w 9 5) (.ok (.fabs (fin 32 19 w) (fin 32 14 w) (flag 8 w) (fin 8 0 w)))
  | 0x09 => zero .mustBeZero (fld w 9 5) (.ok (.fneg (fin 32 19 w) (fin 32 14 w) (flag 8 w) (fin 8 0 w)))
  | 0x0A => zero .mustBeZero (fld w 9 5) (.ok (.fclass (fin 32 19 w) (fin 32 14 w) (flag 8 w) (fin 8 0 w)))
  | 0x0B => zero .mustBeZero (fld w 10 4) (.ok (.fcvti (fin 32 19 w) (fin 32 14 w) (flag 9 w) (flag 8 w) (fin 8 0 w)))
  | 0x0C => zero .mustBeZero (fld w 10 4) (.ok (.fcvtf (fin 32 19 w) (fin 32 14 w) (flag 9 w) (flag 8 w) (fin 8 0 w)))
  | 0x0D => zero .mustBeZero (fld w 9 5) (.ok (.fcvtp (fin 32 19 w) (fin 32 14 w) (flag 8 w) (fin 8 0 w)))
  | _ => .error .reservedFunction

/-- Major 0x11 of the A class (R121). -/
def decodeFloatCompare (w : Nat) : Except DecodeError Instr :=
  match fld w 3 5 with
  | 0x00 => zero .predicateField (fld w 22 2) (.ok (.fcmpeq (fin 8 19 w) (fin 32 14 w) (fin 32 9 w) (flag 8 w) (fin 8 0 w)))
  | 0x01 => zero .predicateField (fld w 22 2) (.ok (.fcmplt (fin 8 19 w) (fin 32 14 w) (fin 32 9 w) (flag 8 w) (fin 8 0 w)))
  | 0x02 => zero .predicateField (fld w 22 2) (.ok (.fcmple (fin 8 19 w) (fin 32 14 w) (fin 32 9 w) (flag 8 w) (fin 8 0 w)))
  | 0x03 => zero .predicateField (fld w 22 2) (.ok (.fcmpun (fin 8 19 w) (fin 32 14 w) (fin 32 9 w) (flag 8 w) (fin 8 0 w)))
  | _ => .error .reservedFunction

/-- Major 0x2E of the A class: BUNARY (R122). -/
def decodeUnary (w : Nat) : Except DecodeError Instr :=
  match fld w 6 6 with
  | 0x00 => .ok (.bneg (fin 64 18 w) (fin 64 12 w) (fin 4 4 w) (fin 16 0 w))
  | 0x01 => .ok (.babs (fin 64 18 w) (fin 64 12 w) (fin 4 4 w) (fin 16 0 w))
  | 0x02 => .ok (.bexp2 (fin 64 18 w) (fin 64 12 w) (fin 4 4 w) (fin 16 0 w))
  | 0x03 => .ok (.blog2 (fin 64 18 w) (fin 64 12 w) (fin 4 4 w) (fin 16 0 w))
  | 0x04 => .ok (.brcp (fin 64 18 w) (fin 64 12 w) (fin 4 4 w) (fin 16 0 w))
  | 0x05 => .ok (.brsq (fin 64 18 w) (fin 64 12 w) (fin 4 4 w) (fin 16 0 w))
  | 0x06 => .ok (.bsigm (fin 64 18 w) (fin 64 12 w) (fin 4 4 w) (fin 16 0 w))
  | 0x07 => .ok (.btanh (fin 64 18 w) (fin 64 12 w) (fin 4 4 w) (fin 16 0 w))
  | 0x08 => .ok (.bsqrt (fin 64 18 w) (fin 64 12 w) (fin 4 4 w) (fin 16 0 w))
  | 0x09 => .ok (.brelu (fin 64 18 w) (fin 64 12 w) (fin 4 4 w) (fin 16 0 w))
  | _ => .error .reservedFunction

/-- An A word, by its major (R117, Table 6.3). -/
def decodeA (w : Nat) : Except DecodeError Instr :=
  match fld w 24 6 with
  | 0x00 => decodeInt w
  | 0x01 => decodeCompare w
  | 0x02 => .ok (.addi (fin 32 19 w) (fin 32 14 w) (bits 14 0 w))
  | 0x03 => .ok (.andi (fin 32 19 w) (fin 32 14 w) (bits 14 0 w))
  | 0x04 => .ok (.ori (fin 32 19 w) (fin 32 14 w) (bits 14 0 w))
  | 0x05 => .ok (.xori (fin 32 19 w) (fin 32 14 w) (bits 14 0 w))
  | 0x06 => zero .mustBeZero (fld w 6 8) (.ok (.shli (fin 32 19 w) (fin 32 14 w) (fin 64 0 w)))
  | 0x07 => zero .mustBeZero (fld w 6 8) (.ok (.shri (fin 32 19 w) (fin 32 14 w) (fin 64 0 w)))
  | 0x08 => zero .mustBeZero (fld w 6 8) (.ok (.sari (fin 32 19 w) (fin 32 14 w) (fin 64 0 w)))
  | 0x09 => zero .mustBeZero (fld w 14 5) (.ok (.li (fin 32 19 w) (bits 14 0 w)))
  | 0x0A => .ok (.lis (fin 32 19 w) (fin 32 14 w) (bits 14 0 w))
  | 0x0B => zero .predicateField (fld w 22 2) (.ok (.cmpeqi (fin 8 19 w) (fin 32 14 w) (bits 14 0 w)))
  | 0x0C => zero .predicateField (fld w 22 2) (.ok (.cmplti (fin 8 19 w) (fin 32 14 w) (bits 14 0 w)))
  | 0x0D => zero .predicateField (fld w 22 2) (.ok (.cmpltui (fin 8 19 w) (fin 32 14 w) (bits 14 0 w)))
  | 0x0E => zero .mustBeZero (fld w 12 2) (.ok (.bfx (fin 32 19 w) (fin 32 14 w) (fin 64 6 w) (fin 64 0 w)))
  | 0x0F => zero .mustBeZero (fld w 12 2) (.ok (.bfi (fin 32 19 w) (fin 32 14 w) (fin 64 6 w) (fin 64 0 w)))
  | 0x10 => decodeFloat w
  | 0x11 => decodeFloatCompare w
  | 0x20 => .ok (.badd (fin 64 18 w) (fin 64 12 w) (fin 64 6 w) (fin 4 4 w) (fin 16 0 w))
  | 0x21 => .ok (.bsub (fin 64 18 w) (fin 64 12 w) (fin 64 6 w) (fin 4 4 w) (fin 16 0 w))
  | 0x22 => .ok (.bmul (fin 64 18 w) (fin 64 12 w) (fin 64 6 w) (fin 4 4 w) (fin 16 0 w))
  | 0x23 => .ok (.bfma (fin 64 18 w) (fin 64 12 w) (fin 64 6 w) (fin 4 4 w) (fin 16 0 w))
  | 0x24 => .ok (.bmin (fin 64 18 w) (fin 64 12 w) (fin 64 6 w) (fin 4 4 w) (fin 16 0 w))
  | 0x25 => .ok (.bmax (fin 64 18 w) (fin 64 12 w) (fin 64 6 w) (fin 4 4 w) (fin 16 0 w))
  | 0x26 => .ok (.band (fin 64 18 w) (fin 64 12 w) (fin 64 6 w) (fin 4 4 w) (fin 16 0 w))
  | 0x27 => .ok (.bor (fin 64 18 w) (fin 64 12 w) (fin 64 6 w) (fin 4 4 w) (fin 16 0 w))
  | 0x28 => .ok (.bxor (fin 64 18 w) (fin 64 12 w) (fin 64 6 w) (fin 4 4 w) (fin 16 0 w))
  | 0x29 => .ok (.bdot (fin 64 18 w) (fin 64 12 w) (fin 64 6 w) (fin 4 4 w) (fin 16 0 w))
  | 0x2A => sound (.bred (fin 64 18 w) (fin 64 12 w) (fin 64 6 w) (fin 4 4 w) (fin 16 0 w))
  | 0x2B => .ok (.bcmplt (fin 64 18 w) (fin 64 12 w) (fin 64 6 w) (fin 4 4 w) (fin 16 0 w))
  | 0x2C => .ok (.bsel (fin 64 18 w) (fin 64 12 w) (fin 64 6 w) (fin 4 4 w) (fin 16 0 w))
  | 0x2D => zero .mustBeZero (fld w 6 6) (.ok (.bmov (fin 64 18 w) (fin 64 12 w) (fin 4 4 w) (fin 16 0 w)))
  | 0x2E => decodeUnary w
  | 0x2F => zero .mustBeZero (fld w 10 2) (.ok (.bcvt (fin 64 18 w) (fin 64 12 w) (fin 16 6 w) (fin 4 4 w) (fin 16 0 w)))
  | 0x30 => zero .mustBeZero (fld w 6 1) (.ok (.bscal (fin 64 18 w) (fin 64 12 w) (fin 32 7 w) (fin 4 4 w) (fin 16 0 w)))
  | 0x31 => zero .mustBeZero (fld w 6 1) (.ok (.badds (fin 64 18 w) (fin 64 12 w) (fin 32 7 w) (fin 4 4 w) (fin 16 0 w)))
  | 0x32 => zero .mustBeZero (fld w 12 6) (zero .mustBeZero (fld w 6 1) (.ok (.bbcst (fin 64 18 w) (fin 32 7 w) (fin 4 4 w) (fin 16 0 w))))
  | 0x33 => zero .mustBeZero (fld w 6 1) (.ok (.bget (fin 64 18 w) (fin 64 12 w) (fin 32 7 w) (fin 4 4 w) (fin 16 0 w)))
  | 0x34 => zero .mustBeZero (fld w 6 1) (.ok (.bset (fin 64 18 w) (fin 64 12 w) (fin 32 7 w) (fin 4 4 w) (fin 16 0 w)))
  | 0x35 => zero .mustBeZero (fld w 6 1) (.ok (.bgnorm (fin 64 18 w) (fin 64 12 w) (fin 32 7 w) (fin 4 4 w) (fin 16 0 w)))
  | 0x36 => zero .mustBeZero (fld w 6 1) (.ok (.bshuf (fin 64 18 w) (fin 64 12 w) (fin 32 7 w) (fin 4 4 w) (fin 16 0 w)))
  | 0x37 => zero .mustBeZero (fld w 6 1) (.ok (.bscl (fin 64 18 w) (fin 64 12 w) (fin 32 7 w) (fin 4 4 w) (fin 16 0 w)))
  | _ => .error .reservedMajor

/-- A C word, by its major (R124, Table 6.12). -/
def decodeC (w : Nat) : Except DecodeError Instr :=
  match fld w 24 6 with
  | 0x00 => decodeControl w
  | 0x01 => .ok (.br (fin 8 21 w) (flag 20 w) (bits 20 0 w))
  | 0x02 => .ok (.jal (fin 32 19 w) (bits 19 0 w))
  | 0x03 => fnZero (fld w 3 6) (.ok (.jalr (fin 32 19 w) (fin 32 14 w) (fin 32 9 w) (fin 8 0 w)))
  | 0x04 => sound (.ld8 (fin 32 19 w) (fin 32 14 w) (bits 8 6 w) (fin 16 2 w) (fin 4 0 w))
  | 0x05 => sound (.ld8U (fin 32 19 w) (fin 32 14 w) (bits 8 6 w) (fin 16 2 w) (fin 4 0 w))
  | 0x06 => sound (.ld16 (fin 32 19 w) (fin 32 14 w) (bits 8 6 w) (fin 16 2 w) (fin 4 0 w))
  | 0x07 => sound (.ld16U (fin 32 19 w) (fin 32 14 w) (bits 8 6 w) (fin 16 2 w) (fin 4 0 w))
  | 0x08 => sound (.ld32 (fin 32 19 w) (fin 32 14 w) (bits 8 6 w) (fin 16 2 w) (fin 4 0 w))
  | 0x09 => sound (.ld32U (fin 32 19 w) (fin 32 14 w) (bits 8 6 w) (fin 16 2 w) (fin 4 0 w))
  | 0x0A => sound (.ld64 (fin 32 19 w) (fin 32 14 w) (bits 8 6 w) (fin 16 2 w) (fin 4 0 w))
  | 0x0B => sound (.st8 (fin 32 19 w) (fin 32 14 w) (bits 8 6 w) (fin 16 2 w) (fin 4 0 w))
  | 0x0C => sound (.st16 (fin 32 19 w) (fin 32 14 w) (bits 8 6 w) (fin 16 2 w) (fin 4 0 w))
  | 0x0D => sound (.st32 (fin 32 19 w) (fin 32 14 w) (bits 8 6 w) (fin 16 2 w) (fin 4 0 w))
  | 0x0E => sound (.st64 (fin 32 19 w) (fin 32 14 w) (bits 8 6 w) (fin 16 2 w) (fin 4 0 w))
  | 0x0F => sound (.ldv (fin 64 18 w) (fin 32 13 w) (bits 5 8 w) (fin 4 6 w) (fin 16 2 w) (fin 4 0 w))
  | 0x10 => sound (.stv (fin 64 18 w) (fin 32 13 w) (bits 5 8 w) (fin 4 6 w) (fin 16 2 w) (fin 4 0 w))
  | 0x11 => zero .mustBeZero (fld w 0 2) (.ok (.aadd (fin 32 19 w) (fin 32 14 w) (fin 32 9 w) (fin 16 5 w) (fin 4 3 w) (flag 2 w)))
  | 0x12 => zero .mustBeZero (fld w 0 2) (.ok (.aaddf (fin 32 19 w) (fin 32 14 w) (fin 32 9 w) (fin 16 5 w) (fin 4 3 w) (flag 2 w)))
  | 0x13 => zero .mustBeZero (fld w 0 2) (.ok (.amin (fin 32 19 w) (fin 32 14 w) (fin 32 9 w) (fin 16 5 w) (fin 4 3 w) (flag 2 w)))
  | 0x14 => zero .mustBeZero (fld w 0 2) (.ok (.amax (fin 32 19 w) (fin 32 14 w) (fin 32 9 w) (fin 16 5 w) (fin 4 3 w) (flag 2 w)))
  | 0x15 => zero .mustBeZero (fld w 0 2) (.ok (.aminu (fin 32 19 w) (fin 32 14 w) (fin 32 9 w) (fin 16 5 w) (fin 4 3 w) (flag 2 w)))
  | 0x16 => zero .mustBeZero (fld w 0 2) (.ok (.amaxu (fin 32 19 w) (fin 32 14 w) (fin 32 9 w) (fin 16 5 w) (fin 4 3 w) (flag 2 w)))
  | 0x17 => zero .mustBeZero (fld w 0 2) (.ok (.aand (fin 32 19 w) (fin 32 14 w) (fin 32 9 w) (fin 16 5 w) (fin 4 3 w) (flag 2 w)))
  | 0x18 => zero .mustBeZero (fld w 0 2) (.ok (.aor (fin 32 19 w) (fin 32 14 w) (fin 32 9 w) (fin 16 5 w) (fin 4 3 w) (flag 2 w)))
  | 0x19 => zero .mustBeZero (fld w 0 2) (.ok (.axor (fin 32 19 w) (fin 32 14 w) (fin 32 9 w) (fin 16 5 w) (fin 4 3 w) (flag 2 w)))
  | 0x1A => zero .mustBeZero (fld w 0 2) (.ok (.aswp (fin 32 19 w) (fin 32 14 w) (fin 32 9 w) (fin 16 5 w) (fin 4 3 w) (flag 2 w)))
  | 0x1B => zero .mustBeZero (fld w 0 2) (.ok (.acas (fin 32 19 w) (fin 32 14 w) (fin 32 9 w) (fin 16 5 w) (fin 4 3 w) (flag 2 w)))
  | 0x1C => zero .mustBeZero (fld w 0 17) (sound (.fence (fin 8 21 w) (fin 16 17 w)))
  | 0x1D => zero .mustBeZero (fld w 21 3) (zero .mustBeZero (fld w 0 6) (sound (.pref (fin 4 19 w) (fin 32 14 w) (bits 8 6 w))))
  | 0x1E => decodeChannel w
  | 0x1F => decodeTask w
  | 0x20 => decodeWatch w
  | 0x21 => zero .mustBeZero (fld w 14 5) (.ok (.rdc (fin 32 19 w) (bits 14 0 w)))
  | 0x22 => zero .mustBeZero (fld w 19 5) (.ok (.wrc (fin 32 14 w) (bits 14 0 w)))
  | 0x23 => zero .mustBeZero (fld w 19 5) (.ok (.hsift (fin 32 14 w) (fin 32 9 w) (fin 32 4 w) (fin 16 0 w)))
  | 0x24 => decodeMatrix w
  | 0x25 => decodeRing w
  | 0x26 => decodeCopy w
  | 0x27 => decodePredict w
  | 0x28 => decodeDrover w
  | 0x29 => decodeSlice w
  | 0x2A => decodeKv w
  | 0x2B => decodeTile w
  | 0x30 => decodePrivileged w
  | _ => .error .reservedMajor

/-- The instruction of a word. A C word means the same in either of its roles. -/
def decodeWord (w : Nat) : Except DecodeError Instr :=
  match roleOf w with
  | .wordA => decodeA w
  | .reserved => .error .badRole
  | _ => decodeC w

/-- The word that four bytes hold, the first the least significant (R5). -/
def wordOfBytes : List Byte → Option Nat
  | b0 :: b1 :: b2 :: b3 :: _ => some (b0.toNat + b1.toNat * 0x100 + b2.toNat * 0x10000 + b3.toNat * 0x1000000)
  | _ => none

/-- The four bytes of a word, the first the least significant (R5). -/
def bytesOfWord (w : Nat) : List Byte :=
  [BitVec.ofNat 8 w, BitVec.ofNat 8 (w / 0x100), BitVec.ofNat 8 (w / 0x10000), BitVec.ofNat 8 (w / 0x1000000)]

/-- The instruction at the head of a list of bytes. -/
def decodeBytes (bs : List Byte) : Except DecodeError Instr :=
  match wordOfBytes bs with
  | some w => decodeWord w
  | none => .error .short

/-- Words that may stand only alone (R112). -/
def Instr.loneOnly : Instr → Bool
  | .halt _ => true
  | .brk _ => true
  | .syscall _ => true
  | .uiret _ => true
  | .tret _ => true
  | .retire => true
  | .swapctx _ => true
  | .slothand _ => true
  | _ => false

/-- A bundle as R111 decodes it; a word that is no instruction keeps its reason, since R113 orders the faults. -/
inductive Bundle where
  | loneC (c : Except DecodeError Instr)
  | loneA (a : Except DecodeError Instr)
  | pair (c a : Except DecodeError Instr)
  /-- An illegal bundle (0x02), with the size R33 gives it. -/
  | illegal (size : Nat)
  deriving Repr

/-- R111: the bundle at an address that is 0 (`aligned`) or 4 modulo 8, from its first word and the word after it. -/
def decodeBundle (aligned : Bool) (w0 w1 : Nat) : Bundle :=
  match roleOf w0 with
  | .loneC => .loneC (decodeC w0)
  | .wordA => .loneA (decodeA w0)
  | .pairC =>
    match aligned, roleOf w1 with
    | true, .wordA => .pair (decodeC w0) (decodeA w1)
    | _, _ => .illegal 4
  | .reserved => .illegal 4

/-- The instruction of a table row's word: the word laid out as memory holds it, given to the decoder. -/
def decodeTableWord (nbits w : Nat) : Option Instr :=
  if nbits ≤ 32 then (decodeBytes (bytesOfWord w)).toOption else none

/-! ## The encoder -/

/-- The C word whose bits [29:0] are `v`, in a role a C word may have. [log 11 DESIGN CHOICE, 13 DEDUCED] -/
def cWord (role : Role) (v : Nat) : Option Nat :=
  match role with
  | .pairC => some v
  | .loneC => some (v + 0x40000000)
  | _ => none

/-- A C word that has no paired form (R112). -/
def loneWord (role : Role) (v : Nat) : Option Nat :=
  match role with
  | .loneC => some (v + 0x40000000)
  | _ => none

/-- The word of an instruction in a role; none where it has none, and for the steps no word encodes. -/
def encode (role : Role) : Instr → Option Nat
  | .add d a b gp => aWord (0x0 + d.val * 0x80000 + a.val * 0x4000 + b.val * 0x200 + gp.val)
  | .sub d a b gp => aWord (0x8 + d.val * 0x80000 + a.val * 0x4000 + b.val * 0x200 + gp.val)
  | .and_ d a b gp => aWord (0x10 + d.val * 0x80000 + a.val * 0x4000 + b.val * 0x200 + gp.val)
  | .or_ d a b gp => aWord (0x18 + d.val * 0x80000 + a.val * 0x4000 + b.val * 0x200 + gp.val)
  | .xor_ d a b gp => aWord (0x20 + d.val * 0x80000 + a.val * 0x4000 + b.val * 0x200 + gp.val)
  | .andn d a b gp => aWord (0x28 + d.val * 0x80000 + a.val * 0x4000 + b.val * 0x200 + gp.val)
  | .shl d a b gp => aWord (0x30 + d.val * 0x80000 + a.val * 0x4000 + b.val * 0x200 + gp.val)
  | .shr d a b gp => aWord (0x38 + d.val * 0x80000 + a.val * 0x4000 + b.val * 0x200 + gp.val)
  | .sar d a b gp => aWord (0x40 + d.val * 0x80000 + a.val * 0x4000 + b.val * 0x200 + gp.val)
  | .mul d a b gp => aWord (0x48 + d.val * 0x80000 + a.val * 0x4000 + b.val * 0x200 + gp.val)
  | .mulh d a b gp => aWord (0x50 + d.val * 0x80000 + a.val * 0x4000 + b.val * 0x200 + gp.val)
  | .mulhu d a b gp => aWord (0x58 + d.val * 0x80000 + a.val * 0x4000 + b.val * 0x200 + gp.val)
  | .div d a b gp => aWord (0x60 + d.val * 0x80000 + a.val * 0x4000 + b.val * 0x200 + gp.val)
  | .divu d a b gp => aWord (0x68 + d.val * 0x80000 + a.val * 0x4000 + b.val * 0x200 + gp.val)
  | .rem d a b gp => aWord (0x70 + d.val * 0x80000 + a.val * 0x4000 + b.val * 0x200 + gp.val)
  | .remu d a b gp => aWord (0x78 + d.val * 0x80000 + a.val * 0x4000 + b.val * 0x200 + gp.val)
  | .min d a b gp => aWord (0x80 + d.val * 0x80000 + a.val * 0x4000 + b.val * 0x200 + gp.val)
  | .max d a b gp => aWord (0x88 + d.val * 0x80000 + a.val * 0x4000 + b.val * 0x200 + gp.val)
  | .minu d a b gp => aWord (0x90 + d.val * 0x80000 + a.val * 0x4000 + b.val * 0x200 + gp.val)
  | .maxu d a b gp => aWord (0x98 + d.val * 0x80000 + a.val * 0x4000 + b.val * 0x200 + gp.val)
  | .clz d a gp => aWord (0xA0 + d.val * 0x80000 + a.val * 0x4000 + gp.val)
  | .ctz d a gp => aWord (0xA8 + d.val * 0x80000 + a.val * 0x4000 + gp.val)
  | .popc d a gp => aWord (0xB0 + d.val * 0x80000 + a.val * 0x4000 + gp.val)
  | .sel d a b s => aWord (0xB8 + d.val * 0x80000 + a.val * 0x4000 + b.val * 0x200 + s.val)
  | .addsl1 d a b gp => aWord (0xC0 + d.val * 0x80000 + a.val * 0x4000 + b.val * 0x200 + gp.val)
  | .addsl2 d a b gp => aWord (0xC8 + d.val * 0x80000 + a.val * 0x4000 + b.val * 0x200 + gp.val)
  | .addsl3 d a b gp => aWord (0xD0 + d.val * 0x80000 + a.val * 0x4000 + b.val * 0x200 + gp.val)
  | .addsl4 d a b gp => aWord (0xD8 + d.val * 0x80000 + a.val * 0x4000 + b.val * 0x200 + gp.val)
  | .cmpeq d a b gp => aWord (0x1000000 + d.val * 0x80000 + a.val * 0x4000 + b.val * 0x200 + gp.val)
  | .cmpne d a b gp => aWord (0x1000008 + d.val * 0x80000 + a.val * 0x4000 + b.val * 0x200 + gp.val)
  | .cmplt d a b gp => aWord (0x1000010 + d.val * 0x80000 + a.val * 0x4000 + b.val * 0x200 + gp.val)
  | .cmple d a b gp => aWord (0x1000018 + d.val * 0x80000 + a.val * 0x4000 + b.val * 0x200 + gp.val)
  | .cmpltu d a b gp => aWord (0x1000020 + d.val * 0x80000 + a.val * 0x4000 + b.val * 0x200 + gp.val)
  | .cmpleu d a b gp => aWord (0x1000028 + d.val * 0x80000 + a.val * 0x4000 + b.val * 0x200 + gp.val)
  | .pand d a b gp => aWord (0x1000040 + d.val * 0x80000 + a.val * 0x4000 + b.val * 0x200 + gp.val)
  | .por d a b gp => aWord (0x1000048 + d.val * 0x80000 + a.val * 0x4000 + b.val * 0x200 + gp.val)
  | .pxor d a b gp => aWord (0x1000050 + d.val * 0x80000 + a.val * 0x4000 + b.val * 0x200 + gp.val)
  | .pandn d a b gp => aWord (0x1000058 + d.val * 0x80000 + a.val * 0x4000 + b.val * 0x200 + gp.val)
  | .addi d a i => aWord (0x2000000 + d.val * 0x80000 + a.val * 0x4000 + i.toNat)
  | .andi d a i => aWord (0x3000000 + d.val * 0x80000 + a.val * 0x4000 + i.toNat)
  | .ori d a i => aWord (0x4000000 + d.val * 0x80000 + a.val * 0x4000 + i.toNat)
  | .xori d a i => aWord (0x5000000 + d.val * 0x80000 + a.val * 0x4000 + i.toNat)
  | .shli d a i => aWord (0x6000000 + d.val * 0x80000 + a.val * 0x4000 + i.val)
  | .shri d a i => aWord (0x7000000 + d.val * 0x80000 + a.val * 0x4000 + i.val)
  | .sari d a i => aWord (0x8000000 + d.val * 0x80000 + a.val * 0x4000 + i.val)
  | .li d i => aWord (0x9000000 + d.val * 0x80000 + i.toNat)
  | .lis d a i => aWord (0xA000000 + d.val * 0x80000 + a.val * 0x4000 + i.toNat)
  | .cmpeqi d a i => aWord (0xB000000 + d.val * 0x80000 + a.val * 0x4000 + i.toNat)
  | .cmplti d a i => aWord (0xC000000 + d.val * 0x80000 + a.val * 0x4000 + i.toNat)
  | .cmpltui d a i => aWord (0xD000000 + d.val * 0x80000 + a.val * 0x4000 + i.toNat)
  | .bfx d a l p => aWord (0xE000000 + d.val * 0x80000 + a.val * 0x4000 + l.val * 0x40 + p.val)
  | .bfi d a l p => aWord (0xF000000 + d.val * 0x80000 + a.val * 0x4000 + l.val * 0x40 + p.val)
  | .fadd d a b z gp => aWord (0x10000000 + d.val * 0x80000 + a.val * 0x4000 + b.val * 0x200 + z.toNat * 0x100 + gp.val)
  | .fsub d a b z gp => aWord (0x10000008 + d.val * 0x80000 + a.val * 0x4000 + b.val * 0x200 + z.toNat * 0x100 + gp.val)
  | .fmul d a b z gp => aWord (0x10000010 + d.val * 0x80000 + a.val * 0x4000 + b.val * 0x200 + z.toNat * 0x100 + gp.val)
  | .fdiv d a b z gp => aWord (0x10000018 + d.val * 0x80000 + a.val * 0x4000 + b.val * 0x200 + z.toNat * 0x100 + gp.val)
  | .fsqrt d a z gp => aWord (0x10000020 + d.val * 0x80000 + a.val * 0x4000 + z.toNat * 0x100 + gp.val)
  | .fmin d a b z gp => aWord (0x10000028 + d.val * 0x80000 + a.val * 0x4000 + b.val * 0x200 + z.toNat * 0x100 + gp.val)
  | .fmax d a b z gp => aWord (0x10000030 + d.val * 0x80000 + a.val * 0x4000 + b.val * 0x200 + z.toNat * 0x100 + gp.val)
  | .ffma d a b z gp => aWord (0x10000038 + d.val * 0x80000 + a.val * 0x4000 + b.val * 0x200 + z.toNat * 0x100 + gp.val)
  | .fabs d a z gp => aWord (0x10000040 + d.val * 0x80000 + a.val * 0x4000 + z.toNat * 0x100 + gp.val)
  | .fneg d a z gp => aWord (0x10000048 + d.val * 0x80000 + a.val * 0x4000 + z.toNat * 0x100 + gp.val)
  | .fclass d a z gp => aWord (0x10000050 + d.val * 0x80000 + a.val * 0x4000 + z.toNat * 0x100 + gp.val)
  | .fcvti d a u z gp => aWord (0x10000058 + d.val * 0x80000 + a.val * 0x4000 + u.toNat * 0x200 + z.toNat * 0x100 + gp.val)
  | .fcvtf d a u z gp => aWord (0x10000060 + d.val * 0x80000 + a.val * 0x4000 + u.toNat * 0x200 + z.toNat * 0x100 + gp.val)
  | .fcvtp d a z gp => aWord (0x10000068 + d.val * 0x80000 + a.val * 0x4000 + z.toNat * 0x100 + gp.val)
  | .fcmpeq d a b z gp => aWord (0x11000000 + d.val * 0x80000 + a.val * 0x4000 + b.val * 0x200 + z.toNat * 0x100 + gp.val)
  | .fcmplt d a b z gp => aWord (0x11000008 + d.val * 0x80000 + a.val * 0x4000 + b.val * 0x200 + z.toNat * 0x100 + gp.val)
  | .fcmple d a b z gp => aWord (0x11000010 + d.val * 0x80000 + a.val * 0x4000 + b.val * 0x200 + z.toNat * 0x100 + gp.val)
  | .fcmpun d a b z gp => aWord (0x11000018 + d.val * 0x80000 + a.val * 0x4000 + b.val * 0x200 + z.toNat * 0x100 + gp.val)
  | .badd d a b h w => aWord (0x20000000 + d.val * 0x40000 + a.val * 0x1000 + b.val * 0x40 + h.val * 0x10 + w.val)
  | .bsub d a b h w => aWord (0x21000000 + d.val * 0x40000 + a.val * 0x1000 + b.val * 0x40 + h.val * 0x10 + w.val)
  | .bmul d a b h w => aWord (0x22000000 + d.val * 0x40000 + a.val * 0x1000 + b.val * 0x40 + h.val * 0x10 + w.val)
  | .bfma d a b h w => aWord (0x23000000 + d.val * 0x40000 + a.val * 0x1000 + b.val * 0x40 + h.val * 0x10 + w.val)
  | .bmin d a b h w => aWord (0x24000000 + d.val * 0x40000 + a.val * 0x1000 + b.val * 0x40 + h.val * 0x10 + w.val)
  | .bmax d a b h w => aWord (0x25000000 + d.val * 0x40000 + a.val * 0x1000 + b.val * 0x40 + h.val * 0x10 + w.val)
  | .band d a b h w => aWord (0x26000000 + d.val * 0x40000 + a.val * 0x1000 + b.val * 0x40 + h.val * 0x10 + w.val)
  | .bor d a b h w => aWord (0x27000000 + d.val * 0x40000 + a.val * 0x1000 + b.val * 0x40 + h.val * 0x10 + w.val)
  | .bxor d a b h w => aWord (0x28000000 + d.val * 0x40000 + a.val * 0x1000 + b.val * 0x40 + h.val * 0x10 + w.val)
  | .bdot d a b h w => aWord (0x29000000 + d.val * 0x40000 + a.val * 0x1000 + b.val * 0x40 + h.val * 0x10 + w.val)
  | .bred d a o h w => aWord (0x2A000000 + d.val * 0x40000 + a.val * 0x1000 + o.val * 0x40 + h.val * 0x10 + w.val)
  | .bcmplt d a b h w => aWord (0x2B000000 + d.val * 0x40000 + a.val * 0x1000 + b.val * 0x40 + h.val * 0x10 + w.val)
  | .bsel d a b h w => aWord (0x2C000000 + d.val * 0x40000 + a.val * 0x1000 + b.val * 0x40 + h.val * 0x10 + w.val)
  | .bmov d a h w => aWord (0x2D000000 + d.val * 0x40000 + a.val * 0x1000 + h.val * 0x10 + w.val)
  | .bneg d a h w => aWord (0x2E000000 + d.val * 0x40000 + a.val * 0x1000 + h.val * 0x10 + w.val)
  | .babs d a h w => aWord (0x2E000040 + d.val * 0x40000 + a.val * 0x1000 + h.val * 0x10 + w.val)
  | .bexp2 d a h w => aWord (0x2E000080 + d.val * 0x40000 + a.val * 0x1000 + h.val * 0x10 + w.val)
  | .blog2 d a h w => aWord (0x2E0000C0 + d.val * 0x40000 + a.val * 0x1000 + h.val * 0x10 + w.val)
  | .brcp d a h w => aWord (0x2E000100 + d.val * 0x40000 + a.val * 0x1000 + h.val * 0x10 + w.val)
  | .brsq d a h w => aWord (0x2E000140 + d.val * 0x40000 + a.val * 0x1000 + h.val * 0x10 + w.val)
  | .bsigm d a h w => aWord (0x2E000180 + d.val * 0x40000 + a.val * 0x1000 + h.val * 0x10 + w.val)
  | .btanh d a h w => aWord (0x2E0001C0 + d.val * 0x40000 + a.val * 0x1000 + h.val * 0x10 + w.val)
  | .bsqrt d a h w => aWord (0x2E000200 + d.val * 0x40000 + a.val * 0x1000 + h.val * 0x10 + w.val)
  | .brelu d a h w => aWord (0x2E000240 + d.val * 0x40000 + a.val * 0x1000 + h.val * 0x10 + w.val)
  | .bcvt d a f h w => aWord (0x2F000000 + d.val * 0x40000 + a.val * 0x1000 + f.val * 0x40 + h.val * 0x10 + w.val)
  | .bscal d a g h w => aWord (0x30000000 + d.val * 0x40000 + a.val * 0x1000 + g.val * 0x80 + h.val * 0x10 + w.val)
  | .badds d a g h w => aWord (0x31000000 + d.val * 0x40000 + a.val * 0x1000 + g.val * 0x80 + h.val * 0x10 + w.val)
  | .bbcst d g h w => aWord (0x32000000 + d.val * 0x40000 + g.val * 0x80 + h.val * 0x10 + w.val)
  | .bget l a g h w => aWord (0x33000000 + l.val * 0x40000 + a.val * 0x1000 + g.val * 0x80 + h.val * 0x10 + w.val)
  | .bset d l g h w => aWord (0x34000000 + d.val * 0x40000 + l.val * 0x1000 + g.val * 0x80 + h.val * 0x10 + w.val)
  | .bgnorm d a g h w => aWord (0x35000000 + d.val * 0x40000 + a.val * 0x1000 + g.val * 0x80 + h.val * 0x10 + w.val)
  | .bshuf d a g h w => aWord (0x36000000 + d.val * 0x40000 + a.val * 0x1000 + g.val * 0x80 + h.val * 0x10 + w.val)
  | .bscl d a g h w => aWord (0x37000000 + d.val * 0x40000 + a.val * 0x1000 + g.val * 0x80 + h.val * 0x10 + w.val)
  | .nop gp => cWord role (0x0 + gp.val)
  | .halt gp => loneWord role (0x8 + gp.val)
  | .brk gp => loneWord role (0x10 + gp.val)
  | .syscall gp => loneWord role (0x18 + gp.val)
  | .yield gp => cWord role (0x20 + gp.val)
  | .uiret gp => loneWord role (0x28 + gp.val)
  | .ifence gp => cWord role (0x30 + gp.val)
  | .tret gp => loneWord role (0x38 + gp.val)
  | .br p s d => cWord role (0x1000000 + p.val * 0x200000 + s.toNat * 0x100000 + d.toNat)
  | .jal l d => cWord role (0x2000000 + l.val * 0x80000 + d.toNat)
  | .jalr d a b gp => cWord role (0x3000000 + d.val * 0x80000 + a.val * 0x4000 + b.val * 0x200 + gp.val)
  | .ld8 t s o c k => cWord role (0x4000000 + t.val * 0x80000 + s.val * 0x4000 + o.toNat * 0x40 + c.val * 0x4 + k.val)
  | .ld8U t s o c k => cWord role (0x5000000 + t.val * 0x80000 + s.val * 0x4000 + o.toNat * 0x40 + c.val * 0x4 + k.val)
  | .ld16 t s o c k => cWord role (0x6000000 + t.val * 0x80000 + s.val * 0x4000 + o.toNat * 0x40 + c.val * 0x4 + k.val)
  | .ld16U t s o c k => cWord role (0x7000000 + t.val * 0x80000 + s.val * 0x4000 + o.toNat * 0x40 + c.val * 0x4 + k.val)
  | .ld32 t s o c k => cWord role (0x8000000 + t.val * 0x80000 + s.val * 0x4000 + o.toNat * 0x40 + c.val * 0x4 + k.val)
  | .ld32U t s o c k => cWord role (0x9000000 + t.val * 0x80000 + s.val * 0x4000 + o.toNat * 0x40 + c.val * 0x4 + k.val)
  | .ld64 t s o c k => cWord role (0xA000000 + t.val * 0x80000 + s.val * 0x4000 + o.toNat * 0x40 + c.val * 0x4 + k.val)
  | .st8 t s o c k => cWord role (0xB000000 + t.val * 0x80000 + s.val * 0x4000 + o.toNat * 0x40 + c.val * 0x4 + k.val)
  | .st16 t s o c k => cWord role (0xC000000 + t.val * 0x80000 + s.val * 0x4000 + o.toNat * 0x40 + c.val * 0x4 + k.val)
  | .st32 t s o c k => cWord role (0xD000000 + t.val * 0x80000 + s.val * 0x4000 + o.toNat * 0x40 + c.val * 0x4 + k.val)
  | .st64 t s o c k => cWord role (0xE000000 + t.val * 0x80000 + s.val * 0x4000 + o.toNat * 0x40 + c.val * 0x4 + k.val)
  | .ldv v s o h w k => cWord role (0xF000000 + v.val * 0x40000 + s.val * 0x2000 + o.toNat * 0x100 + h.val * 0x40 + w.val * 0x4 + k.val)
  | .stv v s o h w k => cWord role (0x10000000 + v.val * 0x40000 + s.val * 0x2000 + o.toNat * 0x100 + h.val * 0x40 + w.val * 0x4 + k.val)
  | .aadd d s b c k w => cWord role (0x11000000 + d.val * 0x80000 + s.val * 0x4000 + b.val * 0x200 + c.val * 0x20 + k.val * 0x8 + w.toNat * 0x4)
  | .aaddf d s b c k w => cWord role (0x12000000 + d.val * 0x80000 + s.val * 0x4000 + b.val * 0x200 + c.val * 0x20 + k.val * 0x8 + w.toNat * 0x4)
  | .amin d s b c k w => cWord role (0x13000000 + d.val * 0x80000 + s.val * 0x4000 + b.val * 0x200 + c.val * 0x20 + k.val * 0x8 + w.toNat * 0x4)
  | .amax d s b c k w => cWord role (0x14000000 + d.val * 0x80000 + s.val * 0x4000 + b.val * 0x200 + c.val * 0x20 + k.val * 0x8 + w.toNat * 0x4)
  | .aminu d s b c k w => cWord role (0x15000000 + d.val * 0x80000 + s.val * 0x4000 + b.val * 0x200 + c.val * 0x20 + k.val * 0x8 + w.toNat * 0x4)
  | .amaxu d s b c k w => cWord role (0x16000000 + d.val * 0x80000 + s.val * 0x4000 + b.val * 0x200 + c.val * 0x20 + k.val * 0x8 + w.toNat * 0x4)
  | .aand d s b c k w => cWord role (0x17000000 + d.val * 0x80000 + s.val * 0x4000 + b.val * 0x200 + c.val * 0x20 + k.val * 0x8 + w.toNat * 0x4)
  | .aor d s b c k w => cWord role (0x18000000 + d.val * 0x80000 + s.val * 0x4000 + b.val * 0x200 + c.val * 0x20 + k.val * 0x8 + w.toNat * 0x4)
  | .axor d s b c k w => cWord role (0x19000000 + d.val * 0x80000 + s.val * 0x4000 + b.val * 0x200 + c.val * 0x20 + k.val * 0x8 + w.toNat * 0x4)
  | .aswp d s b c k w => cWord role (0x1A000000 + d.val * 0x80000 + s.val * 0x4000 + b.val * 0x200 + c.val * 0x20 + k.val * 0x8 + w.toNat * 0x4)
  | .acas d s b c k w => cWord role (0x1B000000 + d.val * 0x80000 + s.val * 0x4000 + b.val * 0x200 + c.val * 0x20 + k.val * 0x8 + w.toNat * 0x4)
  | .fence k c => cWord role (0x1C000000 + k.val * 0x200000 + c.val * 0x20000)
  | .pref l s o => cWord role (0x1D000000 + l.val * 0x80000 + s.val * 0x4000 + o.toNat * 0x40)
  | .send a q => cWord role (0x1E000000 + a.val * 0x4000 + q.val * 0x10)
  | .sendt p a q => cWord role (0x1E000001 + p.val * 0x80000 + a.val * 0x4000 + q.val * 0x10)
  | .recv d q => cWord role (0x1E000002 + d.val * 0x80000 + q.val * 0x10)
  | .recvt d p q => cWord role (0x1E000003 + d.val * 0x80000 + p.val * 0x200 + q.val * 0x10)
  | .sendc a q => cWord role (0x1E000004 + a.val * 0x4000 + q.val * 0x10)
  | .alt d a => cWord role (0x1E000005 + d.val * 0x80000 + a.val * 0x4000)
  | .chgrant a q => cWord role (0x1E000006 + a.val * 0x4000 + q.val * 0x10)
  | .chbind a f q => cWord role (0x1E000007 + a.val * 0x4000 + f.val * 0x200 + q.val * 0x10)
  | .chunbind q => cWord role (0x1E000008 + q.val * 0x10)
  | .chstat d q => cWord role (0x1E000009 + d.val * 0x80000 + q.val * 0x10)
  | .spawn p a => cWord role (0x1F000000 + p.val * 0x80000 + a.val * 0x4000)
  | .spawnat p a b => cWord role (0x1F000001 + p.val * 0x80000 + a.val * 0x4000 + b.val * 0x200)
  | .join a => cWord role (0x1F000002 + a.val * 0x4000)
  | .retire => loneWord role (0x1F000003)
  | .bar a b => cWord role (0x1F000004 + a.val * 0x4000 + b.val * 0x200)
  | .fmtsel n => cWord role (0x1F000005 + n.val * 0x10)
  | .taskinfo d n => cWord role (0x1F000006 + d.val * 0x80000 + n.val * 0x10)
  | .mwarm a => cWord role (0x20000000 + a.val * 0x4000)
  | .mwait d a => cWord role (0x20000001 + d.val * 0x80000 + a.val * 0x4000)
  | .mwdis a => cWord role (0x20000002 + a.val * 0x4000)
  | .uisend a b => cWord role (0x20000003 + a.val * 0x4000 + b.val * 0x200)
  | .uimask d a => cWord role (0x20000004 + d.val * 0x80000 + a.val * 0x4000)
  | .jpoll p a => cWord role (0x20000005 + p.val * 0x80000 + a.val * 0x4000)
  | .jwait d a => cWord role (0x20000006 + d.val * 0x80000 + a.val * 0x4000)
  | .rdc d n => cWord role (0x21000000 + d.val * 0x80000 + n.toNat)
  | .wrc a n => cWord role (0x22000000 + a.val * 0x4000 + n.toNat)
  | .hsift a b c k => cWord role (0x23000000 + a.val * 0x4000 + b.val * 0x200 + c.val * 0x10 + k.val)
  | .mxma d a => cWord role (0x24000000 + d.val * 0x80000 + a.val * 0x4000)
  | .mxmab a => cWord role (0x24000001 + a.val * 0x4000)
  | .mxld a n => cWord role (0x24000002 + a.val * 0x4000 + n.val * 0x10)
  | .mxst a n => cWord role (0x24000003 + a.val * 0x4000 + n.val * 0x10)
  | .mxzero n => cWord role (0x24000004 + n.val * 0x10)
  | .mxq d => cWord role (0x24000005 + d.val * 0x80000)
  | .ringset a n => cWord role (0x25000000 + a.val * 0x4000 + n.val * 0x10)
  | .ringadv a n => cWord role (0x25000001 + a.val * 0x4000 + n.val * 0x10)
  | .ringq d n => cWord role (0x25000002 + d.val * 0x80000 + n.val * 0x10)
  | .cpy d a => cWord role (0x26000000 + d.val * 0x80000 + a.val * 0x4000)
  | .cpys a q => cWord role (0x26000001 + a.val * 0x4000 + q.val * 0x10)
  | .cpym d a => cWord role (0x26000002 + d.val * 0x80000 + a.val * 0x4000)
  | .cpyq d a => cWord role (0x26000003 + d.val * 0x80000 + a.val * 0x4000)
  | .pfetch d a b => cWord role (0x27000000 + d.val * 0x80000 + a.val * 0x4000 + b.val * 0x200)
  | .pconf a b => cWord role (0x27000001 + a.val * 0x4000 + b.val * 0x200)
  | .pcanc a => cWord role (0x27000002 + a.val * 0x4000)
  | .pfset a b => cWord role (0x27000003 + a.val * 0x4000 + b.val * 0x200)
  | .pfget d a => cWord role (0x27000004 + d.val * 0x80000 + a.val * 0x4000)
  | .pfstat d a => cWord role (0x27000005 + d.val * 0x80000 + a.val * 0x4000)
  | .aejob d a => cWord role (0x28000000 + d.val * 0x80000 + a.val * 0x4000)
  | .aeres d a => cWord role (0x28000001 + d.val * 0x80000 + a.val * 0x4000)
  | .aeabort a => cWord role (0x28000002 + a.val * 0x4000)
  | .escreq d a => cWord role (0x29000000 + d.val * 0x80000 + a.val * 0x4000)
  | .escpin a => cWord role (0x29000001 + a.val * 0x4000)
  | .escunpin a => cWord role (0x29000002 + a.val * 0x4000)
  | .eschist a b n => cWord role (0x29000003 + a.val * 0x4000 + b.val * 0x200 + n.val * 0x10)
  | .escq d a => cWord role (0x29000004 + d.val * 0x80000 + a.val * 0x4000)
  | .kvxl d a b => cWord role (0x2A000000 + d.val * 0x80000 + a.val * 0x4000 + b.val * 0x200)
  | .kvins d a b => cWord role (0x2A000001 + d.val * 0x80000 + a.val * 0x4000 + b.val * 0x200)
  | .kvdel d a b => cWord role (0x2A000002 + d.val * 0x80000 + a.val * 0x4000 + b.val * 0x200)
  | .kvexp d a b => cWord role (0x2A000003 + d.val * 0x80000 + a.val * 0x4000 + b.val * 0x200)
  | .kvimp d a => cWord role (0x2A000004 + d.val * 0x80000 + a.val * 0x4000)
  | .pcommit d a => cWord role (0x2B000000 + d.val * 0x80000 + a.val * 0x4000)
  | .pdecommit d a => cWord role (0x2B000001 + d.val * 0x80000 + a.val * 0x4000)
  | .pprobe d a => cWord role (0x2B000002 + d.val * 0x80000 + a.val * 0x4000)
  | .swapctx a => loneWord role (0x30000000 + a.val * 0x4000)
  | .slothand a => loneWord role (0x30000001 + a.val * 0x4000)
  | .divset a b => cWord role (0x30000002 + a.val * 0x4000 + b.val * 0x200)
  | .divclr a => cWord role (0x30000003 + a.val * 0x4000)
  | .tlbinv a b => cWord role (0x30000004 + a.val * 0x4000 + b.val * 0x200)
  | .tlbinvc a => cWord role (0x30000005 + a.val * 0x4000)
  | .pfclr => cWord role (0x30000006)
  | .taskDispatch _ _ => none
  | .ifetchFill _ _ => none
  | .loadDataReturn _ _ => none
  | .storeBufferDrain _ _ => none
  | .homeRequestArrival _ => none
  | .atomicPerform _ _ => none
  | .longOpComplete _ _ => none
  | .blockOpComplete _ _ => none
  | .fenceComplete _ _ => none
  | .ifenceComplete _ _ => none
  | .yieldExpiry _ _ => none
  | .userInterruptEntry _ _ => none
  | .copyCompletionEntry _ _ => none
  | .channelWordArrival _ => none
  | .grantArrival _ => none
  | .chunbindAck _ _ => none
  | .spawnComplete _ _ => none
  | .spawnatPacketArrival _ => none
  | .spawnatAck _ _ => none
  | .joinWake _ _ => none
  | .retireFrameUpdate _ _ => none
  | .retireSlotFree _ _ => none
  | .barWake _ _ => none
  | .mwaitWake _ _ => none
  | .mwaitTimeout _ _ => none
  | .stallReport _ _ => none
  | .uisendArrival _ => none
  | .trapEntry _ _ => none
  | .switchRequestTaken _ _ => none
  | .contextExchange _ _ => none
  | .engineFaultDelivery _ _ => none
  | .matrixJobStart _ => none
  | .matrixPanelFetch _ => none
  | .matrixStep _ _ _ => none
  | .matrixJobComplete _ => none
  | .accumTransferComplete _ => none
  | .mxzeroJob _ => none
  | .copyStart _ _ _ => none
  | .copyTurn _ => none
  | .copyComplete _ _ _ => none
  | .droverJobStart _ => none
  | .droverRound _ => none
  | .droverJobEnd _ => none
  | .sliceFillComplete _ _ => none
  | .sliceEvictionComplete _ _ => none
  | .kvTranslatorOp _ _ => none
  | .kvExportJob _ _ _ => none
  | .kvImportJob _ _ _ => none
  | .speculativeFetchLine _ _ => none
  | .parisonDataLand _ _ => none
  | .pageWalkComplete _ _ => none
  | .tlbinvComplete _ _ => none
  | .pcommitComplete _ _ => none
  | .pdecommitInvalidationDone _ _ => none
  | .tokenBucketRefill _ => none
  | .slicePortGrant _ _ => none
  | .portSaveStep _ _ => none
  | .saveStep _ _ => none
  | .restoreReadIssue _ _ => none
  | .restoreLineWrite _ _ _ => none
  | .portRestoreStep _ _ => none
  | .lehrAccess _ => none
  | .lehrChannelWrite _ => none
  | .quantumEnd _ _ => none
  | .powerGood => none
  | .safeStageEntry _ _ => none
  | .inventoryStageEntry _ _ _ => none
  | .kernelStageEntry _ _ _ _ => none
  | .dieEntersService _ _ => none
  | .scrubRead _ _ _ => none
  | .doorbell _ _ => none
  | .hostPostedWrite _ _ _ => none
  | .linkFlitReceive _ _ _ _ => none
  | .linkRetrain _ => none
  | .peerLost _ => none
  | .thermalTrip => none
  | .thermalResume => none
  | .junctionThrottle _ _ => none
  | .clockChange _ _ => none
  | .pwrcap _ => none
  | .sesskey _ _ => none
  | .escways _ _ => none
  | .linkRetrainCmd _ => none
  | .linkEnable _ _ => none
  | .deviceRegisterWrite _ _ => none
  | .hearthCmdIdle _ => none
  | .hearthScrubLine _ => none
  | .hearthScrubWord _ => none
  | .hearthSliceQuota _ => none
  | .hearthCmdReserved _ => none
  | .coreCmdIdle _ => none
  | .coreCmdResume _ => none
  | .coreCmdRetireAsFailed _ => none
  | .coreCmdMakeResident _ => none
  | .coreCmdRemove _ => none
  | .coreCmdWriteMasks _ => none
  | .coreCmdDivert _ => none
  | .coreCmdClearEntry _ => none
  | .coreCmdInstallEntry _ => none
  | .coreCmdHandOver _ => none
  | .coreCmdSwitchRequest _ => none
  | .coreCmdWriteRegister _ => none
  | .coreCmdReadRegister _ => none
  | .coreCmdSpillDeque _ => none
  | .coreCmdReleaseJob _ => none
  | .coreCmdReserved _ => none
  | .linkTrainingDone _ _ _ _ => none
  | .powerLoss => none
where
  /-- The A word whose bits [29:0] are `v`. -/
  aWord (v : Nat) : Option Nat :=
    match role with
    | .wordA => some (v + 0x80000000)
    | _ => none

end Sys2Proof
end

