-- ==== Sys2Proof/Machine/Hmac.lean ====
section
/-! DEFINITION. HMAC-SHA-256 (R277): the hash of FIPS 180-4 and the code of RFC 2104, by name in the spec. -/

namespace Sys2Proof.Machine

/-- SHA-256's round constants. -/
def shaK : List W32 :=
  ([0x428A2F98, 0x71374491, 0xB5C0FBCF, 0xE9B5DBA5, 0x3956C25B, 0x59F111F1, 0x923F82A4, 0xAB1C5ED5] : List W32) ++
  [0xD807AA98, 0x12835B01, 0x243185BE, 0x550C7DC3, 0x72BE5D74, 0x80DEB1FE, 0x9BDC06A7, 0xC19BF174] ++
  [0xE49B69C1, 0xEFBE4786, 0x0FC19DC6, 0x240CA1CC, 0x2DE92C6F, 0x4A7484AA, 0x5CB0A9DC, 0x76F988DA] ++
  [0x983E5152, 0xA831C66D, 0xB00327C8, 0xBF597FC7, 0xC6E00BF3, 0xD5A79147, 0x06CA6351, 0x14292967] ++
  [0x27B70A85, 0x2E1B2138, 0x4D2C6DFC, 0x53380D13, 0x650A7354, 0x766A0ABB, 0x81C2C92E, 0x92722C85] ++
  [0xA2BFE8A1, 0xA81A664B, 0xC24B8B70, 0xC76C51A3, 0xD192E819, 0xD6990624, 0xF40E3585, 0x106AA070] ++
  [0x19A4C116, 0x1E376C08, 0x2748774C, 0x34B0BCB5, 0x391C0CB3, 0x4ED8AA4A, 0x5B9CCA4F, 0x682E6FF3] ++
  [0x748F82EE, 0x78A5636F, 0x84C87814, 0x8CC70208, 0x90BEFFFA, 0xA4506CEB, 0xBEF9A3F7, 0xC67178F2]

/-- The eight words of a hash in progress. -/
structure ShaState where
  a : W32
  b : W32
  c : W32
  d : W32
  e : W32
  f : W32
  g : W32
  h : W32
  deriving DecidableEq, Repr

/-- The hash before the first block. -/
def ShaState.first : ShaState :=
  { a := 0x6A09E667, b := 0xBB67AE85, c := 0x3C6EF372, d := 0xA54FF53A, e := 0x510E527F, f := 0x9B05688C, g := 0x1F83D9AB,
    h := 0x5BE0CD19 }

/-- One round. -/
def ShaState.round (s : ShaState) (k w : W32) : ShaState :=
  let s1 := s.e.rotateRight 6 ^^^ s.e.rotateRight 11 ^^^ s.e.rotateRight 25
  let ch := (s.e &&& s.f) ^^^ (~~~s.e &&& s.g)
  let t1 := s.h + s1 + ch + k + w
  let s0 := s.a.rotateRight 2 ^^^ s.a.rotateRight 13 ^^^ s.a.rotateRight 22
  let maj := (s.a &&& s.b) ^^^ (s.a &&& s.c) ^^^ (s.b &&& s.c)
  { a := t1 + (s0 + maj), b := s.a, c := s.b, d := s.c, e := s.d + t1, f := s.e, g := s.f, h := s.g }

/-- Two hashes added word by word. -/
def ShaState.plus (s t : ShaState) : ShaState :=
  { a := s.a + t.a, b := s.b + t.b, c := s.c + t.c, d := s.d + t.d, e := s.e + t.e, f := s.f + t.f, g := s.g + t.g,
    h := s.h + t.h }

/-- The next word of a message schedule, from the words so far, newest first. -/
def shaNext (w : List W32) : W32 :=
  let x := w.getD 14 0
  let y := w.getD 1 0
  let s0 := x.rotateRight 7 ^^^ x.rotateRight 18 ^^^ x >>> 3
  let s1 := y.rotateRight 17 ^^^ y.rotateRight 19 ^^^ y >>> 10
  w.getD 15 0 + s0 + w.getD 6 0 + s1

/-- `n` more words of a message schedule. -/
def shaExtend : Nat → List W32 → List W32
  | 0, w => w
  | n + 1, w => shaExtend n (shaNext w :: w)

/-- The words of a block of 64 bytes, most significant byte first. -/
def bigWords (bs : List Byte) : List W32 := (chunks 4 bs).map (fun l => BitVec.ofNat 32 (leNat l.reverse))

/-- One block hashed. -/
def shaBlock (s : ShaState) (bs : List Byte) : ShaState :=
  let w := (shaExtend 48 (bigWords bs).reverse).reverse
  s.plus ((shaK.zip w).foldl (fun x y => x.round y.1 y.2) s)

/-- A message padded to whole blocks. -/
def shaPad (bs : List Byte) : List Byte :=
  let zeros := (119 - bs.length % 64) % 64
  bs ++ [0x80] ++ List.replicate zeros 0 ++ (leBytes 8 (8 * bs.length)).reverse

/-- A word's bytes, most significant first. -/
def bigBytes (w : W32) : List Byte := (leBytes 4 w.toNat).reverse

/-- SHA-256. -/
def sha256 (bs : List Byte) : List Byte :=
  let s := (chunks 64 (shaPad bs)).foldl shaBlock ShaState.first
  [s.a, s.b, s.c, s.d, s.e, s.f, s.g, s.h].flatMap bigBytes

/-- HMAC-SHA-256 under a key of at most 64 bytes. [log 39 DEDUCED] -/
def hmac (key msg : List Byte) : List Byte :=
  let k := key ++ List.replicate (64 - key.length) (0 : Byte)
  sha256 (k.map (fun b => b ^^^ 0x5C) ++ sha256 (k.map (fun b => b ^^^ 0x36) ++ msg))

end Sys2Proof.Machine
end

