-- ==== Sys2Proof/Machine/Control.lean ====
section
/-! DEFINITION. Branches and jumps (R147–R149), the control words of major 0x00 (R150–R154, R301), control registers (R130–R133,
R155–R157, R293–R295, R332, R336–R338), and the words that read or change the slot alone: FMTSEL, TASKINFO and UIMASK. -/

namespace Sys2Proof.Machine

/-! ## Branches and jumps -/

/-- BR (R147). -/
def execBr (p : Fin 8) (sense : Bool) (d : BitVec 20) (s : State) : Host.Outcome State Fault Refusal :=
  cWord s (fun core slot s => .act (
    let sl := slotAt s core slot
    finishBundle core slot id (if pRead sl p == sense then some (bundlePc sl + disp20 d) else none)))

/-- The address after the bundle in flight. -/
def nextPc (sl : Slot) : Word :=
  match sl.issue with
  | some iss => iss.pc + word iss.size
  | none => sl.regs.pc

/-- JAL (R148). -/
def execJal (l : Fin 32) (d : BitVec 19) (s : State) : Host.Outcome State Fault Refusal :=
  cWord s (fun core slot s => .act (
    let sl := slotAt s core slot
    finishBundle core slot (fun x => gWrite x l (nextPc sl)) (some (bundlePc sl + disp19 d))))

/-- JALR (R149). -/
def execJalr (d a b : Fin 32) (gp : Fin 8) (s : State) : Host.Outcome State Fault Refusal :=
  cWord s (fun core slot s =>
    let sl := slotAt s core slot
    let target := gRead sl a + gRead sl b
    cGuarded gp core slot s (
      if target.toNat % 4 ≠ 0 then .fault (Trouble.of 0x05 target)
      else .act (finishBundle core slot (fun x => gWrite x d (nextPc sl)) (some target))))

/-! ## Major 0x00 -/

/-- NOP (R150). -/
def execNop (gp : Fin 8) (s : State) : Host.Outcome State Fault Refusal :=
  cWord s (fun core slot s => cGuarded gp core slot s (.act (finishPlain core slot)))

/-- HALT (R151): the next bundle is the one after it, and the wait ends when an enabled interrupt is pending. -/
def execHalt (gp : Fin 8) (s : State) : Host.Outcome State Fault Refusal :=
  cWord s (fun core slot s =>
    let sl := slotAt s core slot
    cGuarded gp core slot s (
      if sl.ctl.uimaskv = 0 then .illegal sl 0x04
      else .act (andThen (finishPlain core slot) (modSlot core slot (fun x => { x with wait := .halt })))))

/-- BREAK (R150). -/
def execBrk (gp : Fin 8) (s : State) : Host.Outcome State Fault Refusal :=
  cWord s (fun core slot s => cGuarded gp core slot s (.fault (Trouble.of 0x0E 0)))

/-- SYSCALL (R150). -/
def execSyscall (gp : Fin 8) (s : State) : Host.Outcome State Fault Refusal :=
  cWord s (fun core slot s => cGuarded gp core slot s (.fault (Trouble.of 0x0F 0)))

/-- YIELD (R152): no issue in the 15 cycles after this one. -/
def execYield (gp : Fin 8) (s : State) : Host.Outcome State Fault Refusal :=
  cWord s (fun core slot s => cGuarded gp core slot s (.act (
    andThen (finishPlain core slot)
      (modSlot core slot (fun x => { x with wait := .yield ((coreAt s core).cycle + 16) })))))

/-- UIRET (R153). -/
def execUiret (gp : Fin 8) (s : State) : Host.Outcome State Fault Refusal :=
  cWord s (fun core slot s =>
    let sl := slotAt s core slot
    cGuarded gp core slot s (
      if sl.handler = .none then .illegal sl 0x04
      else .act (finishBundle core slot (fun x => { x with handler := .none }) (some sl.ctl.ulink))))

/-- IFENCE (R154). -/
def execIfence (gp : Fin 8) (s : State) : Host.Outcome State Fault Refusal :=
  cWord s (fun core slot s => cGuarded gp core slot s (.act (waitFor core slot .ifence 0)))

/-- TRET (R301). A resumed BAR counts again toward a stall report (R305). [log 71 DEDUCED] -/
def execTret (gp : Fin 8) (s : State) : Host.Outcome State Fault Refusal :=
  cWord s (fun core slot s =>
    let sl := slotAt s core slot
    if sl.mode = .user then .illegal sl 0x03
    else cGuarded gp core slot s (.act (andThen
      (onlyIf (suspKind sl.susp == 4) (disarm core slot))
      (ask (fun s => modSlot core slot (fun x =>
        returned (coreAt s core).cycle x))))))

/-! ## Control registers -/

/-- A bucket of a context at a slice of a flock (R332). -/
def bucketOf (f : Flock) (ctx slice : Nat) : Bucket :=
  (f.buckets.find? (fun b => b.ctx == ctx && b.slice == slice)).getD (Bucket.reset ctx slice)

/-- Every bucket of a context at a flock changed. -/
def modBuckets (flock ctx : Nat) (g : Bucket → Bucket) : Micro :=
  modFlock flock (fun f =>
    { f with buckets := f.buckets.filter (fun b => b.ctx != ctx) ++ (List.range 8).map (fun k => g (bucketOf f ctx k)) })

/-- A count as 16 bits of two's complement, in [31:16]. -/
def countField (c : Int) : Nat := (c % 65536).toNat * 65536

/-- Lines of a flock's L2 that a context owns, in one slice or in all. -/
def ownedLines (f : Flock) (ctx : Nat) (slice : Option Nat) : Nat :=
  (f.l2.filter (fun l => l.owner == ctx && (match slice with
    | some k => l.slice == k
    | none => true))).length

/-- A control register's value for a slot and a context; an unassigned number reads zero (R130). -/
def readReg (s : State) (core slot ctx n : Nat) : Word :=
  let sl := slotAt s core slot
  let c := coreAt s core
  let x := ctxAt s ctx
  let f := flockAt s (flockOf core)
  let b := bucketOf f ctx (core % 8)
  match n with
  | 0x000 => word c.cycle
  | 0x001 => whoOf s core slot
  | 0x002 => sl.task.task
  | 0x003 => sl.ctl.fctl
  | 0x004 => sl.ctl.rseed
  | 0x005 => sl.ctl.fmtact
  | 0x008 => sl.ctl.fd.get 0
  | 0x009 => sl.ctl.fd.get 1
  | 0x00A => sl.ctl.fd.get 2
  | 0x00B => sl.ctl.fd.get 3
  | 0x010 => sl.ctl.lhvec
  | 0x011 => sl.ctl.ulink
  | 0x012 => sl.ctl.ucause
  | 0x013 => sl.ctl.uivec
  | 0x014 => sl.ctl.xfrid
  | 0x015 => sl.ctl.uipend
  | 0x016 => sl.ctl.uimaskv
  | 0x018 => sl.ctl.waitlim
  | 0x020 => ((residentOf c ctx).map (fun r => r.pfthr)).getD 2
  | 0x028 => sl.ctl.aeeps
  | 0x029 => sl.ctl.aemaxr
  | 0x2000 => tvecOf c slot
  | 0x2001 => sl.trap.tcause
  | 0x2002 => sl.trap.tval
  | 0x2003 => sl.trap.tpc
  | 0x2004 => sl.trap.tstate
  | 0x2010 => c.slotmask
  | 0x2011 => c.bankmask
  | 0x2020 => b.waymask.zeroExtend 64
  | 0x2021 => word (ownedLines f ctx none * 65536 + ownedLines f ctx (some (core % 8)))
  | 0x2030 => word b.rate
  | 0x2031 => word (countField b.count + b.depth)
  | 0x2032 => word (b.spec * 65536 + b.spDepth * 256 + b.spRate)
  | 0x2040 => x.ptbase
  | 0x2041 => x.gptbase
  | 0x2042 => x.poolbase
  | 0x2050 => x.sessModel
  | 0x2051 => x.sessDigest.get 0
  | 0x2052 => x.sessDigest.get 1
  | 0x2053 => x.sessDigest.get 2
  | 0x2054 => x.sessDigest.get 3
  | 0x2055 => x.sessTenant
  | 0x2060 => x.kvtable
  | 0x2061 => x.escbase
  | 0x2062 => x.mcbase
  | _ => 0

/-- The numbers that name a register (Tables 6.8 and 6.10). -/
def assigned (n : Nat) : Bool :=
  decide (n ≤ 5) || decide (8 ≤ n ∧ n ≤ 0xB) || decide (0x10 ≤ n ∧ n ≤ 0x16) || n == 0x18 || n == 0x20 || n == 0x28 ||
  n == 0x29 || decide (0x2000 ≤ n ∧ n ≤ 0x2004) || n == 0x2010 || n == 0x2011 || n == 0x2020 || n == 0x2021 ||
  decide (0x2030 ≤ n ∧ n ≤ 0x2032) || decide (0x2040 ≤ n ∧ n ≤ 0x2042) || decide (0x2050 ≤ n ∧ n ≤ 0x2055) ||
  decide (0x2060 ≤ n ∧ n ≤ 0x2062)

/-- Bits of `v` outside `mask` are zero. -/
def within (v : Word) (mask : Nat) : Bool := v &&& ~~~(word mask) == 0

/-- A write of a slot's own registers. -/
def setCtl (core slot : Nat) (f : UserCtl → UserCtl) : Micro :=
  modSlot core slot (fun sl => { sl with ctl := f sl.ctl })

/-- A write of a slot's trap registers. -/
def setTrap (core slot : Nat) (f : TrapRegs → TrapRegs) : Micro :=
  modSlot core slot (fun sl => { sl with trap := f sl.trap })

/-- A write that its register's rule accepts only under a condition (R130). -/
def accept (ok : Bool) (f : Micro) : Except Nat Micro := if ok then .ok f else .error 0x04

/-- [55:lo] of an address register, the rest must be zero. -/
def addrMask (lo : Nat) : Nat := 2 ^ 56 - 2 ^ lo

/-- A control register written for a slot and a context; `machine` is the right of the Gaffer machine level (R293). -/
def writeReg (s : State) (core slot ctx n : Nat) (v : Word) (machine : Bool) : Except Nat Micro :=
  let sl := slotAt s core slot
  let c := coreAt s core
  let fl := flockOf core
  match n with
  | 0x003 => accept (within v 0x1F07 && decide (bitsNat v 2 0 ≤ 5)) (setCtl core slot (fun x => { x with fctl := v }))
  | 0x004 => accept (within v 0xFFFFFFFF) (setCtl core slot (fun x => { x with rseed := if v = 0 then 1 else v }))
  | 0x005 => accept (within v 3) (setCtl core slot (fun x => { x with fmtact := v }))
  | 0x010 => accept (within v (addrMask 2)) (setCtl core slot (fun x => { x with lhvec := v }))
  | 0x011 => accept (within v (addrMask 2)) (setCtl core slot (fun x => { x with ulink := v }))
  | 0x012 => .ok (setCtl core slot (fun x => { x with ucause := v }))
  | 0x013 => accept (within v (addrMask 6)) (setCtl core slot (fun x => { x with uivec := v }))
  | 0x014 => .ok (setCtl core slot (fun x => { x with xfrid := v }))
  | 0x016 => accept (within v 0xFF) (setCtl core slot (fun x => { x with uimaskv := v }))
  | 0x018 => .ok (setCtl core slot (fun x => { x with waitlim := v }))
  | 0x020 => accept (within v 7) (modResident core ctx (fun r => { r with pfthr := v }))
  | 0x028 => accept (within v 0xFFFFFFFF) (setCtl core slot (fun x => { x with aeeps := v }))
  | 0x029 => accept (within v 0xFFFF && v != 0) (setCtl core slot (fun x => { x with aemaxr := v }))
  | 0x2000 => accept (within v (addrMask 2)) (modCore core (fun k =>
      if h : partOf c slot < 4 then { k with tvec := k.tvec.set (partOf c slot) v h } else k))
  | 0x2001 => accept (within v 0xC0FF) (setTrap core slot (fun x => { x with tcause := v }))
  | 0x2002 => .ok (setTrap core slot (fun x => { x with tval := v }))
  | 0x2003 => accept (within v (addrMask 2)) (setTrap core slot (fun x => { x with tpc := v }))
  | 0x2004 =>
    let w := bitsNat v 7 4
    accept (within v 0xFF && decide (w = 0 ∨ w = bitsNat sl.trap.tstate 7 4) && decide (bitsNat v 2 1 ≠ 3))
      (modSlot core slot (fun x =>
        { x with trap := { x.trap with tstate := v }, susp := if w = 0 then .none else x.susp }))
  | 0x2010 => if machine then .ok (modCore core (fun k => { k with slotmask := v })) else .error 0x03
  | 0x2011 => if machine then .ok (modCore core (fun k => { k with bankmask := v })) else .error 0x03
  | 0x2020 => accept (within v 0xFFFF) (modBuckets fl ctx (fun b => { b with waymask := v.truncate 16 }))
  | 0x2030 => accept (within v 0xFF) (modBuckets fl ctx (fun b => { b with rate := v.toNat }))
  | 0x2031 =>
    let d := bitsNat v 7 0
    accept (within v 0xFFFF00FF) (modBuckets fl ctx (fun b =>
      { b with depth := d, count := max (-((d / 2 : Nat) : Int)) (min b.count d) }))
  | 0x2032 =>
    let d := bitsNat v 15 8
    accept (within v 0xFFFFFFFF) (modBuckets fl ctx (fun b =>
      { b with spRate := bitsNat v 7 0, spDepth := d, spec := min b.spec d }))
  | 0x2040 => accept (within v (addrMask 12)) (modCtx ctx (fun x => { x with ptbase := v }))
  | 0x2041 => accept (within v (addrMask 12)) (modCtx ctx (fun x => { x with gptbase := v }))
  | 0x2042 => accept (within v (addrMask 6)) (modCtx ctx (fun x => { x with poolbase := v }))
  | 0x2050 => .ok (modCtx ctx (fun x => { x with sessModel := v }))
  | 0x2051 => .ok (modCtx ctx (fun x => { x with sessDigest := x.sessDigest.set 0 v }))
  | 0x2052 => .ok (modCtx ctx (fun x => { x with sessDigest := x.sessDigest.set 1 v }))
  | 0x2053 => .ok (modCtx ctx (fun x => { x with sessDigest := x.sessDigest.set 2 v }))
  | 0x2054 => .ok (modCtx ctx (fun x => { x with sessDigest := x.sessDigest.set 3 v }))
  | 0x2055 => .ok (modCtx ctx (fun x => { x with sessTenant := v }))
  | 0x2060 => accept (within v (addrMask 6)) (modCtx ctx (fun x => { x with kvtable := v }))
  | 0x2061 => accept (decide (v.toNat % 0x200000 = 0 ∧ (v = 0 ∨ 0x400000 ≤ v.toNat)))
      (modCtx ctx (fun x => { x with escbase := v }))
  | 0x2062 => accept (within v (addrMask 14)) (modCtx ctx (fun x => { x with mcbase := v }))
  | _ => .error 0x04

/-- RDC (R155). -/
def execRdc (d : Fin 32) (n : BitVec 14) (s : State) : Host.Outcome State Fault Refusal :=
  cWord s (fun core slot s =>
    let sl := slotAt s core slot
    if 0x2000 ≤ n.toNat ∧ sl.mode = .user then .illegal sl 0x03
    else .act (
      let v := readReg s core slot sl.ctx n.toNat
      finishBundle core slot (fun x => gWrite x d v) none))

/-- WRC (R155, R156): its A word reads what stood before. -/
def execWrc (a : Fin 32) (n : BitVec 14) (s : State) : Host.Outcome State Fault Refusal :=
  cWord s (fun core slot s =>
    let sl := slotAt s core slot
    if 0x2000 ≤ n.toNat ∧ sl.mode = .user then .illegal sl 0x03
    else
      match writeReg s core slot sl.ctx n.toNat (gRead sl a) false with
      | .error c => .illegal sl c
      | .ok f => .act (ask (fun s =>
          andThen f (finishWith core slot (companionOut core (slotAt s core slot)) id none (n.toNat == 4)))))

/-! ## FMTSEL, TASKINFO and UIMASK -/

/-- FMTSEL (R179). [log 8 DEDUCED] -/
def execFmtsel (n : Fin 32) (s : State) : Host.Outcome State Fault Refusal :=
  cWord s (fun core slot s =>
    if n.val < 4 then
      .act (finishBundle core slot (fun x => { x with ctl := { x.ctl with fmtact := word n.val } }) none)
    else .illegal (slotAt s core slot) 0x04)

/-- The value TASKINFO reads (Table 9.6). -/
def taskInfo (t : TaskRec) : Nat → Word
  | 0 => t.faultWord
  | 1 => t.frame
  | 2 => t.entry
  | _ => t.fmtBlock

/-- TASKINFO (R202). [log 8 DEDUCED] -/
def execTaskinfo (d n : Fin 32) (s : State) : Host.Outcome State Fault Refusal :=
  cWord s (fun core slot s =>
    let sl := slotAt s core slot
    if n.val < 4 then .act (finishBundle core slot (fun x => gWrite x d (taskInfo sl.task n.val)) none)
    else .illegal sl 0x04)

/-- UIMASK (R209). -/
def execUimask (d a : Fin 32) (s : State) : Host.Outcome State Fault Refusal :=
  cWord s (fun core slot s =>
    let sl := slotAt s core slot
    let v := gRead sl a
    if within v 0xFF then
      .act (finishBundle core slot (fun x => { gWrite x d sl.ctl.uimaskv with ctl := { x.ctl with uimaskv := v } }) none)
    else .illegal sl 0x04)

end Sys2Proof.Machine
end

