-- ==== Sys2Proof/Machine/Cache.lean ====
section
/-! DEFINITION. The way out of a flock: the L2's lines and their replacement (R336), token buckets (R332–R334), and which
accesses need a token (R333). The L2 holds no data here: memory is coherent (R78), and a line's presence shows only in
OCCUP and in what is charged. -/

namespace Sys2Proof.Machine

/-- The 128-byte line of a key. -/
def lineOf (key : Nat) : Nat := key / 128

/-- The slice a line maps to (R333). -/
def sliceOfLine (line : Nat) : Nat := Config.sliceOf line % 8

/-- The set of its slice a line is held in. -/
def setOfLine (line : Nat) : Nat := Config.setOf line % 64

/-- A line is held. -/
def l2Holds (f : Flock) (line : Nat) : Bool := f.l2.any (fun l => l.line == line)

/-- A hit makes the line the most recently used. -/
def l2Touch (f : Flock) (line : Nat) : Flock :=
  { f with l2Use := f.l2Use + 1
           l2 := f.l2.map (fun l => if l.line = line then { l with used := f.l2Use + 1 } else l) }

/-- The way a fill takes: a free way of the mask, lowest first, or the least recently used way of the mask. -/
def fillWay (f : Flock) (slice set : Nat) (mask : BitVec 16) : Option Nat :=
  let here := f.l2.filter (fun l => l.slice == slice && l.set == set)
  let ways := (List.range 16).filter (fun w => bitAt mask w)
  match ways.find? (fun w => !(here.any (fun l => l.way == w))) with
  | some w => some w
  | none =>
    let mine := here.filter (fun l => ways.contains l.way)
    (mine.foldl (fun (o : Option L2Line) l => match o with
      | none => some l
      | some m => some (if l.used < m.used then l else m)) none).map (fun l => l.way)

/-- A write to a line that is held. -/
def l2Dirty (f : Flock) (line : Nat) : Flock :=
  { f with l2 := f.l2.map (fun l => if l.line = line then { l with dirty := true } else l) }

/-- A line filled for a context; a speculative fill stays least recently used (R251, R336). A dirty line that it replaces is written
back, charged to the line's owner (R333), and a line that an earlier miss has brought meanwhile is a hit. -/
def l2Fill (f : Flock) (core ctx line : Nat) (spec : Bool) : Flock :=
  let slice := sliceOfLine line
  let set := setOfLine line
  if l2Holds f line then (if spec then f else l2Touch f line)
  else match fillWay f slice set (bucketOf f ctx slice).waymask with
  | none => f
  | some w =>
    let u := f.l2Use + 1
    let there := fun (l : L2Line) => l.slice == slice && l.set == set && l.way == w
    { f with
      l2Use := u
      l2 := { slice := slice, set := set, way := w, line := line, owner := ctx, used := if spec then 0 else u, dirty := false } ::
        f.l2.filter (fun l => !there l)
      portQ := f.portQ ++ (f.l2.filter (fun l => there l && l.dirty)).map (fun l =>
        { slice := slice, ctx := l.owner, core := core, slot := 16, line := l.line, fill := false }) }

/-- A context's buckets at one slice changed. -/
def modBucket (flock ctx slice : Nat) (g : Bucket → Bucket) : Micro :=
  modFlock flock (fun f =>
    { f with buckets := f.buckets.filter (fun b => !(b.ctx == ctx && b.slice == slice)) ++ [g (bucketOf f ctx slice)] })

/-- A context may hold or borrow a token (R334). -/
def canPay (f : Flock) (ctx slice : Nat) : Bool :=
  let b := bucketOf f ctx slice
  decide (1 ≤ b.count) || decide (-((b.depth / 2 : Nat) : Int) < b.count)

/-- The first of some contexts after one, in increasing id and wrapping (R26, R334). -/
def nextAfter (last : Nat) (l : List Nat) : Option Nat :=
  let least := fun (m : List Nat) => m.foldl (fun (o : Option Nat) x => match o with
    | none => some x
    | some y => some (min x y)) none
  match least (l.filter (fun x => last < x)) with
  | some x => some x
  | none => least l

/-- The contexts of the requests that wait at a slice's port, as token holders, and as those that may borrow. -/
def portHolders (f : Flock) (slice : Nat) : List Nat :=
  ((f.portQ.filter (fun r => r.slice == slice && decide (1 ≤ (bucketOf f r.ctx slice).count))).map (fun r => r.ctx))
/-- The contexts that may borrow. -/
def portBorrowers (f : Flock) (slice : Nat) : List Nat :=
  ((f.portQ.filter (fun r => r.slice == slice && canPay f r.ctx slice)).map (fun r => r.ctx))

/-- The context that a slice's port has served last (R334). -/
def portServed (f : Flock) (slice : Nat) : Nat := f.portLast.toList.getD slice 0

/-- A request of a context that reaches a port at this moment is the one that the port chooses, among those that wait there: as a
token holder, or else as a borrower where no token holder waits (R334). -/
def portTurn (f : Flock) (slice ctx : Nat) (holder : Bool) : Bool :=
  if holder then nextAfter (portServed f slice) (ctx :: portHolders f slice) == some ctx
  else (portHolders f slice).isEmpty && canPay f ctx slice &&
    nextAfter (portServed f slice) (ctx :: portBorrowers f slice) == some ctx

/-- A port has served a context. -/
def servePort (flock slice ctx : Nat) : Micro := modFlock flock (fun f =>
  { f with portLast := if h : slice < 8 then f.portLast.set slice ctx h else f.portLast })

/-- A token paid by a party that does not wait in the port's queue; none when the port does not choose it now. -/
def payNow (s : State) (flock ctx line : Nat) : Option Micro :=
  let slice := sliceOfLine line
  let f := flockAt s flock
  if portTurn f slice ctx (decide (1 ≤ (bucketOf f ctx slice).count)) then
    some (andThen (servePort flock slice ctx) (modBucket flock ctx slice (fun b => { b with count := b.count - 1 })))
  else none

/-- Ordinary, host and silo memory is cached in the L2, except through the device attribute; peer memory is not (R78,
R342). -/
def cacheable : Target → Bool
  | .phys pa dev => !dev && (inSilo pa || inHost pa)
  | _ => false

/-! ## Diversion (R319–R321) -/

/-- Where an access to a line of a bank goes (Table 17.4). -/
inductive Route where
  | bank
  /-- The lehr line; the address is that of the byte. -/
  | lehr (pa : Nat)
  | held
  deriving DecidableEq, Repr

/-- The entry of a context that covers a bank and is not OFF. -/
def divertFor (c : Core) (ctx bank : Nat) : Option Divert :=
  c.divert.toList.find? (fun d => d.state != .off && d.ctx == ctx && bitAt d.mask bank)

/-- A context is absent on a core (R316). -/
def absent (c : Core) (ctx : Nat) : Bool := c.divert.toList.any (fun d => d.state != .off && d.ctx == ctx)

/-- Where an access of a context to a scratchpad offset of a core goes. -/
def padRoute (c : Core) (ctx off : Nat) : Route :=
  let bank := off / 0x4000
  let line := off % 0x4000 / 64
  match divertFor c ctx bank with
  | none => .bank
  | some d =>
    let b := d.banks.toList.getD bank BankCursor.reset
    let image := Route.lehr (d.base.toNat + off)
    match d.state with
    | .off => .bank
    | .diverted => image
    | .saving => if b.done || decide (line < b.cursor) then image else .bank
    | .restoring =>
      if b.done || decide (line < b.cursor) then .bank
      else if b.pending.any (fun p => p.1 == line) then .held
      else image

/-- The core whose bank a target lies in. -/
def bankCore (core : Nat) : Target → Nat
  | .pad n _ => n
  | _ => core

/-- Where an access to a target goes. -/
def routeOf (s : State) (ctx : Nat) : Target → Route
  | .pad core off => padRoute (coreAt s core) ctx off
  | _ => .bank

/-- An access of a context stays inside its flock: a scratchpad bank of the flock, parison SRAM, or a line the L2 holds. One that is
diverted to a lehr image leaves it (R321, R333). -/
def insideFlock (s : State) (core ctx : Nat) (t : Target) : Bool :=
  match t with
  | .pad n _ => flockOf n == flockOf core && (match routeOf s ctx t with
      | .lehr _ => false
      | _ => true)
  | .parison .. => true
  | .phys .. => cacheable t && l2Holds (flockAt s (flockOf core)) (lineOf (keyOf t))

/-- A read's way out asked for: a hit is touched, and a miss queues at the slice's port. The model holds no L1, whose lines only a
time could tell, and looks every read up in the L2. [log 101 DESIGN CHOICE] -/
def askPort (core slot ctx : Nat) (t : Target) : Micro := ask (fun s =>
  let line := lineOf (keyOf t)
  if insideFlock s core ctx t then
    onlyIf (cacheable t) (modFlock (flockOf core) (fun f => l2Touch f line))
  else modFlock (flockOf core) (fun f =>
    { f with portQ := f.portQ ++
        [{ slice := sliceOfLine line, ctx := ctx, core := core, slot := slot, line := line, fill := cacheable t }] }))

/-- An atomic's way out asked for: outside the flock's scratchpads it goes to a unit at its home, whatever the L2 holds (R333). -/
def askUnit (core slot ctx : Nat) (t : Target) : Micro := ask (fun s =>
  let line := lineOf (keyOf t)
  match t with
  | .phys .. => modFlock (flockOf core) (fun f =>
      { f with portQ := f.portQ ++
          [{ slice := sliceOfLine line, ctx := ctx, core := core, slot := slot, line := line, fill := false }] })
  | _ => askPort core slot ctx t)

/-- Every read of a slot has left its flock. -/
def portClear (s : State) (core slot : Nat) : Bool :=
  !((flockAt s (flockOf core)).portQ.any (fun r => r.core == core && r.slot == slot))

/-- The way out of an access that does not wait in the port's queue: inside the flock, or paid; none when it must wait (R333). A
write leaves its line dirty. [log 101 DESIGN CHOICE] -/
def payOut (s : State) (core ctx : Nat) (t : Target) (write : Bool) : Option Micro :=
  let flock := flockOf core
  let line := lineOf (keyOf t)
  let mark := fun (f : Flock) => if write then l2Dirty f line else f
  if insideFlock s core ctx t then
    some (onlyIf (cacheable t) (modFlock flock (fun f => mark (l2Touch f line))))
  else (payNow s flock ctx line).map (fun pay =>
    andThen pay (onlyIf (cacheable t) (modFlock flock (fun f => mark (l2Fill f core ctx line false)))))

/-- The way out of an atomic of the core's own, to a unit at its home (R333). -/
def payUnit (s : State) (core ctx : Nat) (t : Target) : Option Micro := payNow s (flockOf core) ctx (lineOf (keyOf t))

/-- The ways out of some accesses, one after another: `some write` for a line, `none` for an atomic; none when one of them must wait. -/
def payAll (core ctx : Nat) : List (Target × Option Bool) → State → Option (List Upd)
  | [], _ => some []
  | (t, k) :: rest, s =>
    match (match k with
      | some write => payOut s core ctx t write
      | none => payUnit s core ctx t) with
    | none => none
    | some f => (payAll core ctx rest (applyAll s (f s))).map (fun us => f s ++ us)

/-- The ways out of the lines of a range of bytes, as `payOut`; none when one of them must wait. -/
def payRange (core ctx : Nat) (t : Target) (write : Bool) : Nat → State → Option (List Upd)
  | 0, _ => some []
  | n + 1, s =>
    match payRange core ctx t write n s with
    | none => none
    | some us =>
      if n = 0 ∨ lineOf (keyOf t + n) ≠ lineOf (keyOf t + n - 1) then
        (payOut (applyAll s us) core ctx (targetPlus t n) write).map (fun f => us ++ f (applyAll s us))
      else some us

/-! ## The port (R334) -/

/-- The requests at a port that may be chosen: those of token holders, or of borrowers when there is none. -/
def portChoices (f : Flock) (slice : Nat) : List PortReq :=
  let here := f.portQ.filter (fun r => r.slice == slice)
  let holders := here.filter (fun r => decide (1 ≤ (bucketOf f r.ctx slice).count))
  if holders.isEmpty then here.filter (fun r => canPay f r.ctx slice) else holders

/-- SLICE_PORT_GRANT (R334): one request leaves, round-robin by context and oldest first. -/
def execSlicePortGrant (flock slice : Nat) (s : State) : Host.Outcome State Fault Refusal :=
  flockStep s flock (ask (fun s =>
    let f := flockAt s flock
    let choices := portChoices f slice
    match nextAfter (portServed f slice) (choices.map (fun r => r.ctx)) with
    | none => skip
    | some ctx =>
      match choices.find? (fun r => r.ctx == ctx) with
      | none => skip
      | some r =>
        doAll [
          modFlock flock (fun f => { f with portQ := f.portQ.erase r }),
          servePort flock slice ctx,
          modBucket flock ctx slice (fun b => { b with count := b.count - 1 }),
          onlyIf r.fill (modFlock flock (fun f => l2Fill f r.core ctx r.line false))]))

/-- A bucket refilled (R332). -/
def refilled (b : Bucket) : Bucket :=
  { b with count := min (b.count + b.rate) b.depth, spec := min (b.spec + b.spRate) b.spDepth }

/-- TOKEN_BUCKET_REFILL (R332): every bucket of the flock. -/
def execTokenBucketRefill (flock : Nat) (s : State) : Host.Outcome State Fault Refusal :=
  flockStep s flock (modFlock flock (fun f => { f with buckets := f.buckets.map refilled }))

end Sys2Proof.Machine
end

