-- ==== Sys2Proof/Machine/Memory.lean ====
section
/-! DEFINITION. The memory words: loads and stores (R182–R185), prefetch (R186), atomics (R187–R189), fences (R190), and HSIFT
(R253–R255), with what they need of the store buffer (R20), of scopes (R85) and of diversion (R320, Table 17.4). A load and
an atomic end in the steps of MemorySteps.lean. -/

namespace Sys2Proof.Machine

/-! ## Scopes (R85) -/

/-- A scope code of 12 to 15 is reserved. -/
def scopeBad (c : Nat) : Bool := decide (12 ≤ c)

/-- No write of a die's threads is on its way to its home: every write that happens before a release of the die is visible to
every party (R89, R94, R184). -/
def dieSettled (s : State) (die : Nat) : Bool :=
  !(s.reqs.any (fun r => dieOf r.core == die && (match r.kind with
    | .write => true
    | _ => false)))

/-- A release at a scope may be made visible (R184): inside the die stores are visible as they leave the buffer. -/
def releasable (s : State) (core scope : Nat) : Bool := decide (scope ≤ scopeDie) || dieSettled s (dieOf core)

/-! ## The store buffer (R20) -/

/-- Entries of a store buffer. -/
def bufferSize : Nat := 8

/-- The newest buffered byte of a slot at a key. -/
def bufferedByte (sb : List StoreEntry) (key : Nat) : Option Byte :=
  sb.foldl (fun o e => match e with
    | .store t bs _ _ => if keyOf t ≤ key ∧ key < keyOf t + bs.length then bs[key - keyOf t]? else o
    | .fence .. => o) none

/-- How much of a range is buffered. -/
inductive Cover where
  | none | part | all
  deriving DecidableEq, Repr

/-- How much of a range a slot's buffer holds. -/
def coverOf (sb : List StoreEntry) (a n : Nat) : Cover :=
  let l := (List.range n).map (fun k => (bufferedByte sb (a + k)).isSome)
  if l.all id then .all else if l.any id then .part else .none

/-- A structure read as a whole waits for the slot's buffered stores to its bytes (R20). -/
def structWait (sl : Slot) (t : Target) (n : Nat) : Option CRes :=
  if sl.sb.any (fun e => e.touches (keyOf t) n) then some (.again (.cond (.drained t n)) 0) else none

/-! ## Loads -/

/-- A target on a device page, whose accesses go to it one by one and are never served from elsewhere (R80, R91). -/
def onDevice : Target → Bool
  | .phys _ dev => dev
  | _ => false

/-- The pieces of a load that ask for their way out: those that the slot's own buffer does not serve, one for each line, but on a device
page each (R82, R333). -/
def askers (sl : Slot) : List Piece → List Nat → List Piece
  | [], _ => []
  | p :: rest, lines =>
    let line := lineOf (keyOf p.tgt)
    if onDevice p.tgt then p :: askers sl rest lines
    else if coverOf sl.sb (keyOf p.tgt) p.size != .none || lines.contains line then askers sl rest lines
    else p :: askers sl rest (line :: lines)

/-- A load accepted: it waits for its pieces, which ask for their way out unless the slot's own buffer serves them. `acq` is the
scope at which it acquires. -/
def beginLoad (core slot : Nat) (addr : Word) (pieces : List Piece) (dest : Dest) (acq : Option Nat) : Micro := ask (fun s =>
  let sl := slotAt s core slot
  andThen
    (waitFor core slot (.load
      { addr := addr, pieces := pieces, got := [], bad := false, dest := dest, acq := acq, met := [],
        begun := s.tick, queued := false }) 0)
    (forAll (askers sl pieces []) (fun p => askPort core slot sl.ctx p.tgt)))

/-- A piece that is buffered only in part makes the load wait (R20). -/
def partialPiece (sl : Slot) (pieces : List Piece) : Option Piece :=
  pieces.find? (fun p => coverOf sl.sb (keyOf p.tgt) p.size == .part)

/-- A scalar load (R182). -/
def loadWord (t b : Fin 32) (o : BitVec 8) (c k : Nat) (size : Nat) (signed : Bool) (core slot : Nat) (s : State) : CRes :=
  let sl := slotAt s core slot
  if k ≠ 0 ∧ scopeBad c then .illegal sl 0x04
  else
    let addr := gRead sl b + off8 o size
    onTarget addr .read (checkAddr s core slot addr size .read) (fun tgt =>
      let p : Piece := { tgt := tgt, size := size }
      match partialPiece sl [p] with
      | some q => .again (.cond (.drained q.tgt q.size)) 0
      | none => .access (beginLoad core slot addr [p] (.g t size signed) (if k = 0 then none else some c)))

/-- LD8. -/
def execLd8 (t b : Fin 32) (o : BitVec 8) (c : Fin 16) (k : Fin 4) (s : State) : Host.Outcome State Fault Refusal :=
  cWord s (loadWord t b o c.val k.val 1 true)
/-- LD8U. -/
def execLd8U (t b : Fin 32) (o : BitVec 8) (c : Fin 16) (k : Fin 4) (s : State) : Host.Outcome State Fault Refusal :=
  cWord s (loadWord t b o c.val k.val 1 false)
/-- LD16. -/
def execLd16 (t b : Fin 32) (o : BitVec 8) (c : Fin 16) (k : Fin 4) (s : State) : Host.Outcome State Fault Refusal :=
  cWord s (loadWord t b o c.val k.val 2 true)
/-- LD16U. -/
def execLd16U (t b : Fin 32) (o : BitVec 8) (c : Fin 16) (k : Fin 4) (s : State) : Host.Outcome State Fault Refusal :=
  cWord s (loadWord t b o c.val k.val 2 false)
/-- LD32. -/
def execLd32 (t b : Fin 32) (o : BitVec 8) (c : Fin 16) (k : Fin 4) (s : State) : Host.Outcome State Fault Refusal :=
  cWord s (loadWord t b o c.val k.val 4 true)
/-- LD32U. -/
def execLd32U (t b : Fin 32) (o : BitVec 8) (c : Fin 16) (k : Fin 4) (s : State) : Host.Outcome State Fault Refusal :=
  cWord s (loadWord t b o c.val k.val 4 false)
/-- LD64. -/
def execLd64 (t b : Fin 32) (o : BitVec 8) (c : Fin 16) (k : Fin 4) (s : State) : Host.Outcome State Fault Refusal :=
  cWord s (loadWord t b o c.val k.val 8 true)

/-! ## Stores -/

/-- A store put into the slot's buffer. -/
def pushStore (e : StoreEntry) (sl : Slot) : Slot := { sl with sb := sl.sb ++ [e], sbIn := sl.sbIn + 1 }

/-- A scalar store (R182, R183): every fault of it is raised at issue. -/
def storeWord (t b : Fin 32) (o : BitVec 8) (c k : Nat) (size : Nat) (core slot : Nat) (s : State) : CRes :=
  let sl := slotAt s core slot
  if k ≠ 0 ∧ scopeBad c then .illegal sl 0x04
  else
    let addr := gRead sl b + off8 o size
    onTarget addr .write (checkAddr s core slot addr size .write) (fun tgt =>
      if bufferSize ≤ sl.sb.length then .again (.cond .storeRoom) 0
      else .act (finishBundle core slot
        (pushStore (.store tgt (leBytes size (gRead sl t).toNat) (if k = 0 then none else some c) (threadClock s core slot))) none))

/-- ST8. -/
def execSt8 (t b : Fin 32) (o : BitVec 8) (c : Fin 16) (k : Fin 4) (s : State) : Host.Outcome State Fault Refusal :=
  cWord s (storeWord t b o c.val k.val 1)
/-- ST16. -/
def execSt16 (t b : Fin 32) (o : BitVec 8) (c : Fin 16) (k : Fin 4) (s : State) : Host.Outcome State Fault Refusal :=
  cWord s (storeWord t b o c.val k.val 2)
/-- ST32. -/
def execSt32 (t b : Fin 32) (o : BitVec 8) (c : Fin 16) (k : Fin 4) (s : State) : Host.Outcome State Fault Refusal :=
  cWord s (storeWord t b o c.val k.val 4)
/-- ST64. -/
def execSt64 (t b : Fin 32) (o : BitVec 8) (c : Fin 16) (k : Fin 4) (s : State) : Host.Outcome State Fault Refusal :=
  cWord s (storeWord t b o c.val k.val 8)

/-! ## Blocks (R185, R90) -/

/-- A failed check of a piece as a C word's result. [log 29 DEDUCED] -/
def onPieces (kind : Access) (r : Except (TRes × Word) (List Target)) (k : List Target → CRes) : CRes :=
  match r with
  | .ok l => k l
  | .error (e, addr) => onTarget addr kind e (fun _ => k [])

/-- LDV (R185): each register is read as two halves, the low half first; an ordered one acquires at DIE scope. -/
def execLdv (v : Fin 64) (b : Fin 32) (o : BitVec 5) (h : Fin 4) (w : Fin 16) (k : Fin 4) (s : State) :
    Host.Outcome State Fault Refusal :=
  cWord s (fun core slot s =>
    let sl := slotAt s core slot
    let addr := gRead sl b + off5 o
    if !inGrid v (rows h) (cols w) then .illegal sl 0x04
    else onPieces .read (checkPieces s core slot addr 16 .read (extent h w)) (fun ts =>
      let pieces : List Piece := ts.flatMap (fun t => [{ tgt := t, size := 8 }, { tgt := targetPlus t 8, size := 8 }])
      match partialPiece sl pieces with
      | some q => .again (.cond (.drained q.tgt q.size)) 0
      | none => .access (beginLoad core slot addr pieces (.block v (rows h) (cols w))
          (if k.val = 0 then none else some scopeDie))))

/-- The entries of an STV: one register each; the first carries the release. -/
def stvEntries (ts : List Target) (qs : List Quad) (rel : Option Nat) (clock : Clock) : List StoreEntry :=
  match ts.zip qs with
  | [] => []
  | (t, q) :: rest =>
    .store t (leBytes 16 q.toNat) rel clock :: rest.map (fun x => .store x.1 (leBytes 16 x.2.toNat) none clock)

/-- As many entries as there is room for enter the buffer. -/
def enterStores (es : List StoreEntry) (sl : Slot) : Slot × List StoreEntry :=
  let n := bufferSize - sl.sb.length
  ((es.take n).foldl (fun x e => pushStore e x) sl, es.drop n)

/-- The registers of an STV that have still to enter the buffer: all of them, but for one that a switch has put aside half done. -/
def stvLeft (sl : Slot) (es : List StoreEntry) : List StoreEntry :=
  match sl.stv with
  | some (pc, n) => if pc = bundlePc sl then es.drop (es.length - n) else es
  | none => es

/-- STV (R185): its registers enter the buffer in order, and the slot waits until the last has. -/
def execStv (v : Fin 64) (b : Fin 32) (o : BitVec 5) (h : Fin 4) (w : Fin 16) (k : Fin 4) (s : State) :
    Host.Outcome State Fault Refusal :=
  cWord s (fun core slot s =>
    let sl := slotAt s core slot
    let addr := gRead sl b + off5 o
    if !inGrid v (rows h) (cols w) then .illegal sl 0x04
    else onPieces .write (checkPieces s core slot addr 16 .write (extent h w)) (fun ts =>
      let es := stvLeft sl (stvEntries ts (blockRead sl v (rows h) (cols w)) (if k.val = 0 then none else some scopeDie)
        (threadClock s core slot))
      let rest := (enterStores es sl).2
      let enter := fun (x : Slot) => { (enterStores es x).1 with stv := none }
      .act (
        if rest.isEmpty then finishBundle core slot enter none
        else andThen (waitFor core slot (.storing rest) 0) (modSlot core slot enter))))

/-! ## Prefetch (R186) -/

/-- PREF's address: off8 scaled by 64. -/
def prefAddr (sl : Slot) (b : Fin 32) (o : BitVec 8) : Word := gRead sl b + off8 o 64

/-- A line asked for by a PREF, which none waits for: one for the LLC leaves the flock and is brought into no L2 (R186, R333). -/
def askLine (core ctx : Nat) (level : Nat) (t : Target) : Micro := ask (fun s =>
  let line := lineOf (keyOf t)
  if insideFlock s core ctx t then onlyIf (decide (level < 2)) (modFlock (flockOf core) (fun f => l2Touch f line))
  else modFlock (flockOf core) (fun f => { f with portQ := f.portQ ++
    [{ slice := sliceOfLine line, ctx := ctx, core := core, slot := 16, line := line, fill := decide (level < 2) }] }))

/-- The line of a prefetch that a plain read could bring in: through a translation that is held, or by a walk that sets no accessed
bit and whose translation is then held (R186). [log 47 DEDUCED] -/
def prefLine (core slot level : Nat) (va : Nat) : Micro := ask (fun s =>
  let sl := slotAt s core slot
  let w := slotWalker s core slot
  let go := fun (t : TlbEntry) =>
    let tgt : Target := .phys (t.phys va) t.dev
    onlyIf ((refusal s t sl.mode .read va).isNone && cacheable tgt) (askLine core sl.ctx level tgt)
  if (ctxAt s sl.ctx).ptbase = 0 then skip
  else match tlbFind s core sl.ctx va with
    | some t => go t
    | none =>
      if walkRoom s w.die sl.ctx va walkLimit then
        (match walkTables s w va with
         | .ok r => andThen (installTlb core r.entry r.upper) (go r.entry)
         | .error _ => skip)
      else skip)

/-- PREF (R186). [log 47 DEDUCED] -/
def execPref (l : Fin 4) (b : Fin 32) (o : BitVec 8) (s : State) : Host.Outcome State Fault Refusal :=
  cWord s (fun core slot s =>
    let sl := slotAt s core slot
    let addr := prefAddr sl b o
    let region := regionOf addr.toNat
    let fault : Option Nat :=
      if region = .reserved then some 0x06
      else if sl.pair = .execute ∧ (region = .pad ∨ region = .parison ∨ region = .aperture) then some 0x06
      else if region = .parison then
        (match parisonCheck s core sl.ctx addr.toNat with
         | .fault c => some c
         | _ => none)
      else none
    match fault with
    | some c => .fault (Trouble.of c addr)
    | none =>
      let base := (ctxAt s sl.ctx).escbase
      .act (andThen
        (match region with
         | .ordinary => prefLine core slot l.val addr.toNat
         | .expert => (match backing base addr.toNat with
           | .ok a => onlyIf (base != 0) (prefLine core slot l.val a)
           | .error _ => skip)
         | _ => skip)
        (finishPlain core slot)))

/-! ## Atomics (R187–R189) -/

/-- An atomic accepted: it waits to be performed. -/
def beginAtomic (core slot : Nat) (a : AtomicReq) : Micro := ask (fun s =>
  andThen (waitFor core slot (.atomic a) 0) (askUnit core slot (slotAt s core slot).ctx a.tgt))

/-- ACQ and REL parts of an ordering code. -/
def ordAcq (k : Nat) : Bool := k % 2 == 1
/-- REL part. -/
def ordRel (k : Nat) : Bool := 2 ≤ k

/-- An atomic word (R187). `pcie` says that it is one of the three that host memory allows. -/
def atomicWord (op : Slot → AtomicOp) (pcie signed : Bool) (d b v : Fin 32) (c k : Nat) (w : Bool) (core slot : Nat)
    (s : State) : CRes :=
  let sl := slotAt s core slot
  let size := if w then 8 else 4
  let addr := gRead sl b
  if scopeBad c then .illegal sl 0x04
  else onTarget addr (.atomic pcie) (checkAtomic s core slot addr size pcie) (fun tgt =>
    .access (beginAtomic core slot
      { addr := addr, tgt := tgt, size := size, op := op sl, operand := gRead sl v, d := d, signed := signed && !w,
        scope := c, acq := ordAcq k, rel := ordRel k, queued := false }))

/-- AADD. -/
def execAadd (d b v : Fin 32) (c : Fin 16) (k : Fin 4) (w : Bool) (s : State) : Host.Outcome State Fault Refusal :=
  cWord s (atomicWord (fun _ => .add) true false d b v c.val k.val w)
/-- AADDF (R188). -/
def execAaddf (d b v : Fin 32) (c : Fin 16) (k : Fin 4) (w : Bool) (s : State) : Host.Outcome State Fault Refusal :=
  cWord s (atomicWord (fun _ => .addf) false false d b v c.val k.val w)
/-- AMIN. -/
def execAmin (d b v : Fin 32) (c : Fin 16) (k : Fin 4) (w : Bool) (s : State) : Host.Outcome State Fault Refusal :=
  cWord s (atomicWord (fun _ => .min) false true d b v c.val k.val w)
/-- AMAX. -/
def execAmax (d b v : Fin 32) (c : Fin 16) (k : Fin 4) (w : Bool) (s : State) : Host.Outcome State Fault Refusal :=
  cWord s (atomicWord (fun _ => .max) false true d b v c.val k.val w)
/-- AMINU. -/
def execAminu (d b v : Fin 32) (c : Fin 16) (k : Fin 4) (w : Bool) (s : State) : Host.Outcome State Fault Refusal :=
  cWord s (atomicWord (fun _ => .minu) false false d b v c.val k.val w)
/-- AMAXU. -/
def execAmaxu (d b v : Fin 32) (c : Fin 16) (k : Fin 4) (w : Bool) (s : State) : Host.Outcome State Fault Refusal :=
  cWord s (atomicWord (fun _ => .maxu) false false d b v c.val k.val w)
/-- AAND. -/
def execAand (d b v : Fin 32) (c : Fin 16) (k : Fin 4) (w : Bool) (s : State) : Host.Outcome State Fault Refusal :=
  cWord s (atomicWord (fun _ => .and_) false false d b v c.val k.val w)
/-- AOR. -/
def execAor (d b v : Fin 32) (c : Fin 16) (k : Fin 4) (w : Bool) (s : State) : Host.Outcome State Fault Refusal :=
  cWord s (atomicWord (fun _ => .or_) false false d b v c.val k.val w)
/-- AXOR. -/
def execAxor (d b v : Fin 32) (c : Fin 16) (k : Fin 4) (w : Bool) (s : State) : Host.Outcome State Fault Refusal :=
  cWord s (atomicWord (fun _ => .xor_) false false d b v c.val k.val w)
/-- ASWP. -/
def execAswp (d b v : Fin 32) (c : Fin 16) (k : Fin 4) (w : Bool) (s : State) : Host.Outcome State Fault Refusal :=
  cWord s (atomicWord (fun _ => .swap) true false d b v c.val k.val w)
/-- ACAS: d is read as the expected value. -/
def execAcas (d b v : Fin 32) (c : Fin 16) (k : Fin 4) (w : Bool) (s : State) : Host.Outcome State Fault Refusal :=
  cWord s (atomicWord (fun sl => .cas (gRead sl d)) true false d b v c.val k.val w)

/-! ## Fences (R190, R98) -/

/-- FENCE. At THREAD scope it has no effect. -/
def execFence (k : Fin 8) (c : Fin 16) (s : State) : Host.Outcome State Fault Refusal :=
  cWord s (fun core slot s =>
    let sl := slotAt s core slot
    if scopeBad c.val then .illegal sl 0x04
    else if c.val = 0 then .act (finishPlain core slot)
    else match k.val with
      | 0 => .act (waitFor core slot (.fenceFull c.val) 0)
      | 1 => .act (waitFor core slot (.fenceAcq c.val) 0)
      | _ =>
        if bufferSize ≤ sl.sb.length then .again (.cond .storeRoom) 0
        else .act (finishBundle core slot (pushStore (.fence c.val (releaseClock s core slot))) none))

/-! ## HSIFT (R253–R255) -/

/-- HSIFT's checks in the order of R253: the cause, or the heap's target. -/
def siftCheck (s : State) (core slot : Nat) (addr : Word) (n : Nat) : Except Nat Target :=
  let a := addr.toNat
  let part := partOf (coreAt s core) slot
  if (slotAt s core slot).pair = .execute then .error 0x06
  else if a % 8 ≠ 0 then .error 0x05
  else if 0x40000 < a + 8 * n then .error 0x06
  else match padCheck s core part a, padCheck s core part (a + 8 * n - 1) with
    | .ok t, .ok _ => .ok t
    | _, _ => .error 0x08

/-- HSIFT. -/
def execHsift (a b c : Fin 32) (k : Fin 16) (s : State) : Host.Outcome State Fault Refusal :=
  cWord s (fun core slot s =>
    let sl := slotAt s core slot
    let n := k.val + 1
    let addr := gRead sl a
    match siftCheck s core slot addr n with
    | .error cause => .fault { cause := cause, value := addr, write := true }
    | .ok tgt =>
      .access (beginAtomic core slot
        { addr := addr, tgt := tgt, size := 8 * n, op := .sift n ((gRead sl b).truncate 32) ((gRead sl c).truncate 32),
          operand := 0, d := 0, signed := false, scope := 0, acq := false, rel := false, queued := false }))

end Sys2Proof.Machine
end

