-- ==== Sys2Proof/Machine/Device.lean ====
section
/-! DEFINITION. Where bytes are found and put: the function mailboxes and STATUS (R364, R368, Table 20.3), scratchpad lines routed
by diversion (R319–R321, Table 17.4), packages reached over links (R373), and watches (R205, R206). -/

namespace Sys2Proof.Machine

/-! ## STATUS and the mailboxes -/

/-- STAGE of Table 20.3. -/
def stageCode : Stage → Nat
  | .safe => 0
  | .inventory => 1
  | .kernel => 2
  | .service => 3

/-- A bit's value at a place. -/
def bitIf (c : Bool) (k : Nat) : Nat := if c then 2 ^ k else 0

/-- STATUS (Table 20.3). -/
def statusWord (p : Pkg) : Word :=
  word (bitIf (!p.retires.isEmpty) 23 + bitIf p.trip 22 + bitIf p.capped 21 + bitIf p.repairChg 20 + p.dies.toNat * 2 ^ 16 +
    p.error % 256 * 2 ^ 8 + stageCode p.stage)

/-- Offset in the mailboxes' region, when a physical address lies there. [log 52 DEDUCED] -/
def mailboxOffset (pa : Nat) : Option Nat :=
  let off := pa - deviceBase
  if inDevice pa && decide (0x20000000 ≤ off ∧ off < 0x20210000) then some (off - 0x20000000) else none

/-- The byte of a device register that is no plain memory: STATUS of the physical function, and zero for STATUS of a virtual
function and for DOORBELL. -/
def deviceByte (s : State) (pa : Nat) : Option Byte :=
  match mailboxOffset pa with
  | none => none
  | some off =>
    if off < 8 then some (BitVec.ofNat 8 ((statusWord s.pkg).toNat / 2 ^ (8 * off)))
    else if off % 0x10000 < 0x10 then some 0
    else none

/-- Bytes at their homes, device registers included. -/
def homeBytes (s : State) (key n : Nat) : List Byte :=
  (List.range n).map (fun i => (deviceByte s (key + i)).getD (memRead s.mem (key + i)))

/-- Bytes performed at a physical address: a write to DOORBELL posts an event with its value, STATUS keeps its value, and
everything else is memory. -/
def putPhys (pa : Nat) (bs : List Byte) : Micro :=
  match mailboxOffset pa with
  | some off =>
    if off % 0x10000 = 8 then postEvent (.doorbell (off / 0x10000) (word (leNat bs)))
    else if off % 0x10000 < 0x10 then skip
    else putBytes pa bs
  | none => putBytes pa bs

/-! ## Other packages (R373) -/

/-- The package that holds a physical address. -/
def peerOf (pa : Nat) : Nat := (pa - 0x4000000000000) / 0x10000000000

/-- Some link to a package is up and enabled. -/
def peerUp (s : State) (peer : Nat) : Bool := s.pkg.links.toList.any (fun l => l.up && l.enabled && l.peer == peer)

/-- A target on a package that no link reaches. -/
def unreachable (s : State) : Target → Bool
  | .phys pa _ => inPeer s pa && !peerUp s (peerOf pa)
  | _ => false

/-! ## Routes to lehr images (R321) -/

/-- The byte of a lehr image as its home will hold it once the writes on the core's route have landed (R105, R321). -/
def lehrByte (s : State) (core pa : Nat) : Byte :=
  match (coreAt s core).lehrQ.foldl (fun (o : Option Byte) x => match x with
      | .write bs _ => match bs.find? (fun c => c.1 == pa) with
        | some c => some c.2
        | none => o
      | _ => o) none with
  | some b => b
  | none => memRead s.mem pa

/-- A number of a lehr image, as its home will hold it. -/
def lehrNat (s : State) (core pa n : Nat) : Nat :=
  leNat ((List.range n).map (fun k => lehrByte s core (pa + k)))

/-- An access joins a core's route to a lehr image. [log 55 DEDUCED] -/
def pushLehr (core : Nat) (x : LehrOp) : Micro := modCore core (fun c => { c with lehrQ := c.lehrQ ++ [x] })

/-! ## Writes that are performed at once -/

/-- An access on a route to a lehr image changes some of these bytes. -/
def LehrOp.puts (x : LehrOp) (pa n : Nat) : Bool :=
  match x with
  | .write bs _ => bs.any (fun c => decide (pa ≤ c.1 ∧ c.1 < pa + n))
  | .atomic _ _ places => places.any (fun p => overlaps p.2.2 p.2.1 pa n)
  | _ => false

/-- Nothing on a core's route to a lehr image has still to change these bytes. [log 55 DEDUCED] -/
def lehrClear (s : State) (core pa n : Nat) : Bool := !((coreAt s core).lehrQ.any (fun x => x.puts pa n))

/-- A write of a context performed at its target: on the bank, or on its way to the lehr line, where it takes its place in the
coherence order of the location that it addresses (R106); none while it is held. -/
def performWrite (s : State) (ctx : Nat) (t : Target) (w : Writer) (bs : List Byte) : Option Micro :=
  let note := fun (was : List Byte) => noteWrite w (locOf ctx t) was
  match t with
  | .pad core off =>
    (match padRoute (coreAt s core) ctx off with
     | .bank => some (andThen (note (memBytes s (keyOf t) bs.length)) (putBytes (keyOf t) bs))
     | .lehr pa => some (pushLehr core (.write (cellsAt pa bs) (some (locOf ctx t, w))))
     | .held => none)
  | .parison .. => some (putBytes (keyOf t) bs)
  | .phys pa _ => some (andThen (note (memBytes s pa bs.length)) (putPhys pa bs))

/-! ## Reads -/

/-- What a party of a context finds from a core inside one line; none while the line is held (R320), or while something on the route
to its lehr line has still to change it (R321). A device page is read at its home (R91). [log 55 DEDUCED] -/
def readTarget (s : State) (r : Reader) (core ctx : Nat) (t : Target) (n choice : Nat) : Option Found :=
  let loc := locOf ctx t
  if onDevice t then some { bytes := homeBytes s (keyOf t) n, froms := readFrom s [] loc n, ways := [] }
  else match routeOf s ctx t with
    | .bank => some (lookAt s r (dieOf core) loc (memBytes s (keyOf t) n) choice)
    | .lehr pa =>
      if lehrClear s (bankCore core t) pa n then some (lookAt s r (dieOf core) loc (memBytes s pa n) choice) else none
    | .held => none

/-- What a party finds that reads word by word (R72, R102): a range cut at 8-byte words, with fuel for its bytes. -/
def readWords (s : State) (r : Reader) (core ctx : Nat) (t : Target) : Nat → Nat → Option Found
  | 0, _ => some (.plain [])
  | fuel + 1, n =>
    if n = 0 then some (.plain [])
    else
      let k := min n (8 - keyOf t % 8)
      match readTarget s r core ctx t k (keyOf t), readWords s r core ctx (targetPlus t k) fuel (n - k) with
      | some f, some l => some (f.append l)
      | _, _ => none

/-- What a party finds at a target, unless it cannot be read yet. -/
def routedRead (s : State) (r : Reader) (core ctx : Nat) (t : Target) (n : Nat) : Option Found :=
  readWords s r core ctx t (n / 8 + 2) n

/-- Bytes of a target as a party reads them. -/
def routedBytes (s : State) (r : Reader) (core ctx : Nat) (t : Target) (n : Nat) : Option (List Byte) :=
  (routedRead s r core ctx t n).map (fun f => f.bytes)

/-- Some byte of a target's location is poisoned, or lies where no link reaches (R181, R373, R374). -/
def badBytes (s : State) (ctx : Nat) (t : Target) (n : Nat) : Bool :=
  unreachable s t ||
  (match routeOf s ctx t with
   | .lehr pa => poisonedIn s pa n
   | _ => poisonedIn s (keyOf t) n)

/-- A C word's result whose way has been paid for. -/
def CRes.after (pay : Micro) (core slot : Nat) : CRes → CRes
  | .fault t => .turn (andThen pay (raiseC core slot t))
  | .again w code => .turn (andThen pay (waitAgain core slot w code))
  | .act f => .act (andThen pay f)
  | .access f => .access (andThen pay f)
  | .turn f => .turn (andThen pay f)

/-- The tag of the expert slice that an address of the aperture lies in (R83). -/
def sliceTag (va : Nat) : Nat := (va - expertBase) / 0x200000

/-- A read through the aperture, or a fill, makes a resident slice the most recently read (R266). -/
def useSlice (ctx va : Nat) : Micro := ask (fun s =>
  let mine := fun (x : Slice) => x.tag == sliceTag va && x.state == .resident
  onlyIf (regionOf va == .expert && (ctxAt s ctx).slices.any mine) (andThen
    (modCtx ctx (fun c => { c with slices := c.slices.map (fun x => if mine x then { x with used := s.tick } else x) }))
    bump))

/-- A slot's thread has read a structure at a target: what it has found there, and the expert slice that it has used. -/
def readBy (core slot : Nat) (addr : Word) (t : Target) (n : Nat) (f : Found) : Micro := ask (fun s =>
  andThen (sawFound core slot (locOf (slotAt s core slot).ctx t) n f) (useSlice (slotAt s core slot).ctx addr.toNat))

/-- A structure read as a whole by a C word (R20, R180, R181): its bytes, once they can be read and their way out has been paid
(R333); what wrote them comes before what the thread does next (R94). -/
def withStruct (core slot : Nat) (s : State) (addr : Word) (align n : Nat) (k : List Byte → CRes) : CRes :=
  onTarget addr .read (checkAddr s core slot addr align .read) (fun t =>
    let sl := slotAt s core slot
    match structWait sl t n with
    | some r => r
    | none =>
      if badBytes s sl.ctx t n then .fault (Trouble.of 0x0A addr)
      else match routedRead s (slotReader s core slot) core sl.ctx t n, payRange core sl.ctx t false n s with
        | some f, some us => (k f.bytes).after (andThen (fun _ => us) (readBy core slot addr t n f)) core slot
        | _, _ => .again (.cond (.drained t n)) 0)

/-- A range of addresses cut where 64-byte lines end, with fuel for its bytes: address and length. -/
def linesOf : Nat → Nat → Nat → List (Nat × Nat)
  | 0, _, _ => []
  | fuel + 1, a, n =>
    let k := min n (64 - a % 64)
    if n = 0 then [] else (a, k) :: linesOf fuel (a + k) (n - k)

/-- A little-endian field of a structure's bytes. -/
def fieldAt (bs : List Byte) (off n : Nat) : Nat := leNat ((bs.drop off).take n)

/-! ## Accesses that no slot issues -/

/-- Where an access of a party leads that acts for a context and a partition of a core, in U or S mode, and waits on no walk of a
slot: the region rules of Table 9.1 but for the pair rule, then translation. No engine uses parison SRAM (R75). Cause 0 says that the
access cannot be made yet. -/
def reach (s : State) (w : Walker) (core part : Nat) (m : Mode) (addr : Word) (size : Nat) (k : Access) :
    Except Nat (Target × Micro) :=
  let va := addr.toNat
  let local_ := fun (r : TRes) => match r with
    | .ok t => (.ok (t, skip) : Except Nat (Target × Micro))
    | .fault c => .error c
    | _ => .error 0x06
  match regionOf va with
  | .reserved => .error 0x06
  | .pad => if va % size ≠ 0 then .error 0x05 else local_ (padCheck s core part va)
  | .aperture => if va % size ≠ 0 then .error 0x05 else local_ (apertureCheck s core w.ctx part va)
  | .parison => .error 0x06
  | .expert =>
    let base := (ctxAt s w.ctx).escbase
    if va % size ≠ 0 then .error 0x05
    else if k ≠ .read ∨ base = 0 then .error 0x08
    else (backing base va).bind (fun a => translateNow s core w m a k)
  | .ordinary => if va % size ≠ 0 then .error 0x05 else translateNow s core w m va k

end Sys2Proof.Machine
end

