-- ==== Sys2Proof/Machine/MemorySteps.lean ====
section
/-! DEFINITION. What happens to memory traffic after issue: stores leave their buffer (R20, R184), requests arrive at their homes
(R105), atomics are performed (R189, R203, R254), loads read their pieces and return (R183, R181), diverted accesses are
performed on lehr lines (R321), walks end (R341), fences end (R190), and units write their results (R135, R163). -/

namespace Sys2Proof.Machine

/-! ## Homes and routes (R82, R105) -/

/-- The home of a target: a scratchpad bank, the hearth that caches the granule, or the way to the host, a peer or a device. -/
def homeOf : Target → Nat
  | .pad core off => 100 + core * 16 + off / 0x4000
  | .parison core _ _ => 100 + core * 16
  | .phys pa _ => if inSilo pa then siloOf pa / 3 else if inDevice pa then 4 else if inHost pa then 5 else 6

/-- A request touches some of these keys. -/
def Req.touches (r : Req) (a n : Nat) : Bool := r.bytes.any (fun c => decide (a ≤ c.1 ∧ c.1 < a + n))

/-- A request takes its place on the route to a home: its own, and a packet's frame update (R105). -/
def Req.onRoute (r : Req) (home : Nat) : Bool :=
  r.home == home || (match r.kind with
    | .packet _ _ _ _ _ frame => frame == some home
    | .write => false)

/-- A write of a die's threads to these keys is on its way. -/
def dieBusy (s : State) (die a n : Nat) : Bool := s.reqs.any (fun r => dieOf r.core == die && r.touches a n)

/-! ## The store buffer drains (R20) -/

/-- The oldest entry gone. -/
def popStore (sl : Slot) : Slot := { sl with sb := sl.sb.tail, sbOut := sl.sbOut + 1 }

/-- What leaves of a buffered store at once: a register of an STV leaves as two halves, the low half first (R90). -/
def firstHalf (bs : List Byte) : List Byte := bs.take 8

/-- The oldest entry's first half gone: the entry goes with its last bytes. -/
def leftStore (sl : Slot) : Slot :=
  match sl.sb with
  | .store t bs _ c :: rest =>
    if bs.length ≤ 8 then popStore sl else { sl with sb := .store (targetPlus t 8) (bs.drop 8) none c :: rest }
  | _ => popStore sl

/-- The registers of an STV that still wait enter as there is room, and the STV ends with the last (R185). -/
def refillStores (core slot : Nat) : Micro := ask (fun s =>
  match (slotAt s core slot).wait with
  | .storing rest =>
    let left := (enterStores rest (slotAt s core slot)).2
    andThen (modSlot core slot (fun x => { (enterStores rest x).1 with wait := .storing left }))
      (onlyIf left.isEmpty (finishPlain core slot))
  | _ => skip)

/-- A buffered store of a slot leaves its core: at once for the core's own scratchpad, else as a request; none while it must wait.
`rel` is its release scope, and `clock` what happened before it. -/
def leaveStore (s : State) (core slot : Nat) (t : Target) (bs : List Byte) (rel : Option Nat) (clock : Clock) :
    Option Micro :=
  let ctx := (slotAt s core slot).ctx
  let w := slotWriter s core slot clock rel false
  let own := match t with
    | .pad n _ => n == core
    | _ => false
  if own then
    if dieBusy s (dieOf core) (locOf ctx t) bs.length then none
    else match payOut s core ctx t true, performWrite s ctx t w bs with
      | some pay, some f => some (doAll [pay, countWrite w, f, touchAll (keyOf t) bs.length])
      | _, _ => none
  else (payOut s core ctx t true).map (fun pay => doAll [pay,
    countWrite w,
    sendReq core slot ctx (homeOf t) .write t (cellsAt (locOf ctx t) bs) w,
    touchWatches (fun c => dieOf c == dieOf core) (keyOf t) bs.length])

/-- STORE_BUFFER_DRAIN (R20, R184, R190): the oldest entry leaves, a release or fence once what comes before it is visible. -/
def execStoreBufferDrain (core slot : Nat) (s : State) : Host.Outcome State Fault Refusal :=
  slotStep s core slot (ask (fun s =>
    let sl := slotAt s core slot
    match sl.sb with
    | [] => skip
    | .fence sc c :: _ =>
      onlyIf (releasable s core sc)
        (doAll [fenceRelease core slot sc c, modSlot core slot popStore, refillStores core slot])
    | .store t bs rel c :: _ =>
      if releasable s core (rel.getD 0) then
        match leaveStore s core slot t (firstHalf bs) rel c with
        | none => skip
        | some f => doAll [f, modSlot core slot leftStore, refillStores core slot]
      else skip))

/-! ## Requests arrive (R105) -/

/-- A location that the host reads: its own memory, and this package's device registers. -/
def hostReads : Target → Bool
  | .phys pa _ => inHost pa || inDevice pa
  | _ => false

/-- A write on its way that releases at a scope which holds the host: it is visible to the host before any later write of its thread
that the host reads (R110). -/
def Req.beforeHost (q : Req) (party : Nat) (t : Target) : Bool :=
  q.by_.party == party && hostReads t && q.by_.heads.any (fun h => h.scope == 7 || h.scope == scopeSystem)

/-- No earlier request on the same route, none of the same die for the same bytes, and none that the host must see before it has still
to arrive. -/
def mayArrive (s : State) (r : Req) : Bool :=
  (s.reqs.takeWhile (fun q => q.id != r.id)).all (fun q =>
    !(q.core == r.core && q.onRoute r.home) && !q.beforeHost r.by_.party r.tgt &&
    !(dieOf q.core == dieOf r.core && r.bytes.any (fun c => q.touches c.1 1)))

/-- A request no longer in flight. -/
def dropReq (id : Nat) : Micro := fun s => [.reqs (s.reqs.filter (fun q => q.id != id))]

/-- A write that no link can carry (R373). [log 67 DEDUCED] -/
def lostWrite (r : Req) : Micro :=
  postRecord { cause := 0x0A, flags := recordFlags false false false false true, wait := 0, handle := 0,
               value := word (keyOf r.tgt), pc := 0, who := r.who }

/-- HOME_REQUEST_ARRIVAL (R105). [log 59 DEDUCED] -/
def execHomeRequestArrival (rid : Nat) (s : State) : Host.Outcome State Fault Refusal :=
  commit s (ask (fun s =>
    match s.reqs.find? (fun r => r.id == rid) with
    | none => skip
    | some r =>
      match r.kind with
      | .packet .. => skip
      | .write =>
        if running s && mayArrive s r then
          (if unreachable s r.tgt then andThen (lostWrite r) (dropReq rid)
           else match performWrite s r.ctx r.tgt r.by_ (r.bytes.map (fun c => c.2)) with
             | none => skip
             | some f => doAll [f, touchWatches (fun c => dieOf c != dieOf r.core) (keyOf r.tgt) r.bytes.length,
                 dropReq rid])
        else skip))

/-! ## Atomics -/

/-- The bits of a word of 4 or 8 bytes. -/
def ofSize (size v : Nat) : Nat := v % 2 ^ (8 * size)

/-- The sum of two floating words in RNE (R188). -/
def addFloatWord (core size a b : Nat) : Nat :=
  let f := if size = 8 then Elem.fp64 else .fp32
  ((addPre core 0 (floatVal f a) (floatVal f b)).finish f false 0 0).bits

/-- The new word of an atomic (Table 9.2); none for no write. -/
def atomicNew (core : Nat) (op : AtomicOp) (size old b : Nat) : Option Nat :=
  let sx := fun (v : Nat) => sextNat (8 * size) v
  match op with
  | .add => some (ofSize size (old + b))
  | .addf => some (addFloatWord core size old b)
  | .min => some (if sx old ≤ sx b then old else b)
  | .max => some (if sx old ≤ sx b then b else old)
  | .minu => some (Nat.min old b)
  | .maxu => some (Nat.max old b)
  | .and_ => some (old &&& b)
  | .or_ => some (old ||| b)
  | .xor_ => some (old ^^^ b)
  | .swap => some b
  | .cas expected => if old = ofSize size expected.toNat then some b else none
  | .arrive count =>
    if count ≤ old % 2 ^ 32 + 1 then some ((old / 2 ^ 32 + 1) % 2 ^ 32 * 2 ^ 32) else some (ofSize 8 (old + 1))
  | .sift .. => none

/-- An entry of a heap: score bits and index. -/
abbrev HeapEntry := Nat × Nat

/-- `x` is better than `y` (R254). -/
def better (x y : HeapEntry) : Bool :=
  let a := floatVal .fp32 x.1
  let b := floatVal .fp32 y.1
  match a.isNaN, b.isNaN with
  | true, true => decide (x.2 < y.2)
  | true, false => false
  | false, true => true
  | false, false => decide (0 < cmpVal a b) || (cmpVal a b == 0 && decide (x.2 < y.2))

/-- The sift of a candidate down from entry `i` of a heap of `k` entries, with fuel (R254). -/
def siftDown (k : Nat) (new : HeapEntry) : Nat → List HeapEntry → Nat → List HeapEntry
  | 0, h, i => h.set i new
  | fuel + 1, h, i =>
    let at_ := fun (j : Nat) => h.getD j (0, 0)
    let l := 2 * i + 1
    if k ≤ l then h.set i new
    else
      let c := if l + 1 < k && better (at_ l) (at_ (l + 1)) then l + 1 else l
      if better new (at_ c) then siftDown k new fuel (h.set i (at_ c)) c else h.set i new

/-- The entries that the sift writes. -/
def siftPath (k : Nat) (new : HeapEntry) : Nat → List HeapEntry → Nat → List Nat
  | 0, _, i => [i]
  | fuel + 1, h, i =>
    let at_ := fun (j : Nat) => h.getD j (0, 0)
    let l := 2 * i + 1
    if k ≤ l then [i]
    else
      let c := if l + 1 < k && better (at_ l) (at_ (l + 1)) then l + 1 else l
      if better new (at_ c) then i :: siftPath k new fuel (h.set i (at_ c)) c else [i]

/-- The bytes of a heap after HSIFT. -/
def siftBytes (k : Nat) (score index : Nat) (bs : List Byte) : List Byte :=
  let h : List HeapEntry := (chunks 8 bs).map (fun e => (leNat (e.take 4), leNat (e.drop 4)))
  let new : HeapEntry := (score, index)
  let r := if better new (h.getD 0 (0, 0)) then siftDown k new k h 0 else h
  r.flatMap (fun e => leBytes 4 e.1 ++ leBytes 4 e.2)

/-- What an atomic writes, from the bytes it found: at an offset, some bytes. An HSIFT writes the entries of its path, and none when
its candidate is not better than the root (R254). -/
def atomicWrites (core : Nat) (a : AtomicReq) (bs : List Byte) : List (Nat × List Byte) :=
  match a.op with
  | .sift k sc ix =>
    let h : List HeapEntry := (chunks 8 bs).map (fun e => (leNat (e.take 4), leNat (e.drop 4)))
    let new : HeapEntry := (sc.toNat, ix.toNat)
    let out := siftBytes k sc.toNat ix.toNat bs
    if better new (h.getD 0 (0, 0)) then
      (siftPath k new k h 0).map (fun i => (8 * i, (out.drop (8 * i)).take 8))
    else []
  | op => ((atomicNew core op a.size (leNat bs) (ofSize a.size a.operand.toNat)).map (fun v => (0, leBytes a.size v))).toList

/-- The slot after its atomic has been performed: its answer is on its way, or it waits at its barrier (R203). -/
def afterAtomic (s : State) (core : Nat) (a : AtomicReq) (old : Nat) (sl : Slot) : Slot :=
  match a.op with
  | .arrive count =>
    if count ≤ old % 2 ^ 32 + 1 then { sl with wait := .answered none }
    else { sl with wait := .bar a.addr (word (old / 2 ^ 32)) a.scope, stall := stallOf s core sl 5 }
  | .sift .. => { sl with wait := .answered none }
  | _ =>
    let v := if a.signed then sextW (8 * a.size) old else word old
    { sl with wait := .answered (some (a.d, v)) }

/-- The package that a PEER access names by its location (R87). -/
def peerFor (s : State) : Target → Option Nat
  | .phys pa _ => if inPeer s pa then some (peerOf pa) else none
  | _ => none

/-- Where the lines of an atomic's bytes are performed: the offset of each line's first byte, how many of its bytes, and their key.
None while a line is held (R320). [log 88 DESIGN CHOICE] -/
def atomicPlaces (s : State) (ctx : Nat) (a : AtomicReq) : Option (List (Nat × Nat × Nat)) :=
  (linesOf (a.size / 64 + 2) (keyOf a.tgt) a.size).mapM (fun p =>
    let off := p.1 - keyOf a.tgt
    match routeOf s ctx (targetPlus a.tgt off) with
    | .bank => some (off, p.2, p.1)
    | .lehr pa => some (off, p.2, pa)
    | .held => none)

/-- The key at which a byte of an atomic is performed. -/
def placeKey (places : List (Nat × Nat × Nat)) (off : Nat) : Nat :=
  match places.find? (fun p => p.1 ≤ off && decide (off < p.1 + p.2.1)) with
  | some p => p.2.2 + (off - p.1)
  | none => 0

/-- An atomic performed as one step at its places (R96), unless it meets data poison or its bundle's A word faults. It reads the
newest write, acquires what that write releases if it is to, and then writes (R93, R97). -/
def performAtomic (core slot : Nat) (a : AtomicReq) (places : List (Nat × Nat × Nat)) : Micro := ask (fun s =>
  if places.any (fun p => poisonedIn s p.2.2 p.2.1) then raiseC core slot (Trouble.of 0x0A a.addr)
  else unlessA core slot (ask (fun s =>
    let bs := places.flatMap (fun p => memBytes s p.2.2 p.2.1)
    let key := keyOf a.tgt
    let loc := locOf (slotAt s core slot).ctx a.tgt
    let last := readFrom s [] loc a.size
    doAll [
      modSlot core slot (afterAtomic s core a (leNat bs)),
      sawWrites core slot loc a.size last,
      onlyIf (a.acq && a.scope != 0) (acquire core slot a.scope (peerFor s a.tgt) (last.flatMap (fun w => w.heads))),
      ask (fun s =>
        let w := slotWriter s core slot (threadClock s core slot)
          (if a.rel && a.scope != 0 then some a.scope else none) true
        let ws := atomicWrites core a bs
        andThen (onlyIf (!ws.isEmpty) (countWrite w)) (forAll ws (fun x => doAll [
          noteWrite w (loc + x.1) ((bs.drop x.1).take x.2.length),
          putBytes (placeKey places x.1) x.2,
          touchAll (key + x.1) x.2.length,
          onlyIf (placeKey places x.1 != key + x.1) (touchAll (placeKey places x.1) x.2.length)])))])))

/-- The core's route to a home is clear of what left the core before (R105). -/
def routeClear (s : State) (core : Nat) (t : Target) : Bool := !(s.reqs.any (fun r => r.core == core && r.onRoute (homeOf t)))

/-- ATOMIC_PERFORM (R189, R203, R255): once the store buffer is empty, and a release once what comes before it is visible. One whose
lines all go to the lehr image goes there on the core's route; an HSIFT of which only some do is performed on both when that route is
clear, as one step (R320, R321). [log 59 DEDUCED, 88 DESIGN CHOICE] -/
def execAtomicPerform (core slot : Nat) (s : State) : Host.Outcome State Fault Refusal :=
  slotStep s core slot (ask (fun s =>
    let sl := slotAt s core slot
    match sl.wait with
    | .atomic a =>
      if a.queued || !sl.sb.isEmpty || !portClear s core slot || (a.rel && !releasable s core a.scope) ||
          dieBusy s (dieOf core) (locOf sl.ctx a.tgt) a.size || !routeClear s core a.tgt ||
          s.reqs.any (fun q => q.beforeHost (slotParty s core slot) a.tgt) then skip
      else if unreachable s a.tgt then raiseC core slot (Trouble.of 0x0A a.addr)
      else match atomicPlaces s sl.ctx a with
        | none => skip
        | some places =>
          let home := bankCore core a.tgt
          if places.all (fun p => p.2.2 == keyOf a.tgt + p.1) then performAtomic core slot a places
          else if places.all (fun p => p.2.2 != keyOf a.tgt + p.1) then andThen (pushLehr home (.atomic core slot places))
            (modSlot core slot (fun x => { x with wait := .atomic { a with queued := true } }))
          else onlyIf (coreAt s home).lehrQ.isEmpty (performAtomic core slot a places)
    | _ => skip))

/-! ## Loads return (R183, R181) -/

/-- A load from a device page waits for the thread's earlier stores to device pages (R91). -/
def deviceClear (s : State) (core : Nat) (sl : Slot) (t : Target) : Bool :=
  !onDevice t || (!(sl.sb.any (fun e => match e with
      | .store x .. => onDevice x
      | .fence .. => false)) && !(s.reqs.any (fun r => r.core == core && onDevice r.tgt)))

/-- What reading one piece comes to. -/
inductive PieceRes where
  /-- What it has found, and whether a byte is poisoned. -/
  | bytes (f : Found) (bad : Bool)
  | lehr (pa : Nat)
  | later
  deriving DecidableEq, Repr

/-- One piece read: on a device page at its home, else from the slot's own buffer, else from its die's view of memory, else from the
lehr line. [log 58 DEDUCED] -/
def readPiece (s : State) (core slot : Nat) (p : Piece) : PieceRes :=
  let sl := slotAt s core slot
  let key := keyOf p.tgt
  let cover := if onDevice p.tgt then .none else coverOf sl.sb key p.size
  match cover with
  | .all => .bytes (.plain ((List.range p.size).map (fun k => (bufferedByte sl.sb (key + k)).getD 0))) false
  | .part => .later
  | .none =>
    if unreachable s p.tgt then .bytes (.plain (List.replicate p.size 0)) true
    else if !deviceClear s core sl p.tgt then .later
    else match routeOf s sl.ctx p.tgt with
      | .lehr pa => .lehr pa
      | .held => .later
      | .bank =>
        match readTarget s (slotReader s core slot) core sl.ctx p.tgt p.size 0 with
        | some f => .bytes f (poisonedIn s key p.size)
        | none => .later

/-- A load with a piece read. -/
def LoadReq.take (l : LoadReq) (f : Found) (bad : Bool) : LoadReq :=
  { l with
    pieces := l.pieces.tail, got := l.got ++ f.bytes, bad := l.bad || bad, queued := false, met := l.met ++ f.heads }

/-- A slot has read a piece: what the read brings to what its thread knows (R88, R94). A later read draws anew. -/
def sawPiece (core slot : Nat) (p : Piece) (f : Found) : Micro := ask (fun s =>
  andThen (sawFound core slot (locOf (slotAt s core slot).ctx p.tgt) p.size f) bump)

/-- The loaded bytes written to the destination (R182, R185). -/
def deliver (dest : Dest) (bs : List Byte) (sl : Slot) : Slot :=
  match dest with
  | .g d size signed => gWrite sl d (if signed then sextW (8 * size) (leNat bs) else word (leNat bs))
  | .block v h w =>
    ((blockRegs v h w).zip (chunks 16 bs)).foldl (fun x e => bWrite x e.1 (BitVec.ofNat 128 (leNat e.2))) sl

/-- A load as it stands after a piece: it ends with its last, by a data-poison fault if a byte was poisoned, and acquires if it is to
(R93). -/
def stepLoad (core slot : Nat) (l : LoadReq) (peer : Option Nat) : Micro := ask (fun s =>
  if !l.pieces.isEmpty then modSlot core slot (fun x => { x with wait := .load l })
  else if l.bad then raiseC core slot (Trouble.of 0x0A l.addr)
  else andThen
    (match l.acq with
     | some scope => onlyIf (scope != 0) (acquire core slot scope peer l.met)
     | none => skip)
    (finishBundle core slot (deliver l.dest l.got) none))

/-- A load goes on: it reads its next piece, if it can. Each half of a register is read at a moment of its own (R90). -/
def advanceLoad (core slot : Nat) (l : LoadReq) : Micro := ask (fun s =>
  match l.pieces with
  | [] => stepLoad core slot l none
  | p :: _ =>
    match readPiece s core slot p with
    | .later => skip
    | .lehr pa => andThen (pushLehr (bankCore core p.tgt) (.load core slot pa p.size))
        (modSlot core slot (fun x => { x with wait := .load { l with queued := true } }))
    | .bytes f bad => doAll [useSlice (slotAt s core slot).ctx (l.addr.toNat + l.got.length), sawPiece core slot p f,
        stepLoad core slot (l.take f bad) (peerFor s p.tgt)])

/-- The answer of an atomic, a BAR that completed or an HSIFT reaches its thread. -/
def answerAtomic (core slot : Nat) (d : Option (Fin 32 × Word)) : Micro :=
  finishBundle core slot (fun x => match d with
    | none => x
    | some (r, v) => gWrite x r v) none

/-! ## Lehr lines (R321) -/

/-- A write performed on lehr lines: a diverted one at the location that it addressed (R106). Watches of the lehr lines see it. [log 55 DEDUCED] -/
def lehrWrite (bs : List Host.Cell) (of_ : Option (Nat × Writer)) : Micro := ask (fun s => doAll [
  (match of_ with
   | some (loc, w) => noteWrite w loc (bs.map (fun c => memRead s.mem c.1))
   | none => skip),
  fun _ => [.mem bs],
  forAll bs (fun c => touchAll c.1 1)])

/-- The slot of a diverted access goes on with it. [log 55 DEDUCED] -/
def lehrStep (core : Nat) (x : LehrOp) : Micro := ask (fun s =>
  match x with
  | .write bs of_ => lehrWrite bs of_
  | .restore entry bank line =>
    let d := (coreAt s core).divert.toList.getD entry Divert.reset
    let data := memBytes s (d.base.toNat + bank * 0x4000 + line * 64) 64
    modCore core (fun c =>
      if h : entry < 8 then
        let e := c.divert.get ⟨entry, h⟩
        if hb : bank < 16 then
          let b := e.banks.get ⟨bank, hb⟩
          let b2 := { b with pending := b.pending.map (fun p => if p.1 = line then (p.1, some data) else p) }
          { c with divert := c.divert.set entry { e with banks := e.banks.set bank b2 hb } h }
        else c
      else c)
  | .load c sl pa n =>
    (match (slotAt s c sl).wait with
     | .load l =>
       (match l.queued, l.pieces with
        | true, p :: _ =>
          let f := lookAt s (slotReader s c sl) (dieOf c) (locOf (slotAt s c sl).ctx p.tgt) (memBytes s pa n) (keyOf p.tgt)
          andThen (sawPiece c sl p f) (modSlot c sl (fun y => { y with wait := .load (l.take f (poisonedIn s pa n)) }))
        | _, _ => skip)
     | _ => skip)
  | .atomic c sl places =>
    (match (slotAt s c sl).wait with
     | .atomic a => onlyIf a.queued (performAtomic c sl a places)
     | _ => skip))

/-- LEHR_ACCESS (R321): the oldest access on a core's route to a lehr image is performed at its home. -/
def execLehrAccess (core : Nat) (s : State) : Host.Outcome State Fault Refusal :=
  coreStep s core (ask (fun s =>
    match (coreAt s core).lehrQ with
    | [] => skip
    | x :: _ => andThen (modCore core (fun c => { c with lehrQ := c.lehrQ.tail })) (lehrStep core x)))

/-! ## Fences (R190, R154) -/

/-- FENCE_COMPLETE. -/
def execFenceComplete (core slot : Nat) (s : State) : Host.Outcome State Fault Refusal :=
  slotStep s core slot (ask (fun s =>
    let sl := slotAt s core slot
    match sl.wait with
    | .fenceFull sc => onlyIf (sl.sb.isEmpty && releasable s core sc)
        (doAll [acquireMet core slot sc, ask (fun s => fenceRelease core slot sc (threadClock s core slot)),
          onlyIf (decide (scopeDie < sc)) (showWrites core slot sc), finishPlain core slot])
    | .fenceAcq sc => andThen (acquireMet core slot sc) (finishPlain core slot)
    | _ => skip))

/-- IFENCE_COMPLETE (R154): the words held for the context are discarded, once the thread's own stores have left, and what is fetched for
it on the core from then on is no older than what the thread sees. [log 54 and 72 DEDUCED] -/
def execIfenceComplete (core slot : Nat) (s : State) : Host.Outcome State Fault Refusal :=
  slotStep s core slot (ask (fun s =>
    let sl := slotAt s core slot
    match sl.wait with
    | .ifence => onlyIf sl.sb.isEmpty (andThen
        (modCore core (fun c => { c with
          code := c.code.filter (fun u => u.ctx != sl.ctx)
          codeSeen := assign c.codeSeen sl.ctx ((lookup Knows.none c.codeSeen sl.ctx).join (threadKnows s core slot)) }))
        (finishPlain core slot))
    | _ => skip))

/-! ## Units (R135, R163, R152) -/

/-- The slot the long-operation unit works for: the first in its queue that still waits on it. -/
def longHead (s : State) (core : Nat) : Option Nat :=
  (coreAt s core).longQ.find? (fun k => match (slotAt s core k).await with
    | .long _ => true
    | _ => false)

/-- A long operation's writes: made, or held until the bundle's C word is done (R6). -/
def longDone (e : AEffect) (sl : Slot) : Slot :=
  if sl.issue.isNone then { applyEffect sl e with await := .none } else { sl with await := .kept e }

/-- LONG_OP_COMPLETE (R135): the unit is free for the next operation, whether or not the bundle's C word is done. -/
def execLongOpComplete (core slot : Nat) (s : State) : Host.Outcome State Fault Refusal :=
  slotStep s core slot (ask (fun s =>
    let sl := slotAt s core slot
    match sl.await with
    | .long e => onlyIf (longHead s core == some slot) (andThen
        (modSlot core slot (longDone e))
        (modCore core (fun c => { c with longQ := c.longQ.erase slot })))
    | _ => skip))

/-- A block unit's results are due. [log 70 DEDUCED] -/
def blockDue (c : Core) (sl : Slot) : Bool :=
  match sl.await with
  | .block _ ready => sl.issue.isNone && decide (ready ≤ c.cycle)
  | _ => false

/-- The block unit's writes made. -/
def blockDone (sl : Slot) : Slot :=
  match sl.await with
  | .block e _ => { applyEffect sl e with await := .none }
  | _ => sl

/-- BLOCK_OP_COMPLETE (R163). -/
def execBlockOpComplete (core slot : Nat) (s : State) : Host.Outcome State Fault Refusal :=
  slotStep s core slot (ask (fun s =>
    onlyIf (blockDue (coreAt s core) (slotAt s core slot)) (modSlot core slot blockDone)))

/-- A YIELD's cycles have passed. -/
def yieldDue (c : Core) (sl : Slot) : Bool :=
  match sl.wait with
  | .yield t => decide (t ≤ c.cycle)
  | _ => false

/-- YIELD_EXPIRY (R152). -/
def execYieldExpiry (core slot : Nat) (s : State) : Host.Outcome State Fault Refusal :=
  slotStep s core slot (ask (fun s =>
    onlyIf (yieldDue (coreAt s core) (slotAt s core slot)) (modSlot core slot (fun x => { x with wait := .none }))))

/-! ## Walks and fetches (R341, R149) -/

/-- A fault of a fetch at the slot's pc: under IGNORE the task retires as failed (R33). -/
def fetchFault (core slot cause : Nat) : Micro := ask (fun s =>
  let pc := (slotAt s core slot).regs.pc
  raiseAt core slot pc (Trouble.of cause pc) (killSelf core slot))

/-- A fault of the format block's read: replayed, or kept for the task's first issue (R29). -/
def formatFault (core slot cause : Nat) (value : Word) : Micro := ask (fun s =>
  let pc := (slotAt s core slot).regs.pc
  if cause = 0x07 then raiseAt core slot pc { Trouble.of cause value with async := true } skip
  else modSlot core slot (fun x => { x with wait := .none, dispatchFault := some (cause, value), fmtPending := false }))

/-- PAGE_WALK_COMPLETE (R341, R345, R348). A walk that another has made meanwhile ends with its translation; one that cannot be made
yet, for want of a walker or because an entry has changed at its home, goes on. -/
def execPageWalkComplete (core slot : Nat) (s : State) : Host.Outcome State Fault Refusal :=
  slotStep s core slot (ask (fun s =>
    let sl := slotAt s core slot
    let finished := modSlot core slot (fun x => { x with wait := .none })
    match sl.wait with
    | .walk va k report going =>
      if !going && !walkRoom s (dieOf core) sl.ctx va.toNat walkLimit then skip
      else match translate s core sl.ctx sl.mode va.toNat k with
        | .ok _ => finished
        | _ =>
          match finishWalk s core (slotWalker s core slot) sl.mode va.toNat k with
          | .ok (_, f) => andThen f finished
          | .error 0 => modSlot core slot (fun x => { x with wait := .walk va k report true })
          | .error c =>
            if sl.fmtPending then formatFault core slot c report
            else if k = .fetch then fetchFault core slot c
            else raiseC core slot { cause := c, value := report, write := setsDirty k }
    | _ => skip))

/-- The aligned 8-byte unit that holds a fetch address. -/
def fetchUnit (pc : Nat) : Nat := pc / 8 * 8

/-- A slot's fetch as a reader: it sees what its thread sees, and what the threads of its context have seen on the core before an IFENCE
(R154). [log 72 DEDUCED] -/
def codeReader (s : State) (core slot : Nat) : Reader :=
  let k := (threadKnows s core slot).join (lookup Knows.none (coreAt s core).codeSeen (slotAt s core slot).ctx)
  { slotReader s core slot with place := none, clock := k.clock, reads := k.reads }

/-- A unit of the instruction cache as a fetch reads it from memory (R79). [log 72 DEDUCED] -/
def codeUnit (s : State) (core slot va : Nat) (t : Target) : CodeUnit :=
  let bs := viewBytes s (codeReader s core slot) (dieOf core) (keyOf t) 8 0
  { ctx := (slotAt s core slot).ctx, va := va, word0 := BitVec.ofNat 32 (leNat (bs.take 4)),
    word1 := BitVec.ofNat 32 (leNat (bs.drop 4)),
    user := translate s core (slotAt s core slot).ctx .user va .fetch == .ok t }

/-- Units of 8 bytes that a core's instruction cache of 32 KiB holds (Table 0.1). -/
def codeSize : Nat := 4096

/-- A unit put among those a core holds; where the cache is full, the oldest goes. [log 87 DESIGN CHOICE] -/
def holdUnit (core : Nat) (u : CodeUnit) : Micro := modCore core (fun c =>
  { c with code := (u :: c.code.filter (fun x => !(x.ctx == u.ctx && x.va == u.va))).take codeSize })

/-- The words of a unit that is held, each as it was or as memory has it now (R79): which of them is a free choice. [log 5 DESIGN CHOICE, 72 DEDUCED] -/
def renewed (choice : Word) (old new : CodeUnit) : CodeUnit :=
  { old with
    word0 := if bitAt choice 0 then new.word0 else old.word0
    word1 := if bitAt choice 1 then new.word1 else old.word1 }

/-- IFETCH_FILL (R149): the words of the unit arrive, once their way out has been paid (R333), or the fetch faults. Of a unit that is
held, each word may be fetched anew at any time (R79). [log 45 and 72 DEDUCED] -/
def execIfetchFill (core slot : Nat) (s : State) : Host.Outcome State Fault Refusal :=
  slotStep s core slot (ask (fun s =>
    let sl := slotAt s core slot
    let va := fetchUnit sl.regs.pc.toNat
    match sl.wait, translate s core sl.ctx sl.mode va .fetch with
    | .fetch, .ok t =>
      if poisonedIn s (keyOf t) 8 || unreachable s t then fetchFault core slot 0x0A
      else (match payOut s core sl.ctx t false with
        | some pay => doAll [pay, holdUnit core (codeUnit s core slot va t), modSlot core slot (fun x => { x with wait := .none })]
        | none => skip)
    | .fetch, .fault c => fetchFault core slot c
    | .fetch, _ => modSlot core slot (fun x => { x with wait := (Wait.walk (word va) .fetch x.regs.pc false).begun s core slot })
    | _, .ok t =>
      (match (coreAt s core).code.find? (fun u => u.ctx == sl.ctx && u.va == va) with
       | some u =>
         onlyIf (sl.occupied && !(poisonedIn s (keyOf t) 8) && !(unreachable s t))
           (andThen (holdUnit core (renewed (Config.freeWord s.tick) u (codeUnit s core slot va t))) bump)
       | none => skip)
    | _, _ => skip))

end Sys2Proof.Machine
end

