-- ==== Sys2Proof/Machine/Channels.lean ====
section
/-! DEFINITION. Channels: binding (R35, R192, R193), sends (R38, R194), receives and light handlers (R39, R195), ALT (R40,
R196), allowance (R37, R197), CHSTAT (R198), access/execute pairs (R42), and the arrival of words and grants (R36, R41). -/

namespace Sys2Proof.Machine

/-! ## Endpoints -/

/-- The port an endpoint is bound to, in one direction. -/
def boundPort (s : State) (core : Nat) (sl : Slot) (q : Fin 8) (recv : Bool) : Option Nat :=
  match sl.q.get q with
  | none => none
  | some p => if (portAt s core p).recv == recv then some p else none

/-- The fault of an unbound endpoint (R35, R191): TVAL is its index. -/
def unbound (q : Fin 8) : CRes := .fault (Trouble.of 0x0B (word q.val))

/-- An endpoint's port set or let go. -/
def setEnd (core slot : Nat) (q : Fin 8) (p : Option Nat) : Micro :=
  modSlot core slot (fun sl => { sl with q := sl.q.set q.val p q.isLt })

/-! ## Allowance (R37) -/

/-- Words a queue holds. -/
def queueSize : Nat := 16

/-- A receiver grants at most `n`: G + Q stays within the queue. A live channel carries the grant to its sender. -/
def grant (core port n : Nat) : Micro := ask (fun s =>
  let p := portAt s core port
  let k := min n (queueSize - p.granted - p.queue.length)
  onlyIf (k != 0) (andThen
    (modPort core port (fun p => { p with granted := p.granted + k }))
    (onlyIf (live s core port)
      (sendMsg core port (coreOfName p.far) (portOfName p.far) ((p.owner.map (fun o => o.ctx)).getD 0) 0 0 (.grant k)))))

/-- What auto-grant grants after a bind or a dequeue. -/
def autoGrant (core port : Nat) : Micro := ask (fun s =>
  let p := portAt s core port
  onlyIf (p.auto && p.stream.isNone) (grant core port queueSize))

/-- G at a receiver (R37): in the port, or in the lehr image that holds it. -/
def grantedAt (s : State) (core port : Nat) : Nat :=
  let p := portAt s core port
  match (if p.saved then p.owner.bind (fun o =>
      (coreAt s core).divert.toList.find? (fun d => d.state != .off && d.ctx == o.ctx)) else none) with
  | some d => lehrNat s core (d.base.toNat + 0x41007 + 16 * port) 1
  | none => p.granted

/-- A grant that was made before the channel existed reaches the sender that has just bound (R192). -/
def heldGrant (core port : Nat) : Micro := ask (fun s =>
  let p := portAt s core port
  let fc := coreOfName p.far
  let fp := portOfName p.far
  let r := portAt s fc fp
  let k := grantedAt s fc fp - wordsTo s fc fp
  onlyIf (live s core port && k != 0)
    (sendMsg fc fp core port ((r.owner.map (fun o => o.ctx)).getD 0) 0 0 (.grant k)))

/-! ## CHBIND (R192) -/

/-- The slot eight further on runs a task of the same context, which has not retired (R42). -/
def pairable (s : State) (core slot : Nat) : Bool :=
  let other := slotAt s core (slot + 8)
  decide (slot < 8) && other.occupied && other.wait != .leaving && other.ctx == (slotAt s core slot).ctx

/-- CHBIND's binding word and flags are refused. -/
def bindBad (s : State) (core slot : Nat) (v : Word) (f : Nat) (q : Fin 8) : Bool :=
  let sl := slotAt s core slot
  let far : W32 := v.truncate 32
  (sl.q.get q).isSome || (portAt s core (bitsNat v 36 32)).owner.isSome || bitsNat v 63 37 != 0 ||
  bitsNat v 31 17 != 0 || decide (8 ≤ f) || decide (coreCount ≤ coreOfName far) || 
  !inSpan s core (partOf (coreAt s core) slot) sl.ctx (coreOfName far) ||
  (decide (4 ≤ f) && !pairable s core slot)

/-- CHBIND. [log 8 DEDUCED] -/
def execChbind (a f : Fin 32) (q : Fin 8) (s : State) : Host.Outcome State Fault Refusal :=
  cWord s (fun core slot s =>
    let sl := slotAt s core slot
    let v := gRead sl a
    let port := bitsNat v 36 32
    let recv := f.val % 2 == 1
    if bindBad s core slot v f.val q then .illegal sl 0x04
    else .act (doAll [
      modPort core port (fun _ => { Port.reset with
        owner := some { ctx := sl.ctx, slot := slot, ep := q }
        far := v.truncate 32
        recv := recv
        auto := recv && bitAt (BitVec.ofNat 5 f.val) 1 }),
      setEnd core slot q (some port),
      onlyIf (4 ≤ f.val) (andThen
        (modSlot core slot (fun x => { x with pair := .access }))
        (modSlot core (slot + 8) (fun x => { x with pair := .execute }))),
      if recv then autoGrant core port else heldGrant core port,
      finishPlain core slot]))

/-! ## CHUNBIND (R193) -/

/-- CHUNBIND: a receiver of a live channel waits for its sender's acknowledgement. -/
def execChunbind (q : Fin 8) (s : State) : Host.Outcome State Fault Refusal :=
  cWord s (fun core slot s =>
    match (slotAt s core slot).q.get q with
    | none => .act (finishPlain core slot)
    | some p =>
      if (portAt s core p).recv && live s core p then .act (waitFor core slot (.unbind q p) 0)
      else .act (doAll [closePort core p, setEnd core slot q none, finishPlain core slot]))

/-- CHUNBIND_ACK: the sender's allowance is revoked, and the port and endpoint are free. -/
def execChunbindAck (core slot : Nat) (s : State) : Host.Outcome State Fault Refusal :=
  slotStep s core slot (ask (fun s =>
    match (slotAt s core slot).wait with
    | .unbind q p => doAll [closePort core p, setEnd core slot q none, finishPlain core slot]
    | _ => skip))

/-! ## Sends (R38, R194) -/

/-- One word sent: the allowance falls, and the word leaves with the release of R41. -/
def sendWord (core slot port : Nat) (data : Word) (ctl : Bool) : Micro := ask (fun s =>
  let p := portAt s core port
  let sl := slotAt s core slot
  andThen (modPort core port (fun p => { p with allow := p.allow - 1 }))
    (sendMsg core port (coreOfName p.far) (portOfName p.far) sl.ctx slot sl.sbIn
      (.word { data := data, ctl := ctl, poison := false, clock := releaseClock s core slot })))

/-- SEND and SENDC. -/
def blockingSend (q : Fin 8) (data : Slot → Word) (ctl : Bool) (core slot : Nat) (s : State) : CRes :=
  let sl := slotAt s core slot
  match boundPort s core sl q false with
  | none => unbound q
  | some p =>
    if (portAt s core p).allow = 0 then .again (.cond (.allowance p)) 1
    else .act (andThen (sendWord core slot p (data sl) ctl) (finishPlain core slot))

/-- SEND. -/
def execSend (a : Fin 32) (q : Fin 8) (s : State) : Host.Outcome State Fault Refusal :=
  cWord s (blockingSend q (fun sl => gRead sl a) false)

/-- SENDC: bits [55:0], tagged. -/
def execSendc (a : Fin 32) (q : Fin 8) (s : State) : Host.Outcome State Fault Refusal :=
  cWord s (blockingSend q (fun sl => bitsW (gRead sl a) 55 0) true)

/-- SENDT: never waits. -/
def execSendt (p : Fin 8) (a : Fin 32) (q : Fin 8) (s : State) : Host.Outcome State Fault Refusal :=
  cWord s (fun core slot s =>
    let sl := slotAt s core slot
    match boundPort s core sl q false with
    | none => unbound q
    | some port =>
      if (portAt s core port).allow = 0 then .act (finishBundle core slot (fun x => pWrite x p false) none)
      else .act (andThen (sendWord core slot port (gRead sl a) false)
        (finishBundle core slot (fun x => pWrite x p true) none)))

/-! ## Receives (R39, R195) -/

/-- Every element of the stream copy that feeds a port has been placed (R240). -/
def streamPlaced (s : State) (core : Nat) (p : Port) : Bool :=
  match p.stream, p.owner with
  | some n, some o =>
    (match s.jobs.find? (fun j => j.kind == 2 && j.core == core && j.ctx == o.ctx && j.n == n) with
     | some j => (match j.body with
       | .copy c => decide (c.blk.rows ≤ c.row)
       | _ => true)
     | none => true)
  | _, _ => false

/-- A stream whose last element has been received lets its port and endpoint go. -/
def endStream (core slot : Nat) (q : Fin 8) (port : Nat) : Micro := ask (fun s =>
  let p := portAt s core port
  onlyIf (p.stream.isSome && p.queue.isEmpty && streamPlaced s core p)
    (andThen (modPort core port (fun _ => Port.reset)) (setEnd core slot q none)))

/-- The head of a queue taken. -/
def dequeue (core slot : Nat) (q : Fin 8) (port : Nat) : Micro := doAll [
  modPort core port (fun p => { p with queue := p.queue.tail }),
  autoGrant core port,
  endStream core slot q port]

/-- A slot in its light handler (R39): the bundle is issued again after UIRET. -/
def lightEntry (w : ChWord) (port : Nat) (q : Fin 8) (sl : Slot) : Slot :=
  { sl.quiet with
    handler := .light
    ctl := { sl.ctl with
      ulink := bundlePc sl
      ucause := word (bitsNat w.data 55 0 * 256 + port % 32 * 8 + q.val) }
    regs := { sl.regs with pc := sl.ctl.lhvec } }

/-- A receive form whose queue is not empty: a poisoned word faults (R181), a control word enters the light handler, and any other is
delivered. Either of these acquires what its send released (R41, R108). [log 27 DESIGN CHOICE] -/
def receive (core slot : Nat) (q : Fin 8) (port : Nat) (w : ChWord) (done : Slot → Slot) (s : State) : CRes :=
  let sl := slotAt s core slot
  let take := andThen (dequeue core slot q port) (acquireClock core slot w.clock)
  if w.poison then
    .turn (andThen bump (raiseC core slot (Trouble.of 0x0A (Config.freeWord s.tick))))
  else if w.ctl then
    if sl.handler ≠ .none ∨ sl.ctl.lhvec = 0 ∨ sl.mode = .supervisor then .illegal sl 0x04
    else .turn (andThen take (modSlot core slot (lightEntry w port q)))
  else .act (andThen take (finishBundle core slot done none))

/-- RECV. -/
def execRecv (d : Fin 32) (q : Fin 8) (s : State) : Host.Outcome State Fault Refusal :=
  cWord s (fun core slot s =>
    match boundPort s core (slotAt s core slot) q true with
    | none => unbound q
    | some port =>
      match (portAt s core port).queue with
      | [] => .again (.cond (.received port)) 2
      | w :: _ => receive core slot q port w (fun x => gWrite x d w.data) s)

/-- RECVT: never waits. -/
def execRecvt (d : Fin 32) (p q : Fin 8) (s : State) : Host.Outcome State Fault Refusal :=
  cWord s (fun core slot s =>
    match boundPort s core (slotAt s core slot) q true with
    | none => unbound q
    | some port =>
      match (portAt s core port).queue with
      | [] => .act (finishBundle core slot (fun x => pWrite x p false) none)
      | w :: _ => receive core slot q port w (fun x => pWrite (gWrite x d w.data) p true) s)

/-! ## ALT (R40, R196) -/

/-- An endpoint is ready: something to receive, or allowance to send. -/
def endReady (s : State) (core : Nat) (sl : Slot) (k : Nat) : Bool :=
  match sl.q.toList.getD k none with
  | none => false
  | some p => if (portAt s core p).recv then !(portAt s core p).queue.isEmpty else decide (0 < (portAt s core p).allow)

/-- The endpoint ALT chooses: the first ready one after the last choice. -/
def altChoice (s : State) (core : Nat) (sl : Slot) (mask : Word) : Option Nat :=
  ((List.range 8).map (fun k => (sl.altLast.val + 1 + k) % 8)).find? (fun k => bitAt mask k && endReady s core sl k)

/-- ALT. -/
def execAlt (d a : Fin 32) (s : State) : Host.Outcome State Fault Refusal :=
  cWord s (fun core slot s =>
    let sl := slotAt s core slot
    let mask := gRead sl a
    if mask = 0 ∨ bitsNat mask 63 8 ≠ 0 then .illegal sl 0x04
    else match (List.range 8).find? (fun k => bitAt mask k && (sl.q.toList.getD k none).isNone) with
      | some k => .fault (Trouble.of 0x0B (word k))
      | none =>
        match altChoice s core sl mask with
        | none => .again (.cond (.anyReady (mask.truncate 8))) 3
        | some k => .act (finishBundle core slot
            (fun x => { gWrite x d (word k) with altLast := Fin.ofNat 8 k }) none))

/-! ## CHGRANT and CHSTAT (R197, R198) -/

/-- CHGRANT. No allowance applies to a stream (R240). -/
def execChgrant (a : Fin 32) (q : Fin 8) (s : State) : Host.Outcome State Fault Refusal :=
  cWord s (fun core slot s =>
    let sl := slotAt s core slot
    match boundPort s core sl q true with
    | none => unbound q
    | some p => .act (andThen
        (onlyIf (portAt s core p).stream.isNone (grant core p (gRead sl a).toNat))
        (finishPlain core slot)))

/-- CHSTAT's result without its count (Table 9.5), as an image holds it too (Table 16.10). -/
def endpointBits (s : State) (core : Nat) (sl : Slot) (port : Nat) : Nat :=
  let p := portAt s core port
  p.far.toNat * 2 ^ 32 + port % 32 * 2 ^ 21 + bitIf (sl.pair != .unpaired) 11 + bitIf (live s core port) 10 +
    bitIf (p.recv && (match p.queue with
      | w :: _ => w.ctl
      | [] => false)) 9 + bitIf p.auto 8 + bitIf p.recv 7 + 2 ^ 6

/-- CHSTAT. -/
def execChstat (d : Fin 32) (q : Fin 8) (s : State) : Host.Outcome State Fault Refusal :=
  cWord s (fun core slot s =>
    let sl := slotAt s core slot
    let v := match sl.q.get q with
      | none => 0
      | some p =>
        let pt := portAt s core p
        endpointBits s core sl p + (if pt.recv then pt.queue.length else pt.allow)
    .act (finishBundle core slot (fun x => gWrite x d (word v)) none))

/-! ## Arrivals (R36, R41) -/

/-- A message no longer on its way. -/
def dropMsg (id : Nat) : Micro := fun s => [.msgs (s.msgs.filter (fun m => m.id != id))]

/-- A word or grant may arrive: none sent earlier to the port is still on its way, and what its send releases is visible to
the channel's scope. -/
def mayLand (s : State) (m : Msg) : Bool :=
  running s &&
  !((s.msgs.takeWhile (fun x => x.id != m.id)).any (fun x => x.isWordFor m.core m.port || x.isGrantFor m.core m.port)) &&
  decide (m.mark ≤ (slotAt s m.fromCore m.slot).sbOut) &&
  (match m.kind with
   | .word _ => releasable s m.fromCore (scopeOf m.fromCore m.core)
   | _ => true)

/-- CHANNEL_WORD_ARRIVAL. -/
def execChannelWordArrival (mid : Nat) (s : State) : Host.Outcome State Fault Refusal :=
  commit s (ask (fun s =>
    match s.msgs.find? (fun m => m.id == mid) with
    | none => skip
    | some m =>
      match m.kind with
      | .word w =>
        onlyIf (mayLand s m && !(portAt s m.core m.port).saved) (andThen
          (modPort m.core m.port (fun p => { p with queue := p.queue ++ [w], granted := p.granted - 1 }))
          (dropMsg mid))
      | _ => skip))

/-- GRANT_ARRIVAL. -/
def execGrantArrival (mid : Nat) (s : State) : Host.Outcome State Fault Refusal :=
  commit s (ask (fun s =>
    match s.msgs.find? (fun m => m.id == mid) with
    | none => skip
    | some m =>
      match m.kind with
      | .grant n =>
        onlyIf (mayLand s m && !(portAt s m.core m.port).saved) (andThen
          (modPort m.core m.port (fun p => { p with allow := p.allow + n }))
          (dropMsg mid))
      | _ => skip))

end Sys2Proof.Machine
end

