-- ==== Sys2Proof/Machine/Tasks.lean ====
section
/-! DEFINITION. Tasks: packets (R21–R25), dispatch and stealing (R26–R29), join frames (R30, R31), SPAWN and SPAWNAT (R199),
JOIN (R200), RETIRE (R201), and BAR (R203). -/

namespace Sys2Proof.Machine

/-- A wait ended: with the bundle, or with the thread alone where the bundle ended before (Table 16.11). -/
def endWait (core slot : Nat) (f : Slot → Slot) : Micro := ask (fun s =>
  if (slotAt s core slot).issue.isSome then finishBundle core slot f none
  else modSlot core slot (fun x => { f x with wait := .none, stall := none }))

/-! ## Packets (R21, R22) -/

/-- A packet's control word (Table 2.4). -/
def Packet.control (p : Packet) : Word := p.words.get 7

/-- PRIO. -/
def Packet.prio (p : Packet) : Nat := bitsNat p.control 7 5

/-- DOMAIN. -/
def Packet.domain (p : Packet) : Nat := bitsNat p.control 4 2

/-- The frame's address, or 0. -/
def Packet.frame (p : Packet) : Word := word (bitsNat p.control 55 8 * 256)

/-- The eight words of a packet's bytes. -/
def packetWords (bs : List Byte) : Vector Word 8 :=
  (Vector.range 8).map (fun k => word (fieldAt bs (8 * k) 8))

/-- A local address in its global form for a core (R22); parison SRAM has none. -/
def globalForm (core : Nat) (a : Nat) : Except Nat Nat :=
  if a < 0x40000 then .ok (if a = 0 then 0 else apertureBase + core * 0x100000 + a)
  else if a < 0x60000 then .error 0x06
  else .ok a

/-- R22's checks of a packet, and its addresses rewritten; `.error` is the cause with the address it names, if any. -/
def checkPacket (core : Nat) (w : Vector Word 8) : Except (Nat × Option Word) (Vector Word 8) :=
  let ctl := w.get 7
  let fmt := w.get 6
  if 5 ≤ bitsNat ctl 4 2 ∨ bitsNat ctl 63 56 ≠ 0 ∨ (fmt ≠ 0 ∧ fmt.toNat % 32 ≠ 0) then .error (0x04, none)
  else
    let frame := bitsNat ctl 55 8 * 256
    match globalForm core fmt.toNat, globalForm core frame with
    | .error c, _ => .error (c, some fmt)
    | _, .error c => .error (c, some (word frame))
    | .ok a, .ok b => .ok ((w.set 6 (word a)).set 7 (word (ctl.toNat % 256 + b)))

/-- A task id (R23). -/
def taskId (core count : Nat) : W32 := BitVec.ofNat 32 (core % 0x1000 * 0x100000 + count % 0x100000)

/-! ## Deques and spill areas (R24, R25) -/

/-- Packets of a deque. -/
def dequeSize : Nat := 64

/-- A spill area as its header describes it (Table 2.8). -/
structure SpillArea where
  header : Nat
  array  : Nat
  cap    : Nat
  head   : Nat
  tail   : Nat
  deriving DecidableEq, Repr

/-- The spill area of a resident context, if it has one. -/
def spillOf (s : State) (r : Resident) : Option SpillArea :=
  let h := r.spill.toNat
  let cap := memNat s (h + 8) 4
  if h = 0 ∨ cap = 0 then none
  else some { header := h, array := memNat s h 8, cap := cap, head := memNat s (h + 0x10) 4,
              tail := memNat s (h + 0x14) 4 }

/-- Packets in a spill area. -/
def SpillArea.count (a : SpillArea) : Nat := (a.tail + 2 ^ 32 - a.head) % 2 ^ 32

/-- The address of a packet index. -/
def SpillArea.slotAddr (a : SpillArea) (i : Nat) : Nat := a.array + 64 * (i % a.cap)

/-- The packet at an index of a spill area. -/
def spillWords (s : State) (a : SpillArea) (i : Nat) : Vector Word 8 := packetWords (memBytes s (a.slotAddr i) 64)

/-- A context's packets on a core find room for one more. -/
def hasRoom (s : State) (r : Resident) : Bool :=
  decide (r.deque.length < dequeSize) ||
  (match spillOf s r with
   | some a => decide (a.count < a.cap)
   | none => false)

/-- What a step on a spill area sends beyond the flock: the packet's line, written or read, and the atomic on the header (R25, R333). -/
def SpillArea.access (a : SpillArea) (i : Nat) (write : Bool) : List (Target × Option Bool) :=
  [(.phys (a.slotAddr i) false, some write), (.phys a.header false, none)]

/-- The tokens of a packet that is placed on a core, whose oldest may have to move; none when it must wait. -/
def placeCost (s : State) (core ctx : Nat) : Option (List Upd) :=
  match residentOf (coreAt s core) ctx with
  | none => some []
  | some r =>
    if r.deque.length < dequeSize then some []
    else match spillOf s r with
      | some a => payAll core ctx (a.access a.tail true) s
      | none => some []

/-- A packet moved to the newest end of a spill area: the packet, then TAIL. -/
def pushSpill (a : SpillArea) (w : Vector Word 8) : Micro := andThen
  (putBytes (a.slotAddr a.tail) (w.toList.flatMap (fun x => leBytes 8 x.toNat)))
  (putNat (a.header + 0x14) 4 ((a.tail + 1) % 2 ^ 32))

/-- A packet placed at the bottom of a context's deque on a core; the oldest of a full deque moves to the spill area. -/
def place (core ctx : Nat) (p : Packet) : Micro := ask (fun s =>
  match residentOf (coreAt s core) ctx with
  | none => skip
  | some r =>
    if r.deque.length < dequeSize then modResident core ctx (fun r => { r with deque := p :: r.deque })
    else match spillOf s r, r.deque.getLast? with
      | some a, some old => andThen (pushSpill a old.words)
          (modResident core ctx (fun r =>
            { r with deque := p :: r.deque.dropLast, spilled := r.spilled ++ [old.note] }))
      | _, _ => skip)

/-- The next spawn id of a core for a context (R23). [log 28 DEDUCED] -/
def nextId (s : State) (core ctx : Nat) : W32 :=
  taskId core (((residentOf (coreAt s core) ctx).map (fun r => r.spawns)).getD 0)

/-- The spawn count advanced. -/
def countSpawn (core ctx : Nat) : Micro := modResident core ctx (fun r => { r with spawns := r.spawns + 1 })

/-- The note of a packet that Calben has placed: it carries what Calben released. -/
def placedNote (s : State) (core count : Nat) : SpawnNote :=
  { id := taskId core count, heads := [{ scope := scopeSystem, place := .gaffer, party := placeParty s .gaffer,
                                          clock := (knowsOf s (placeParty s .gaffer)).clock }],
    pad := none }

/-- The notes of a context's spill area on a core brought up to what lies there: a packet that Calben has placed takes the next value of
the core's spawn count (R23). [log 28 DEDUCED] -/
def syncSpill (core ctx : Nat) : Micro := ask (fun s =>
  match residentOf (coreAt s core) ctx with
  | none => skip
  | some r =>
    let n := ((spillOf s r).map (fun a => a.count)).getD 0
    let new := n - r.spilled.length
    modResident core ctx (fun r =>
      { r with
        spilled := r.spilled.take n ++ (List.range new).map (fun k => placedNote s core (r.spawns + k))
        spawns := r.spawns + new }))

/-- Where a packet that may be taken lies. -/
inductive Source where
  | newest | newestSpilled | oldest | oldestSpilled
  deriving DecidableEq, Repr

/-- The packet that the owner takes next. -/
def ownPacket (s : State) (r : Resident) : Option (Vector Word 8 × Source) :=
  match r.deque with
  | p :: _ => some (p.words, .newest)
  | [] =>
    match spillOf s r with
    | some a => if a.count = 0 then none else some (spillWords s a (a.tail + 2 ^ 32 - 1), .newestSpilled)
    | none => none

/-- The packet a thief considers. -/
def oldestPacket (s : State) (r : Resident) : Option (Vector Word 8 × Source) :=
  match spillOf s r with
  | some a =>
    if a.count ≠ 0 then some (spillWords s a a.head, .oldestSpilled)
    else r.deque.getLast?.map (fun p => (p.words, .oldest))
  | none => r.deque.getLast?.map (fun p => (p.words, .oldest))

/-- A core lies in a steal domain around another (R26). -/
def inDomain (thief victim d : Nat) : Bool :=
  match d with
  | 0 => thief == victim
  | 1 => flockOf thief == flockOf victim
  | 2 => bandOf thief == bandOf victim
  | 3 => dieOf thief == dieOf victim
  | _ => d == 4

/-- The cores that hold a context, in the order a thief of core `core` tries them. -/
def victims (s : State) (core ctx : Nat) : List Nat :=
  sortOn (fun v => (v + coreCount - 1 - core) % coreCount)
    ((s.cores.filter (fun x => x.1 != core && (residentOf x.2 ctx).isSome && !absent x.2 ctx)).map (fun x => x.1))

/-- The packet of a context that a free slot of a core would take: where it lies, on which core. -/
def available (s : State) (core : Nat) (r : Resident) : Option (Vector Word 8 × Source × Nat) :=
  match ownPacket s r with
  | some (w, src) => some (w, src, core)
  | none =>
    (victims s core r.ctx).findSome? (fun v =>
      match residentOf (coreAt s v) r.ctx with
      | none => none
      | some rv =>
        match oldestPacket s rv with
        | none => none
        | some (w, src) => if inDomain core v (bitsNat (w.get 7) 4 2) then some (w, src, v) else none)

/-- No note of a packet. -/
def SpawnNote.none : SpawnNote := { id := 0, heads := [], pad := Option.none }

/-- A packet taken from where it lies, and its note. [log 28 DEDUCED] -/
def takePacket (s : State) (core ctx : Nat) (src : Source) : SpawnNote × Micro :=
  match residentOf (coreAt s core) ctx with
  | none => (.none, skip)
  | some r =>
    match src with
    | .newest => (((r.deque.head?).map (fun p => p.note)).getD .none,
        modResident core ctx (fun r => { r with deque := r.deque.tail }))
    | .oldest => (((r.deque.getLast?).map (fun p => p.note)).getD .none,
        modResident core ctx (fun r => { r with deque := r.deque.dropLast }))
    | .newestSpilled =>
      match spillOf s r with
      | none => (.none, skip)
      | some a => (r.spilled.getLast?.getD .none, andThen
          (putNat (a.header + 0x14) 4 ((a.tail + 2 ^ 32 - 1) % 2 ^ 32))
          (modResident core ctx (fun r => { r with spilled := r.spilled.dropLast })))
    | .oldestSpilled =>
      match spillOf s r with
      | none => (.none, skip)
      | some a => (r.spilled.head?.getD .none, andThen
          (putNat (a.header + 0x10) 4 ((a.head + 1) % 2 ^ 32))
          (modResident core ctx (fun r => { r with spilled := r.spilled.tail })))

/-- The tokens of a packet of a victim that a core takes; none when it must wait. -/
def takeCost (s : State) (core victim ctx : Nat) (src : Source) : Option (List Upd) :=
  match (residentOf (coreAt s victim) ctx).bind (spillOf s), src with
  | some a, .newestSpilled => payAll core ctx (a.access (a.tail + 2 ^ 32 - 1) false) s
  | some a, .oldestSpilled => payAll core ctx (a.access a.head false) s
  | _, _ => some []

/-! ## Dispatch (R26–R28) -/

/-- TASK's value for a packet (Table 2.5). -/
def taskWord (ctl : Word) (id : W32) : Word :=
  word (bitsNat ctl 7 5 * 2 ^ 37 + bitsNat ctl 4 2 * 2 ^ 34 + bitsNat ctl 1 0 * 2 ^ 32 + id.toNat)

/-- A slot that a packet has been dispatched into (R28). -/
def dispatched (ctx : Nat) (w : Vector Word 8) (id : W32) (serial : Nat) (sl : Slot) : Slot :=
  bootSlot { sl with
    occupied := true
    ctx := ctx
    task := { task := taskWord (w.get 7) id, faultWord := 0, frame := word (bitsNat (w.get 7) 55 8 * 256),
              entry := w.get 0, fmtBlock := w.get 6,
              args := #v[w.get 1, w.get 2, w.get 3, w.get 4, w.get 5], serial := serial }
    q := Vector.replicate 8 none
    pair := .unpaired
    last := none }

/-- The contexts of a partition that may take work on a core, with what each offers. -/
def offers (s : State) (core part : Nat) : List (Nat × (Vector Word 8 × Source × Nat)) :=
  let c := coreAt s core
  (c.residents.filter (fun r => r.part == part && !absent c r.ctx)).filterMap (fun r =>
    (available s core r).map (fun o => (r.ctx, o)))

/-- The offer a slot of a partition takes: the highest priority, then round-robin by context. -/
def chosenOffer (s : State) (core part : Nat) : Option (Nat × (Vector Word 8 × Source × Nat)) :=
  let l := offers s core part
  let top := l.foldl (fun m o => max m (bitsNat (o.2.1.get 7) 7 5)) 0
  let best := l.filter (fun o => bitsNat (o.2.1.get 7) 7 5 == top)
  match nextAfter ((coreAt s core).served.toList.getD part 0) (best.map (fun o => o.1)) with
  | none => none
  | some ctx => best.find? (fun o => o.1 == ctx)

/-- The slot is free, and no lower one of its partition is. -/
def firstFree (s : State) (core slot : Nat) : Bool :=
  let c := coreAt s core
  !(slotAt s core slot).occupied &&
  (List.range slot).all (fun k => (slotAt s core k).occupied || partOf c k != partOf c slot)

/-- What a dispatch acquires of the packet that it has taken (R103, R104): at the packet's steal domain for a SPAWN and for a packet
that Calben placed, and for a SPAWNAT at the smallest scope of the two cores, beside the stores that went before it to the target's
scratchpad. [log 58 DEDUCED] -/
def acquirePacket (core slot : Nat) (w : Vector Word 8) (note : SpawnNote) : Micro :=
  match note.pad with
  | none =>
    let scope := if note.heads.any (fun h => h.place == .gaffer) then scopeSystem else bitsNat (w.get 7) 4 2 + 2
    acquire core slot scope none note.heads
  | some (party, n, pad) => andThen
      (acquire core slot (scopeOf (bitsNat note.id 31 20) core) none note.heads)
      (sawPad core slot party n pad)

/-- TASK_DISPATCH. [log 28 DEDUCED] -/
def execTaskDispatch (core slot : Nat) (s : State) : Host.Outcome State Fault Refusal :=
  slotStep s core slot (ask (fun s =>
    let part := partOf (coreAt s core) slot
    if firstFree s core slot then
      match chosenOffer s core part with
      | none => skip
      | some (ctx, w, src, victim) => andThen (syncSpill victim ctx) (ask (fun s =>
        let (note, take) := takePacket s victim ctx src
        match takeCost s core victim ctx src with
        | none => skip
        | some us => doAll [
            fun _ => us,
            take,
            modSlot core slot (dispatched ctx w note.id s.tick),
            acquirePacket core slot w note,
            modCore core (fun c => { c with served := if h : part < 4 then c.served.set part ctx h else c.served }),
            bump]))
    else skip))

/-! ## Join frames (R30, R31) -/

/-- A frame's address reached for an update by a slot's thread. -/
def reachFrame (s : State) (core slot : Nat) (frame : Word) : Except Nat (Target × Micro) :=
  let sl := slotAt s core slot
  match reach s (slotWalker s core slot) core (partOf (coreAt s core) slot) sl.mode frame 16 (.atomic false) with
  | .error c => .error c
  | .ok (t, f) => if badBytes s sl.ctx t 16 then .error 0x0A else .ok (t, f)

/-- The bytes at a target's home, once nothing on the route to its lehr line has still to change them; none while they must be waited
for. [log 55 DEDUCED] -/
def homeBytesAt (s : State) (core ctx : Nat) (t : Target) (n : Nat) : Option (List Byte) :=
  match routeOf s ctx t with
  | .bank => some (memBytes s (keyOf t) n)
  | .lehr pa => if lehrClear s (bankCore core t) pa n then some (memBytes s pa n) else none
  | .held => none

/-- The bytes at a target's home, with no store of the core's die to them on its way. -/
def homeRead (s : State) (core ctx : Nat) (t : Target) (n : Nat) : Option (List Byte) :=
  if dieBusy s (dieOf core) (locOf ctx t) n then none else homeBytesAt s core ctx t n

/-- Of some requests, none that a read-modify-write of a core must follow is on its way: a store of its die to the bytes (R89), or what
left the core before it on the route to their home (R105). -/
def homeClear (qs : List Req) (core ctx : Nat) (t : Target) (n : Nat) : Bool :=
  !(qs.any (fun q => (dieOf q.core == dieOf core && q.touches (locOf ctx t) n) || (q.core == core && q.onRoute (homeOf t))))

/-- A read-modify-write of a slot's thread at a target's home: `put` lists the bytes it writes, by their offset, from what it has read
there. It releases at a scope if `rel` says so. None while it must wait. -/
def updateHome (s : State) (core slot : Nat) (t : Target) (rel : Option Nat) (put : List (Nat × List Byte)) : Option Micro :=
  let ctx := (slotAt s core slot).ctx
  let w := slotWriter s core slot (threadClock s core slot) rel true
  match put.mapM (fun x => (performWrite s ctx (targetPlus t x.1) w x.2).map (fun f => doAll [
      sawWrites core slot (locOf ctx t + x.1) x.2.length (readFrom s [] (locOf ctx t + x.1) x.2.length),
      f,
      touchAll (keyOf t + x.1) x.2.length])), payOut s core ctx t true with
  | some fs, some pay => some (doAll (pay :: countWrite w :: fs))
  | _, _ => none

/-- What raising a frame's pending count comes to. -/
inductive FrameRes where
  | done (f : Micro)
  /-- The count would pass its limit. -/
  | full
  | fault (cause : Nat)
  | later

/-- The pending count raised by one, for a spawn of a slot (R31), behind the requests `qs` of its core. -/
def raisePending (s : State) (qs : List Req) (core slot : Nat) (frame : Word) : FrameRes :=
  if frame = 0 then .done skip
  else match reachFrame s core slot frame with
    | .error c => if c = 0 then .later else .fault c
    | .ok (t, f) =>
      match (if homeClear qs core (slotAt s core slot).ctx t 4 then homeBytesAt s core (slotAt s core slot).ctx t 4 else none) with
      | none => .later
      | some bs =>
        if leNat bs + 1 = 2 ^ 32 then .full
        else match updateHome s core slot t none [(0, leBytes 4 (leNat bs + 1))] with
          | none => .later
          | some g => .done (andThen f g)

/-! ## SPAWN (R199) -/

/-- SPAWN: the packet is read and placed in SPAWN_COMPLETE. -/
def execSpawn (p : Fin 8) (a : Fin 32) (s : State) : Host.Outcome State Fault Refusal :=
  cWord s (fun core slot s =>
    let addr := gRead (slotAt s core slot) a
    withStruct core slot s addr 64 64 (fun bs =>
      match checkPacket core (packetWords bs) with
      | .error (c, none) => .illegal (slotAt s core slot) c
      | .error (c, some v) => .fault (Trouble.of c v)
      | .ok _ => .access (waitFor core slot (.spawn p addr) 0)))

/-- The end of a SPAWN that reads a packet: it is placed, or refused. -/
def spawnHere (core slot : Nat) (p : Fin 8) (w : Vector Word 8) : Micro := ask (fun s =>
  let sl := slotAt s core slot
  let packet : Packet := { words := w, note := {
    id := nextId s core sl.ctx, heads := [releaseHead s core slot (bitsNat (w.get 7) 4 2 + 2)], pad := none } }
  match residentOf (coreAt s core) sl.ctx with
  | none => finishBundle core slot (fun x => pWrite x p false) none
  | some r =>
    if !hasRoom s r then finishBundle core slot (fun x => pWrite x p false) none
    else match raisePending s s.reqs core slot packet.frame, placeCost s core sl.ctx with
      | .later, _ => skip
      | .full, _ => finishBundle core slot (fun x => pWrite x p false) none
      | .fault c, _ => raiseC core slot { cause := c, value := packet.frame, write := true }
      | .done f, some us => unlessA core slot (doAll [fun _ => us, f, place core sl.ctx packet, countSpawn core sl.ctx,
          finishBundle core slot (fun x => pWrite x p true) none])
      | .done _, none => skip)

/-- SPAWN_COMPLETE: a release at the packet's steal domain (R103), so the slot's stores have left first. [log 78 DEDUCED] -/
def execSpawnComplete (core slot : Nat) (s : State) : Host.Outcome State Fault Refusal :=
  slotStep s core slot (ask (fun s =>
    let sl := slotAt s core slot
    match sl.wait with
    | .spawn p addr =>
      (match checkAddr s core slot addr 64 .read with
       | .ok t =>
         if badBytes s sl.ctx t 64 then raiseC core slot (Trouble.of 0x0A addr)
         else (match routedRead s (slotReader s core slot) core sl.ctx t 64 with
           | none => skip
           | some x =>
             (match checkPacket core (packetWords x.bytes) with
              | .error (c, v) => raiseC core slot (Trouble.of c (v.getD (cWordValue sl)))
              | .ok w => onlyIf (sl.sb.isEmpty && releasable s core (bitsNat (w.get 7) 4 2 + 2))
                  (doAll [readBy core slot addr t 64 x, syncSpill core sl.ctx, spawnHere core slot p w])))
       | .fault c => raiseC core slot (Trouble.of c addr)
       | _ => waitAgain core slot (.cond .storeRoom) 0)
    | _ => skip))

/-! ## SPAWNAT (R199, R104) -/

/-- The home of a frame that can be reached. -/
def frameHome (s : State) (core slot : Nat) (frame : Word) : Option Nat :=
  if frame = 0 then none
  else match reachFrame s core slot frame with
    | .ok (t, _) => some (homeOf t)
    | .error _ => none

/-- A frame's update may take its place on the route to the frame: the slot's buffer is empty, as for every atomic (R189), and nothing
that it must follow is on its way. -/
def frameClear (s : State) (core slot : Nat) (frame : Word) : Bool :=
  frame == 0 || ((slotAt s core slot).sb.isEmpty && (match reachFrame s core slot frame with
    | .ok (t, _) => homeClear s.reqs core (slotAt s core slot).ctx t 16
    | .error c => c != 0))

/-- Nothing is buffered that a SPAWNAT's packet must follow: no fence (R98), no store to the target's scratchpad (R104), and nothing
before the frame's update (R31). -/
def packetClear (s : State) (core slot target : Nat) (frame : Word) : Bool :=
  frameClear s core slot frame && (slotAt s core slot).sb.all (fun e => match e with
    | .fence .. => false
    | .store .. => !e.touches (keyOf (.pad target 0)) 0x40000)

/-- SPAWNAT: the packet leaves on the core's route to the target's scratchpad. It releases what the thread's REL fences say, and its
dispatch sees the stores that went before it to that scratchpad (R98, R104). The target is checked before the packet is read. [log 9 DEDUCED, 102 DESIGN CHOICE] -/
def execSpawnat (p : Fin 8) (a b : Fin 32) (s : State) : Host.Outcome State Fault Refusal :=
  cWord s (fun core slot s =>
    let sl := slotAt s core slot
    let addr := gRead sl a
    let target := (gRead sl b).toNat
    if coreCount ≤ target ∨ !inSpan s core (partOf (coreAt s core) slot) sl.ctx target then .illegal sl 0x04
    else withStruct core slot s addr 64 64 (fun bs =>
      match checkPacket core (packetWords bs) with
      | .error (c, none) => .illegal sl c
      | .error (c, some v) => .fault (Trouble.of c v)
      | .ok w =>
        let frame := word (bitsNat (w.get 7) 55 8 * 256)
        let home := frameHome s core slot frame
        if !packetClear s core slot target frame then .again (.cond (.packetWay target frame)) 0
        else .access (andThen (waitFor core slot (.spawnAt p addr target 0) 0) (ask (fun s =>
          let k := threadKnows s core slot
          sendReq core slot sl.ctx (homeOf (.pad target 0))
            (.packet target slot w k.fences (some (slotParty s core slot, k.wrote, target)) home)
            (.pad target 0) [] (slotWriter s core slot k.clock none false))))))

/-- A SPAWNAT's packet or refusal noted at its slot. -/
def spawnStage (core slot stage : Nat) : Micro := modSlot core slot (fun sl =>
  match sl.wait with
  | .spawnAt p a t _ => { sl with wait := .spawnAt p a t stage }
  | _ => sl)

/-- Every earlier request of the source to the target core's scratchpad has arrived. -/
def packetMayArrive (s : State) (r : Req) (target : Nat) : Bool :=
  (s.reqs.takeWhile (fun q => q.id != r.id)).all (fun q =>
    !(q.core == r.core && (match q.tgt with
      | .pad n _ => n == target
      | _ => (List.range 16).any (fun k => q.onRoute (homeOf (.pad target (k * 0x4000)))))))

/-- SPAWNAT_PACKET_ARRIVAL: the place is reserved, the frame raised, and the packet placed; or it is refused without trace. -/
def execSpawnatPacketArrival (rid : Nat) (s : State) : Host.Outcome State Fault Refusal :=
  commit s (ask (fun s =>
    match s.reqs.find? (fun r => r.id == rid) with
    | none => skip
    | some r =>
      match r.kind with
      | .write => skip
      | .packet target slot w heads pad _ =>
        if running s && packetMayArrive s r target then doAll [syncSpill r.core r.ctx, syncSpill target r.ctx, ask (fun s =>
           let packet : Packet := { words := w, note := { id := nextId s r.core r.ctx, heads := heads, pad := pad } }
           let refuse := andThen (dropReq rid) (spawnStage r.core slot 2)
           match residentOf (coreAt s target) r.ctx with
           | none => refuse
           | some x =>
             if !hasRoom s x then refuse
             else match raisePending s (s.reqs.takeWhile (fun q => q.id != rid)) r.core slot packet.frame,
                 placeCost s target r.ctx with
               | .later, _ => skip
               | .full, _ => refuse
               | .fault c, _ => andThen (dropReq rid)
                   (raiseC r.core slot { cause := c, value := packet.frame, write := true })
               | .done f, some us => andThen (dropReq rid) (unlessA r.core slot (doAll [fun _ => us, f, place target r.ctx packet,
                   countSpawn r.core r.ctx, spawnStage r.core slot 1]))
               | .done _, none => skip)]
        else skip))

/-- SPAWNAT_ACK. -/
def execSpawnatAck (core slot : Nat) (s : State) : Host.Outcome State Fault Refusal :=
  slotStep s core slot (ask (fun s =>
    match (slotAt s core slot).wait with
    | .spawnAt p _ _ 1 => finishBundle core slot (fun x => pWrite x p true) none
    | .spawnAt p _ _ 2 => finishBundle core slot (fun x => pWrite x p false) none
    | _ => skip))

/-! ## JOIN (R200) -/

/-- A wake acquires at a scope what the newest write of a location releases (R31, R203). -/
def acquireAt (core slot scope : Nat) (t : Target) (n : Nat) : Micro := ask (fun s =>
  let loc := locOf (slotAt s core slot).ctx t
  let last := readFrom s [] loc n
  andThen (sawWrites core slot loc n last)
    (onlyIf (scope != 0) (acquire core slot scope (peerFor s t) (last.flatMap (fun w => w.heads)))))

/-- A JOIN whose pending count reads zero: its wake acquires at PKG (R31), and an escalation word is cleared and raised, or the JOIN
completes. -/
def joinDone (core slot : Nat) (addr : Word) (t : Target) (esc : Nat) : Micro := ask (fun s =>
  let sl := slotAt s core slot
  let wake := acquireAt core slot scopePkg t 4
  if esc = 0 then andThen wake (finishPlain core slot)
  else match reach s (slotWalker s core slot) core (partOf (coreAt s core) slot) sl.mode (addr + 8) 8 .write with
    | .error 0 => skip
    | .error c => andThen wake (raiseC core slot { cause := c, value := addr, write := true })
    | .ok (_, f) =>
      match updateHome s core slot t none [(12, leBytes 4 0)] with
      | none => skip
      | some g => onlyIf (sl.sb.isEmpty && homeClear s.reqs core sl.ctx t 16)
          (doAll [wake, f, g, raiseC core slot (Trouble.of esc addr)]))

/-- The frame's counts as a JOIN reads them. -/
def joinRead (s : State) (core ctx : Nat) (t : Target) : Option (Nat × Nat) :=
  (homeRead s core ctx t 16).map (fun bs => (fieldAt bs 0 4, fieldAt bs 12 4))

/-- JOIN. -/
def execJoin (a : Fin 32) (s : State) : Host.Outcome State Fault Refusal :=
  cWord s (fun core slot s =>
    let addr := gRead (slotAt s core slot) a
    withStruct core slot s addr 256 16 (fun bs =>
      match checkAddr s core slot addr 256 .read with
      | .ok t =>
        if fieldAt bs 0 4 = 0 ∧ fieldAt bs 12 4 = 0 then
          .act (andThen (acquireAt core slot scopePkg t 4) (finishPlain core slot))
        else if fieldAt bs 0 4 = 0 then .turn (joinDone core slot addr t (fieldAt bs 12 4))
        else .access (waitFor core slot (.join addr) 4)
      | _ => .again (.cond .storeRoom) 0))

/-- JOIN_WAKE. [log 77 DEDUCED] -/
def execJoinWake (core slot : Nat) (s : State) : Host.Outcome State Fault Refusal :=
  slotStep s core slot (ask (fun s =>
    let sl := slotAt s core slot
    match sl.wait with
    | .join addr =>
      (match checkAddr s core slot addr 256 .read with
       | .ok t =>
         if badBytes s sl.ctx t 16 then raiseC core slot (Trouble.of 0x0A addr)
         else (match joinRead s core sl.ctx t with
           | some (0, esc) => joinDone core slot addr t esc
           | _ => skip)
       | .fault c => raiseC core slot (Trouble.of c addr)
       | .miss va =>
         (match finishWalk s core (slotWalker s core slot) sl.mode va .read with
          | .ok (_, f) => f
          | .error 0 => skip
          | .error c => raiseC core slot (Trouble.of c addr))
       | _ => skip)
    | _ => skip))

/-! ## RETIRE (R201, R31) -/

/-- RETIRE: in S mode TSTATE.FAIL retires the task as failed. -/
def execRetire (s : State) : Host.Outcome State Fault Refusal :=
  cWord s (fun core slot s =>
    let sl := slotAt s core slot
    .act (modSlot core slot (fun x =>
      { x with wait := .retiring (sl.mode == .supervisor && bitAt sl.trap.tstate 3) 0 false })))

/-- A load of a slot that waits on a parison buffer. -/
def waitsOn (sl : Slot) (buf : Nat) : Option Word :=
  match sl.wait with
  | .cond (.landed b addr) => if b = buf then some addr else none
  | _ => none

/-- The address of a load of a slot for which a parison buffer's data is awaited, or its refetch once a fault of it is served. -/
def bufferLoad (sl : Slot) (buf : Nat) : Option Word :=
  match sl.wait, sl.replayFor with
  | .replay, some (b, addr) => if b = buf then some addr else none
  | _, _ => waitsOn sl buf

/-- A parison buffer let go (R249): its fetch is cancelled, and a load that waits on it takes an address fault. -/
def freeBuffer (core buf : Nat) : Micro := andThen (modBuffer core buf (fun _ => Parison.reset)) (ask (fun s =>
  forAll (List.range 16) (fun k => match bufferLoad (slotAt s core k) buf with
    | some addr => raiseC core k (Trouble.of 0x06 addr)
    | none => skip)))

/-- The buffers that a thread's PFETCHes hold let go. -/
def freeBuffers (core slot : Nat) : Micro := ask (fun s =>
  let held := (slotAt s core slot).pfbuf
  andThen (forAll ((List.range 8).filter (fun b => bitAt held b)) (freeBuffer core))
    (modSlot core slot (fun sl => { sl with pfbuf := 0 })))

/-- A fault that no thread will take, posted with S-MODE set (R243, R329). -/
def postOrphan (s : State) (core slot : Nat) (f : EngineFault) : Micro :=
  postRecord { cause := f.cause, flags := recordFlags false false true true f.write, wait := 0, handle := f.handle,
               value := f.value, pc := 0, who := whoOf s core slot }

/-- The asynchronous-fault event of an absent context's record, posted for want of a thread with the identity that the record holds
(R329), on its core's route to the image still as it may be. -/
def postAsync (s : State) (core : Nat) (addr : Word) : Micro :=
  postRecord { cause := 0x10, flags := recordFlags true false true false false, wait := 0, handle := 0,
               value := addr, pc := 0, who := word (lehrNat s core (addr.toNat + 24) 8) }

/-- The rest of a retirement once its frame update is over (R201). -/
def leave (core slot : Nat) : Micro := ask (fun s =>
  let sl := slotAt s core slot
  doAll [
    closeAll core slot,
    disarm core slot,
    freeBuffers core slot,
    dissolve core slot,
    forAll (sl.engineFaults.filter (fun f => f.ctx == sl.ctx)) (postOrphan s core slot),
    forAll (sl.asyncEvents.filter (fun e => e.1 == sl.ctx)) (fun e => postAsync s core e.2),
    modSlot core slot (fun x =>
      { x.quiet with
        wait := .leaving, handler := .none, ccq := []
        engineFaults := x.engineFaults.filter (fun f => f.ctx != x.ctx)
        asyncEvents := x.asyncEvents.filter (fun e => e.1 != x.ctx)
        ctl := { x.ctl with uipend := 0 } })])

/-- The counts of a frame after a retirement (R31, Table 2.7). -/
def retiredFrame (failed : Bool) (escalate : Nat) (bs : List Byte) : List Byte :=
  let pending := fieldAt bs 0 4
  let fails := fieldAt bs 4 4
  let esc := fieldAt bs 12 4
  leBytes 4 (pending - 1) ++ leBytes 4 (if failed then min (fails + 1) 0xFFFFFFFF else fails) ++ (bs.drop 8).take 4 ++
    leBytes 4 (if escalate ≠ 0 ∧ esc = 0 then escalate else esc)

/-- A fault of the frame's update: not present waits for service, any other is posted and the slot goes on. [log 77 DEDUCED] -/
def frameFault (core slot : Nat) (frame : Word) (cause : Nat) : Micro := ask (fun s =>
  let sl := slotAt s core slot
  let r := fun (async : Bool) =>
    postRecord { cause := cause, flags := recordFlags async false (sl.mode == .supervisor) false true, wait := 0,
                 handle := 0, value := frame, pc := sl.regs.pc, who := whoOf s core slot }
  if cause = 0x07 then
    andThen (r false) (modSlot core slot (fun x => match x.wait with
      | .retiring f e _ => { x with wait := .retiring f e true }
      | _ => x))
  else andThen (r true) (leave core slot))

/-- What a retirement writes to a frame: its counts, and the escalation word where it passes up the first event. -/
def framePut (failed : Bool) (escalate : Nat) (bs : List Byte) : List (Nat × List Byte) :=
  let new := retiredFrame failed escalate bs
  (0, new.take 8) :: (if escalate ≠ 0 ∧ fieldAt bs 12 4 = 0 then [(12, new.drop 12)] else [])

/-- RETIRE_FRAME_UPDATE: a release at the smallest scope of the retiring and the spawning core. -/
def execRetireFrameUpdate (core slot : Nat) (s : State) : Host.Outcome State Fault Refusal :=
  slotStep s core slot (ask (fun s =>
    let sl := slotAt s core slot
    match sl.wait with
    | .retiring failed esc false =>
      let frame := sl.task.frame
      if frame = 0 then leave core slot
      else
      let scope := scopeOf core (bitsNat sl.task.task 31 20)
      if !sl.sb.isEmpty || !releasable s core scope then skip
      else match reachFrame s core slot frame with
        | .error 0 => skip
        | .error c => frameFault core slot frame c
        | .ok (t, f) =>
          (match (if homeClear s.reqs core sl.ctx t 16 then homeBytesAt s core sl.ctx t 16 else none) with
           | none => skip
           | some bs =>
             (match updateHome s core slot t (some scope) (framePut failed esc bs) with
              | none => skip
              | some g => doAll [f, g, leave core slot]))
    | _ => skip))

/-- A slot that has been freed: the S-mode shadows, and the model's counts, stay. [log 15 DEDUCED] -/
def freed (sl : Slot) : Slot :=
  { Slot.reset with
    regs := { Regs.reset with sh := sl.regs.sh }
    trap := sl.trap
    sbIn := sl.sbIn
    sbOut := sl.sbOut
    engineFaults := sl.engineFaults
    asyncEvents := sl.asyncEvents }

/-- RETIRE_SLOT_FREE. -/
def execRetireSlotFree (core slot : Nat) (s : State) : Host.Outcome State Fault Refusal :=
  slotStep s core slot (ask (fun s =>
    let sl := slotAt s core slot
    onlyIf (sl.wait == .leaving && sl.sb.isEmpty && portClear s core slot)
      (andThen (dissolve core slot) (modSlot core slot freed))))

/-! ## BAR (R203) -/

/-- BAR: its arrival is an acquire-release atomic. -/
def execBar (a b : Fin 32) (s : State) : Host.Outcome State Fault Refusal :=
  cWord s (fun core slot s =>
    let sl := slotAt s core slot
    let addr := gRead sl a
    let v := gRead sl b
    let count := bitsNat v 31 0
    let scope := bitsNat v 35 32
    if count = 0 ∨ bitsNat v 63 36 ≠ 0 ∨ scopeBad scope then .illegal sl 0x04
    else onTarget addr (.atomic false) (checkAtomic s core slot addr 8 false) (fun tgt =>
      .access (beginAtomic core slot
        { addr := addr, tgt := tgt, size := 8, op := .arrive count, operand := 0, d := 0, signed := false,
          scope := scope, acq := true, rel := true, queued := false })))

/-- BAR_WAKE: a new generation has been read. [log 77 DEDUCED] -/
def execBarWake (core slot : Nat) (s : State) : Host.Outcome State Fault Refusal :=
  slotStep s core slot (ask (fun s =>
    let sl := slotAt s core slot
    match sl.wait with
    | .bar addr gen scope =>
      (match reach s (slotWalker s core slot) core (partOf (coreAt s core) slot) sl.mode addr 8 .read with
       | .ok (t, f) =>
         (match homeRead s core sl.ctx t 8 with
          | some bs => onlyIf (fieldAt bs 4 4 != gen.toNat)
              (doAll [f, acquireAt core slot scope t 8, endWait core slot id])
          | none => skip)
       | .error _ => skip)
    | _ => skip))

end Sys2Proof.Machine
end

