-- ==== Sys2Proof/Machine/Images.lean ====
section
/-! DEFINITION. Thread-context images (R306, Tables 16.10 to 16.12): a slot's thread as 256 words and back, the thread-context
cache of a core, and what R307 checks of an image that is to be loaded. -/

namespace Sys2Proof.Machine

/-! ## A thread as an image -/

/-- WAIT of an image: kind, scope and data (Table 16.11). -/
def waitWord (w : Wait) : Word :=
  match w with
  | .bar _ gen scope => word (gen.toNat % 2 ^ 32 * 2 ^ 32 + scope % 16 * 16 + 1)
  | .halt => 2
  | .job seq => word ((0x10000 + seq % 0x10000) * 2 ^ 32 + 3)
  | .mwait d _ _ => word (d.val * 2 ^ 32 + 4)
  | .replay => 5
  | .retiring _ _ true => 5
  | _ => 0

/-- WAITADDR of an image. -/
def waitAddr (w : Wait) : Word :=
  match w with
  | .bar addr _ _ => addr
  | _ => 0

/-- STATE of an image (Table 16.12). -/
def stateWord (core : Nat) (sl : Slot) : Word :=
  word (sl.ctx % 2 ^ 16 * 2 ^ 48 + core % 2 ^ 12 * 2 ^ 36 + sl.pfbuf.toNat * 2 ^ 28 + min sl.ccq.length 16 * 2 ^ 23 +
    ((List.range 7).foldl (fun n k => n + bitIf (sl.regs.p.toList.getD (k + 1) false) (9 + k)) 0) +
    handlerCode sl.handler * 8 + (if sl.mode = .supervisor then 4 else 0) + 1)

/-- The thread of a slot as the words of its image, where it continues at `pc`. -/
def imageOf (s : State) (core : Nat) (sl : Slot) (pc : Word) : List Word :=
  let c := sl.ctl
  ((0 : Word) :: sl.regs.g.toList.tail) ++ sl.regs.sh.toList ++
  [pc, stateWord core sl, waitWord sl.wait, waitAddr sl.wait,
   c.fctl, c.rseed, c.fmtact, c.lhvec, c.ulink, c.ucause, c.uivec, c.xfrid, c.uipend, c.uimaskv, c.waitlim, c.aeeps,
   c.aemaxr, sl.trap.tcause, sl.trap.tval, sl.trap.tpc, sl.trap.tstate,
   sl.task.task, sl.task.faultWord, sl.task.frame, sl.task.entry, sl.task.fmtBlock] ++ c.fd.toList ++
  (sl.q.toList.map (fun q => match q with
    | none => (0 : Word)
    | some p => word (endpointBits s core sl p))) ++ List.replicate 2 (0 : Word) ++
  ((List.range 16).flatMap (fun k => match sl.ccq[k]? with
    | some e => [e.handler, e.xfrid.zeroExtend 64]
    | none => [(0 : Word), 0])) ++ List.replicate 20 (0 : Word) ++
  (sl.regs.b.toList.flatMap (fun (b : Quad) => [(b.truncate 64 : Word), ((b >>> 64).truncate 64 : Word)]))

/-- A word of an image by its offset in bytes. -/
def imageWord (img : List Word) (off : Nat) : Word := img.getD (off / 8) 0

/-- The wait an image resumes as; a register to be written 2 for kind 4 is given apart. -/
def loadedWait (img : List Word) : Wait :=
  let w := imageWord img 0x130
  match bitsNat w 3 0 with
  | 1 => .bar (imageWord img 0x138) (word (bitsNat w 63 32)) (bitsNat w 7 4)
  | 2 => .halt
  | 3 => .job (bitsNat w 47 32)
  | 5 => .replay
  | _ => .none

/-- The registers of an image. -/
def loadedRegs (img : List Word) : Regs :=
  let st := imageWord img 0x128
  { g := (Vector.range 32).map (fun k => if k = 0 then 0 else imageWord img (8 * k))
    sh := (Vector.range 4).map (fun k => imageWord img (0x100 + 8 * k))
    p := (Vector.range 8).map (fun k => k != 0 && bitAt st (8 + k))
    b := (Vector.range 64).map (fun k =>
      BitVec.ofNat 128 ((imageWord img (0x400 + 16 * k)).toNat + (imageWord img (0x408 + 16 * k)).toNat * 2 ^ 64))
    pc := imageWord img 0x120 }

/-- The user control registers of an image, as it holds them: a MODE of 6 or 7 then rounds as RSR that draws zeros, and an RSEED of zero
stays zero. [log 103 DESIGN CHOICE] -/
def loadedCtl (img : List Word) : UserCtl :=
  let r := fun (k : Nat) => imageWord img (0x140 + 8 * k)
  { fctl := r 0, rseed := r 1, fmtact := r 2, fd := (Vector.range 4).map (fun k => imageWord img (0x1F0 + 8 * k)),
    lhvec := r 3, ulink := r 4, ucause := r 5, uivec := r 6, xfrid := r 7, uipend := r 8, uimaskv := r 9, waitlim := r 10,
    aeeps := r 11, aemaxr := r 12 }

/-- The wait in which a thread comes back: a replay of a RETIRE's frame update goes on as that (R298). -/
def broughtWait (img : List Word) (kept : Parked) : Wait :=
  match loadedWait img, kept.retire with
  | .replay, some (failed, escalate) => .retiring failed escalate true
  | w, _ => w

/-- The thread of an image in a slot, with what the model keeps of it beside the image. [log 25 and 90 DESIGN CHOICE] -/
def loadedSlot (img : List Word) (kept : Parked) (cycle : Nat) (old : Slot) : Slot :=
  let st := imageWord img 0x128
  let t := fun (k : Nat) => imageWord img (0x1A8 + 8 * k)
  let k := fun (k : Nat) => imageWord img (0x1C8 + 8 * k)
  let sl : Slot := { Slot.reset with
    occupied := true
    ctx := bitsNat st 63 48
    mode := if bitAt st 2 then .supervisor else .user
    regs := loadedRegs img
    ctl := loadedCtl img
    trap := { tcause := t 0, tval := t 1, tpc := t 2, tstate := t 3 }
    task := { task := k 0, faultWord := k 1, frame := k 2, entry := k 3, fmtBlock := k 4, args := kept.args, serial := kept.serial }
    handler := handlerOf (bitsNat st 4 3)
    altLast := kept.altLast
    stv := kept.stv
    wait := broughtWait img kept
    stall := resumedStall (broughtWait img kept) cycle (loadedCtl img).waitlim
    susp := if suspKind kept.susp = bitsNat (t 3) 7 4 then kept.susp else .none
    last := some cycle
    replayValue := kept.replayValue
    fmtPending := kept.fmtPending
    dispatchFault := kept.dispatchFault
    ccq := (List.range (min (bitsNat st 27 23) 16)).map (fun n =>
      { handler := imageWord img (0x260 + 16 * n), xfrid := (imageWord img (0x268 + 16 * n)).truncate 32
        clock := kept.done.getD n [] })
    pfbuf := BitVec.ofNat 8 (bitsNat st 35 28)
    sbIn := old.sbIn
    sbOut := old.sbOut
    engineFaults := old.engineFaults
    asyncEvents := old.asyncEvents
    switchReq := old.switchReq }
  let w := imageWord img 0x130
  if bitsNat w 3 0 = 4 then gWrite sl (Fin.ofNat 32 (bitsNat w 36 32)) 2 else sl

/-- Bits of an image's words that are not zero where a field must be (R307): the control registers as their tables give them, the
descriptors (Table 3.5), TASK (Table 2.5), and the image's own zero areas. The bits of an endpoint's word are ignored, and so is g0. R307 names no check of a field's value. [log 89 DEDUCED, 103 DESIGN CHOICE] -/
def imageZeros (img : List Word) : Bool :=
  let ok := fun (off mask : Nat) => within (imageWord img off) mask
  let clear := fun (off n : Nat) => (List.range n).all (fun k => imageWord img (off + 8 * k) == 0)
  ok 0x140 0x1F07 && ok 0x148 0xFFFFFFFF && ok 0x150 3 && ok 0x158 (addrMask 2) && ok 0x160 (addrMask 2) && ok 0x170 (addrMask 6) &&
  ok 0x180 0xFF && ok 0x188 0xFF && ok 0x198 0xFFFFFFFF && ok 0x1A0 0xFFFF && ok 0x1A8 0xC0FF && ok 0x1B8 (addrMask 2) &&
  ok 0x1C0 0xFF && ok 0x1C8 0xFFFFFFFFFF &&
  (List.range 4).all (fun k => ok (0x1F0 + 8 * k) 0xFFFFFFFFFFF3FF) &&
  clear 0x250 2 && (List.range 16).all (fun k => ok (0x268 + 16 * k) 0xFFFFFFFF) && clear 0x360 20

/-- Bits of an image's WAIT and WAITADDR that are not zero where they must be (Tables 16.10 and 16.11). [log 89 DEDUCED] -/
def waitZeros (img : List Word) : Bool :=
  let w := imageWord img 0x130
  let data := bitsNat w 63 32
  bitsNat w 31 8 == 0 &&
  (match bitsNat w 3 0 with
   | 1 => true
   | 3 => bitsNat w 7 4 == 0 && data < 2 ^ 20 && imageWord img 0x138 == 0
   | 4 => bitsNat w 7 4 == 0 && data < 32 && imageWord img 0x138 == 0
   | _ => bitsNat w 7 4 == 0 && data == 0 && imageWord img 0x138 == 0)

/-- A kind of wait or a handler state of an image is reserved, in the thread's own state or in TSTATE. [log 89 DEDUCED] -/
def imageReserved (img : List Word) : Bool :=
  decide (6 ≤ bitsNat (imageWord img 0x130) 3 0) || bitsNat (imageWord img 0x128) 4 3 == 3 ||
  decide (6 ≤ bitsNat (imageWord img 0x1C0) 7 4) || bitsNat (imageWord img 0x1C0) 2 1 == 3

/-- An image that R307 refuses: `home` is the context that SWAPCTX demands, or for a hand-over none, where any context
resident in partition `part` of the core is taken. [log 89 DEDUCED] -/
def imageBad (c : Core) (core : Nat) (home : Option Nat) (part : Nat) (img : List Word) : Bool :=
  let st := imageWord img 0x128
  bitAt st 0 &&
  (bitsNat st 47 36 != core || bitsNat st 22 16 != 0 || bitsNat st 8 5 != 0 || bitAt st 1 || imageReserved img ||
   !imageZeros img || !waitZeros img ||
   (match home with
    | some ctx => bitsNat st 63 48 != ctx
    | none => !(c.residents.any (fun r => r.ctx == bitsNat st 63 48 && r.part == part))))

/-! ## The thread-context cache -/

/-- Images a core caches. -/
def imageCacheSize : Nat := 32

/-- The words of an image's memory. -/
def memoryWords (s : State) (addr : Nat) : List Word :=
  (List.range 256).map (fun k => word (memNat s (addr + 8 * k) 8))

/-- A cached image as the next exchange reads it or as it is written back. A word whose memory has been written since it was
cached is the written one or the cached one (R306): which is a free choice (log entry 83). [log 5 and 83 DESIGN CHOICE] -/
def cachedWords (s : State) (i : CachedImage) : List Word :=
  (List.range 256).map (fun k =>
    let m := word (memNat s (i.addr + 8 * k) 8)
    if m ≠ i.under.getD k 0 ∧ bitAt (Config.freeWord (s.tick + k / 64)) (k % 64) = true then m else i.words.getD k 0)

/-- The free words that the choices of one image take. -/
def spendChoices : Micro := fun s => [.tick (s.tick + 4)]

/-- The words of an image as the next exchange reads it: from the cache, or memory. [log 24 DEDUCED, 83 DESIGN CHOICE] -/
def imageWords (s : State) (r : Reader) (core ctx : Nat) (t : Target) : Option (List Word) :=
  match (coreAt s core).images.find? (fun i => i.addr == keyOf t) with
  | some i => some (cachedWords s i)
  | none => (routedBytes s r core ctx t 2048).map (fun bs => (chunks 8 bs).map (fun b => word (leNat b)))

/-- An image's words written to memory. [log 83 DESIGN CHOICE] -/
def writeBack (core : Nat) (i : CachedImage) : Micro := ask (fun s => andThen
  (coreWrite core i.addr ((cachedWords s i).flatMap (fun w => leBytes 8 w.toNat)))
  spendChoices)

/-- An image put into the cache as the most recently used; a full cache writes its least recently used back first. [log 24 DEDUCED] -/
def cacheImage (core : Nat) (i : CachedImage) : Micro := ask (fun s =>
  let others := (coreAt s core).images.filter (fun x => x.addr != i.addr)
  andThen (forAll (others.drop (imageCacheSize - 1)) (writeBack core))
    (modCore core (fun c => { c with images := i :: others.take (imageCacheSize - 1) })))

/-- An image written back and its entry released. -/
def releaseImage (core addr : Nat) : Micro := ask (fun s =>
  andThen (forAll ((coreAt s core).images.filter (fun x => x.addr == addr)) (writeBack core))
    (modCore core (fun c => { c with images := c.images.filter (fun x => x.addr != addr) })))

/-- One word of a parked thread's image changed, in the cache or in memory. [log 95 DESIGN CHOICE] -/
def imagePut (core addr off : Nat) (f : Word → Word) : Micro := ask (fun s =>
  match (coreAt s core).images.find? (fun i => i.addr == addr) with
  | some i => modCore core (fun c => { c with images := c.images.map (fun x =>
      if x.addr = addr then { x with words := x.words.set (off / 8) (f (imageWord i.words off)) } else x) })
  | none => coreWrite core (addr + off) (leBytes 8 (f (word (memNat s (addr + off) 8))).toNat))

/-- One word of a parked thread's image. -/
def imageGet (s : State) (core addr off : Nat) : Word :=
  match (coreAt s core).images.find? (fun i => i.addr == addr) with
  | some i => imageWord i.words off
  | none => word (memNat s (addr + off) 8)

/-- The parked thread of a context that last left a slot. -/
def parkedAt (c : Core) (slot ctx : Nat) : Option Parked := c.parked.find? (fun p => p.slot == slot && p.ctx == ctx)

/-! ## The exchange (R307) -/

/-- The ports of a thread's endpoints named to the slot that loads it. A port of the context that no thread holds is bound
as the image says. [log 25 DESIGN CHOICE] -/
def loadEnds (core slot ctx : Nat) (img : List Word) : Micro := doAll ((List.range 8).map (fun k => ask (fun s =>
  let w := imageWord img (0x210 + 8 * k)
  let port := bitsNat w 25 21
  let p := portAt s core port
  let owner : PortOwner := { ctx := ctx, slot := slot, ep := Fin.ofNat 8 k }
  let bind := setEnd core slot (Fin.ofNat 8 k) (some port)
  if !bitAt w 6 then skip
  else match p.owner with
    | some o => onlyIf (o.ctx == ctx) (andThen (modPort core port (fun p => { p with owner := some owner })) bind)
    | none => andThen
        (modPort core port (fun _ => { Port.reset with
          owner := some owner, far := BitVec.ofNat 32 (bitsNat w 63 32), recv := bitAt w 7, auto := bitAt w 8 }))
        bind)))

/-- What the model keeps of a thread whose image it has not seen parked: a party of its own, with free values for what no field of an
image holds. ALT's last choice is such a thing: the search then starts at q0. [log 5 and 90 DESIGN CHOICE] -/
def unknownThread (s : State) (addr : Nat) : Parked :=
  let draw := fun (k : Nat) => Config.freeWord (s.tick + k)
  { addr := addr, slot := 0, ctx := 0, serial := s.tick, args := #v[draw 0, draw 1, draw 2, draw 3, draw 4], susp := .none,
    replayValue := draw 5, altLast := 7, fmtPending := false, dispatchFault := none, retire := none, stv := none, done := [] }

/-- What the model keeps of a slot's thread beside its image, whose slot it leaves. [log 90 DESIGN CHOICE] -/
def parkedOf (addr slot : Nat) (sl : Slot) : Parked :=
  { addr := addr, slot := slot, ctx := sl.ctx, serial := sl.task.serial, args := sl.task.args, susp := sl.susp,
    replayValue := sl.replayValue, altLast := sl.altLast, fmtPending := sl.fmtPending, dispatchFault := sl.dispatchFault
    retire := (match sl.wait with
      | .retiring failed escalate _ => some (failed, escalate)
      | _ => none)
    stv := sl.stv
    done := sl.ccq.map (fun e => e.clock) }

/-- The incoming thread of an image in a slot, or an empty slot. -/
def bringIn (core slot addr : Nat) (img : List Word) : Micro := ask (fun s =>
  if bitAt (imageWord img 0x128) 0 then
    let c := coreAt s core
    let kept := (c.parked.find? (fun p => p.addr == addr)).getD (unknownThread s addr)
    doAll [
      modSlot core slot (loadedSlot img kept c.cycle),
      loadEnds core slot (bitsNat (imageWord img 0x128) 63 48) img,
      bump, bump, bump, bump, bump, bump]
  else modSlot core slot (fun x => { freed x with regs := { Regs.reset with sh := x.regs.sh } }))

/-- The exchange of a slot's thread, which continues at `pc`, with an image: the outgoing thread, if any, takes its place. -/
def exchangeImage (core slot addr : Nat) (img : List Word) (pc : Word) (back : Bool) : Micro := ask (fun s =>
  let sl := slotAt s core slot
  let out : List Word := if sl.occupied then imageOf s core sl pc else List.replicate 256 0
  let parked : List Parked :=
    if sl.occupied then
      [parkedOf addr slot sl]
    else []
  doAll [
    spendChoices,
    disarm core slot,
    dissolve core slot,
    bringIn core slot addr img,
    modCore core (fun c => { c with parked := parked ++ c.parked.filter (fun p => p.addr != addr) }),
    cacheImage core { addr := addr, words := out, under := memoryWords s addr },
    onlyIf back (releaseImage core addr)])

end Sys2Proof.Machine
end

