-- ==== Sys2Proof/Machine/Jobs.lean ====
section
/-! DEFINITION. Jobs of the engines: how a job starts and is named (R100, R211), JPOLL and JWAIT (R212, R242, R264), how a
job ends, and the faults of jobs (R243, R328, R329). -/

namespace Sys2Proof.Machine

/-! ## Names and records (R211) -/

/-- Jobs a context has started on a core. -/
def startedJobs (s : State) (core ctx : Nat) : Nat := ((residentOf (coreAt s core) ctx).map (fun r => r.jobs)).getD 0

/-- Unfinished jobs, and completion records, that count for a context on a core. -/
def jobsOf (s : State) (core ctx : Nat) : List Job :=
  s.jobs.filter (fun j => j.kind != 0 && j.core == core && j.ctx == ctx)

/-- Unfinished jobs of a context on a core. -/
def unfinished (s : State) (core ctx : Nat) : List Job := (jobsOf s core ctx).filter (fun j => j.state != .done)

/-- Unfinished jobs a context may hold on a core, and later jobs for which a completion record is kept. -/
def jobLimit : Nat := 1024

/-- A job's handle (Table 9.8). -/
def handleOf (kind n : Nat) : Nat := kind * 65536 + n % 65536

/-- A job's handle. -/
def Job.handle (j : Job) : Nat := if j.kind = 0 then 0 else handleOf j.kind j.n

/-- The newest of `started` jobs with a sequence. -/
def newestWith (started seq : Nat) : Option Nat :=
  if seq < started then some (started - 1 - (started - 1 - seq) % 65536) else none

/-- A record that is not kept: it is complete, and too many later jobs have been started, or it never had a handle. -/
def Job.dropped (started : Nat) (j : Job) : Bool :=
  j.state == .done && (j.kind == 0 || decide (j.n + jobLimit < started))

/-- The writes of a job, as its end carries them (R101). -/
def jobClock (s : State) (order : Nat) : Clock := [(jobParty order, (knowsOf s (jobParty order)).wrote)]

/-- The records of a context on a core that are no longer kept, dropped; what the jobs wrote can still be acquired. -/
def pruneJobs (core ctx : Nat) : Micro := ask (fun s =>
  let started := startedJobs s core ctx
  let gone := s.jobs.filter (fun j => j.core == core && j.ctx == ctx && j.dropped started)
  andThen
    (fun s => [.order { s.order with ended := (gone.filter (fun j => j.kind != 0)).map (fun j =>
      ((j.core, j.ctx, j.n), jobClock s j.order)) ++ s.order.ended }])
    (modJobs (fun js => js.filter (fun j => !(j.core == core && j.ctx == ctx && j.dropped started)))))

/-- A job of a slot's thread. -/
def newJob (s : State) (core slot kind n : Nat) (body : JobBody) : Job :=
  let sl := slotAt s core slot
  { core := core, ctx := sl.ctx, n := n, kind := kind, slot := slot, part := partOf (coreAt s core) slot, mode := sl.mode,
    serial := sl.task.serial, state := .queued, mark := sl.sbIn, order := s.tick, status := 0, info := 0, faulted := false,
    cause := 0, value := 0, write := false, paid := [], clock := releaseClock s core slot, body := body }

/-- A job with a handle started. [log 37 DEDUCED] -/
def startJob (core slot kind : Nat) (body : JobBody) : Micro := ask (fun s =>
  let ctx := (slotAt s core slot).ctx
  doAll [
    modJobs (fun js => js ++ [newJob s core slot kind (startedJobs s core ctx) body]),
    modResident core ctx (fun r => { r with jobs := r.jobs + 1 }),
    pruneJobs core ctx,
    bump])

/-- A transfer started, which has no handle (R227). [log 44 DEDUCED] -/
def startTransfer (core slot : Nat) (body : JobBody) : Micro := ask (fun s =>
  andThen (modJobs (fun js => js ++ [newJob s core slot 0 s.tick body])) bump)

/-- The handle that the next job of a context on a core takes. -/
def nextHandle (s : State) (core slot kind : Nat) : Word :=
  word (handleOf kind (startedJobs s core (slotAt s core slot).ctx))

/-- A starting instruction waits while its context has too many unfinished jobs. -/
def withRoom (s : State) (core slot : Nat) (r : CRes) : CRes :=
  if jobLimit ≤ (unfinished s core (slotAt s core slot).ctx).length then .again (.cond .jobRoom) 0 else r

/-- A job by its name in this model. -/
def jobAt (s : State) (order : Nat) : Option Job := s.jobs.find? (fun j => j.order == order)

/-- A job changed. -/
def modJob (order : Nat) (f : Job → Job) : Micro :=
  modJobs (fun js => js.map (fun j => if j.order = order then f j else j))

/-- A job ended. -/
def endJob (j : Job) (f : Job → Job) : Micro :=
  andThen (modJob j.order (fun x => { f x with state := .done, paid := [] })) (pruneJobs j.core j.ctx)

/-- The job's release has ended: the stores its thread made before it have left their buffer (R100). -/
def Job.released (s : State) (j : Job) : Bool := decide (j.mark ≤ (slotAt s j.core j.slot).sbOut)

/-- A job may be taken. -/
def Job.ready (s : State) (j : Job) : Bool := j.state == .queued && j.released s

/-! ## JPOLL and JWAIT (R212) -/

/-- The job a handle names: none for a bad handle, else its number, and its record if it is kept. A KIND that is not the job's own is
not looked at. [log 104 DESIGN CHOICE] -/
def handleJob (s : State) (core ctx : Nat) (h : Word) : Option (Nat × Option Job) :=
  if bitsNat h 63 20 ≠ 0 ∨ bitsNat h 19 16 = 0 ∨ 5 < bitsNat h 19 16 then none
  else (newestWith (startedJobs s core ctx) (bitsNat h 15 0)).map (fun n =>
    (n, (jobsOf s core ctx).find? (fun j => j.n == n)))

/-- A job of a handle is complete. -/
def recordDone : Option Job → Bool
  | none => true
  | some j => j.state == .done

/-- JWAIT's result (Tables 10.5 and 11.5). -/
def jobResult : Option Job → Word
  | none => word (2 ^ 8)
  | some j => word ((if 3 ≤ j.kind then j.info % 65536 * 2 ^ 18 else 0) + j.cause % 256 * 2 ^ 10 + bitIf j.faulted 9 +
      j.status % 256)

/-- A thread acquires exactly the writes of a job of its context, by the job's number and its record if it is kept (R101, R211). [log 58 DEDUCED] -/
def acquireJob (core slot n : Nat) (o : Option Job) : Micro := ask (fun s =>
  match o with
  | some j => onlyIf (j.state == .done) (acquireClock core slot (jobClock s j.order))
  | none => acquireClock core slot
      (((s.order.ended.find? (fun e => e.1 == (core, (slotAt s core slot).ctx, n))).map (fun e => e.2)).getD []))

/-- JPOLL. -/
def execJpoll (p : Fin 8) (a : Fin 32) (s : State) : Host.Outcome State Fault Refusal :=
  cWord s (fun core slot s =>
    let sl := slotAt s core slot
    match handleJob s core sl.ctx (gRead sl a) with
    | none => .illegal sl 0x04
    | some (n, o) => .act (andThen (acquireJob core slot n o) (finishBundle core slot (fun x => pWrite x p (recordDone o)) none)))

/-- JWAIT. -/
def execJwait (d a : Fin 32) (s : State) : Host.Outcome State Fault Refusal :=
  cWord s (fun core slot s =>
    let sl := slotAt s core slot
    match handleJob s core sl.ctx (gRead sl a) with
    | none => .illegal sl 0x04
    | some (n, o) =>
      if recordDone o then
        .act (andThen (acquireJob core slot n o) (finishBundle core slot (fun x => gWrite x d (jobResult o)) none))
      else .again (.cond (.jobDone (n % 65536))) 0)

/-- The record of the newest job with a sequence, if it is kept. -/
def seqJob (s : State) (core ctx seq : Nat) : Option Job :=
  (newestWith (startedJobs s core ctx) seq).bind (fun n => (jobsOf s core ctx).find? (fun j => j.n == n))

/-- A thread acquires the writes of the newest job with a sequence. -/
def acquireSeq (core slot seq : Nat) : Micro := ask (fun s =>
  let ctx := (slotAt s core slot).ctx
  match newestWith (startedJobs s core ctx) seq with
  | some n => acquireJob core slot n (seqJob s core ctx seq)
  | none => skip)

/-- The newest job with a sequence is complete. -/
def seqDone (s : State) (core ctx seq : Nat) : Bool := recordDone (seqJob s core ctx seq)

/-! ## Faults of jobs (R243, R329) -/

/-- WHO of a job (Table 6.9). -/
def Job.who (j : Job) : Word :=
  word (j.ctx % 0x10000 * 0x100000000 + j.part * 0x10000 + j.slot % 16 * 0x1000 + j.core % 0x1000)

/-- The record of a job's fault. -/
def jobRecord (j : Job) (cause : Nat) (value : Word) (async smode write : Bool) : Record :=
  { cause := cause, flags := recordFlags async false smode true write, wait := 0, handle := j.handle, value := value,
    pc := 0, who := j.who }

/-- Where the thread of a dispatch is. -/
inductive ThreadPlace where
  | slot (k : Nat)
  | parked (p : Parked)
  | gone
  deriving DecidableEq, Repr

/-- Where the thread that issued a job is: in a slot of the core, parked, or retired. -/
def threadPlace (s : State) (core serial : Nat) : ThreadPlace :=
  match (List.range 16).find? (fun k =>
      (slotAt s core k).occupied && (slotAt s core k).task.serial == serial && (slotAt s core k).wait != .leaving) with
  | some k => .slot k
  | none =>
    match (coreAt s core).parked.find? (fun p => p.serial == serial) with
    | some p => .parked p
    | none => .gone

/-- The bytes of a record (Table 16.8). -/
def Record.bytes (r : Record) : List Byte :=
  [BitVec.ofNat 8 r.cause, r.flags, BitVec.ofNat 8 r.wait, (0 : Byte)] ++ leBytes 4 r.handle ++ leBytes 8 r.value.toNat ++
    leBytes 8 r.pc.toNat ++ leBytes 8 r.who.toNat

/-- The entry of an absent context, whichever it is. -/
def absentEntry (c : Core) (ctx : Nat) : Option Divert := c.divert.toList.find? (fun d => d.state != .off && d.ctx == ctx)

/-- Poison follows a line that is copied (R181). [log 31 DEDUCED] -/
def poisonUnits (bad : Bool) (units : List Nat) : Micro := fun s =>
  if bad then [.poison (s.poison ++ units.filter (fun u => !s.poison.contains u))] else []

/-- Address of a port's state in a lehr image. -/
def portImage (d : Divert) (port : Nat) : Nat := d.base.toNat + 0x41000 + 16 * port

/-- Address of a word slot of a port in a lehr image. -/
def wordImage (d : Divert) (port slot : Nat) : Nat := d.base.toNat + 0x40000 + 128 * port + 8 * (slot % 16)

/-- What a channel word that stands in a lehr image keeps of its send (R108). -/
def keepWord (pa : Nat) (clock : Clock) : Micro := fun s =>
  [.order { s.order with words := (pa, clock) :: s.order.words.filter (fun x => x.1 != pa) }]

/-- A word put into a port's image: the word, COUNT and TAGS as one step at the image's home (R326), where the word uses up one of the
allowance in ALLOW (R37). [log 26 and 31 DEDUCED] -/
def imageWordIn (core port : Nat) (d : Divert) (w : ChWord) : Micro := ask (fun s =>
  let at_ := portImage d port
  let count := lehrNat s core (at_ + 6) 1
  let place := (lehrNat s core (at_ + 5) 1 + count) % 16
  let tags := lehrNat s core (at_ + 8) 2
  let tags2 := tags - tags / 2 ^ place % 2 * 2 ^ place + bitIf w.ctl place
  let allow := lehrNat s core (at_ + 7) 1
  doAll [
    pushLehr core (.write (cellsAt (wordImage d port place) (leBytes 8 w.data.toNat) ++
      cellsAt (at_ + 6) (leBytes 1 (count + 1) ++ leBytes 1 (allow - 1) ++ leBytes 2 tags2)) none),
    keepWord (wordImage d port place) w.clock,
    poisonUnits w.poison [poisonUnit (wordImage d port place)]])

/-- A vector set in a slot's pending word of a lehr image. -/
def lehrPend (core slot v : Nat) (d : Divert) : Micro := ask (fun s =>
  let pa := d.base.toNat + 0x41A80 + 8 * slot
  pushLehr core (.write (cellsAt pa [BitVec.ofNat 8 (lehrNat s core pa 1) ||| BitVec.ofNat 8 (2 ^ v)]) none))

/-- A record queued in a lehr image, or counted as lost (R329). -/
def lehrRecord (core : Nat) (d : Divert) (r : Record) : Micro := ask (fun s =>
  let q := d.base.toNat + 0x41A00
  let head := lehrNat s core q 4
  let tail := lehrNat s core (q + 4) 4
  let lost := lehrNat s core (q + 8) 4
  if (tail + 2 ^ 32 - head) % 2 ^ 32 = 64 then
    pushLehr core (.write (cellsAt (q + 8) (leBytes 4 (min (lost + 1) 0xFFFFFFFF))) none)
  else andThen
    (pushLehr core (.write (cellsAt (d.base.toNat + 0x41200 + 32 * (tail % 64)) r.bytes) none))
    (pushLehr core (.write (cellsAt (q + 4) (leBytes 4 ((tail + 1) % 2 ^ 32))) none)))

/-- A job's fault held for a slot. -/
def holdFault (core slot : Nat) (j : Job) (cause : Nat) (value : Word) (write : Bool) : Micro :=
  modSlot core slot (fun sl => { sl with
    engineFaults := sl.engineFaults ++ [{ cause := cause, value := value, write := write, handle := j.handle, ctx := j.ctx }] })

/-- A job's fault, other than not present, on its way to a thread. -/
def deliverFault (j : Job) (cause : Nat) (value : Word) (write : Bool) : Micro := ask (fun s =>
  match absentEntry (coreAt s j.core) j.ctx with
  | some d =>
    let r := jobRecord j cause value true false write
    andThen (lehrRecord j.core d r) (postRecord r)
  | none =>
    match threadPlace s j.core j.serial with
    | .slot k => holdFault j.core k j cause value write
    | .parked p => holdFault j.core p.slot j cause value write
    | .gone => postRecord (jobRecord j cause value false true write))

/-- The endpoint that a port's binding names, let go: in its slot, or in its thread's image. -/
def dropEnd (core port : Nat) : Micro := ask (fun s =>
  match (portAt s core port).owner with
  | none => skip
  | some o =>
    let sl := slotAt s core o.slot
    if sl.occupied && sl.ctx == o.ctx && sl.q.get o.ep == some port then setEnd core o.slot o.ep none
    else match parkedAt (coreAt s core) o.slot o.ctx with
      | some p => imagePut core p.addr (0x210 + 8 * o.ep.val) (fun _ => 0)
      | none => skip)

/-- A stream that a fault ends: its port and endpoint are unbound (R243). -/
def endJobStream (j : Job) : Micro :=
  match j.body with
  | .copy c =>
    (match c.port with
     | some p => ask (fun s => onlyIf ((portAt s j.core p).stream == some j.n) (doAll [
         dropEnd j.core p,
         (match absentEntry (coreAt s j.core) j.ctx with
          | some d => onlyIf (portAt s j.core p).saved
              (pushLehr j.core (.write [(d.base.toNat + 0x41004 + 16 * p, (0 : Byte))] none))
          | none => skip),
         modPort j.core p (fun _ => Port.reset)]))
     | none => skip)
  | _ => skip

/-- A job that ends on a fault. -/
def failJob (j : Job) (cause : Nat) (value : Word) (write : Bool) : Micro := doAll [
  endJobStream j,
  endJob j (fun x => { x with faulted := true, cause := cause, value := value, write := write }),
  deliverFault j cause value write]

/-- A fault that a running job meets: not present sets it aside, any other ends it, and one of an MXLD or MXST is raised at
its bundle (R227). [log 44 DEDUCED] -/
def jobFault (order cause : Nat) (value : Word) (write : Bool) : Micro := ask (fun s =>
  match jobAt s order with
  | none => skip
  | some j =>
    if j.kind = 0 then andThen (endJob j id) (raiseC j.core j.slot { cause := cause, value := value, write := write })
    else if cause = 0x07 then andThen
      (postRecord (jobRecord j cause value false false write))
      (modJob order (fun x => { x with state := .aside, value := value, write := write }))
    else failJob j cause value write)

end Sys2Proof.Machine
end

