-- ==== Sys2Proof/Machine/Engine.lean ====
section
/-! DEFINITION. How an engine reads and writes for a job: its accesses are checked and translated as its thread's would be
(R180, R221, R236), routed by diversion (R320, R328), charged to its context's tokens (R333), and end in a fault of the job
(R243) or in a wait. A step of an engine is a program of accesses; it is performed whole, or not yet. -/

namespace Sys2Proof.Machine

/-- What a piece of an engine's step comes to: a value and the updates made, a wait (nothing is done yet), or a fault after
the updates made so far. -/
inductive Run (α : Type) where
  | done (v : α) (us : List Upd)
  | later
  | fault (cause : Nat) (value : Word) (write : Bool) (us : List Upd)

/-- A piece of an engine's step. -/
abbrev Eng (α : Type) := State → Run α

/-- A value, and nothing done. -/
def eGive {α : Type} (v : α) : Eng α := fun _ => .done v []

/-- A wait. -/
def eLater {α : Type} : Eng α := fun _ => .later

/-- A fault. -/
def eFail {α : Type} (cause : Nat) (value : Word) (write : Bool) : Eng α := fun _ => .fault cause value write []

/-- One piece, then another with its value, in the state the first leaves. -/
def eThen {α β : Type} (f : Eng α) (g : α → Eng β) : Eng β := fun s =>
  match f s with
  | .later => .later
  | .fault c v w us => .fault c v w us
  | .done a us =>
    match g a (applyAll s us) with
    | .later => .later
    | .fault c v w vs => .fault c v w (us ++ vs)
    | .done b vs => .done b (us ++ vs)

/-- Updates as a piece. -/
def eDo (f : Micro) : Eng Unit := fun s => .done () (f s)

/-- A piece chosen by looking at the state. -/
def eAsk {α : Type} (k : State → Eng α) : Eng α := fun s => k s s

/-- A piece for each element of a list, in order, and the values. -/
def eEach {α β : Type} (f : α → Eng β) : List α → Eng (List β)
  | [] => eGive []
  | a :: t => eThen (f a) (fun b => eThen (eEach f t) (fun bs => eGive (b :: bs)))

/-- For whom a party accesses memory: a job, by its name and what happened before its start, a fetch of a parison buffer, or a slot's
thread whose instruction the unit performs. -/
inductive Actor where
  | job (order : Nat) (clock : Clock)
  | fetch (clock : Clock)
  | slot (slot : Nat)
  deriving DecidableEq, Repr

/-- A party that accesses memory for a context and a partition of a core, in a mode. -/
structure Party where
  core : Nat
  ctx  : Nat
  part : Nat
  mode : Mode
  who  : Actor
  deriving DecidableEq, Repr

/-- The party of a job. -/
def Job.party (j : Job) : Party :=
  { core := j.core, ctx := j.ctx, part := j.part, mode := j.mode, who := .job j.order j.clock }

/-- The party of a slot's thread, in an instruction that a unit performs. -/
def slotAgent (s : State) (core slot : Nat) : Party :=
  { core := core, ctx := (slotAt s core slot).ctx, part := partOf (coreAt s core) slot, mode := (slotAt s core slot).mode,
    who := .slot slot }

/-- A fetch of a parison buffer as a reader: it sees what happened before its start (R95, R107). -/
def fetchReader (clock : Clock) : Reader := { party := 0, die := none, place := none, clock := clock, reads := [], since := 0 }

/-- A party as a reader. -/
def Party.reader (w : Party) (s : State) : Reader :=
  match w.who with
  | .job order clock => jobReader w.core order clock
  | .fetch clock => fetchReader clock
  | .slot slot => slotReader s w.core slot

/-- A party's next write. -/
def Party.writer (w : Party) (s : State) : Writer :=
  match w.who with
  | .job order _ => jobWriter s order
  | .fetch _ => unitWriter s 0 false
  | .slot slot => slotWriter s w.core slot (threadClock s w.core slot) none false

/-- A party as a walker of its context's tables. -/
def Party.walker (w : Party) (s : State) : Walker :=
  match w.who with
  | .slot slot => slotWalker s w.core slot
  | _ => partyWalker w.core w.ctx (w.reader s)

/-- Where an access of a party leads: a job's by the region rules of engines, and a thread's by its own (R75, R180). Cause 0 says that
it cannot be made yet. -/
def Party.reach (w : Party) (s : State) (addr : Word) (k : Access) : Except Nat (Target × Micro) :=
  match w.who with
  | .slot slot =>
    (match checkAddr s w.core slot addr 1 k with
     | .ok t => .ok (t, skip)
     | .fault c => .error c
     | .miss va => translateNow s w.core (w.walker s) w.mode va k
     | .landing _ => .error 0
     | .refetch _ _ _ f => .error ((f.map (fun x => x.1)).getD 0))
  | _ => Machine.reach s (w.walker s) w.core w.part w.mode addr 1 k

/-- The 64-byte pieces of a range of virtual addresses. -/
def piecesOf (addr : Word) (n : Nat) : List (Word × Nat) :=
  (linesOf (n / 64 + 2) addr.toNat n).map (fun p => (word p.1, p.2))

/-- What a party's read at a target brings it: a thread's orders what comes after it (R88, R94), and a job's, word by word, nothing
(R102). -/
def Party.saw (w : Party) (addr : Word) (t : Target) (n : Nat) (f : Found) : Micro :=
  match w.who with
  | .slot slot => readBy w.core slot addr t n f
  | _ => useSlice w.ctx addr.toNat

/-- A party as the reader of a step that is one with its write: it misses nothing that has been performed. -/
def Party.homeReader (w : Party) (s : State) : Reader := { w.reader s with since := s.order.count }

/-- A range inside one line read, as some reader finds it. -/
def eReadLine (w : Party) (r : State → Reader) (addr : Word) (n : Nat) : Eng (List Byte) := fun s =>
  match w.reach s addr .read with
  | .error 0 => .later
  | .error c => .fault c addr false []
  | .ok (t, f) =>
    if badBytes s w.ctx t n then .fault 0x0A addr false []
    else match routedRead s (r s) w.core w.ctx t n with
      | none => .later
      | some x => .done x.bytes (andThen f (w.saw addr t n x) s)

/-- Bytes read at a virtual address, as some reader finds them. -/
def eReadAs (w : Party) (r : State → Reader) (addr : Word) (n : Nat) : Eng (List Byte) :=
  eThen (eEach (fun p => eReadLine w r p.1 p.2) (piecesOf addr n)) (fun l => eGive l.flatten)

/-- Bytes read at a virtual address. -/
def eRead (w : Party) (addr : Word) (n : Nat) : Eng (List Byte) := eReadAs w w.reader addr n

/-- A number read. -/
def eNat (w : Party) (addr : Word) (n : Nat) : Eng Nat := eThen (eRead w addr n) (fun bs => eGive (leNat bs))

/-- A write that no link can carry is lost, and posted (R373): with the handle of its job and the slot that issued it (R304). -/
def lostEngineWrite (w : Party) (addr : Word) : Micro := ask (fun s =>
  let post := fun (handle : Nat) (who : Word) =>
    postRecord { cause := 0x0A, flags := recordFlags false false false true true, wait := 0, handle := handle, value := addr,
                 pc := 0, who := who }
  match w.who with
  | .job order _ => (match jobAt s order with
    | some j => post j.handle j.who
    | none => skip)
  | .slot slot => post 0 (whoOf s w.core slot)
  | .fetch _ => skip)

/-- A range inside one line written. It waits while a store of its die to those bytes is on its way, and while it is held. -/
def eWriteLine (w : Party) (addr : Word) (bs : List Byte) : Eng Unit := fun s =>
  match w.reach s addr .write with
  | .error 0 => .later
  | .error c => .fault c addr true []
  | .ok (t, f) =>
    if unreachable s t then .done () (andThen f (lostEngineWrite w addr) s)
    else if dieBusy s (dieOf w.core) (locOf w.ctx t) bs.length then .later
    else match performWrite s w.ctx t (w.writer s) bs with
      | none => .later
      | some g => .done () (doAll [f, countWrite (w.writer s), g, touchAll (keyOf t) bs.length] s)

/-- Bytes written at a virtual address, in ascending order. -/
def eWrite (w : Party) (addr : Word) (bs : List Byte) : Eng Unit :=
  eThen (eEach (fun p => eWriteLine w p.1 ((bs.drop (p.1 - addr).toNat).take p.2)) (piecesOf addr bs.length))
    (fun _ => eGive ())

/-! ## Tokens (R333) -/

/-- A range that a step is going to access. -/
structure Span where
  addr : Word
  len  : Nat
  kind : Access
  deriving DecidableEq, Repr

/-- The way out of a range for a job: its lines' tokens are paid as far as they can be. The result says whether all of them
are, the lines paid, and the updates. A range that will fault is left to its access. [log 22 DEDUCED] -/
def payLines (w : Party) : List (Word × Nat × Access) → List Nat → State → Bool × List Nat × List Upd
  | [], paid, _ => (true, paid, [])
  | (addr, _, k) :: t, paid, s =>
    match w.reach s addr k with
    | .error c => (decide (c ≠ 0), paid, [])
    | .ok (tgt, f) =>
      let line := lineOf (keyOf tgt)
      if unreachable s tgt || paid.contains line then payLines w t paid s
      else match payOut s w.core w.ctx tgt (setsDirty k) with
        | none => (false, paid, [])
        | some g =>
          let us := andThen f g s
          let (ok, paid2, vs) := payLines w t (line :: paid) (applyAll s us)
          (ok, paid2, us ++ vs)

/-- A step of a job: what it accesses is paid for first, and once all is paid it is performed. Its fault is the job's. [log 22 DEDUCED] -/
def jobStep (order : Nat) (spans : Job → State → List Span) (f : Job → Eng Unit) : Micro := ask (fun s =>
  match jobAt s order with
  | none => skip
  | some j =>
    let lines := (spans j s).flatMap (fun x => (piecesOf x.addr x.len).map (fun p => (p.1, p.2, x.kind)))
    let (ok, paid, us) := payLines j.party lines j.paid s
    let pay : Micro := fun _ => us
    if !ok then andThen pay (modJob order (fun x => { x with paid := paid }))
    else
      match f j (applyAll s us) with
      | .later => andThen pay (modJob order (fun x => { x with paid := paid }))
      | .done _ vs => doAll [pay, fun _ => vs, modJob order (fun x => { x with paid := [] })]
      | .fault c v w vs => doAll [pay, fun _ => vs, modJob order (fun x => { x with paid := [] }), jobFault order c v w])

/-! ## Elements in memory (R45, R50) -/

/-- Bytes of `n` elements of a format, whole LG6 groups. -/
def bytesFor (f : Elem) (n : Nat) : Nat := if f = .lg6 then (n + 3) / 4 * 3 else n * (laneBits f / 8)

/-- The codes that bytes hold. -/
def elemsOf (f : Elem) (bs : List Byte) : List Nat :=
  if f = .lg6 then
    (chunks 3 bs).flatMap (fun g => [leNat g % 64, leNat g / 64 % 64, leNat g / 4096 % 64, leNat g / 262144 % 64])
  else (chunks (laneBits f / 8) bs).map leNat

/-- The bytes of codes. -/
def bytesOf (f : Elem) (l : List Nat) : List Byte :=
  if f = .lg6 then
    (chunks 4 l).flatMap (fun g =>
      leBytes 3 (g.getD 0 0 + g.getD 1 0 * 64 + g.getD 2 0 * 4096 + g.getD 3 0 * 262144))
  else l.flatMap (leBytes (laneBits f / 8))

/-- The value of an element under a scale byte; 255 marks a NaN block of a group (R53). -/
def scaledVal (f : Elem) (core group sc b : Nat) : Val :=
  if sc = 255 then createdNaN core group
  else if f = .lg6 then lgVal b sc
  else match elemVal f b with
    | .num neg m e => .num neg m (e + (sc : Int) - 127)
    | v => v

end Sys2Proof.Machine
end

