-- ==== Sys2Proof/Machine/Matrix.lean ====
section
/-! DEFINITION. Rings (R76, R77, R230–R232) and the matrix engine (R217–R229). -/

namespace Sys2Proof.Machine

/-! ## Rings (R76, R77) -/

/-- A ring of a context on a core; none when it is unloaded. -/
def ringAt (s : State) (core ctx n : Nat) : Option Ring :=
  (residentOf (coreAt s core) ctx).bind (fun r => r.rings.toList.getD n none)

/-- A ring replaced. -/
def setRing (core ctx n : Nat) (v : Ring) : Micro := modResident core ctx (fun r =>
  if h : n < 16 then { r with rings := r.rings.set n (some v) h } else r)

/-- Tiles held. -/
def Ring.occ (r : Ring) : Nat := (r.tail + 2 * r.count - r.head) % (2 * r.count)

/-- The offset of a tile index. -/
def Ring.tile (r : Ring) (i : Nat) : Nat := r.base + i % r.count * r.size

/-- A mark of a tile: slot, stores and clock. -/
abbrev TileMark := Nat × Nat × Clock

/-- A ring after pushes, whose tiles take a mark, and pops. [log 82 DEDUCED] -/
def Ring.advance (r : Ring) (push pop : Nat) (mark : TileMark) : Ring :=
  let r2 := { r with tail := (r.tail + push) % (2 * r.count), head := (r.head + pop) % (2 * r.count) }
  let marks := r.marks ++ List.replicate push mark
  { r2 with marks := marks.drop (marks.length - r2.occ) }

/-- The mark of the tile at the head; none of a tile that RINGSET has found in the ring. [log 82 DEDUCED] -/
def Ring.headMark (r : Ring) : Option TileMark := if r.marks.length = r.occ then r.marks.head? else none

/-- A count of tiles is a power of two from 1 to 64. -/
def ringCountOk (n : Nat) : Bool := [1, 2, 4, 8, 16, 32, 64].contains n

/-- A range of local offsets lies in banks of one partition. -/
def banksOwned (c : Core) (part off n : Nat) : Bool :=
  (List.range 16).all (fun b => !overlaps off n (b * 0x4000) 0x4000 || bankPart c b == part)

/-- A ring record that R76 accepts. -/
def ringOf (c : Core) (part : Nat) (bs : List Byte) : Option Ring :=
  let base := fieldAt bs 0 4
  let size := fieldAt bs 4 4
  let count := fieldAt bs 8 2
  let head := fieldAt bs 10 2
  let tail := fieldAt bs 12 2
  if base % 256 = 0 ∧ size % 256 = 0 ∧ 256 ≤ size ∧ size ≤ 0x10000 ∧ ringCountOk count = true ∧ head < 2 * count ∧
      tail < 2 * count ∧ base + size * count ≤ 0x40000 ∧ banksOwned c part base (size * count) = true ∧
      fieldAt bs 14 2 = 0 then
    some { base := base, size := size, count := count, head := head, tail := tail, marks := [] }
  else none

/-- Where a job's operand comes from (Table 10.1). -/
inductive Feed where
  | fed (n : Nat)
  | soft (n : Nat)
  | direct
  deriving DecidableEq, Repr

/-- A ring field. -/
def feedOf (v : Nat) : Option Feed :=
  if v < 0x10 then some (.fed v) else if 0x80 ≤ v ∧ v < 0x90 then some (.soft (v - 0x80))
  else if v = 0xFF then some .direct else none

/-- The ring an operand uses. -/
def Feed.ring : Feed → Option Nat
  | .fed n => some n
  | .soft n => some n
  | .direct => none

/-- A matrix job's operand feeds. -/
def MatJob.feeds (m : MatJob) : List Feed := [m.shape.ringA, m.shape.ringB].filterMap feedOf

/-- An unfinished job of a context on a core has a feed that a test accepts. -/
def feedInUse (s : State) (core ctx : Nat) (f : Feed → Bool) : Bool :=
  (unfinished s core ctx).any (fun j => match j.body with
    | .matrix m => m.feeds.any f
    | _ => false)

/-- An unfinished job names a ring. -/
def ringBusy (s : State) (core ctx n : Nat) : Bool := feedInUse s core ctx (fun f => f.ring == some n)

/-- RINGSET (R230). [log 8 DEDUCED] -/
def execRingset (a n : Fin 32) (s : State) : Host.Outcome State Fault Refusal :=
  cWord s (fun core slot s =>
    let sl := slotAt s core slot
    if 16 ≤ n.val then .illegal sl 0x04
    else withStruct core slot s (gRead sl a) 16 16 (fun bs =>
      match ringOf (coreAt s core) (partOf (coreAt s core) slot) bs with
      | none => .illegal sl 0x04
      | some r =>
        if ringBusy s core sl.ctx n.val then .again (.cond (.ringFree n.val)) 0
        else .act (andThen (setRing core sl.ctx n.val r) (finishPlain core slot))))

/-- RINGADV (R231). [log 82 DEDUCED] -/
def execRingadv (a n : Fin 32) (s : State) : Host.Outcome State Fault Refusal :=
  cWord s (fun core slot s =>
    let sl := slotAt s core slot
    let v := gRead sl a
    let push := bitsNat v 7 0
    let pop := bitsNat v 15 8
    match ringAt s core sl.ctx n.val with
    | none => .illegal sl 0x04
    | some r =>
      if 16 ≤ n.val ∨ bitsNat v 63 16 ≠ 0 ∨ r.count < r.occ + push ∨ r.occ + push < pop ∨
          feedInUse s core sl.ctx (fun f => f == .fed n.val) = true then .illegal sl 0x04
      else .act (andThen
        (setRing core sl.ctx n.val (r.advance push pop (slot, sl.sbIn, releaseClock s core slot)))
        (finishPlain core slot)))

/-- RINGQ's result (Table 10.3). -/
def ringWord (s : State) (core ctx n : Nat) : Word :=
  match ringAt s core ctx n with
  | none => 0
  | some r => word (bitIf (ringBusy s core ctx n) 55 + r.occ % 128 * 2 ^ 48 + r.count * 2 ^ 32 + r.tail * 2 ^ 16 + r.head)

/-- RINGQ (R232). -/
def execRingq (d n : Fin 32) (s : State) : Host.Outcome State Fault Refusal :=
  cWord s (fun core slot s =>
    let sl := slotAt s core slot
    if 16 ≤ n.val then .illegal sl 0x04
    else .act (finishBundle core slot (fun x => gWrite x d (ringWord s core sl.ctx n.val)) none))

/-! ## Shape records (R219, R220) -/

/-- A shape record's fields. -/
def shapeOf (record : Word) (bs : List Byte) : Shape :=
  { record := record, a := word (fieldAt bs 0 8), b := word (fieldAt bs 8 8), c := word (fieldAt bs 0x10 8),
    aStride := fieldAt bs 0x18 4, bStride := fieldAt bs 0x1C 4, cStride := fieldAt bs 0x20 4, groups := fieldAt bs 0x24 4,
    m := fieldAt bs 0x28 2, n := fieldAt bs 0x2A 2, ringA := fieldAt bs 0x2C 1, ringB := fieldAt bs 0x2D 1,
    acc := fieldAt bs 0x2E 1, flags := BitVec.ofNat 8 (fieldAt bs 0x2F 1), cFormat := fieldAt bs 0x30 1 }

/-- The element format of a descriptor. -/
def fdElem (fd : Word) : Option Elem := elemOf (bitsNat fd 3 0)

/-- The formats of a job: A's, B's, the accumulator's, and the group size (R57, R220 item 2). -/
def matFormats (fdA fdB : Word) : Option (Elem × Elem × Elem × Nat) :=
  match fdElem fdA, fdElem fdB, elemOf (bitsNat fdA 7 4) with
  | some fa, some fb, some acc =>
    (match classOf fa, classOf fb with
     | some (ka, n, code), some (kb, _, _) =>
       if ka = kb ∧ bitsNat fdA 7 4 = code then some (fa, fb, acc, n) else none
     | _, _ => none)
  | _, _, _ => none

/-- Bytes of a row of a panel (R221). -/
def panelRow (f : Elem) : Nat := bytesFor f 32

/-- A ring field that R220 accepts for a format. -/
def feedOk (s : State) (core ctx v : Nat) (f : Elem) : Bool :=
  match feedOf v with
  | none => false
  | some fd =>
    match fd.ring with
    | none => true
    | some n => match ringAt s core ctx n with
      | none => false
      | some r => decide (64 * panelRow f ≤ r.size)

/-- C's area in the scratchpad (flag [3]). -/
def cAreaOk (s : State) (core part : Nat) (h : Shape) (size : Nat) : Bool :=
  (List.range h.m).all (fun i =>
    let off := h.c.toNat + i * h.cStride
    decide (off + h.n * size ≤ 0x40000) && banksOwned (coreAt s core) part off (h.n * size))

/-- The record's fields are refused (R220 item 3): a format code past the four bits of R45 is one of them. [log 105 DESIGN CHOICE] -/
def shapeBad (s : State) (core ctx part : Nat) (h : Shape) (bs : List Byte) (fa fb : Elem) : Bool :=
  let store := bitAt h.flags 1
  let size := match elemOf h.cFormat with
    | some f => laneBits f / 8
    | none => 0
  decide (h.groups = 0 ∨ 0xFFFFFF < h.groups ∨ h.m = 0 ∨ 64 < h.m ∨ h.n = 0 ∨ 64 < h.n ∨ 3 < h.acc) ||
  bitsNat h.flags 7 4 != 0 || (bs.drop 0x31).any (fun b => b != 0) || decide (16 ≤ h.cFormat) ||
  (!store && h.cFormat != 0) || (store && (h.cFormat == 0xA || h.cFormat == 0xB)) ||
  (store && bitAt h.flags 3 && !cAreaOk s core part h size) || !feedOk s core ctx h.ringA fa ||
  !feedOk s core ctx h.ringB fb

/-! ## The queue (R217) -/

/-- The accumulator a job of the matrix engine names. -/
def engineAcc : JobBody → Option Nat
  | .matrix m => some m.shape.acc
  | .accLoad n _ _ => some n
  | .accStore n _ => some n
  | .accZero n _ => some n
  | _ => none

/-- Unfinished jobs of a flock's engine. -/
def engineJobs (s : State) (flock : Nat) : List Job :=
  s.jobs.filter (fun j => flockOf j.core == flock && (engineAcc j.body).isSome && j.state != .done)

/-- Jobs that hold an entry of the queue. [log 74 DEDUCED] -/
def queuedJobs (s : State) (flock : Nat) : List Job := (engineJobs s flock).filter (fun j => j.state == .queued)

/-- Entries of the queue. -/
def queueEntries : Nat := 32

/-- A starting instruction waits for an entry of the queue. -/
def withEntry (s : State) (core : Nat) (r : CRes) : CRes :=
  if queueEntries ≤ (queuedJobs s (flockOf core)).length then .again (.cond .engineRoom) 0 else r

/-- The random state of a job, and the slot's own 16 steps on, in RSR (R61, R235): its A word's own advance is lost, as R156
loses it for WRC. [log 60 DEDUCED] -/
def takeSeed (core slot : Nat) (mode : Nat) : Micro := ask (fun s =>
  let sl := slotAt s core slot
  let seed := word (draw (sl.ctl.rseed.toNat % 2 ^ 32)).2
  let set := modSlot core slot (fun x => { x with ctl := { x.ctl with rseed := seed } })
  if mode ≠ 5 then skip
  else match companionOut core sl with
    | none => set
    | some o => match o.kind with
      | .now => andThen set (modSlot core slot (fun x =>
          { x with issue := x.issue.map (fun i => { i with aOver := some (o.eff.keepSeed true) }) }))
      | k => andThen set (startUnit core slot (o.eff.keepSeed true) k))

/-- The checks of MXMA and MXMAB (R220), and the job they give. -/
def withShape (core slot : Nat) (a : Fin 32) (s : State) (k : JobBody → CRes) : CRes :=
  let sl := slotAt s core slot
  let record := gRead sl a
  withStruct core slot s record 64 64 (fun bs =>
    let h := shapeOf record bs
    let fdA := descriptorAt sl 0
    let fdB := descriptorAt sl 1
    match matFormats fdA fdB with
    | none => .illegal sl 0x04
    | some (fa, fb, _, _) =>
      if 12 ≤ h.cFormat ∧ h.cFormat < 16 then .illegal sl 0x04
      else if shapeBad s core sl.ctx (partOf (coreAt s core) slot) h bs fa fb then .fault (Trouble.of 0x0C record)
      else withRoom s core slot (withEntry s core (k (.matrix
        { shape := h, fdA := fdA, fdB := fdB, mode := modeOf sl, step := 0, fedA := 0, fedB := 0,
          rowsA := 0, rowsB := 0, opened := false, rseed := sl.ctl.rseed, failed := false, rows := 0 }))))

/-- MXMA (R226). -/
def execMxma (d a : Fin 32) (s : State) : Host.Outcome State Fault Refusal :=
  cWord s (fun core slot s => withShape core slot a s (fun b =>
    let h := nextHandle s core slot 1
    .act (doAll [startJob core slot 1 b, takeSeed core slot (modeOf (slotAt s core slot)),
      finishBundle core slot (fun x => gWrite x d h) none])))

/-- MXMAB (R226). -/
def execMxmab (a : Fin 32) (s : State) : Host.Outcome State Fault Refusal :=
  cWord s (fun core slot s => withShape core slot a s (fun b =>
    let n := startedJobs s core (slotAt s core slot).ctx
    .act (doAll [startJob core slot 1 b, takeSeed core slot (modeOf (slotAt s core slot)),
      waitFor core slot (.job (n % 65536)) 0])))

/-- The checks of MXLD and MXST, in the order of Table 9.1: what is found later is raised while they transfer (R227). -/
def transferWord (n : Fin 32) (a : Fin 32) (body : Slot → Word → JobBody) (core slot : Nat) (s : State) : CRes :=
  let sl := slotAt s core slot
  let addr := gRead sl a
  let region := regionOf addr.toNat
  if 4 ≤ n.val then .illegal sl 0x04
  else if region = .reserved ∨ (sl.pair = .execute ∧ (region = .pad ∨ region = .parison ∨ region = .aperture)) then
    .fault (Trouble.of 0x06 addr)
  else if addr.toNat % 256 ≠ 0 then .fault (Trouble.of 0x05 addr)
  else withEntry s core (.access (andThen (startTransfer core slot (body sl addr)) (waitFor core slot (.transfer s.tick) 0)))

/-- MXLD (R227). [log 8 DEDUCED] -/
def execMxld (a n : Fin 32) (s : State) : Host.Outcome State Fault Refusal :=
  cWord s (transferWord n a (fun sl addr => .accLoad n.val addr (bitsNat (descriptorAt sl 0) 7 4)))

/-- MXST (R227). -/
def execMxst (a n : Fin 32) (s : State) : Host.Outcome State Fault Refusal :=
  cWord s (transferWord n a (fun _ addr => .accStore n.val addr))

/-- MXZERO (R228). -/
def execMxzero (n : Fin 32) (s : State) : Host.Outcome State Fault Refusal :=
  cWord s (fun core slot s =>
    let sl := slotAt s core slot
    if 4 ≤ n.val then .illegal sl 0x04
    else withRoom s core slot (withEntry s core (.act (andThen
      (startJob core slot 1 (.accZero n.val (bitsNat (descriptorAt sl 0) 7 4))) (finishPlain core slot)))))

/-- MXQ's result (Table 10.2). -/
def queueWord (s : State) (core ctx : Nat) : Word :=
  let un := unfinished s core ctx
  let queued := queuedJobs s (flockOf core)
  let mine := (queued.filter (fun j => j.core == core)).length
  let oldest := match un with
    | [] => startedJobs s core ctx
    | j :: t => t.foldl (fun m x => min m x.n) j.n
  word (oldest % 65536 * 2 ^ 32 + min un.length jobLimit * 2 ^ 16 + min mine queueEntries * 2 ^ 8 +
    (queueEntries - queued.length))

/-- MXQ (R229). -/
def execMxq (d : Fin 32) (s : State) : Host.Outcome State Fault Refusal :=
  cWord s (fun core slot s =>
    .act (finishBundle core slot (fun x => gWrite x d (queueWord s core (slotAt s core slot).ctx)) none))

/-! ## Accumulators (R218) -/

/-- The key of an accumulator of a flock. -/
def accKey (core part n : Nat) : Nat := core % 8 * 16 + part * 4 + n

/-- The accumulator a job names. -/
def jobAccum (s : State) (j : Job) (n : Nat) : Accum :=
  lookup Accum.reset (flockAt s (flockOf j.core)).accs (accKey j.core j.part n)

/-- It replaced. -/
def setAccum (j : Job) (n : Nat) (v : Accum) : Micro :=
  modFlock (flockOf j.core) (fun f => { f with accs := assign f.accs (accKey j.core j.part n) v })

/-- The format an ACC code names (Table 3.5). -/
def accTag (code : Nat) : AccFormat := if code = 4 then .fp64 else if code = 2 then .int32 else .fp32

/-- The element format of an accumulator format. -/
def AccFormat.elem : AccFormat → Elem
  | .fp32 => .fp32
  | .fp64 => .fp64
  | .int32 => .int32

/-- An accumulator of +0, owned by a context. -/
def zeroAccum (ctx code : Nat) : Accum := { vals := [], tag := accTag code, owner := some ctx }

/-- A value of an accumulator. -/
def Accum.at (a : Accum) (i j : Nat) : Nat := (a.vals.getD (i * 64 + j) 0).toNat

/-- An accumulator with its first `m` rows and `n` columns replaced. -/
def Accum.with (a : Accum) (m n : Nat) (f : Nat → Nat → Nat) : Accum :=
  { a with vals := (List.range 64).flatMap (fun i => (List.range 64).map (fun j =>
      if i < m ∧ j < n then word (f i j) else word (a.at i j))) }

/-! ## The engine takes a job (R217, R218, R223) -/

/-- A matrix job has used its rings or its panels. -/
def MatJob.begun (m : MatJob) : Bool := decide (0 < m.step + m.fedA + m.fedB + m.rowsA + m.rowsB)

/-- The rings a job names. -/
def jobRings (j : Job) : List Nat :=
  match j.body with
  | .matrix m => m.feeds.filterMap Feed.ring
  | _ => []

/-- A job waits for one of its core and context that has begun to use its ring (R222). -/
def ringHeld (all : List Job) (j : Job) : Bool := all.any (fun k =>
  k.core == j.core && k.ctx == j.ctx && k.order != j.order &&
  (match k.body with
   | .matrix m => m.begun || k.state == .running
   | _ => false) && (jobRings k).any (fun n => (jobRings j).contains n))

/-- A job waits for an earlier one: for one that names its accumulator (R217), or for its ring. [log 91 DEDUCED] -/
def heldBehind (all : List Job) (j : Job) : Bool := ringHeld all j || all.any (fun k =>
  k.core == j.core && k.ctx == j.ctx && decide (k.order < j.order) && engineAcc k.body == engineAcc j.body)

/-- The job that a flock's engine is to take next, once the one that it runs has ended: the oldest queued job of the first core, after the
one served last, that has one which no job set aside holds up (R217). [log 91 DEDUCED] -/
def oldestQueued (s : State) (flock : Nat) : Option Job :=
  let all := (engineJobs s flock).filter (fun j => j.state != .running)
  ((List.range 8).map (fun k => flock * 8 + ((flockAt s flock).mxLast + 1 + k) % 8)).findSome? (fun core =>
    (sortOn (fun (j : Job) => j.order) (all.filter (fun j => j.core == core))).find? (fun j =>
      j.state == .queued && !heldBehind all j))

/-- It taken, once what its start releases has left (R100). [log 91 DEDUCED] -/
def nextEngineJob (s : State) (flock : Nat) : Option Job :=
  match oldestQueued s flock with
  | some j => if j.ready s then some j else none
  | none => none

/-- The job a flock's engine runs. -/
def runningJob (s : State) (flock : Nat) : Option Job := (engineJobs s flock).find? (fun j => j.state == .running)

/-- A matrix job's own part of a job changed. -/
def modMat (order : Nat) (f : MatJob → MatJob) : Micro := modJob order (fun j => match j.body with
  | .matrix m => { j with body := .matrix (f m) }
  | _ => j)

/-- A matrix job's accumulator at its start (R223), or a fault of its format. One that starts again after a fault has it already, unless
another context's job has become its owner meanwhile: the values are then lost (R218). -/
def openAccum (j : Job) (m : MatJob) : Micro := ask (fun s =>
  let a := jobAccum s j m.shape.acc
  let code := bitsNat m.fdA 7 4
  if m.opened && a.owner == some j.ctx then skip
  else andThen (modMat j.order (fun x => { x with opened := true }))
    (if a.owner ≠ some j.ctx ∨ bitAt m.shape.flags 0 = false then setAccum j m.shape.acc (zeroAccum j.ctx code)
     else onlyIf (a.tag != accTag code) (jobFault j.order 0x04 m.shape.record false)))

/-- An MXST's accumulator at its start: another context's values are lost, and its own are +0 of the tag's format (R218, R227). -/
def claimAccum (j : Job) (n : Nat) : Micro := ask (fun s =>
  let a := jobAccum s j n
  onlyIf (a.owner != some j.ctx) (setAccum j n { a with vals := [], owner := some j.ctx }))

/-- MATRIX_JOB_START. -/
def execMatrixJobStart (flock : Nat) (s : State) : Host.Outcome State Fault Refusal :=
  flockStep s flock (ask (fun s =>
    match runningJob s flock, nextEngineJob s flock with
    | none, some j => doAll [
        modJob j.order (fun x => { x with state := .running }),
        modFlock flock (fun f => { f with mxLast := j.core % 8 }),
        (match j.body with
         | .matrix m => openAccum j m
         | .accStore n _ => claimAccum j n
         | _ => skip)]
    | _, _ => skip))

/-! ## Panels (R221) -/

/-- An operand of a job: A or B. -/
structure Operand where
  isA    : Bool
  feed   : Feed
  fmt    : Elem
  addr   : Word
  stride : Nat
  rows   : Nat
  fd     : Word
  deriving DecidableEq, Repr

/-- The operands of a job. -/
def MatJob.operands (m : MatJob) : List Operand :=
  match matFormats m.fdA m.fdB, feedOf m.shape.ringA, feedOf m.shape.ringB with
  | some (fa, fb, _, _), some ra, some rb =>
    [{ isA := true, feed := ra, fmt := fa, addr := m.shape.a, stride := m.shape.aStride, rows := m.shape.m, fd := m.fdA },
     { isA := false, feed := rb, fmt := fb, addr := m.shape.b, stride := m.shape.bStride, rows := m.shape.n, fd := m.fdB }]
  | _, _, _ => []

/-- The address of a row of an operand's panel of a step in memory. -/
def Operand.rowAddr (o : Operand) (step i : Nat) : Word := o.addr + word (i * o.stride) + word (step * panelRow o.fmt)

/-- The rows of a panel in memory. -/
def Operand.memRows (o : Operand) (step : Nat) : List Word := (List.range o.rows).map (o.rowAddr step)

/-- A ring's head tile may be read: it holds one, and the stores that its push releases have left their buffer. [log 82 DEDUCED] -/
def tileReady (s : State) (core : Nat) (r : Ring) : Bool :=
  decide (0 < r.occ) && r.headMark.all (fun m => decide (m.2.1 ≤ (slotAt s core m.1).sbOut))

/-- The rows of a panel where the engine reads them; none while the ring has no tile for it. -/
def Operand.stepRows (o : Operand) (s : State) (j : Job) (step : Nat) : Option (List Word) :=
  match o.feed.ring with
  | none => some (o.memRows step)
  | some n =>
    match ringAt s j.core j.ctx n with
    | none => none
    | some r =>
      if tileReady s j.core r then some ((List.range o.rows).map (fun i => word (r.tile r.head + i * panelRow o.fmt)))
      else none

/-- What a job acquires with the head tiles of its rings (R231). [log 82 DEDUCED] -/
def MatJob.tileClock (m : MatJob) (s : State) (j : Job) : Clock := m.operands.foldl (fun c o =>
  match (o.feed.ring.bind (ringAt s j.core j.ctx)).bind Ring.headMark with
  | some t => Clock.join c t.2.2
  | none => c) j.clock

/-- The addresses of an operand's scale bytes in a step; none when it is not scaled. -/
def Operand.scaleAddrs (o : Operand) (groups step : Nat) : List Word :=
  if bitAt o.fd 8 then
    (List.range o.rows).map (fun i => word (bitsNat o.fd 55 12 * 4096) + word (i * groups + step))
  else []

/-- The operands whose panels the copy unit may fetch for a job: those of engine-fed rings with room. -/
def feedable (s : State) (j : Job) (m : MatJob) : List (Operand × Nat × Ring) :=
  m.operands.filterMap (fun o =>
    match o.feed with
    | .fed n =>
      (match ringAt s j.core j.ctx n with
       | some r =>
         if (if o.isA then m.fedA else m.fedB) < m.shape.groups && decide (r.occ < r.count) then some (o, n, r)
         else none
       | none => none)
    | _ => none)

/-- A panel's fetch moved on by some rows; the last of them pushes it. -/
def MatJob.fed (m : MatJob) (o : Operand) (rows : Nat) (last : Bool) : MatJob :=
  match o.isA, last with
  | true, false => { m with rowsA := m.rowsA + rows }
  | true, true => { m with rowsA := 0, fedA := m.fedA + 1 }
  | false, false => { m with rowsB := m.rowsB + rows }
  | false, true => { m with rowsB := 0, fedB := m.fedB + 1 }

/-- One turn of the copy unit for a panel: up to 256 bytes of its rows go into the ring's tile, and the last of them push it (R221,
R236). -/
def fetchPanel (j : Job) (m : MatJob) (o : Operand) (n : Nat) (r : Ring) : Micro :=
  let size := panelRow o.fmt
  let from_ := if o.isA then m.rowsA else m.rowsB
  let rows := ((o.memRows (if o.isA then m.fedA else m.fedB)).drop from_).take (256 / size)
  let last := decide (o.rows ≤ from_ + rows.length)
  jobStep j.order (fun _ _ => rows.map (fun a => { addr := a, len := size, kind := .read })) (fun j =>
    eThen (eEach (fun a => eRead j.party a size) rows) (fun l =>
      eThen (eWrite j.party (word (r.tile r.tail + from_ * size)) l.flatten) (fun _ =>
        eDo (andThen (onlyIf last (setRing j.core j.ctx n (r.advance 1 0 (0, 0, []))))
          (modMat j.order (fun x => x.fed o rows.length last))))))

/-! ## A step (R223, R65, R66) -/

/-- A product of elements under their scales added to a group. -/
def scaledTerm (fa fb : Elem) (core group sa sb : Nat) (g : Gather) (x y : Nat) : Gather :=
  if fa = .lg6 ∧ sa ≠ 255 ∧ sb ≠ 255 then g.addVal (lgProduct x y sa sb)
  else g.addProduct (scaledVal fa core group sa x) (scaledVal fb core group sb y)

/-- GroupAdd of R223: one accumulator value after one group. -/
def groupAdd (acc fa fb : Elem) (core group mode : Nat) (sat : Bool) (rnd v sa sb : Nat) (l : List (Nat × Nat)) : Nat :=
  if isInt acc then (groupStep acc fa fb core group mode sat rnd v l).bits
  else
    let g := l.foldl (fun g x => scaledTerm fa fb core (group % 1024) sa sb g x.1 x.2)
      (Gather.start.addVal (elemVal acc v))
    ((g.pre core (group % 1024) mode).finish acc sat mode rnd).bits

/-- A panel as read: each row's elements and scale. -/
abbrev Panel := List (List Nat × Nat)

/-- One group over the tile, in the order of R223's loops: the values and the random state. -/
def groupTile (acc fa fb : Elem) (core group mode : Nat) (sat : Bool) (n k : Nat) :
    List ((List Nat × Nat) × (List Nat × Nat) × Nat) → Nat → List Nat × Nat
  | [], seed => ([], seed)
  | (x, y, v) :: t, seed =>
    let (rnd, s1) := if isFloat acc then drawIf mode seed else (0, seed)
    let pairs := ((x.1.drop (k * n)).take n).zip ((y.1.drop (k * n)).take n)
    let r := groupAdd acc fa fb core group mode sat rnd v x.2 y.2 pairs
    let (rs, s2) := groupTile acc fa fb core group mode sat n k t s1
    (r :: rs, s2)

/-- The groups of a step, ascending. -/
def groupsTile (acc fa fb : Elem) (core mode : Nat) (sat : Bool) (n first : Nat) (pairs : List ((List Nat × Nat) ×
    (List Nat × Nat))) : List Nat → List Nat → Nat → List Nat × Nat
  | [], vs, seed => (vs, seed)
  | k :: t, vs, seed =>
    let (ws, s1) := groupTile acc fa fb core (first + k) mode sat n k
      ((pairs.zip vs).map (fun p => (p.1.1, p.1.2, p.2))) seed
    groupsTile acc fa fb core mode sat n first pairs t ws s1

/-- The valid values of an accumulator after a step, and the random state. -/
def stepTile (core : Nat) (m : MatJob) (acc : Accum) (a b : Panel) : List Nat × Nat :=
  match matFormats m.fdA m.fdB with
  | none => ([], 0)
  | some (fa, fb, f, n) =>
    let pairs := a.flatMap (fun x => b.map (fun y => (x, y)))
    let vs := (List.range m.shape.m).flatMap (fun i => (List.range m.shape.n).map (fun j => acc.at i j))
    groupsTile f fa fb core m.mode (bitAt m.fdA 9) n (32 * m.step / n) pairs (List.range (32 / n)) vs
      (m.rseed.toNat % 2 ^ 32)

/-- A panel read: its rows and scales. -/
def readPanel (j : Job) (o : Operand) (groups step : Nat) (rows : List Word) : Eng Panel :=
  eThen (eEach (fun a => eThen (eRead j.party a (panelRow o.fmt)) (fun bs => eGive (elemsOf o.fmt bs))) rows) (fun l =>
    eThen (eEach (fun a => eNat j.party a 1) (o.scaleAddrs groups step)) (fun sc =>
      eGive (l.zip (if sc.isEmpty then List.replicate l.length 127 else sc))))

/-- The rings of a job's operands popped; one that is named for both is popped for each, and both have read the tile at its head. [log 106 DESIGN CHOICE] -/
def popRings (j : Job) (m : MatJob) : Micro := doAll (m.operands.map (fun o => ask (fun s =>
  match o.feed.ring with
  | none => skip
  | some n => match ringAt s j.core j.ctx n with
    | none => skip
    | some r => setRing j.core j.ctx n (r.advance 0 1 (0, 0, [])))))

/-- The NaN of a failed step (R224); an INT32 accumulator holds none, and its values are free. -/
def failedAccum (s : State) (j : Job) (m : MatJob) : Accum :=
  let a := jobAccum s j m.shape.acc
  let n := match matFormats m.fdA m.fdB with
    | some (_, _, _, n) => n
    | none => 1
  let f := a.tag.elem
  if isInt f then a.with m.shape.m m.shape.n (fun i k => (Config.freeWord (s.tick + i * 64 + k)).toNat % 2 ^ 32)
  else a.with m.shape.m m.shape.n (fun _ _ => nanBits f false true (createdPayload j.core (32 * m.step / n % 1024)))

/-- The counter advanced by more than one. -/
def bumpBy (n : Nat) : Micro := fun s => [.tick (s.tick + n)]

/-- A report of the engine (R224). -/
def checksumReport (j : Job) (m : MatJob) (cause : Nat) : Micro := postRecord
  { cause := cause, flags := recordFlags false false false true false, wait := 0, handle := j.handle,
    value := m.shape.record, pc := 0, who := j.who }

/-- What the engine makes of a step, its panels having been read. -/
def computeStep (j : Job) (m : MatJob) (a b : Panel) (mismatch rerun : Bool) : Micro := ask (fun s =>
  let check := bitAt m.shape.flags 2 && mismatch
  let acc := jobAccum s j m.shape.acc
  let (vs, seed) := stepTile j.core m acc a b
  doAll [
    onlyIf check (checksumReport j m 0x13),
    (if check && rerun then doAll [
       checksumReport j m 0x14,
       setAccum j m.shape.acc (failedAccum s j m),
       bumpBy 4096,
       modJob j.order (fun x => { x with status := 7 }),
       modMat j.order (fun x => { x with failed := true })]
     else doAll [
       setAccum j m.shape.acc (acc.with m.shape.m m.shape.n (fun i k => vs.getD (i * m.shape.n + k) 0)),
       modMat j.order (fun x => { x with rseed := word seed }),
       onlyIf check (modJob j.order (fun x => { x with status := 6 }))]),
    popRings j m,
    modMat j.order (fun x => { x with step := x.step + 1 })])

/-- A step of the running job. After a failed check the panels are popped without computing. -/
def matStep (j : Job) (m : MatJob) (mismatch rerun : Bool) : Micro := ask (fun s =>
  match m.operands with
  | [oa, ob] =>
    (match oa.stepRows s j m.step, ob.stepRows s j m.step with
     | some ra, some rb =>
       if m.failed then andThen (popRings j m) (modMat j.order (fun x => { x with step := x.step + 1 }))
       else
         let g := m.shape.groups
         let span := fun (o : Operand) (rows : List Word) =>
           rows.map (fun a => ({ addr := a, len := panelRow o.fmt, kind := .read } : Span)) ++
             (o.scaleAddrs g m.step).map (fun a => { addr := a, len := 1, kind := .read })
         jobStep j.order (fun _ _ => span oa ra ++ span ob rb) (fun j =>
           let j := { j with clock := m.tileClock s j }
           eThen (readPanel j oa g m.step ra) (fun a => eThen (readPanel j ob g m.step rb) (fun b =>
             eDo (andThen (modJob j.order (fun x => { x with clock := j.clock })) (computeStep j m a b mismatch rerun)))))
     | _, _ => skip)
  | _ => skip)

/-- MATRIX_STEP: `mismatch` is the verdict of the step's checksum, and `rerunMismatch` that of its rerun (R224). -/
def execMatrixStep (flock : Nat) (mismatch rerunMismatch : Bool) (s : State) : Host.Outcome State Fault Refusal :=
  flockStep s flock (ask (fun s =>
    match runningJob s flock with
    | some j => (match j.body with
      | .matrix m => onlyIf (decide (m.step < m.shape.groups)) (matStep j m mismatch rerunMismatch)
      | _ => skip)
    | none => skip))

/-! ## The end of a job (R223, R226, R227) -/

/-- A row of C: its bytes and the random state after it. -/
def cRow (a : Accum) (f : Elem) (sat : Bool) (mode i n seed : Nat) : List Nat × Nat :=
  let src := a.tag.elem
  (List.range n).foldl (fun (acc : List Nat × Nat) k =>
    let b := a.at i k
    if f = src then (acc.1 ++ [b], acc.2)
    else
      let (rnd, s1) := if roundsInto src f then drawIf mode acc.2 else (0, acc.2)
      (acc.1 ++ [(convert src f sat mode rnd 127 (elemVal src b)).bits], s1)) ([], seed)

/-- A row of C written. -/
def storeRow (m : MatJob) (f : Elem) (i : Nat) (j : Job) : Eng Unit := eAsk (fun s =>
  let seed := match (jobAt s j.order).map (fun x => x.body) with
    | some (.matrix x) => x.rseed.toNat % 2 ^ 32
    | _ => 0
  let (l, s1) := cRow (jobAccum s j m.shape.acc) f (bitAt m.fdA 9) m.mode i m.shape.n seed
  eThen (eWrite j.party (m.shape.c + word (i * m.shape.cStride)) (bytesOf f l)) (fun _ =>
    eDo (modMat j.order (fun x => { x with rows := x.rows + 1, rseed := word s1 }))))

/-- C stored, if it is to be, from the row at which the store stopped, and the job complete. -/
def matFinish (j : Job) (m : MatJob) : Micro :=
  match bitAt m.shape.flags 1, elemOf m.shape.cFormat with
  | true, some f =>
    let rows := (List.range m.shape.m).drop m.rows
    jobStep j.order
      (fun _ _ => rows.map (fun i =>
        { addr := m.shape.c + word (i * m.shape.cStride), len := bytesFor f m.shape.n, kind := .write }))
      (fun j => eThen (eEach (fun i => storeRow m f i j) rows) (fun _ => eDo (endJob j id)))
  | _, _ => endJob j id

/-- MATRIX_JOB_COMPLETE. -/
def execMatrixJobComplete (flock : Nat) (s : State) : Host.Outcome State Fault Refusal :=
  flockStep s flock (ask (fun s =>
    match runningJob s flock with
    | some j => (match j.body with
      | .matrix m => onlyIf (m.step == m.shape.groups) (matFinish j m)
      | _ => skip)
    | none => skip))

/-- The slot of a transfer goes on. -/
def wakeTransfer (j : Job) : Micro := ask (fun s =>
  match (slotAt s j.core j.slot).wait with
  | .transfer n => onlyIf (n == j.n) (andThen (acquireClock j.core j.slot (jobClock s j.order)) (finishPlain j.core j.slot))
  | _ => skip)

/-- Bytes of a value of an accumulator format. -/
def accBytes (t : AccFormat) : Nat := if t = .fp64 then 8 else 4

/-- A transfer made, its job ended and its slot woken, unless the A word of its bundle faults: then the job ends without it (R6, R113). [log 13 DEDUCED] -/
def endTransfer (j : Job) (run : Eng Unit) : Eng Unit := fun s =>
  match run s with
  | .later => .later
  | .fault c v w us => .fault c v w us
  | .done _ us =>
    let sl := slotAt s j.core j.slot
    match if sl.wait = .transfer j.n then companionFault j.core sl else none with
    | none => .done () (us ++ andThen (endJob j id) (wakeTransfer j) (applyAll s us))
    | some c => .done () (andThen (endJob j id) (raiseA j.core j.slot c (andThen
        (ask (fun s => match run s with
          | .done _ vs => fun _ => vs
          | _ => skip))
        (wakeTransfer j))) s)

/-- ACCUM_TRANSFER_COMPLETE (R227). -/
def execAccumTransferComplete (flock : Nat) (s : State) : Host.Outcome State Fault Refusal :=
  flockStep s flock (ask (fun s =>
    match runningJob s flock with
    | some j =>
      (match j.body with
       | .accLoad n addr code =>
         let size := accBytes (accTag code)
         jobStep j.order (fun _ _ => [{ addr := addr, len := 4096 * size, kind := .read }]) (fun j => endTransfer j
           (eThen (eRead j.party addr (4096 * size)) (fun bs => eDo (setAccum j n
             { vals := (chunks size bs).map (fun b => word (leNat b)), tag := accTag code, owner := some j.ctx }))))
       | .accStore n addr =>
         let a := jobAccum s j n
         let size := accBytes a.tag
         let v := fun (k : Nat) => (a.vals.getD k 0).toNat
         jobStep j.order (fun _ _ => [{ addr := addr, len := 4096 * size, kind := .write }]) (fun j => endTransfer j
           (eWrite j.party addr ((List.range 4096).flatMap (fun k => leBytes size (v k)))))
       | _ => skip)
    | none => skip))

/-- MXZERO_JOB (R228). -/
def execMxzeroJob (flock : Nat) (s : State) : Host.Outcome State Fault Refusal :=
  flockStep s flock (ask (fun s =>
    match runningJob s flock with
    | some j =>
      (match j.body with
       | .accZero n code => andThen (setAccum j n (zeroAccum j.ctx code)) (endJob j id)
       | _ => skip)
    | none => skip))

end Sys2Proof.Machine
end

