-- ==== Sys2Proof/Machine/Copy.lean ====
section
/-! DEFINITION. The copy unit (R233–R241): parameter blocks, multicast tables, conversion with scales, turns, streams and
completions. -/

namespace Sys2Proof.Machine

/-! ## Parameter blocks (R233, R234) -/

/-- A parameter block's fields. -/
def copyBlockOf (block : Word) (bs : List Byte) : CopyBlock :=
  let r := fieldAt bs 0x22 1
  let fl := fieldAt bs 0x38 8
  { block := block, src := word (fieldAt bs 0 8), dst := word (fieldAt bs 8 8), rows := fieldAt bs 0x10 4,
    elems := fieldAt bs 0x14 4, sStride := fieldAt bs 0x18 4, dStride := fieldAt bs 0x1C 4, sFormat := fieldAt bs 0x20 1,
    dFormat := fieldAt bs 0x21 1, mode := r % 8, sat := r / 8 % 2 == 1, completion := fieldAt bs 0x23 1,
    xfrid := BitVec.ofNat 32 (fieldAt bs 0x24 4), handler := word (fieldAt bs 0x28 8), table := word (fieldAt bs 0x30 8),
    sScaled := fl / 256 % 2 == 1, dScaled := fl / 512 % 2 == 1 }

/-- A format that R56 allows to be scaled. -/
def scalable : Elem → Bool
  | .bf16 | .fp16 | .e4m3 | .e5m2 | .lg6 => true
  | _ => false

/-- The size to which an element's address is aligned; LG6 counts as 1 byte. -/
def elemAlign (f : Elem) : Nat := if f = .lg6 then 1 else laneBits f / 8

/-- The copy instructions. -/
inductive CopyKind where
  | plain | stream | multicast
  deriving DecidableEq, Repr

/-- A block's fields are refused (R234 item 3), its formats being known. -/
def copyBad (kind : CopyKind) (b : CopyBlock) (bs : List Byte) (sf df : Elem) : Bool :=
  let fl := fieldAt bs 0x38 8
  decide (b.rows = 0 ∨ 0x100000 < b.rows ∨ b.elems = 0 ∨ 0x100000 < b.elems) ||
  ((sf == .lg6 || df == .lg6) && decide (b.elems % 4 ≠ 0)) ||
  decide (b.rows ≠ 1 ∧ b.dStride < bytesFor df b.elems) ||
  decide (5 < b.mode ∨ fieldAt bs 0x22 1 / 16 ≠ 0) ||
  (match kind with
   | .stream => b.completion != 1 || b.dst != 0
   | _ => b.completion != 0 && b.completion != 2) ||
  (if b.completion = 2 then b.handler == 0 || decide (b.handler.toNat % 4 ≠ 0) else b.handler != 0) ||
  decide (fl / 1024 ≠ 0) || (kind != .multicast && decide (fl % 256 ≠ 0)) || (b.sScaled && b.dScaled) ||
  (b.sScaled && !scalable sf) || (b.dScaled && !scalable df) ||
  decide (b.src.toNat % elemAlign sf ≠ 0 ∨ b.dst.toNat % elemAlign df ≠ 0)

/-- A code that R45 reserves; one past the four bits of a code is a field that R234 refuses. [log 105 DESIGN CHOICE] -/
def reservedCode (c : Nat) : Bool := decide (12 ≤ c ∧ c < 16)

/-- A copy's block read and checked. [log 105 DESIGN CHOICE] -/
def withBlock (kind : CopyKind) (core slot : Nat) (a : Fin 32) (s : State) (k : CopyBlock → List Byte → CRes) : CRes :=
  let sl := slotAt s core slot
  let block := gRead sl a
  withStruct core slot s block 64 64 (fun bs =>
    let b := copyBlockOf block bs
    if reservedCode b.sFormat || reservedCode b.dFormat then .illegal sl 0x04
    else match elemOf b.sFormat, elemOf b.dFormat with
      | some sf, some df =>
        if copyBad kind b bs sf df then .fault (Trouble.of 0x0C block) else k b bs
      | _, _ => .fault (Trouble.of 0x0C block))

/-- The job of a copy. -/
def copyJob (sl : Slot) (b : CopyBlock) (flocks : Option (List Nat)) (port : Option Nat) : JobBody :=
  .copy { blk := b, flocks := flocks, port := port, row := 0, elem := 0, rseed := sl.ctl.rseed }

/-- CPY (R237). -/
def execCpy (d a : Fin 32) (s : State) : Host.Outcome State Fault Refusal :=
  cWord s (fun core slot s => withBlock .plain core slot a s (fun b _ =>
    let h := nextHandle s core slot 2
    withRoom s core slot (.act (doAll [startJob core slot 2 (copyJob (slotAt s core slot) b none none),
      takeSeed core slot b.mode, finishBundle core slot (fun x => gWrite x d h) none]))))

/-! ## Multicast (R237, R238) -/

/-- The flocks that an entry of a multicast table names; none when the index names no entry or its mask is empty. [log 23 DEDUCED] -/
def multicastFlocks (bs : List Byte) : Option (List Nat) :=
  let l := (List.range 288).filter (fun f => (fieldAt bs (f / 8) 1) / 2 ^ (f % 8) % 2 == 1)
  if fieldAt bs 0x24 1 = 1 ∧ (bs.drop 0x25).all (fun b => b == 0) = true ∧ l ≠ [] then some l else none

/-- The core of an aperture address. -/
def apertureCore (a : Word) : Nat := (a.toNat - apertureBase) / 0x100000

/-- CPYM (R237). -/
def execCpym (d a : Fin 32) (s : State) : Host.Outcome State Fault Refusal :=
  cWord s (fun core slot s => withBlock .multicast core slot a s (fun b bs =>
    let sl := slotAt s core slot
    let base := (ctxAt s sl.ctx).mcbase.toNat
    let entry := base + 64 * fieldAt bs 0x38 1
    let bad : CRes := .fault (Trouble.of 0x0C b.block)
    if base = 0 ∨ inSilo entry = false ∨ regionOf b.dst.toNat ≠ .aperture then bad
    else if poisonedIn s entry 64 then .fault (Trouble.of 0x0A (word entry))
    else match multicastFlocks (dieBytes s (dieOf core) entry 64) with
      | none => bad
      | some l =>
        let h := nextHandle s core slot 2
        withRoom s core slot (.act (doAll [startJob core slot 2 (copyJob sl b (some l) none), takeSeed core slot b.mode,
          finishBundle core slot (fun x => gWrite x d h) none]))))

/-! ## Streams (R240) -/

/-- The lowest free port of a core. -/
def freePort (s : State) (core : Nat) : Option Nat := (List.range 32).find? (fun p => (portAt s core p).owner.isNone)

/-- CPYS (R240). -/
def execCpys (a : Fin 32) (q : Fin 8) (s : State) : Host.Outcome State Fault Refusal :=
  cWord s (fun core slot s => withBlock .stream core slot a s (fun b _ =>
    let sl := slotAt s core slot
    match sl.q.get q, freePort s core with
    | none, some port =>
      let n := startedJobs s core sl.ctx
      withRoom s core slot (.act (doAll [
        startJob core slot 2 (copyJob sl b none (some port)),
        takeSeed core slot b.mode,
        modPort core port (fun _ => { Port.reset with
          owner := some { ctx := sl.ctx, slot := slot, ep := q }
          recv := true
          stream := some n }),
        setEnd core slot q (some port),
        finishPlain core slot]))
    | _, _ => .illegal sl 0x04))

/-! ## CPYQ (R241) -/

/-- CPYQ. Of a copy whose record is discarded no count is kept: it is a free value. [log 5 and 21 DESIGN CHOICE] -/
def execCpyq (d a : Fin 32) (s : State) : Host.Outcome State Fault Refusal :=
  cWord s (fun core slot s =>
    let sl := slotAt s core slot
    let h := gRead sl a
    match handleJob s core sl.ctx h with
    | none => .illegal sl 0x04
    | some (_, o) =>
      if bitsNat h 19 16 ≠ 2 then .illegal sl 0x04
      else match o with
        | none => .act (andThen bump (finishBundle core slot
            (fun x => gWrite x d (word (2 ^ 32 + (Config.freeWord s.tick).toNat % 2 ^ 32))) none))
        | some j => match j.body with
          | .copy c => .act (finishBundle core slot
              (fun x => gWrite x d (word (bitIf (j.state == .done) 32 + min c.row 0xFFFFFFFF))) none)
          | _ => .illegal sl 0x04)

/-! ## Conversion (R235, R54) -/

/-- emax of R54. -/
def scaleMax : Elem → Int
  | .e4m3 => 8
  | .bf16 => 127
  | .lg6 => 3
  | _ => 15

/-- The scale produced for a group (R54). [log 48 DEDUCED] -/
def producedScale (sf df : Elem) (l : List Nat) : Nat :=
  let vs := l.map (elemVal sf)
  let bad := vs.any (fun v => match v with
    | .num .. => false
    | _ => true)
  let tops := vs.filterMap (fun v => match v with
    | .num _ m e => if m = 0 then none else some (topExp m e)
    | _ => none)
  if bad then 255
  else match tops with
    | [] => 127
    | t :: ts =>
      let e := ts.foldl max t - scaleMax df + 127
      (max 0 (min 254 e)).toNat

/-- One element converted: `ssc` is its source scale, `dsc` the produced scale. A NaN that a NaN block makes of it carries the element's
group of 32 within the row, modulo 1,024, as its group index. [log 92 DESIGN CHOICE] -/
def copyElem (core : Nat) (b : CopyBlock) (sf df : Elem) (group ssc dsc code seed : Nat) : Nat × Nat :=
  if b.dScaled && dsc == 255 then (zeroElem df, seed)
  else
    let (rnd, s1) := if roundsInto sf df then drawIf b.mode seed else (0, seed)
    ((convert sf df b.sat b.mode rnd dsc (scaledVal sf core (group % 1024) ssc code)).bits, s1)

/-- Elements of a row converted in order: each is its position in the row and its code. -/
def copyElems (core : Nat) (b : CopyBlock) (sf df : Elem) (ssc dsc : Nat → Nat) : List (Nat × Nat) → Nat → List Nat × Nat
  | [], seed => ([], seed)
  | (e, code) :: t, seed =>
    let (r, s1) := copyElem core b sf df (e / 32) (ssc (e / 32)) (dsc (e / 32)) code seed
    let (rs, s2) := copyElems core b sf df ssc dsc t s1
    (r :: rs, s2)

/-! ## Turns (R236) -/

/-- What one turn of a copy moves: elements `e0` to `e1` of a row; whole groups `g0` to `g1` of elements are read. -/
structure Turn where
  e0 : Nat
  e1 : Nat
  g0 : Nat
  g1 : Nat
  deriving DecidableEq, Repr

/-- Elements that up to 256 bytes hold, in whole groups of 32. -/
def turnSize (sf df : Elem) : Nat := 32 * (256 / max (bytesFor sf 32) (bytesFor df 32))

/-- The room of the port that a stream feeds, or of its image where that holds it (R325, R328). -/
def streamRoom (s : State) (core : Nat) (c : CopyJob) : Nat :=
  match c.port with
  | none => 0
  | some p =>
    let q := portAt s core p
    if q.saved then
      (match q.owner.bind (fun o => absentEntry (coreAt s core) o.ctx) with
       | some d => queueSize - lehrNat s core (portImage d p + 6) 1
       | none => 0)
    else queueSize - q.queue.length

/-- The turn a copy takes next. -/
def turnOf (s : State) (core : Nat) (c : CopyJob) (sf df : Elem) : Turn :=
  let k := if c.port.isSome then min (turnSize sf df) (streamRoom s core c) else turnSize sf df
  let e1 := min c.blk.elems (c.elem + k)
  { e0 := c.elem, e1 := e1, g0 := c.elem / 32 * 32, g1 := min c.blk.elems ((e1 + 31) / 32 * 32) }

/-- A copy can take a turn. -/
def mayTurn (s : State) (j : Job) (c : CopyJob) : Bool :=
  j.state == .running && decide (c.row < c.blk.rows) && (c.port.isNone || decide (0 < streamRoom s j.core c))

/-- The address of the scale of a group of the copy's row. -/
def copyScaleAddr (c : CopyJob) (group : Nat) : Word :=
  c.blk.table + word (c.row * ((c.blk.elems + 31) / 32) + group)

/-- The address of an element of the source row. -/
def copySource (c : CopyJob) (sf : Elem) (e : Nat) : Word :=
  c.blk.src + word (c.row * c.blk.sStride) + word (bytesFor sf e)

/-- The destinations of an element of the copy's row. -/
def copyDests (s : State) (j : Job) (c : CopyJob) (df : Elem) (e : Nat) : List Word :=
  let at_ := fun (a : Word) => a + word (c.row * c.blk.dStride) + word (bytesFor df e)
  match c.port, c.flocks with
  | some _, _ => []
  | none, none => [at_ c.blk.dst]
  | none, some l =>
    let n := apertureCore c.blk.dst % 8
    let off := (c.blk.dst.toNat - apertureBase) % 0x100000
    (l.filter (fun f => inSpan s j.core j.part j.ctx (f * 8 + n))).map (fun f =>
      at_ (word (apertureBase + (f * 8 + n) * 0x100000 + off)))

/-- The groups a turn touches, and those whose first element it moves. -/
def Turn.groups (t : Turn) : List Nat := (List.range (t.g1 / 32 + 1)).filter (fun g => t.g0 ≤ g * 32 && g * 32 < t.g1)

/-- A copy's own part of a job changed. -/
def modCopy (order : Nat) (f : CopyJob → CopyJob) : Micro := modJob order (fun j => match j.body with
  | .copy c => { j with body := .copy (f c) }
  | _ => j)

/-- A copy after a turn. -/
def CopyJob.moved (c : CopyJob) (e1 seed : Nat) : CopyJob :=
  if e1 = c.blk.elems then { c with row := c.row + 1, elem := 0, rseed := word seed }
  else { c with elem := e1, rseed := word seed }

/-- The elements of a turn, from the codes of its groups and their source scales. -/
def turnElems (j : Job) (c : CopyJob) (sf df : Elem) (t : Turn) (codes scales : List Nat) : List Nat × List Nat × Nat :=
  let dsc := fun (g : Nat) => producedScale sf df ((codes.drop (g * 32 - t.g0)).take 32)
  let mine := ((List.range codes.length).zip codes).map (fun x => (x.1 + t.g0, x.2))
  let now := mine.filter (fun x => decide (t.e0 ≤ x.1 ∧ x.1 < t.e1))
  if sf = df ∧ c.blk.sScaled = false ∧ c.blk.dScaled = false then (now.map (fun x => x.2), [], c.rseed.toNat % 2 ^ 32)
  else
    let (out, seed) := copyElems j.core c.blk sf df
      (fun g => if c.blk.sScaled then scales.getD (g - t.g0 / 32) 127 else 127)
      (fun g => if c.blk.dScaled then dsc g else 127) now (c.rseed.toNat % 2 ^ 32)
    (out, if c.blk.dScaled then t.groups.map dsc else [], seed)

/-- Elements placed in a stream's queue, or in its image where that holds it (R325, R328). -/
def placeElems (core port : Nat) (l : List Nat) : Micro := ask (fun s =>
  let ws := l.map (fun v => ({ data := word v, ctl := false, poison := false, clock := [] } : ChWord))
  let p := portAt s core port
  match p.saved, p.owner.bind (fun o => absentEntry (coreAt s core) o.ctx) with
  | true, some d => forAll ws (imageWordIn core port d)
  | _, _ => modPort core port (fun p => { p with queue := p.queue ++ ws }))

/-- A turn of a copy. -/
def copyTurn (j : Job) (c : CopyJob) (sf df : Elem) : Micro := ask (fun s =>
  let t := turnOf s j.core c sf df
  let src := copySource c sf t.g0
  let n := bytesFor sf (t.g1 - t.g0)
  let dests := copyDests s j c df t.e0
  let out := bytesFor df (t.e1 - t.e0)
  jobStep j.order
    (fun _ _ => [{ addr := src, len := n, kind := .read }] ++
      (if c.blk.sScaled then t.groups.map (fun g => { addr := copyScaleAddr c g, len := 1, kind := .read }) else []) ++
      dests.map (fun a => { addr := a, len := out, kind := .write }) ++
      (if c.blk.dScaled then t.groups.map (fun g => { addr := copyScaleAddr c g, len := 1, kind := .write }) else []))
    (fun j =>
      eThen (eRead j.party src n) (fun bs =>
      eThen (eEach (fun g => eNat j.party (copyScaleAddr c g) 1) (if c.blk.sScaled then t.groups else [])) (fun scales =>
        let (l, made, seed) := turnElems j c sf df t ((elemsOf sf bs).take (t.g1 - t.g0)) scales
        eThen (eEach (fun a => eWrite j.party a (bytesOf df l)) dests) (fun _ =>
        eThen (eEach (fun x => eWrite j.party (copyScaleAddr c x.1) [BitVec.ofNat 8 x.2]) (t.groups.zip made)) (fun _ =>
        eDo (andThen
          (match c.port with
           | some p => placeElems j.core p l
           | none => skip)
          (modCopy j.order (fun x => x.moved t.e1 seed)))))))))

/-- What the copy unit of a flock may move on: a copy, or the panels of an engine-fed ring of a job. -/
inductive Mover where
  | copy (j : Job) (c : CopyJob)
  | panel (j : Job) (m : MatJob) (o : Operand) (n : Nat) (r : Ring)
  deriving DecidableEq, Repr

/-- The job that is moved on. -/
def Mover.job : Mover → Job
  | .copy j _ => j
  | .panel j _ _ _ _ => j

/-- Its place among those of its core, in the order they were started. -/
def Mover.place : Mover → Nat
  | .copy j _ => 2 * j.order + 1
  | .panel j _ o _ _ => 2 * j.order + (if o.isA then 1 else 2)

/-- The panels that the unit may fetch for a core: those of the running job, and of the job that comes next where that waits for none of
its rings (R217, R221, R222). [log 91 DEDUCED] -/
def panelMovers (s : State) (core : Nat) : List Mover :=
  let flock := flockOf core
  let next := (nextEngineJob s flock).toList.filter (fun j => !ringHeld (engineJobs s flock) j)
  (((runningJob s flock).toList ++ next).filter (fun j => j.core == core)).flatMap (fun j =>
    match j.body with
    | .matrix m => (feedable s j m).map (fun x => .panel j m x.1 x.2.1 x.2.2)
    | _ => [])

/-- What can take a turn of a core, in the order it was started. -/
def turnMovers (s : State) (core : Nat) : List Mover :=
  sortOn Mover.place ((s.jobs.filter (fun j => j.core == core && j.kind == 2)).filterMap (fun j =>
    match j.body with
    | .copy c => if mayTurn s j c then some (.copy j c) else none
    | _ => none) ++ panelMovers s core)

/-- What a flock's copy unit serves next (R236). [log 75 DESIGN CHOICE] -/
def nextMover (s : State) (flock : Nat) : Option Mover :=
  ((List.range 8).map (fun k => flock * 8 + ((flockAt s flock).cpLast + 1 + k) % 8)).findSome? (fun core =>
    let l := turnMovers s core
    match l.find? (fun x => (coreAt s core).copyLast < x.place) with
    | some x => some x
    | none => l.head?)

/-- The unit has served a core, and a copy or a panel of it. -/
def tookTurn (flock : Nat) (x : Mover) : Micro := andThen
  (modFlock flock (fun f => { f with cpLast := x.job.core % 8 }))
  (modCore x.job.core (fun c => { c with copyLast := x.place }))

/-- MATRIX_PANEL_FETCH (R221): the copy unit's turn, where it is a panel's. [log 75 DESIGN CHOICE] -/
def execMatrixPanelFetch (flock : Nat) (s : State) : Host.Outcome State Fault Refusal :=
  flockStep s flock (ask (fun s =>
    match nextMover s flock with
    | some (.panel j m o n r) => andThen (tookTurn flock (.panel j m o n r)) (fetchPanel j m o n r)
    | _ => skip))

/-- COPY_START (R236). -/
def execCopyStart (core ctx n : Nat) (s : State) : Host.Outcome State Fault Refusal :=
  coreStep s core (ask (fun s =>
    match s.jobs.find? (fun j => j.kind == 2 && j.core == core && j.ctx == ctx && j.n == n) with
    | some j => onlyIf (j.ready s) (modJob j.order (fun x => { x with state := .running }))
    | none => skip))

/-- COPY_TURN (R236). [log 22 DEDUCED, 75 DESIGN CHOICE] -/
def execCopyTurn (flock : Nat) (s : State) : Host.Outcome State Fault Refusal :=
  flockStep s flock (ask (fun s =>
    match nextMover s flock with
    | some (.copy j c) =>
      (match elemOf c.blk.sFormat, elemOf c.blk.dFormat with
       | some sf, some df => andThen (tookTurn flock (.copy j c)) (copyTurn j c sf df)
       | _, _ => skip)
    | _ => skip))

/-! ## Completions (R237, R239, R330) -/

/-- Entries of a copy-completion queue. -/
def ccqSize : Nat := 16

/-- A completion put into a parked thread's image (Table 16.10); what its entry acquires is kept beside it (R101). -/
def imageCompletion (core addr n : Nat) (e : Completion) : Micro := doAll [
  imagePut core addr (0x260 + 16 * n) (fun _ => e.handler),
  imagePut core addr (0x268 + 16 * n) (fun _ => e.xfrid.zeroExtend 64),
  imagePut core addr 0x128 (fun w => w + word (2 ^ 23)),
  modCore core (fun c => { c with parked := c.parked.map (fun p =>
    if p.addr = addr then { p with done := p.done ++ [e.clock] } else p) })]

/-- The completion of a copy delivered: none while its queue is full. To a slot of an absent context it is a pending vector of the lehr
image (R330). -/
def deliverCompletion (s : State) (j : Job) (b : CopyBlock) : Option Micro :=
  let e : Completion := { handler := b.handler, xfrid := b.xfrid, clock := jobClock s j.order }
  if b.completion ≠ 2 then some skip
  else match threadPlace s j.core j.serial with
    | .gone => some skip
    | .slot k =>
      match absentEntry (coreAt s j.core) j.ctx with
      | some d => some (lehrPend j.core k 7 d)
      | none =>
      if ccqSize ≤ (slotAt s j.core k).ccq.length then none
      else some (modSlot j.core k (fun sl => { sl with ccq := sl.ccq ++ [e] }))
    | .parked p =>
      let n := bitsNat (imageGet s j.core p.addr 0x128) 27 23
      if ccqSize ≤ n then none else some (imageCompletion j.core p.addr n e)

/-- COPY_COMPLETE (R237). -/
def execCopyComplete (core ctx n : Nat) (s : State) : Host.Outcome State Fault Refusal :=
  coreStep s core (ask (fun s =>
    match s.jobs.find? (fun j => j.kind == 2 && j.core == core && j.ctx == ctx && j.n == n) with
    | some j =>
      (match j.body with
       | .copy c =>
         if j.state == .running && decide (c.blk.rows ≤ c.row) then
           (match deliverCompletion s j c.blk with
            | some f => andThen f (endJob j id)
            | none => skip)
         else skip
       | _ => skip)
    | none => skip))

end Sys2Proof.Machine
end

