-- ==== Sys2Proof/Machine/Predict.lean ====
section
/-! DEFINITION. The predictor and the parison buffers (R244–R252). -/

namespace Sys2Proof.Machine

/-! ## Entries and buffers -/

/-- An entry of a core's predictor. -/
def predEntry (s : State) (core e : Nat) : PredEntry := (coreAt s core).predictor.toList.getD e PredEntry.reset

/-- An entry replaced. -/
def setPred (core e : Nat) (v : PredEntry) : Micro := modCore core (fun c =>
  if h : e < 64 then { c with predictor := c.predictor.set e v h } else c)

/-- A parison buffer. -/
def bufferAt (s : State) (core buf : Nat) : Parison := (coreAt s core).parison.toList.getD buf Parison.reset

/-- A fetch descriptor (Table 10.7); none when R245 refuses it. -/
def fetchDescOf (bs : List Byte) : Option FetchDesc :=
  let count := fieldAt bs 0x10 4
  if count = 0 ∨ 0x4000 < count ∨ count % 8 ≠ 0 ∨ fieldAt bs 0x16 2 ≠ 0 ∨ fieldAt bs 0x18 8 ≠ 0 then none
  else some { base := word (fieldAt bs 0 8), stride := word (fieldAt bs 8 8), count := count, site := fieldAt bs 0x14 2 }

/-- The fetch address of an index. -/
def FetchDesc.addr (d : FetchDesc) (index : BitVec 16) : Word := d.base + index.zeroExtend 64 * d.stride

/-- The lowest free buffer of a context. -/
def freeBufferOf (s : State) (core ctx : Nat) : Option Nat :=
  match residentOf (coreAt s core) ctx with
  | none => none
  | some r => (List.range 8).find? (fun b => bitAt r.bufmask b && (bufferAt s core b).state == .free)

/-- A slot's hold on a buffer, for its retirement (R249). -/
def holdBuffer (core slot buf : Nat) : Micro :=
  modSlot core slot (fun sl => { sl with pfbuf := sl.pfbuf ||| BitVec.ofNat 8 (2 ^ buf) })

/-- Every hold on a buffer let go: in the slots, and in the images of parked threads. [log 76 DEDUCED] -/
def dropHolds (core buf : Nat) : Micro := ask (fun s => andThen
  (forAll (List.range 16) (fun k => onlyIf (bitAt (slotAt s core k).pfbuf buf)
    (modSlot core k (fun sl => { sl with pfbuf := sl.pfbuf &&& ~~~(BitVec.ofNat 8 (2 ^ buf)) }))))
  (forAll (coreAt s core).parked (fun p => onlyIf (bitAt (imageGet s core p.addr 0x128) (28 + buf))
    (imagePut core p.addr 0x128 (fun w => w &&& ~~~(word (2 ^ (28 + buf))))))))

/-! ## PFETCH (R247) -/

/-- The entry for a key, allocated to the context if it is another's (R244, R247). -/
def claimEntry (s : State) (core ctx e : Nat) (tag : BitVec 16) : PredEntry :=
  let x := predEntry s core e
  if x.owner ≠ some ctx ∨ x.tag ≠ tag then { owner := some ctx, valid := false, conf := 0, tag := tag, pred := 0 } else x

/-- PFETCH. -/
def execPfetch (d a b : Fin 32) (s : State) : Host.Outcome State Fault Refusal :=
  cWord s (fun core slot s =>
    let sl := slotAt s core slot
    let addr := gRead sl b
    withStruct core slot s addr 32 32 (fun bs =>
      match fetchDescOf bs with
      | none => .fault (Trouble.of 0x0C addr)
      | some desc =>
        match freeBufferOf s core sl.ctx with
        | none => .act (finishBundle core slot (fun x => gWrite x d (-1)) none)
        | some buf =>
          let key := gRead sl a
          let e := (desc.site + bitsNat key 5 0) % 64
          let tag : BitVec 16 := key.truncate 16
          let x := claimEntry s core sl.ctx e tag
          let thr := ((residentOf (coreAt s core) sl.ctx).map (fun r => r.pfthr.toNat)).getD 2
          let go := x.valid && decide (thr ≤ x.conf)
          .act (doAll [
            setPred core e x,
            modBuffer core buf (fun _ => { Parison.reset with
              state := if go then .predicted else .unpredicted
              ctx := sl.ctx
              key := tag
              entry := e
              desc := desc
              index := if go then x.pred else 0
              slot := slot
              part := partOf (coreAt s core) slot
              mode := sl.mode
              mark := sl.sbIn
              clock := releaseClock s core slot }),
            holdBuffer core slot buf,
            finishBundle core slot (fun x => gWrite x d (word buf)) none])))

/-! ## Fetches (R248, R251, R252) -/

/-- Bytes of a buffer's fetch still to be read from its address on, up to the end of a 128-byte line: address and length;
none when all have been read. -/
def nextLine (p : Parison) : Option (Word × Nat) :=
  let a := p.desc.addr p.index + word p.got.length
  let left := p.desc.count - p.got.length
  if left = 0 then none else some (a, min left (128 - a.toNat % 128))

/-- The fetch's release has ended (R100). -/
def fetchReleased (s : State) (core : Nat) (p : Parison) : Bool := decide (p.mark ≤ (slotAt s core p.slot).sbOut)

/-- The virtual address that a speculative read of an address is translated from (R251); none outside ordinary and aperture memory. -/
def specPlace (s : State) (ctx va : Nat) : Option Nat :=
  let base := (ctxAt s ctx).escbase
  match regionOf va with
  | .ordinary => some va
  | .expert => if base = 0 then none else (backing base va).toOption
  | _ => none

/-- Where a translation takes a speculative read; none for what ends the fetch (R251). -/
def specTarget (s : State) (p : Parison) (t : TlbEntry) (v n : Nat) : Option Target :=
  let tgt : Target := .phys (t.phys v) t.dev
  if t.spec && !t.dev && (refusal s t p.mode .read v).isNone && !badBytes s p.ctx tgt n then some tgt else none

/-- Permission bits of a page, as a number. -/
def pageBits (t : TlbEntry) : Nat := bitIf t.r 0 + bitIf t.w 1 + bitIf t.x 2 + bitIf t.u 3

/-- A 4 KiB page noted among those a fetch has read. -/
def notePage (pages : List (Nat × Nat × Nat)) (t : TlbEntry) (v : Nat) : List (Nat × Nat × Nat) :=
  let page := v / 4096 * 4096
  if pages.any (fun x => x.1 == page) then pages else pages ++ [(page, t.phys page, pageBits t)]

/-- A fetch that ends silently (R251). -/
def voidFetch (core buf : Nat) : Micro :=
  modBuffer core buf (fun x => { x with state := .void, got := [], paid := [] })

/-- A line's token taken from a context's speculation bucket, as a token holder (R252, R334); none while it must wait. -/
def paySpec (s : State) (flock ctx line : Nat) : Option Micro :=
  let slice := sliceOfLine line
  let f := flockAt s flock
  if decide (1 ≤ (bucketOf f ctx slice).spec) && portTurn f slice ctx true then
    some (andThen (servePort flock slice ctx) (modBucket flock ctx slice (fun b => { b with spec := b.spec - 1 })))
  else none

/-- The reader of a buffer's fetch. -/
def Parison.reader (p : Parison) : Reader := fetchReader p.clock

/-- A line that a translation leads to leaves for a fetch: a hit in the flock's L2 is free, a miss takes a token, and its fill stays
least recently used (R251, R252, R336). -/
def specLine (s : State) (core buf : Nat) (p : Parison) (page : TlbEntry) (v n : Nat) : Micro :=
  match specTarget s p page v n with
  | none => voidFetch core buf
  | some t =>
    let flock := flockOf core
    let line := lineOf (keyOf t)
    match routedBytes s p.reader core p.ctx t n with
    | none => skip
    | some bs =>
      let take := modBuffer core buf (fun x => { x with got := x.got ++ bs, pages := notePage x.pages page v })
      if insideFlock s core p.ctx t then andThen (modFlock flock (fun f => l2Touch f line)) take
      else match paySpec s flock p.ctx line with
        | none => skip
        | some pay => doAll [pay, onlyIf (cacheable t) (modFlock flock (fun f => l2Fill f core p.ctx line true)), take]

/-- A walk that a fetch needs, once one may begin (R352): each line of its entries that the flock's L2 does not hold takes a token of the
speculation bucket, one by one; then its result is held in the die's last-level TLB, with A not seen, or the fetch is void. [log 93 DEDUCED] -/
def specWalk (s : State) (core buf : Nat) (p : Parison) (v : Nat) : Micro :=
  let flock := flockOf core
  let w := partyWalker core p.ctx p.reader
  if !walkRoom s w.die p.ctx v specLimit then skip
  else match walkTables s w v with
    | .error 0 => skip
    | .error _ => voidFetch core buf
    | .ok r =>
      match r.reads.find? (fun a => !p.paid.contains (lineOf a) && !l2Holds (flockAt s flock) (lineOf a)) with
      | some a =>
        (match paySpec s flock p.ctx (lineOf a) with
         | none => skip
         | some pay => andThen pay (modBuffer core buf (fun x => { x with paid := lineOf a :: x.paid })))
      | none =>
        if r.entry.spec && r.entry.permitsSome then andThen (installDie w.die r.entry r.upper) (modBuffer core buf (fun x => { x with paid := [] }))
        else voidFetch core buf

/-- SPECULATIVE_FETCH_LINE (R251, R252, R352): the next line of a predicted fetch, or what its translation needs. Its 8-byte words are
read independently of one another (R107). -/
def execSpeculativeFetchLine (core buf : Nat) (s : State) : Host.Outcome State Fault Refusal :=
  coreStep s core (ask (fun s =>
    let p := bufferAt s core buf
    if p.state = .predicted ∧ fetchReleased s core p = true then
      match nextLine p with
      | none => skip
      | some (a, n) =>
        match specPlace s p.ctx a.toNat with
        | none => voidFetch core buf
        | some v =>
          if (ctxAt s p.ctx).ptbase = 0 then voidFetch core buf
          else match tlbFind s core p.ctx v with
            | some t => specLine s core buf p t v n
            | none => specWalk s core buf p v
    else skip))

/-- The bytes of a buffer made zero. -/
def clearBuffer (core buf : Nat) : Micro := fun s =>
  let k := keyOf (.parison core buf 0)
  [.mem ((s.mem.filter (fun c => decide (k ≤ c.1 ∧ c.1 < k + 0x4000))).map (fun c => (c.1, 0)))]

/-- A fetch whose bytes have all been read lands; the bytes past them read as zero (R75). -/
def landBuffer (core buf : Nat) : Micro := ask (fun s =>
  let p := bufferAt s core buf
  doAll [
    clearBuffer core buf,
    putBytes (keyOf (.parison core buf 0)) p.got,
    modBuffer core buf (fun x => { x with arrived := true, state := if x.state = .inFlight then .landed else x.state })])

/-- A line of a confirmed fetch read under the context's ordinary bucket; a fault leaves the buffer faulted (R248), with the address of
the line at which the refetch stopped. [log 107 DESIGN CHOICE] -/
def refetchLine (core buf : Nat) (p : Parison) (a : Word) (n : Nat) : Micro := ask (fun s =>
  let w : Party := { core := core, ctx := p.ctx, part := p.part, mode := p.mode, who := .fetch p.clock }
  let stop := fun (c : Nat) (v : Word) => modBuffer core buf (fun x => { x with state := .faulted, fault := some (c, v) })
  match w.reach s a .read with
  | .error 0 => skip
  | .error c => stop c a
  | .ok (t, _) =>
    match payOut s core p.ctx t false with
    | none => skip
    | some pay =>
      match eRead w a n s with
      | .later => skip
      | .fault c v _ us => andThen (fun _ => us) (stop c v)
      | .done bs us => doAll [fun _ => us, pay, modBuffer core buf (fun x => { x with got := x.got ++ bs })])

/-- PARISON_DATA_LAND (R246): a confirmed fetch reads its next line, and a fetch that has read all lands. -/
def execParisonDataLand (core buf : Nat) (s : State) : Host.Outcome State Fault Refusal :=
  coreStep s core (ask (fun s =>
    let p := bufferAt s core buf
    match nextLine p with
    | none => onlyIf ((p.state == .predicted || p.state == .inFlight) && !p.arrived) (landBuffer core buf)
    | some (a, n) => onlyIf (p.state == .inFlight && fetchReleased s core p) (andThen (refetchLine core buf p a n) (ask (fun s =>
        let q := bufferAt s core buf
        onlyIf (q.state == .inFlight && (nextLine q).isNone) (landBuffer core buf))))))

/-! ## PCONF, PCANC (R248, R249) -/

/-- A page as an ordinary read of a slot's thread translates it now, with what that sets, or its fault; cause 0 says that it cannot be
translated yet. -/
def pageNow (s : State) (core slot page : Nat) : Except Nat (TlbEntry × Micro) :=
  let sl := slotAt s core slot
  let walk : Except Nat (TlbEntry × Micro) :=
    if walkRoom s (dieOf core) sl.ctx page walkLimit then finishWalk s core (slotWalker s core slot) sl.mode page .read else .error 0
  if (ctxAt s sl.ctx).ptbase = 0 then .error 0x07
  else match tlbFind s core sl.ctx page with
    | none => walk
    | some t => match refusal s t sl.mode .read page with
      | some c => .error c
      | none => if t.aSeen then .ok (t, skip) else walk

/-- A page that a fetch has read has still to be translated: a walk is to be made first, or again (R348). [log 76 DEDUCED] -/
def pageWaits (s : State) (core slot : Nat) (x : Nat × Nat × Nat) : Bool :=
  match pageNow s core slot x.1 with
  | .error 0 => true
  | _ => false

/-- A page that a fetch has read still maps to its frame, with no fewer permissions (R248, R352): what the translation sets. -/
def pageStands (s : State) (core slot : Nat) (x : Nat × Nat × Nat) : Option Micro :=
  match pageNow s core slot x.1 with
  | .ok (t, f) => if t.phys x.1 = x.2.1 ∧ pageBits t &&& x.2.2 = x.2.2 then some f else none
  | .error _ => none

/-- The predictor's entry after a confirm. -/
def learned (x : PredEntry) (index : BitVec 16) : PredEntry :=
  if x.valid = false then { x with valid := true, pred := index, conf := 0 }
  else if x.pred = index then { x with conf := min (x.conf + 1) 7 }
  else if 0 < x.conf then { x with conf := x.conf - 1 }
  else { x with pred := index }

/-- A buffer number that a context may name. -/
def ownBuffer (s : State) (core ctx : Nat) (v : Word) : Option Nat :=
  if v.toNat < 8 ∧ (bufferAt s core v.toNat).state ≠ .free ∧ (bufferAt s core v.toNat).ctx = ctx then some v.toNat else none

/-- PCONF. [log 76 DEDUCED] -/
def execPconf (a b : Fin 32) (s : State) : Host.Outcome State Fault Refusal :=
  cWord s (fun core slot s =>
    let sl := slotAt s core slot
    let v := gRead sl b
    match ownBuffer s core sl.ctx (gRead sl a) with
    | none => .illegal sl 0x04
    | some buf =>
      let p := bufferAt s core buf
      if 0x10000 ≤ v.toNat ∨ quarantined p.state = false then .illegal sl 0x04
      else
        let index : BitVec 16 := v.truncate 16
        let same := p.state == .predicted && p.index == index
        let hit := same && p.pages.all (fun x => (pageStands s core slot x).isSome)
        let x := predEntry s core p.entry
        if same && p.pages.any (pageWaits s core slot) then .turn (andThen bump (waitAgain core slot (.cond .tablesClear) 0))
        else .act (doAll [
          (if hit then andThen
             (forAll p.pages (fun x => ask (fun s => (pageStands s core slot x).getD skip)))
             (modBuffer core buf (fun y => { y with state := if y.arrived then .landed else .inFlight, hit := true }))
           else modBuffer core buf (fun y => { y with
             state := .inFlight, index := index, hit := false, got := [], arrived := false, pages := []
             slot := slot, part := partOf (coreAt s core) slot, mode := sl.mode, mark := sl.sbIn
             clock := releaseClock s core slot, paid := [] })),
          onlyIf (x.owner == some sl.ctx && x.tag == p.key) (setPred core p.entry (learned x index)),
          finishPlain core slot]))

/-- PCANC. [log 76 DEDUCED] -/
def execPcanc (a : Fin 32) (s : State) : Host.Outcome State Fault Refusal :=
  cWord s (fun core slot s =>
    let sl := slotAt s core slot
    match ownBuffer s core sl.ctx (gRead sl a) with
    | none => .illegal sl 0x04
    | some buf => .act (doAll [freeBuffer core buf, dropHolds core buf, finishPlain core slot]))

/-! ## PFSET, PFGET, PFSTAT (R250) -/

/-- PFSET. -/
def execPfset (a b : Fin 32) (s : State) : Host.Outcome State Fault Refusal :=
  cWord s (fun core slot s =>
    let sl := slotAt s core slot
    let e := (gRead sl a).toNat
    let v := gRead sl b
    if 64 ≤ e ∨ bitsNat v 63 36 ≠ 0 then .illegal sl 0x04
    else .act (andThen
      (setPred core e { owner := some sl.ctx, valid := bitAt v 35, conf := bitsNat v 34 32,
                        tag := (v >>> 16).truncate 16, pred := v.truncate 16 })
      (finishPlain core slot)))

/-- An entry as Table 10.6 lays it out. -/
def predWord (x : PredEntry) : Word :=
  word (bitIf x.valid 35 + x.conf % 8 * 2 ^ 32 + x.tag.toNat * 2 ^ 16 + x.pred.toNat)

/-- PFGET: an entry of another context reads 0. -/
def execPfget (d a : Fin 32) (s : State) : Host.Outcome State Fault Refusal :=
  cWord s (fun core slot s =>
    let sl := slotAt s core slot
    let e := (gRead sl a).toNat
    if 64 ≤ e then .illegal sl 0x04
    else
      let x := predEntry s core e
      let v := if x.owner = some sl.ctx then predWord x else 0
      .act (finishBundle core slot (fun y => gWrite y d v) none))

/-- The code of a buffer's state (Table 10.8). -/
def bufCode : BufState → Nat
  | .free => 0
  | .predicted => 1
  | .unpredicted => 2
  | .void => 3
  | .inFlight => 4
  | .landed => 5
  | .faulted => 6

/-- PFSTAT's result (Table 10.9). -/
def bufferWord (p : Parison) : Word :=
  let index := if p.state = .free ∨ p.state = .unpredicted then 0 else p.index.toNat
  word (index * 2 ^ 16 + bitIf p.hit 8 + bufCode p.state)

/-- PFSTAT: a buffer of another context reads as free. -/
def execPfstat (d a : Fin 32) (s : State) : Host.Outcome State Fault Refusal :=
  cWord s (fun core slot s =>
    let sl := slotAt s core slot
    let b := (gRead sl a).toNat
    if 8 ≤ b then .illegal sl 0x04
    else
      let p := bufferAt s core b
      let v := if p.ctx = sl.ctx then bufferWord p else 0
      .act (finishBundle core slot (fun y => gWrite y d v) none))

end Sys2Proof.Machine
end

