-- ==== Sys2Proof/Machine/Signals.lean ====
section
/-! DEFINITION. Watches (R205–R207), user interrupts on their way (R208, R330), and stall reports (R305). -/

namespace Sys2Proof.Machine

/-! ## MWARM, MWAIT, MWDIS -/

/-- Entries of a core's watch table. -/
def watchSize : Nat := 8

/-- A watch armed by a slot: its own entry is armed anew, and a full table loses the entry armed least recently, whose slot
keeps the news of it (R205). -/
def armWatch (slot : Nat) (t : Target) (ws : List Watch) : List Watch :=
  let others := ws.filter (fun w => w.slot != slot || w.stolen)
  let held := others.filter (fun w => !w.stolen)
  let new : Watch := { slot := slot, tgt := t, event := none, stolen := false }
  if held.length < watchSize then others ++ [new]
  else match held.head? with
    | none => others ++ [new]
    | some old => others.map (fun w => if w = old then { w with stolen := true, event := some 2 } else w) ++ [new]

/-- MWARM's own rule on where the word may lie. -/
def watchable : Target → Bool
  | .pad .. => true
  | .phys _ dev => !dev
  | .parison .. => false

/-- MWARM (R205). [log 16 DEDUCED] -/
def execMwarm (a : Fin 32) (s : State) : Host.Outcome State Fault Refusal :=
  cWord s (fun core slot s =>
    let sl := slotAt s core slot
    let addr := gRead sl a
    let region := regionOf addr.toNat
    let far := region == .aperture || region == .expert || region == .parison
    if far && addr.toNat % 8 == 0 && !(sl.pair == .execute && region != .expert) then .fault (Trouble.of 0x08 addr)
    else onTarget addr .read (checkAddr s core slot addr 8 .read) (fun t =>
      if watchable t then .act (andThen
        (modCore core (fun c => { c with watches := armWatch slot t c.watches })) (finishPlain core slot))
      else .fault (Trouble.of 0x08 addr)))

/-- The code of the events that a slot's watches have met: the lowest. -/
def watchCode (s : State) (core slot : Nat) : Option Nat :=
  ((coreAt s core).watches.filter (fun w => w.slot == slot)).foldl (fun o w => match o, w.event with
    | some a, some b => some (min a b)
    | none, e => e
    | o, none => o) none

/-- MWAIT (R206): an event that came before it ends it at once. -/
def execMwait (d a : Fin 32) (s : State) : Host.Outcome State Fault Refusal :=
  cWord s (fun core slot s =>
    let sl := slotAt s core slot
    if !((coreAt s core).watches.any (fun w => w.slot == slot)) then .illegal sl 0x04
    else match watchCode s core slot with
      | some k => .act (andThen (disarm core slot) (finishBundle core slot (fun x => gWrite x d (word k)) none))
      | none => .act (waitFor core slot (.mwait d (gRead sl a).toNat (coreAt s core).cycle) 6))

/-- An MWAIT ended with a code. -/
def endMwait (core slot : Nat) (d : Fin 32) (k : Nat) : Micro :=
  andThen (disarm core slot) (endWait core slot (fun x => gWrite x d (word k)))

/-- MWAIT_WAKE. -/
def execMwaitWake (core slot : Nat) (s : State) : Host.Outcome State Fault Refusal :=
  slotStep s core slot (ask (fun s =>
    match (slotAt s core slot).wait, watchCode s core slot with
    | .mwait d _ _, some k => endMwait core slot d k
    | _, _ => skip))

/-- MWAIT_TIMEOUT: when events coincide, the lowest code is written. -/
def execMwaitTimeout (core slot : Nat) (s : State) : Host.Outcome State Fault Refusal :=
  slotStep s core slot (ask (fun s =>
    match (slotAt s core slot).wait with
    | .mwait d limit start =>
      onlyIf (limit != 0 && decide (start + limit ≤ (coreAt s core).cycle))
        (endMwait core slot d (min 1 ((watchCode s core slot).getD 1)))
    | _ => skip))

/-- The location that a translated address names for a slot's thread, without a fault. -/
def translatedPlace (s : State) (core slot va : Nat) : Option Target :=
  match tlbFind s core (slotAt s core slot).ctx va with
  | some t => some (.phys (t.phys va) t.dev)
  | none => match walkTables s (slotWalker s core slot) va with
    | .ok w => some (.phys (w.entry.phys va) w.entry.dev)
    | .error _ => none

/-- The location an address names for a comparison with a watch, without a fault: a scratchpad byte has two names (R74), and so has
the backing of a slice (R83). -/
def watchedPlace (s : State) (core slot va : Nat) : Option Target :=
  match regionOf va with
  | .pad => some (.pad core va)
  | .aperture =>
    let off := (va - apertureBase) % 0x100000
    if off < 0x40000 then some (.pad ((va - apertureBase) / 0x100000) off) else none
  | .expert =>
    match backing (ctxAt s (slotAt s core slot).ctx).escbase va with
    | .ok a => translatedPlace s core slot a
    | .error _ => none
  | .ordinary => translatedPlace s core slot va
  | _ => none

/-- MWDIS (R207). -/
def execMwdis (a : Fin 32) (s : State) : Host.Outcome State Fault Refusal :=
  cWord s (fun core slot s =>
    let sl := slotAt s core slot
    let addr := gRead sl a
    if regionOf addr.toNat = .reserved then .fault (Trouble.of 0x06 addr)
    else if addr.toNat % 8 ≠ 0 then .fault (Trouble.of 0x05 addr)
    else .act (andThen
      (match watchedPlace s core slot addr.toNat with
       | none => skip
       | some t => modCore core (fun c => { c with watches := c.watches.filter (fun w =>
           !(w.slot == slot && !w.stolen && keyOf w.tgt == keyOf t)) }))
      (finishPlain core slot)))

/-! ## User interrupts on their way (R208, R330) -/

/-- UISEND. A post to another context is a permission fault that no rule gives an address: its value is free.
An operand that is illegal is reported before such a post. [log 5, 17, 102 DESIGN CHOICE] -/
def execUisend (a b : Fin 32) (s : State) : Host.Outcome State Fault Refusal :=
  cWord s (fun core slot s =>
    let sl := slotAt s core slot
    let t := gRead sl a
    let v := gRead sl b
    let target := bitsNat t 11 0
    let ctx := bitsNat t 47 32
    if bitsNat t 63 48 ≠ 0 ∨ bitsNat t 31 16 ≠ 0 ∨ 8 ≤ v.toNat ∨ coreCount ≤ target ∨ inSpan s core (partOf (coreAt s core) slot) sl.ctx target = false then
      .illegal sl 0x04
    else if ctx ≠ sl.ctx then .turn (andThen bump (raiseC core slot (Trouble.of 0x08 (Config.freeWord s.tick))))
    else .act (andThen (sendMsg core 0 target (bitsNat t 15 12) ctx slot 0 (.interrupt v.toNat)) (finishPlain core slot)))

/-- A vector set in UIPEND. -/
def pendVector (v : Nat) (x : Word) : Word := x ||| word (2 ^ v)

/-- A vector reaches its target: in the lehr image of an absent context, in the slot, in the image of the thread that last
left it, or nowhere. -/
def postVector (core slot ctx v : Nat) : Micro := ask (fun s =>
  match absentEntry (coreAt s core) ctx with
  | some d => lehrPend core slot v d
  | none =>
    let sl := slotAt s core slot
    if sl.occupied && sl.ctx == ctx then
      modSlot core slot (fun x => { x with ctl := { x.ctl with uipend := pendVector v x.ctl.uipend } })
    else match parkedAt (coreAt s core) slot ctx with
      | some p => imagePut core p.addr 0x180 (pendVector v)
      | none => skip)

/-- UISEND_ARRIVAL. -/
def execUisendArrival (mid : Nat) (s : State) : Host.Outcome State Fault Refusal :=
  commit s (ask (fun s =>
    match s.msgs.find? (fun m => m.id == mid) with
    | none => skip
    | some m =>
      match m.kind with
      | .interrupt v => onlyIf (coreUp s m.core) (andThen (postVector m.core m.port m.ctx v) (dropMsg mid))
      | _ => skip))

/-! ## Stall reports (R305) -/

/-- STALL_REPORT: once for a wait, when its limit has passed. Table 16.7 gives the report no value: it is free. [log 5 and 20 DESIGN CHOICE] -/
def execStallReport (core slot : Nat) (s : State) : Host.Outcome State Fault Refusal :=
  slotStep s core slot (ask (fun s =>
    match (slotAt s core slot).stall with
    | none => skip
    | some x =>
      onlyIf (!x.posted && x.limit != 0 && decide (x.start + x.limit ≤ (coreAt s core).cycle)) (doAll [
        postRecord { cause := 0x12, flags := 0, wait := x.code, handle := 0, value := Config.freeWord s.tick, pc := 0,
                     who := whoOf s core slot },
        modSlot core slot (fun sl => { sl with stall := some { x with posted := true } }),
        bump])))

end Sys2Proof.Machine
end

