-- ==== Sys2Proof/Machine/Diversion.lean ====
section
/-! DEFINITION. The steps of diversion: ports and bank lines saved and restored (R319, R322, R323, R325), words and grants that
reach a saved port (R326), and the end of a save or restore (R308, R316, R329, R330). -/

namespace Sys2Proof.Machine

/-- A diversion entry of a core. -/
def entryAt (s : State) (core entry : Nat) : Divert := (coreAt s core).divert.toList.getD entry Divert.reset

/-- A diversion entry changed. -/
def modEntry (core entry : Nat) (f : Divert → Divert) : Micro := modCore core (fun c =>
  if h : entry < 8 then { c with divert := c.divert.set entry (f (c.divert.get ⟨entry, h⟩)) h } else c)

/-- One bank of an entry. -/
def Divert.bank (d : Divert) (k : Nat) : BankCursor := d.banks.toList.getD k BankCursor.reset

/-- One bank of an entry changed. -/
def Divert.setBank (d : Divert) (k : Nat) (f : BankCursor → BankCursor) : Divert :=
  if h : k < 16 then { d with banks := d.banks.set k (f (d.banks.get ⟨k, h⟩)) h } else d

/-- The banks an entry covers. -/
def Divert.covers (d : Divert) : List Nat := (List.range 16).filter (fun k => bitAt d.mask k)

/-- Every bank of an entry is done. -/
def Divert.allDone (d : Divert) : Bool := d.covers.all (fun k => (d.bank k).done)

/-- The banks of an entry in the order of their turns: increasing, after the one served last. -/
def Divert.turns (d : Divert) : List Nat :=
  ((List.range 16).map (fun k => (d.turn + 1 + k) % 16)).filter (fun k => bitAt d.mask k)

/-- An entry whose save or restore begins (R319): no line is done, and bank 0 has the first turn. -/
def Divert.begun (ctx : Nat) (mask : BitVec 16) (base : Word) (st : DivState) : Divert :=
  { ctx := ctx, mask := mask, base := base, state := st, banks := Vector.replicate 16 BankCursor.reset, port := 0,
    turn := 15 }

/-- A thread that waits for an entry's save or restore goes on. -/
def wakeDivert (core entry : Nat) : Micro := ask (fun s =>
  forAll ((List.range 16).filter (fun k => (slotAt s core k).wait == .divert entry)) (fun k => finishPlain core k))

/-! ## A context present again (R316, R17) -/

/-- The threads of a context on a core count as having issued 16 cycles before. -/
def freshThreads (core ctx : Nat) : Micro := ask (fun s =>
  forAll ((List.range 16).filter (fun k => (slotAt s core k).occupied && (slotAt s core k).ctx == ctx))
    (fun k => modSlot core k (fun sl => { sl with last := none })))

/-- What an entry's turn to OFF brings: the context is present again if it was the last. -/
def entryOff (core entry : Nat) : Micro := ask (fun s =>
  let ctx := (entryAt s core entry).ctx
  andThen (modEntry core entry (fun d => { d with state := .off }))
    (ask (fun s => onlyIf (!absent (coreAt s core) ctx) (freshThreads core ctx))))

/-! ## Ports saved (R325) -/

/-- The next port of an entry's context that has not been saved. -/
def nextHeld (s : State) (core : Nat) (d : Divert) : Option Nat :=
  ((List.range 32).filter (fun p => d.port ≤ p)).find? (fun p =>
    match (portAt s core p).owner with
    | some o => o.ctx == d.ctx && !(portAt s core p).saved
    | none => false)

/-- FLAGS of a port's state (Table 17.6). -/
def portFlags (p : Port) : Nat := bitIf p.auto 2 + bitIf p.recv 1 + 1

/-- TAGS of a queue. -/
def tagBits (q : List ChWord) : Nat := ((List.range q.length).zip q).foldl (fun n x => n + bitIf x.2.ctl x.1) 0

/-- A port's state as a lehr image holds it (Table 17.6): in ALLOW what a receiver has granted and no arrived word has used. [log 26 DEDUCED] -/
def portBytes (s : State) (core port : Nat) : List Byte :=
  let p := portAt s core port
  let owner := (p.owner.map (fun o => o.slot + 16 * o.ep.val)).getD 0
  let allow := if p.recv then p.granted else p.allow
  leBytes 4 p.far.toNat ++ leBytes 1 (portFlags p) ++ leBytes 1 0 ++ leBytes 1 p.queue.length ++ leBytes 1 allow ++
    leBytes 2 (tagBits p.queue) ++ leBytes 1 owner ++ List.replicate 5 (0 : Byte)

/-- A port written to a lehr image. -/
def savePort (core port : Nat) (d : Divert) : Micro := ask (fun s =>
  let p := portAt s core port
  doAll [
    pushLehr core (.write (cellsAt (wordImage d port 0) (p.queue.flatMap (fun w => leBytes 8 w.data.toNat))) none),
    forAll ((List.range p.queue.length).zip p.queue) (fun x => andThen (keepWord (wordImage d port x.1) x.2.clock)
      (poisonUnits x.2.poison [poisonUnit (wordImage d port x.1)])),
    pushLehr core (.write (cellsAt (portImage d port) (portBytes s core port)) none),
    modPort core port (fun p => { p with queue := [], saved := true })])

/-- PORT_SAVE_STEP (R325). -/
def execPortSaveStep (core entry : Nat) (s : State) : Host.Outcome State Fault Refusal :=
  coreStep s core (ask (fun s =>
    let d := entryAt s core entry
    if d.state = .saving then
      match nextHeld s core d with
      | none => skip
      | some p => andThen (savePort core p d) (modEntry core entry (fun d => { d with port := p + 1 }))
    else skip))

/-! ## Lines saved (R322) -/

/-- The key of a line of a bank. -/
def bankLine (core bank line : Nat) : Nat := keyOf (.pad core (bank * 0x4000 + line * 64))

/-- The address of a line in a lehr image. -/
def lehrLine (d : Divert) (bank line : Nat) : Nat := d.base.toNat + bank * 0x4000 + line * 64

/-- A bank's cursor moved past its line. -/
def BankCursor.step (b : BankCursor) : BankCursor :=
  { b with cursor := (b.cursor + 1) % 256, done := b.done || b.cursor == 255 }

/-- SAVE_STEP (R322): once every port is saved. [log 31 DEDUCED] -/
def execSaveStep (core entry : Nat) (s : State) : Host.Outcome State Fault Refusal :=
  coreStep s core (ask (fun s =>
    let d := entryAt s core entry
    if d.state = .saving ∧ nextHeld s core d = none then
      match d.turns.find? (fun k => !(d.bank k).done) with
      | none => skip
      | some k =>
        let line := (d.bank k).cursor
        let key := bankLine core k line
        let d2 := { d.setBank k BankCursor.step with turn := k }
        doAll [
          pushLehr core (.write (cellsAt (lehrLine d k line) (memBytes s key 64)) none),
          poisonUnits (poisonedIn s key 64) [poisonUnit (lehrLine d k line)],
          modEntry core entry (fun _ => if d2.allDone then { d2 with state := .diverted } else d2),
          onlyIf d2.allDone (wakeDivert core entry)]
    else skip))

/-! ## Lines restored (R323) -/

/-- Lines of a core that are being read. -/
def pendingLines (c : Core) : Nat :=
  c.divert.toList.foldl (fun n d => n + d.banks.toList.foldl (fun m b => m + b.pending.length) 0) 0

/-- The next line of a bank that a restore would read. -/
def BankCursor.nextLine (b : BankCursor) : Nat := b.cursor + b.pending.length

/-- Another context's save has not yet passed a line of a bank. -/
def saveBlocks (c : Core) (ctx bank line : Nat) : Bool :=
  c.divert.toList.any (fun d => d.state == .saving && d.ctx != ctx && bitAt d.mask bank && !(d.bank bank).done &&
    decide ((d.bank bank).cursor ≤ line))

/-- A restore may read the next line of a bank. -/
def mayRead (c : Core) (d : Divert) (k : Nat) : Bool :=
  let b := d.bank k
  !b.done && decide (b.nextLine ≤ 255) && decide (b.pending.length < 8) && !saveBlocks c d.ctx k b.nextLine

/-- RESTORE_READ_ISSUE (R323). -/
def execRestoreReadIssue (core entry : Nat) (s : State) : Host.Outcome State Fault Refusal :=
  coreStep s core (ask (fun s =>
    let c := coreAt s core
    let d := entryAt s core entry
    if d.state = .restoring ∧ pendingLines c < 64 then
      match d.turns.find? (mayRead c d) with
      | none => skip
      | some k =>
        let line := (d.bank k).nextLine
        andThen (pushLehr core (.restore entry k line))
          (modEntry core entry (fun d =>
            { d.setBank k (fun b => { b with pending := b.pending ++ [(line, none)] }) with turn := k }))
    else skip))

/-- The next port that a restore has to load: one that the core counts as saved for the context. [log 94 DEDUCED] -/
def nextSaved (s : State) (core : Nat) (d : Divert) : Option Nat :=
  ((List.range 32).filter (fun p => d.port ≤ p)).find? (fun p =>
    (portAt s core p).saved && ((portAt s core p).owner.map (fun o => o.ctx)) == some d.ctx)

/-! ## The end of a restore (R329, R330) -/

/-- The slots of a partition of a core that hold threads of a context, lowest first. -/
def threadsOf (s : State) (core part ctx : Nat) : List Nat :=
  (List.range 16).filter (fun k => partOf (coreAt s core) k == part && (slotAt s core k).occupied &&
    (slotAt s core k).ctx == ctx)

/-- One record's event posted to its slot, to the lowest slot of its partition with a thread of the context, or to Calben. -/
def postEventFor (core ctx : Nat) (addr : Nat) : Micro := ask (fun s =>
  let slot := lehrNat s core (addr + 0x18) 8 / 0x1000 % 16
  let sl := slotAt s core slot
  let give := fun (k : Nat) =>
    modSlot core k (fun x => { x with asyncEvents := x.asyncEvents ++ [(ctx, word addr)] })
  if sl.occupied && sl.ctx == ctx then give slot
  else match threadsOf s core (partOf (coreAt s core) slot) ctx with
    | k :: _ => give k
    | [] => postAsync s core (word addr))

/-- The queue of a lehr image read from HEAD to TAIL (R329). -/
def readQueue (core : Nat) (d : Divert) : Micro := ask (fun s =>
  let q := d.base.toNat + 0x41A00
  let head := lehrNat s core q 4
  let tail := lehrNat s core (q + 4) 4
  let n := (tail + 2 ^ 32 - head) % 2 ^ 32
  andThen
    (forAll (List.range (min n 64)) (fun i =>
      postEventFor core d.ctx (d.base.toNat + 0x41200 + 32 * ((head + i) % 64))))
    (onlyIf (n != 0) (pushLehr core (.write (cellsAt q (leBytes 4 tail)) none))))

/-- Pending user interrupts of a lehr image merged into the threads of the context (R330). -/
def mergePending (core : Nat) (d : Divert) : Micro := ask (fun s =>
  forAll ((List.range 16).filter (fun k => lehrNat s core (d.base.toNat + 0x41A80 + 8 * k) 8 != 0)) (fun k =>
    let pa := d.base.toNat + 0x41A80 + 8 * k
    let v := word (lehrNat s core pa 1)
    andThen
      (onlyIf ((slotAt s core k).occupied && (slotAt s core k).ctx == d.ctx)
        (modSlot core k (fun x => { x with ctl := { x.ctl with uipend := x.ctl.uipend ||| v } })))
      (pushLehr core (.write (cellsAt pa (leBytes 8 0)) none))))

/-- A restore whose banks and ports are done ends. [log 30 DEDUCED] -/
def endRestore (core entry : Nat) : Micro := ask (fun s =>
  let d := entryAt s core entry
  doAll [readQueue core d, mergePending core d, entryOff core entry, wakeDivert core entry])

/-- A restore ends if nothing is left to do. [log 30 DEDUCED] -/
def endIfDone (core entry : Nat) : Micro := ask (fun s =>
  let d := entryAt s core entry
  onlyIf (d.state == .restoring && d.allDone && (nextSaved s core d).isNone) (endRestore core entry))

/-- RESTORE_LINE_WRITE (R323): the oldest pending line of a bank, once its data has returned. [log 31 DEDUCED] -/
def execRestoreLineWrite (core entry bank : Nat) (s : State) : Host.Outcome State Fault Refusal :=
  coreStep s core (ask (fun s =>
    let d := entryAt s core entry
    if d.state = .restoring ∧ bitAt d.mask bank = true then
      match (d.bank bank).pending with
      | (line, some data) :: _ => doAll [
          putBytes (bankLine core bank line) data,
          poisonUnits (poisonedIn s (lehrLine d bank line) 64)
            ((List.range 8).map (fun k => bankLine core bank line + 8 * k)),
          modEntry core entry (fun d => d.setBank bank (fun b => { b.step with pending := b.pending.tail })),
          endIfDone core entry]
      | _ => skip
    else skip))

/-- A port loaded from a lehr image; one that the image does not hold is let go. [log 26 DEDUCED] -/
def loadPort (core port : Nat) (d : Divert) : Micro := ask (fun s =>
  let at_ := portImage d port
  let flags := lehrNat s core (at_ + 4) 1
  let head := lehrNat s core (at_ + 5) 1
  let tags := lehrNat s core (at_ + 8) 2
  let allow := lehrNat s core (at_ + 7) 1
  let who := lehrNat s core (at_ + 10) 1
  let recv := flags / 2 % 2 == 1
  if flags % 2 = 0 then modPort core port (fun _ => Port.reset)
  else modPort core port (fun p =>
    { owner := some (match p.owner with
        | some o => if o.ctx = d.ctx then o else { ctx := d.ctx, slot := who % 16, ep := Fin.ofNat 8 (who / 16) }
        | none => { ctx := d.ctx, slot := who % 16, ep := Fin.ofNat 8 (who / 16) })
      far := BitVec.ofNat 32 (lehrNat s core at_ 4)
      recv := recv
      auto := flags / 4 % 2 == 1
      queue := (List.range (min (lehrNat s core (at_ + 6) 1) 16)).map (fun i =>
        { data := word (lehrNat s core (wordImage d port (head + i)) 8), ctl := tags / 2 ^ ((head + i) % 16) % 2 == 1,
          poison := poisonedIn s (wordImage d port (head + i)) 8, clock := lookup [] s.order.words (wordImage d port (head + i)) })
      granted := if recv then allow else 0
      allow := if recv then 0 else allow
      stream := p.stream
      saved := false }))

/-- PORT_RESTORE_STEP (R325): once every line is restored. -/
def execPortRestoreStep (core entry : Nat) (s : State) : Host.Outcome State Fault Refusal :=
  coreStep s core (ask (fun s =>
    let d := entryAt s core entry
    if d.state = .restoring ∧ d.allDone = true then
      match nextSaved s core d with
      | none => endIfDone core entry
      | some p => doAll [loadPort core p d, modEntry core entry (fun d => { d with port := p + 1 }), endIfDone core entry]
    else skip))

/-! ## Words and grants for a saved port (R326) -/

/-- A grant put into a port's image. -/
def imageGrantIn (core port : Nat) (d : Divert) (n : Nat) : Micro := ask (fun s =>
  let at_ := portImage d port + 7
  pushLehr core (.write (cellsAt at_ (leBytes 1 (lehrNat s core at_ 1 + n))) none))

/-- LEHR_CHANNEL_WRITE (R326). -/
def execLehrChannelWrite (mid : Nat) (s : State) : Host.Outcome State Fault Refusal :=
  commit s (ask (fun s =>
    match s.msgs.find? (fun m => m.id == mid) with
    | none => skip
    | some m =>
      let p := portAt s m.core m.port
      match p.owner.bind (fun o => absentEntry (coreAt s m.core) o.ctx) with
      | none => skip
      | some d =>
        if mayLand s m && p.saved then
          (match m.kind with
           | .word w => andThen (imageWordIn m.core m.port d w) (dropMsg mid)
           | .grant n => andThen (imageGrantIn m.core m.port d n) (dropMsg mid)
           | .interrupt _ => skip)
        else skip))

end Sys2Proof.Machine
end

