-- ==== Sys2Proof/Machine/Privileged.lean ====
section
/-! DEFINITION. The instructions of major 0x30 (R307–R311): SWAPCTX and SLOTHAND with their exchange, DIVSET and DIVCLR, the
removal of translations, and PFCLR. -/

namespace Sys2Proof.Machine

/-- An instruction that only S mode may execute (R307). -/
def privileged (core slot : Nat) (s : State) (r : CRes) : CRes :=
  if (slotAt s core slot).mode = .user then .illegal (slotAt s core slot) 0x03 else r

/-! ## SWAPCTX and SLOTHAND (R307) -/

/-- The image address of an operand of SWAPCTX or SLOTHAND. -/
def imageAddr (v : Word) : Word := word (bitsNat v 55 11 * 2048)

/-- SWAPCTX or SLOTHAND at issue: the exchange takes effect later. -/
def exchangeWord (hand : Bool) (a : Fin 32) (core slot : Nat) (s : State) : CRes :=
  let sl := slotAt s core slot
  let v := gRead sl a
  privileged core slot s (
    if bitsNat v 63 56 ≠ 0 ∨ bitsNat v 10 1 ≠ 0 then .illegal sl 0x04
    else onTarget (imageAddr v) .update (checkAddr s core slot (imageAddr v) 2048 .update) (fun _ =>
      .act (waitFor core slot (.exchange hand (imageAddr v) (bitAt v 0) [] []) 0)))

/-- SWAPCTX. -/
def execSwapctx (a : Fin 32) (s : State) : Host.Outcome State Fault Refusal := cWord s (exchangeWord false a)

/-- SLOTHAND. -/
def execSlothand (a : Fin 32) (s : State) : Host.Outcome State Fault Refusal := cWord s (exchangeWord true a)

/-- The waits before an exchange are over: the store buffer is empty, accesses have returned, and the units have finished. -/
def exchangeReady (s : State) (core slot : Nat) : Bool :=
  let sl := slotAt s core slot
  sl.sb.isEmpty && portClear s core slot && sl.await == .none

/-- The 128-byte lines of an image, as an exchange reads them. -/
def imageLines (addr : Word) : List (Word × Nat × Access) := (List.range 16).map (fun k => (addr + word (128 * k), 128, .read))

/-- The bytes at a key, as a target. -/
def keyTarget (key : Nat) : Target :=
  if key < apertureBase then .phys key false
  else .pad ((key - apertureBase) / 0x100000) ((key - apertureBase) % 0x100000)

/-- The lines that an exchange with an image writes to memory: those of the image that leaves a full cache, and with WB those of the
image itself (R306, R307). [log 95 DESIGN CHOICE] -/
def backLines (c : Core) (addr : Nat) (back : Bool) : List Nat :=
  (((c.images.filter (fun x => x.addr != addr)).drop (imageCacheSize - 1)).map (fun x => x.addr) ++
    (if back then [addr] else [])).flatMap (fun a => (List.range 16).map (fun k => a / 128 + k))

/-- The ways out of some lines that are written, paid as far as they can be: whether all of them are, the lines paid, and the
updates. -/
def payBack (core ctx : Nat) : List Nat → List Nat → State → Bool × List Nat × List Upd
  | [], paid, _ => (true, paid, [])
  | line :: t, paid, s =>
    if paid.contains line then payBack core ctx t paid s
    else match payOut s core ctx (keyTarget (128 * line)) true with
      | none => (false, paid, [])
      | some g =>
        let us := g s
        let (ok, paid2, vs) := payBack core ctx t (line :: paid) (applyAll s us)
        (ok, paid2, us ++ vs)

/-- The tokens of an exchange, paid as far as they can be (R333): of the lines read of an image that is not cached, and of the lines
written back. The result says whether all are paid, the lines paid of each kind, and the updates. [log 95 DESIGN CHOICE] -/
def payExchange (core slot : Nat) (addr : Word) (t : Target) (back : Bool) (paid wrote : List Nat) (s : State) :
    Bool × List Nat × List Nat × List Upd :=
  let c := coreAt s core
  let (ok, paid2, us) := if c.images.any (fun i => i.addr == keyOf t) then (true, paid, [])
    else payLines (slotAgent s core slot) (imageLines addr) paid s
  if !ok then (false, paid2, wrote, us)
  else
    let (ok2, wrote2, vs) := payBack core (slotAt s core slot).ctx (backLines c (keyOf t) back) wrote (applyAll s us)
    (ok2, paid2, wrote2, us ++ vs)

/-- An exchange checked and made: its lines take their tokens first. [log 95 DESIGN CHOICE] -/
def makeExchange (core slot : Nat) (hand : Bool) (addr : Word) (back : Bool) (paid wrote : List Nat) : Micro := ask (fun s =>
  let sl := slotAt s core slot
  match checkAddr s core slot addr 2048 .update with
  | .ok t =>
    let cached := (coreAt s core).images.any (fun i => i.addr == keyOf t)
    if !cached && badBytes s sl.ctx t 2048 then raiseC core slot (Trouble.of 0x0A addr)
    else
      let (ok, paid2, wrote2, us) := payExchange core slot addr t back paid wrote s
      if !ok then andThen (fun _ => us) (modSlot core slot (fun x => { x with wait := .exchange hand addr back paid2 wrote2 }))
      else andThen (fun _ => us) (match imageWords s (slotReader s core slot) core sl.ctx t with
      | none => skip
      | some img =>
        if imageBad (coreAt s core) core (if hand then none else some sl.ctx) (partOf (coreAt s core) slot) img then
          raiseC core slot (Trouble.of 0x04 addr)
        else exchangeImage core slot (keyOf t) img (bundlePc sl + 4) back)
  | .fault c => raiseC core slot { cause := c, value := addr, write := true }
  | .miss va =>
    (match finishWalk s core (slotWalker s core slot) sl.mode va .update with
     | .ok (_, f) => f
     | .error 0 => skip
     | .error c => raiseC core slot { cause := c, value := addr, write := true })
  | _ => skip)

/-- The exchange that a slot waits for, made in a cycle that it takes (R17). -/
def takeExchange (core slot : Nat) : Micro := ask (fun s =>
  match (slotAt s core slot).wait with
  | .exchange hand addr back paid wrote => andThen (modCore core (fun c => { c with spent := true }))
      (makeExchange core slot hand addr back paid wrote)
  | _ => skip)

/-! ## A hand-over by a core's window (R17, R365) -/

/-- What a command of a core's window comes to. -/
inductive CmdRes where
  | refused
  | done (f : Micro)
  /-- It has not taken effect yet: CMD keeps its value. -/
  | waits (f : Micro)

/-- A window whose command has taken effect. -/
def endCmd (core : Nat) (result : Word) : Micro := modWindow core (fun w => { w with cmd := 0, result := result, begun := none })

/-- The slot of a command. -/
def Window.slot (w : Window) : Nat := bitsNat w.cmd 11 8

/-- A thread is held by R302 or R303. -/
def heldWait : Wait → Bool
  | .replay => true
  | .held => true
  | .retiring _ _ held => held
  | _ => false

/-- Command 9 of a core's window, in a cycle of its slot's that it may take; the image's address is physical. The machine level
asks for it, and it takes no token. [log 63 and 95 DESIGN CHOICE] -/
def handOverCmd (s : State) (core : Nat) : CmdRes :=
  let w := (coreAt s core).window
  let sl := slotAt s core w.slot
  let addr := imageAddr w.op0
  let t : Target := .phys addr.toNat false
  if sl.occupied = true ∧ heldWait sl.wait = false then .refused
  else if bitsNat w.op0 63 56 ≠ 0 ∨ bitsNat w.op0 10 1 ≠ 0 ∨ inSilo (addr.toNat + 2047) = false then .refused
  else match imageWords s (plainReader s) core 0 t with
    | none => .waits skip
    | some img =>
      if imageBad (coreAt s core) core none (partOf (coreAt s core) w.slot) img ||
          (!(coreAt s core).images.any (fun i => i.addr == keyOf t) && poisonedIn s addr.toNat 2048) then .refused
      else .done (andThen
        (modCore core (fun c => { c with spent := true }))
        (exchangeImage core w.slot addr.toNat img sl.regs.pc (bitAt w.op0 0)))

/-- The hand-over that takes a slot's home cycle, where its command waits for it (R17, R365). -/
def dueHandOver (s : State) (core slot : Nat) : Option Micro :=
  let w := (coreAt s core).window
  if bitsNat w.cmd 7 0 = 9 ∧ w.slot = slot then
    (match handOverCmd s core with
     | .done f => some (andThen f (endCmd core 0))
     | _ => none)
  else none

/-! ## DIVSET and DIVCLR (R308, R309) -/

/-- The lehr base of an operand. -/
def lehrBase (v : Word) : Word := word (bitsNat v 55 16 * 65536)

/-- A save or restore that R308 refuses; `part` is the partition that must own the banks, where one must. -/
def divertBad (s : State) (core entry op ctx : Nat) (mask : BitVec 16) (base : Word) (part : Option Nat) : Bool :=
  let c := coreAt s core
  let d := entryAt s core entry
  (op != 1 && op != 2) || mask == 0 ||
  (match part with
   | some p => (List.range 16).any (fun k => bitAt mask k && bankPart c k != p)
   | none => false) ||
  (if op = 1 then d.state != .off || c.divert.toList.any (fun x => x.state != .off && x.ctx == ctx && x.mask &&& mask != 0)
   else d.state != .diverted || d.ctx != ctx || d.mask != mask || d.base != base)

/-- A save or restore begun. -/
def beginDivert (core entry op ctx : Nat) (mask : BitVec 16) (base : Word) : Micro :=
  modEntry core entry (fun _ => Divert.begun ctx mask base (if op = 1 then .saving else .restoring))

/-- DIVSET (R308). -/
def execDivset (a b : Fin 32) (s : State) : Host.Outcome State Fault Refusal :=
  cWord s (fun core slot s =>
    let sl := slotAt s core slot
    let x := gRead sl a
    let y := gRead sl b
    let entry := bitsNat x 2 0
    let op := bitsNat x 4 3
    let ctx := bitsNat y 47 32
    let mask : BitVec 16 := y.truncate 16
    privileged core slot s (
      if bitsNat x 15 5 ≠ 0 ∨ bitsNat x 63 56 ≠ 0 ∨ bitsNat y 31 16 ≠ 0 ∨ bitsNat y 63 48 ≠ 0 ∨
          divertBad s core entry op ctx mask (lehrBase x) (some (partOf (coreAt s core) slot)) = true then
        .illegal sl 0x04
      else .act (andThen (waitFor core slot (.divert entry) 0) (beginDivert core entry op ctx mask (lehrBase x)))))

/-- DIVCLR (R309). -/
def execDivclr (a : Fin 32) (s : State) : Host.Outcome State Fault Refusal :=
  cWord s (fun core slot s =>
    let sl := slotAt s core slot
    let x := gRead sl a
    let st := (entryAt s core (bitsNat x 2 0)).state
    privileged core slot s (
      if bitsNat x 63 3 ≠ 0 ∨ st = .saving ∨ st = .restoring then .illegal sl 0x04
      else .act (andThen (onlyIf (st == .diverted) (entryOff core (bitsNat x 2 0))) (finishPlain core slot))))

/-! ## TLBINV and TLBINVC (R310) -/

/-- TLBINV: the removal follows in TLBINV_COMPLETE. -/
def execTlbinv (a b : Fin 32) (s : State) : Host.Outcome State Fault Refusal :=
  cWord s (fun core slot s =>
    let sl := slotAt s core slot
    let x := gRead sl a
    let y := gRead sl b
    privileged core slot s (
      if bitsNat x 63 56 ≠ 0 ∨ bitsNat y 63 48 ≠ 0 ∨ bitsNat y 31 1 ≠ 0 then .illegal sl 0x04
      else .act (waitFor core slot (.tlbinv (bitsNat y 47 32) (some (x.toNat / 4096 * 4096)) (bitAt y 0)) 0)))

/-- TLBINVC. -/
def execTlbinvc (a : Fin 32) (s : State) : Host.Outcome State Fault Refusal :=
  cWord s (fun core slot s =>
    let sl := slotAt s core slot
    let x := gRead sl a
    privileged core slot s (
      if bitsNat x 63 48 ≠ 0 ∨ bitsNat x 31 0 ≠ 0 then .illegal sl 0x04
      else .act (waitFor core slot (.tlbinv (bitsNat x 47 32) none false) 0)))

/-- What an invalidation removes: everything of a context, what a guest-physical page leads to, or what covers some bytes from a
virtual address on. -/
inductive Removal where
  | all
  | guest
  | range (va n : Nat)
  deriving DecidableEq, Repr

/-- The removal of a TLBINV, or of a TLBINVC. A combined translation of a guest does not name its guest-physical page, so an
invalidation by guest-physical address removes every translation of the context. -/
def removalOf (page : Option Nat) (guest : Bool) : Removal :=
  match page with
  | none => .all
  | some va => if guest then .guest else .range va 4096

/-- A translation that an invalidation removes. [log 32 DEDUCED] -/
def removes (ctx : Nat) (x : Removal) (t : TlbEntry) : Bool :=
  t.ctx == ctx && (match x with
    | .range va n => decide (t.va < va + n ∧ va < t.va + t.size)
    | _ => true)

/-- An upper entry that an invalidation removes: those that lead to the range, and those of a guest's second stage; what a guest-physical
page leads to includes the guest's own tables, which lie in such pages (R345). [log 32 DEDUCED] -/
def removesUpper (ctx : Nat) (x : Removal) (u : UpperEntry) : Bool :=
  u.ctx == ctx && (match x with
    | .all => true
    | .guest => true
    | .range va n => u.second || decide (upperIndex va u.step ≤ u.index ∧ u.index ≤ upperIndex (va + n - 1) u.step))

/-- A target reached through a translation. -/
def TlbEntry.reaches (t : TlbEntry) : Target → Bool
  | .phys pa _ => decide (t.pa ≤ pa ∧ pa < t.pa + t.size)
  | _ => false

/-- The targets of accesses that a slot has begun and not performed. -/
def slotTargets (sl : Slot) : List Target :=
  sl.sb.filterMap (fun e => match e with
    | .store t .. => some t
    | .fence .. => none) ++
  (match sl.wait with
   | .load l => l.pieces.map (fun p => p.tgt)
   | .atomic a => [a.tgt]
   | .storing rest => rest.filterMap (fun e => match e with
     | .store t .. => some t
     | .fence .. => none)
   | _ => [])

/-- Some access of a context that used one of some translations has not been performed. -/
def stillUsed (s : State) (ctx : Nat) (l : List TlbEntry) : Bool :=
  let hit := fun (t : Target) => l.any (fun e => e.reaches t)
  s.slots.any (fun x => x.2.occupied && x.2.ctx == ctx && (slotTargets x.2).any hit) ||
  s.reqs.any (fun r => r.ctx == ctx && hit r.tgt)

/-- The dies of the span of a core's partition, for a context of it. [log 9 DEDUCED] -/
def spanDies (s : State) (ctx core part : Nat) : List Nat :=
  (List.range 4).filter (fun d => d == dieOf core ||
    s.cores.any (fun x => dieOf x.1 == d && inSpan s core part ctx x.1) ||
    (dieRepairable s.pkg.repairMap d && ((spanOf s core part).getD []).any (fun n => dieOf n == d)))

/-- The translations of some dies that an invalidation removes: in their cores', their flocks' and their own TLBs, and those that these
have let go of. [log 32 DEDUCED] -/
def heldGone (s : State) (dies : List Nat) (ctx : Nat) (x : Removal) : List TlbEntry :=
  (s.cores.filter (fun c => dies.contains (dieOf c.1))).flatMap (fun c => c.2.tlb.filter (removes ctx x)) ++
  (s.flocks.filter (fun f => dies.contains (dieOf (f.1 * 8)))).flatMap (fun f => f.2.tlb.filter (removes ctx x)) ++
  dies.flatMap (fun d => ((dieAt s d).tlb ++ (dieAt s d).gone).filter (removes ctx x))

/-- A fetched unit that an invalidation removes: one of the range, or of a translation that is removed. -/
def CodeUnit.goneWith (u : CodeUnit) (ctx : Nat) (x : Removal) (gone : List TlbEntry) : Bool :=
  u.ctx == ctx && (match x with
    | .range va n => decide (u.va < va + n ∧ va < u.va + 8) || gone.any (fun t => decide (t.va ≤ u.va ∧ u.va < t.va + t.size))
    | _ => true)

/-- Translations removed from every TLB of the dies of a span, with what was fetched under them (R310, R345). [log 32 DEDUCED] -/
def removeTranslations (dies : List Nat) (ctx : Nat) (x : Removal) : Micro := ask (fun s =>
  let gone := heldGone s dies ctx x
  let keep := fun (l : List TlbEntry) => l.filter (fun t => !removes ctx x t)
  doAll [
    forAll dies (fun d => modDie d (fun v => { v with tlb := keep v.tlb, gone := keep v.gone, upper := v.upper.filter (fun u => !removesUpper ctx x u) })),
    forAll (s.flocks.filter (fun f => dies.contains (dieOf (f.1 * 8)) && !f.2.tlb.isEmpty)) (fun f =>
      modFlock f.1 (fun v => { v with tlb := keep v.tlb })),
    forAll (s.cores.filter (fun c => dies.contains (dieOf c.1) && !(c.2.code.isEmpty && c.2.tlb.isEmpty))) (fun c =>
      modCore c.1 (fun v => { v with tlb := keep v.tlb, code := v.code.filter (fun u => !u.goneWith ctx x gone) }))])

/-- TLBINV_COMPLETE (R310): its fence at PKG has ended, and no access that used a removed translation is outstanding. [log 32 DEDUCED] -/
def execTlbinvComplete (core slot : Nat) (s : State) : Host.Outcome State Fault Refusal :=
  slotStep s core slot (ask (fun s =>
    let sl := slotAt s core slot
    match sl.wait with
    | .tlbinv ctx page guest =>
      let dies := spanDies s sl.ctx core (partOf (coreAt s core) slot)
      let x := removalOf page guest
      onlyIf (sl.sb.isEmpty && dieSettled s (dieOf core) && !stillUsed s ctx (heldGone s dies ctx x))
        (doAll [acquireMet core slot scopePkg, fenceRelease core slot scopePkg (threadClock s core slot),
          removeTranslations dies ctx x, finishPlain core slot])
    | _ => skip))

/-! ## PFCLR (R311) -/

/-- PFCLR. -/
def execPfclr (s : State) : Host.Outcome State Fault Refusal :=
  cWord s (fun core slot s => privileged core slot s (.act (andThen
    (modCore core (fun c => { c with predictor := Vector.replicate 64 PredEntry.reset }))
    (finishPlain core slot))))

end Sys2Proof.Machine
end

