-- ==== Sys2Proof/Machine/Drover.lean ====
section
/-! DEFINITION. The drover (R257–R264): its jobs, the capacity auction in Q15.16, and AEJOB, AERES and AEABORT. -/

namespace Sys2Proof.Machine

/-! ## Descriptors (Table 11.2) -/

/-- A descriptor's fields, with the parameters of R258. -/
def droverDesc (addr : Word) (bs : List Byte) (sl : Slot) : DroverDesc :=
  { addr := addr, score := word (fieldAt bs 0 8), caps := word (fieldAt bs 8 8), prices := word (fieldAt bs 0x10 8),
    results := word (fieldAt bs 0x18 8), status := word (fieldAt bs 0x20 8), n := fieldAt bs 0x28 2, m := fieldAt bs 0x2A 2,
    stride := fieldAt bs 0x2C 4, eps := sl.ctl.aeeps.truncate 32, maxr := bitsNat sl.ctl.aemaxr 15 0 }

/-- A descriptor that R258 refuses. -/
def droverBad (x : DroverDesc) (bs : List Byte) : Bool :=
  decide (x.score.toNat % 4 ≠ 0 ∨ x.prices.toNat % 4 ≠ 0 ∨ x.status.toNat % 8 ≠ 0 ∨ x.n = 0 ∨ 256 < x.n ∨ x.m = 0 ∨
    64 < x.m ∨ x.stride % 4 ≠ 0 ∨ x.stride < 4 * x.m) ||
  !((bs.drop 0x30).all (fun b => b == 0))

/-- A drover job as it is queued. -/
def droverJob (x : DroverDesc) : JobBody :=
  .drover { desc := x, score := [], cap := [], price := [], held := List.replicate x.n none, rounds := 0, abort := false,
            started := false, loaded := false, wrote := 0, refusal := none }

/-! ## Jobs of a band -/

/-- The drover part of a job. -/
def Job.drover (j : Job) : Option DroverJob :=
  match j.body with
  | .drover d => some d
  | _ => none

/-- A drover job's part changed. -/
def modDrover (order : Nat) (f : DroverJob → DroverJob) : Micro := modJob order (fun j => match j.body with
  | .drover d => { j with body := .drover (f d) }
  | _ => j)

/-- Unfinished jobs of a band's drover. -/
def droverJobs (s : State) (band : Nat) : List (Job × DroverJob) :=
  (s.jobs.filter (fun j => bandOf j.core == band && j.state != .done)).filterMap (fun j => j.drover.map (fun d => (j, d)))

/-- Entries of a drover's queue. -/
def droverEntries : Nat := 16

/-- A drover's queue has room. [log 74 DEDUCED] -/
def droverHasRoom (s : State) (core : Nat) : Bool :=
  decide (((droverJobs s (bandOf core)).filter (fun x => x.1.state == .queued)).length < droverEntries)

/-- The job a drover runs. -/
def runningDrover (s : State) (band : Nat) : Option (Job × DroverJob) :=
  (droverJobs s band).find? (fun x => x.1.state == .running)

/-- A job that was aborted before the drover took it. -/
def DroverJob.dropped (d : DroverJob) : Bool := d.abort && !d.started

/-- The cores of a band in the order in which its drover considers them. -/
def bandCores (band last : Nat) : List Nat :=
  (List.range 72).map (fun k => band / 8 * 576 + band % 8 * 72 + (last + 1 + k) % 72)

/-- The job a drover takes next (R257). -/
def nextDrover (s : State) (band : Nat) : Option (Job × DroverJob) :=
  let l := (droverJobs s band).filter (fun x => x.1.ready s && !x.2.dropped)
  (bandCores band (bandAt s band).last).findSome? (fun core =>
    (sortOn (fun (x : Job × DroverJob) => x.1.order) (l.filter (fun x => x.1.core == core))).head?)

/-! ## AEJOB, AERES and AEABORT -/

/-- AEJOB (R258). -/
def execAejob (d a : Fin 32) (s : State) : Host.Outcome State Fault Refusal :=
  cWord s (fun core slot s =>
    let sl := slotAt s core slot
    let addr := gRead sl a
    withStruct core slot s addr 64 64 (fun bs =>
      let x := droverDesc addr bs sl
      if droverBad x bs then .fault (Trouble.of 0x0C addr)
      else if !droverHasRoom s core then .again (.cond .droverRoom) 0
      else
        let h := nextHandle s core slot 3
        withRoom s core slot (.act (andThen (startJob core slot 3 (droverJob x))
          (finishBundle core slot (fun y => gWrite y d h) none)))))

/-- A drover handle checked (R262): the job's record, if it is kept. -/
def withDrover (core slot : Nat) (a : Fin 32) (s : State) (k : Option (Job × DroverJob) → CRes) : CRes :=
  let sl := slotAt s core slot
  let h := gRead sl a
  match handleJob s core sl.ctx h with
  | none => .illegal sl 0x04
  | some (_, o) =>
    if bitsNat h 19 16 ≠ 3 then .illegal sl 0x04
    else match o with
      | none => k none
      | some j => match j.drover with
        | some d => k (some (j, d))
        | none => .illegal sl 0x04

/-- Rows without a column. -/
def DroverJob.open_ (d : DroverJob) : Nat := (d.held.filter (fun h => h.isNone)).length

/-- AERES's result (R262): DONE says that the status word has been written, which a job that ends on a fault has not done. -/
def droverProgress : Option (Job × DroverJob) → Word
  | none => word (2 ^ 34 + 2 ^ 33 + 2 ^ 32)
  | some (j, d) => word (bitIf d.started 33 + bitIf (j.state == .done && !j.faulted) 32 + d.open_ % 512 * 65536 + d.rounds % 65536)

/-- AERES. -/
def execAeres (d a : Fin 32) (s : State) : Host.Outcome State Fault Refusal :=
  cWord s (fun core slot s => withDrover core slot a s (fun o =>
    .act (finishBundle core slot (fun x => gWrite x d (droverProgress o)) none)))

/-- AEABORT (R263). [log 34 DEDUCED] -/
def execAeabort (a : Fin 32) (s : State) : Host.Outcome State Fault Refusal :=
  cWord s (fun core slot s => withDrover core slot a s (fun o =>
    .act (andThen
      (match o with
       | some (j, _) => onlyIf (j.state != .done) (modDrover j.order (fun d => { d with abort := true }))
       | none => skip)
      (finishPlain core slot))))

/-! ## Q15.16 (R259) -/

/-- Saturation to 32 bits. -/
def sat32 (x : Int) : Int := max (-(2 ^ 31 : Nat)) (min x ((2 ^ 31 : Nat) - 1))

/-- A score converted. -/
def toQ (b : Nat) : Int :=
  match floatVal .fp32 b with
  | .nan .. => -(2 ^ 31 : Nat)
  | .num neg m e => (roundToInt (-(2 ^ 31 : Nat)) ((2 ^ 31 : Nat) - 1) 0 0 (.num neg m (e + 16))).1
  | v => (roundToInt (-(2 ^ 31 : Nat)) ((2 ^ 31 : Nat) - 1) 0 0 v).1

/-! ## A round (R260) -/

/-- The columns that may receive rows. -/
def DroverJob.columns (d : DroverJob) : List Nat := (List.range d.desc.m).filter (fun j => d.cap.getD j 0 != 0)

/-- The first column with the greatest value, and the greatest value of the others, or its own if it is alone. -/
def bestTwo (l : List (Nat × Int)) : Option (Nat × Int × Int) :=
  match l with
  | [] => none
  | x :: t =>
    let top := t.foldl (fun m y => if m.2 < y.2 then y else m) x
    let rest := l.filter (fun y => y.1 != top.1)
    let second := match rest with
      | [] => top.2
      | y :: u => u.foldl (fun m z => max m z.2) y.2
    some (top.1, top.2, second)

/-- The bid of an unassigned row: its column and its bid. -/
def DroverJob.bid (d : DroverJob) (row : Nat) : Option (Nat × Int) :=
  let p := fun (j : Nat) => d.price.getD j 0
  let l := d.columns.map (fun j => (j, sat32 ((d.score.getD row []).getD j 0 - p j)))
  (bestTwo l).map (fun x => (x.1, sat32 (sat32 (p x.1 + sat32 (x.2.1 - x.2.2)) + d.desc.eps.toInt)))

/-- What each row holds or bids in a round. -/
def DroverJob.claims (d : DroverJob) : List (Nat × Nat × Int) :=
  (List.range d.desc.n).filterMap (fun i =>
    match (d.held.getD i none).orElse (fun _ => d.bid i) with
    | some (j, b) => some (i, j, b)
    | none => none)

/-- The claims a column keeps: its highest bids, equal bids to the lower row. -/
def keptBids (cap : Nat) (l : List (Nat × Nat × Int)) : List (Nat × Nat × Int) :=
  (sortOn (fun (x : Nat × Nat × Int) => (((2 ^ 31 : Nat) : Int) - x.2.2).toNat * 512 + x.1) l).take cap

/-- One round of the auction. -/
def DroverJob.round (d : DroverJob) : DroverJob :=
  let claims := d.claims
  let kept := d.columns.map (fun j => (j, keptBids (d.cap.getD j 0) (claims.filter (fun x => x.2.1 == j))))
  let all := kept.flatMap (fun k => k.2)
  { d with
    held := (List.range d.desc.n).map (fun i => (all.find? (fun x => x.1 == i)).map (fun x => x.2))
    price := (List.range d.desc.m).map (fun j =>
      match kept.find? (fun k => k.1 == j) with
      | some (_, x :: t) =>
        if (x :: t).length = d.cap.getD j 0 then t.foldl (fun m y => min m y.2.2) x.2.2 else d.price.getD j 0
      | _ => d.price.getD j 0)
    rounds := d.rounds + 1 }

/-- A job has no round left to run. -/
def DroverJob.over (d : DroverJob) : Bool :=
  d.dropped || d.refusal.isSome || (d.loaded && (d.open_ == 0 || decide (d.desc.maxr ≤ d.rounds) || d.abort))

/-! ## Start, rounds and end -/

/-- The vectors a job reads. -/
def droverSpans (x : DroverDesc) : List Span :=
  (List.range x.n).map (fun i => { addr := x.score + word (i * x.stride), len := 4 * x.m, kind := .read }) ++
    [{ addr := x.caps, len := x.m, kind := .read }, { addr := x.prices, len := 4 * x.m, kind := .read }]

/-- A job's vectors read, or its refusal for want of capacity. -/
def loadDrover (order : Nat) (x : DroverDesc) (j : Job) : Eng Unit :=
  eThen (eEach (fun i => eRead j.party (x.score + word (i * x.stride)) (4 * x.m)) (List.range x.n)) (fun rows =>
  eThen (eRead j.party x.caps x.m) (fun caps =>
  eThen (eRead j.party x.prices (4 * x.m)) (fun ps =>
    let cap := caps.map (fun b => b.toNat)
    eDo (modDrover order (fun d =>
      if cap.foldl (fun n k => n + k) 0 < x.n then { d with refusal := some 2 }
      else { d with
        loaded := true
        cap := cap
        score := rows.map (fun r => (chunks 4 r).map (fun b => toQ (leNat b)))
        price := (chunks 4 ps).map (fun b => sextNat 32 (leNat b)) })))))

/-- A job's start: it refuses an ε that is not positive, else reads its vectors. -/
def startDrover (j : Job) (d : DroverJob) : Micro :=
  if d.desc.eps.toInt ≤ 0 then modDrover j.order (fun d => { d with refusal := some 3 })
  else jobStep j.order (fun _ _ => droverSpans d.desc) (loadDrover j.order d.desc)

/-- DROVER_JOB_START (R258): the drover takes a job and starts it, or goes on with the start of the job it has. -/
def execDroverJobStart (band : Nat) (s : State) : Host.Outcome State Fault Refusal :=
  commit s (onlyIf (coreUp s (band / 8 * 576) && decide (band < 32)) (ask (fun s =>
    match runningDrover s band with
    | some (j, d) => onlyIf (!d.loaded && d.refusal.isNone) (startDrover j d)
    | none =>
      match nextDrover s band with
      | none => skip
      | some (j, d) => doAll [
          modBand band (fun b => { b with last := j.core % 576 % 72 }),
          modJob j.order (fun x => { x with state := .running }),
          modDrover j.order (fun d => { d with started := true }),
          onlyIf (!d.loaded && d.refusal.isNone) (startDrover j d)])))

/-- DROVER_ROUND (R260). [log 34 DEDUCED] -/
def execDroverRound (band : Nat) (s : State) : Host.Outcome State Fault Refusal :=
  commit s (onlyIf (coreUp s (band / 8 * 576)) (ask (fun s =>
    match runningDrover s band with
    | some (j, d) => onlyIf (d.loaded && !d.over) (doAll [
        modDrover j.order DroverJob.round,
        modJob j.order (fun x => { x with info := d.rounds + 1 })])
    | none => skip)))

/-- STATUS of a job that is over (R261); one that an AEABORT has ended is LIMIT (R263). [log 34 DEDUCED] -/
def DroverJob.status (d : DroverJob) : Nat :=
  match d.refusal with
  | some k => k
  | none => if d.open_ = 0 && !d.abort then 0 else 1

/-- The status word (Table 11.3). -/
def DroverJob.statusWord (d : DroverJob) : Nat :=
  d.open_ * 2 ^ 32 + d.rounds * 2 ^ 16 + bitIf d.abort 8 + d.status

/-- What a job that is over writes, in order: prices and results if it ran, then its status word. -/
def DroverJob.writes (d : DroverJob) : List (Word × List Byte) :=
  (if d.loaded then
    [(d.desc.prices, d.price.flatMap (fun (p : Int) => leBytes 4 (p % ((2 ^ 32 : Nat) : Int)).toNat)),
     (d.desc.results, d.held.map (fun h => match h with
       | some (j, _) => BitVec.ofNat 8 j
       | none => 0xFF))]
   else []) ++ [(d.desc.status, leBytes 8 d.statusWord)]

/-- The writes of a job's end cut where 64-byte lines end, each with its address. -/
def DroverJob.pieces (d : DroverJob) : List (Word × List Byte) :=
  d.writes.flatMap (fun w => (piecesOf w.1 w.2.length).map (fun p => (p.1, (w.2.drop (p.1 - w.1).toNat).take p.2)))

/-- The pieces of a job's end written in order; each is counted, so that a job set aside goes on where it stopped (R243). -/
def writePieces (j : Job) : List (Word × List Byte) → Eng Unit
  | [] => eGive ()
  | w :: rest => eThen (eWrite j.party w.1 w.2) (fun _ =>
      eThen (eDo (modDrover j.order (fun d => { d with wrote := d.wrote + 1 }))) (fun _ => writePieces j rest))

/-- The end of a job. -/
def endDrover (j : Job) (d : DroverJob) : Micro :=
  let left := d.pieces.drop d.wrote
  jobStep j.order (fun _ _ => left.map (fun w => { addr := w.1, len := w.2.length, kind := .write }))
    (fun j => eThen (writePieces j left) (fun _ =>
      eDo (endJob j (fun x => { x with status := d.status, info := d.rounds }))))

/-- The job whose end comes next: one aborted in the queue, or the one that runs. -/
def endingDrover (s : State) (band : Nat) : Option (Job × DroverJob) :=
  match (droverJobs s band).find? (fun x => x.2.dropped && x.1.ready s) with
  | some x => some x
  | none => runningDrover s band

/-- DROVER_JOB_END (R261). -/
def execDroverJobEnd (band : Nat) (s : State) : Host.Outcome State Fault Refusal :=
  commit s (onlyIf (coreUp s (band / 8 * 576)) (ask (fun s =>
    match endingDrover s band with
    | some (j, d) => onlyIf d.over (endDrover j d)
    | none => skip)))

end Sys2Proof.Machine
end

