-- ==== Sys2Proof/Machine/Slices.lean ====
section
/-! DEFINITION. The expert slice cache (R265–R271): slices of a context and their states, fills and their victims, evictions,
ESCREQ, ESCPIN, ESCUNPIN, ESCHIST and ESCQ. A resident slice changes no value that a read returns (R266), so no data is held. -/

namespace Sys2Proof.Machine

/-! ## Tags, counters, quotas -/

/-- The address of a slice in the aperture (R83). -/
def sliceAddr (tag : Nat) : Word := word (expertBase + tag * 0x200000)

/-- The counter of a layer and an expert (R265). -/
def counterAddr (base : Word) (layer expert : Nat) : Word := base - 0x200000 + word (2048 * layer + 2 * expert)

/-- The counter of a tag. -/
def tagCounter (base : Word) (tag : Nat) : Word := counterAddr base (tag / 2 ^ 16) (tag / 64 % 1024)

/-- A context's quota in slices. -/
def quotaOf (s : State) (ctx : Nat) : Nat := ((s.pkg.quotas.find? (fun q => q.1 == ctx)).map (fun q => q.2)).getD 0

/-- A slice of a context. -/
def sliceAt (s : State) (ctx tag : Nat) : Slice :=
  ((ctxAt s ctx).slices.find? (fun x => x.tag == tag)).getD
    { tag := tag, state := .absent, pins := 0, used := 0, pinned := 0, victim := none, evictAt := 0 }

/-- A slice changed; one that is absent and has no pins is not listed. -/
def modSlice (ctx tag : Nat) (f : Slice → Slice) : Micro := ask (fun s =>
  let x := f (sliceAt s ctx tag)
  modCtx ctx (fun c => { c with slices := c.slices.filter (fun y => y.tag != tag) ++
    (if x.state == .absent && x.pins == 0 then [] else [x]) }))

/-- Slices of a context that take room: a fill that waits for a victim's room counts with the victim. -/
def heldSlices (s : State) (ctx : Nat) : Nat :=
  ((ctxAt s ctx).slices.filter (fun x => match x.state with
    | .absent => false
    | .filling => x.victim.isNone
    | _ => true)).length

/-- A counter as a fill's choice of victim reads it: as it stands (R269). One that cannot be read is a free value. [log 5 and 36 DESIGN CHOICE] -/
def counterNow (s : State) (core ctx : Nat) (a : Word) : Nat :=
  let r := plainReader s
  match reach s (partyWalker core ctx r) core 0 .supervisor a 2 .read with
  | .ok (t, _) => ((routedBytes s r core ctx t 2).map leNat).getD ((Config.freeWord s.tick).toNat % 65536)
  | .error _ => (Config.freeWord s.tick).toNat % 65536

/-- The victim of a fill of a context (R266): unpinned, resident, with the lowest counter, then the least recently used. A slice
whose eviction was abandoned is no victim for the fill that had chosen it: that fill takes another (R271). [log 38 DEDUCED] -/
def victimOf (s : State) (core ctx : Nat) (rescued : Option Nat) : Option Nat :=
  let base := (ctxAt s ctx).escbase
  let l := (ctxAt s ctx).slices.filter (fun x => x.state == .resident && x.pins == 0 && rescued != some x.tag)
  let counted := l.map (fun x => (counterNow s core ctx (tagCounter base x.tag), x))
  let low := (((sortOn (fun (x : Nat × Slice) => x.1) counted).head?).map (fun x => x.1)).getD 0
  ((sortOn (fun (x : Nat × Slice) => x.2.used) (counted.filter (fun x => x.1 == low))).head?).map (fun x => x.2.tag)

/-! ## Requests -/

/-- The jobs that wait for a slice of a context. -/
def sliceJobs (s : State) (ctx tag : Nat) : List Job := s.jobs.filter (fun j => j.ctx == ctx && j.state != .done &&
  (match j.body with
   | .slice t _ _ => t == tag
   | _ => false))

/-- Every job that waits for a slice ends with a status. -/
def endSliceJobs (ctx tag status : Nat) : Micro := ask (fun s =>
  forAll (sliceJobs s ctx tag) (fun j => endJob j (fun x => { x with status := status })))

/-- A fill that has failed: the slice is absent, the pins that it was to earn are dropped, and its requests are refused. -/
def failFill (ctx tag : Nat) : Micro := andThen
  (modSlice ctx tag (fun x => { x with state := .absent, pins := x.pins - x.pinned, pinned := 0, victim := none }))
  (endSliceJobs ctx tag 5)

/-- Room found for a fill of a slice: free, or a victim's, or none (R266). -/
def seekRoom (core ctx tag : Nat) (rescued : Option Nat) : Micro := ask (fun s =>
  let quota := quotaOf s ctx
  let held := heldSlices s ctx
  if held < quota then modSlice ctx tag (fun x => { x with state := .filling, victim := none })
  else if quota = 0 ∨ quota < held then failFill ctx tag
  else match victimOf s core ctx rescued with
    | none => failFill ctx tag
    | some v => doAll [
        bump,
        modSlice ctx v (fun x => { x with state := .evicting, evictAt := s.tick }),
        modSlice ctx tag (fun x => { x with state := .filling, victim := some v })])

/-- A fill that waited for a victim whose eviction was abandoned looks for room again. [log 38 DEDUCED] -/
def reseek (core ctx victim : Nat) : Micro := ask (fun s =>
  forAll ((ctxAt s ctx).slices.filter (fun x => x.state == .filling && x.victim == some victim)) (fun x =>
    andThen (modSlice ctx x.tag (fun y => { y with state := .absent, victim := none })) (seekRoom core ctx x.tag (some victim))))

/-- An eviction abandoned. -/
def rescue (core ctx tag : Nat) : Micro :=
  andThen (modSlice ctx tag (fun x => { x with state := .resident })) (reseek core ctx tag)

/-- The job whose fill of a slice runs, or is to run: the oldest that waits for it. -/
def fillJob (s : State) (ctx tag : Nat) : Option (Job × Nat) :=
  ((sortOn (fun (j : Job) => j.order) (sliceJobs s ctx tag)).head?).bind (fun j => match j.body with
    | .slice _ _ line => some (j, line)
    | _ => none)

/-- The fill of an absent slice starts, once what its job follows has left its thread's buffer (R100): its choice of victim reads
counters. -/
def startFill (ctx tag : Nat) : Micro := ask (fun s =>
  match fillJob s ctx tag with
  | some (j, _) => onlyIf (j.released s) (seekRoom j.core ctx tag none)
  | none => skip)

/-- A request for a slice that has just been started acts on the slice as it stands (R267). -/
def requestSlice (core ctx tag : Nat) : Micro := ask (fun s =>
  match (sliceAt s ctx tag).state with
  | .resident => endSliceJobs ctx tag 0
  | .filling => skip
  | .evicting => andThen (rescue core ctx tag) (endSliceJobs ctx tag 0)
  | .absent => startFill ctx tag)

/-- With ESCBASE zero every word of major 0x29 is refused (R265); no rule gives that fault an address, so its value is
free. [log 5 and 18 DESIGN CHOICE] -/
def withSlices (core slot : Nat) (s : State) (r : CRes) : CRes :=
  if (ctxAt s (slotAt s core slot).ctx).escbase = 0 then
    .turn (andThen bump (raiseC core slot (Trouble.of 0x08 (Config.freeWord s.tick))))
  else r

/-- A tag operand (R267). -/
def withTag (core slot : Nat) (a : Fin 32) (s : State) (k : Nat → CRes) : CRes :=
  let sl := slotAt s core slot
  let v := gRead sl a
  withSlices core slot s (if bitsNat v 63 26 ≠ 0 then .illegal sl 0x04 else k v.toNat)

/-- ESCREQ (R267). -/
def execEscreq (d a : Fin 32) (s : State) : Host.Outcome State Fault Refusal :=
  cWord s (fun core slot s => withTag core slot a s (fun tag =>
    let ctx := (slotAt s core slot).ctx
    let h := nextHandle s core slot 4
    withRoom s core slot (.act (doAll [startJob core slot 4 (.slice tag false 0), requestSlice core ctx tag,
      finishBundle core slot (fun x => gWrite x d h) none]))))

/-- ESCPIN (R268). A pin that finds the slice absent is dropped if the fill fails, be it that of a request which still waits for what its
thread has released. [log 37 DEDUCED] -/
def execEscpin (a : Fin 32) (s : State) : Host.Outcome State Fault Refusal :=
  cWord s (fun core slot s => withTag core slot a s (fun tag =>
    let sl := slotAt s core slot
    let x := sliceAt s sl.ctx tag
    if 65535 ≤ x.pins then .illegal sl 0x04
    else .act (doAll [
      modSlice sl.ctx tag (fun y => { y with pins := y.pins + 1 }),
      (match x.state with
       | .evicting => andThen (rescue core sl.ctx tag) (endSliceJobs sl.ctx tag 0)
       | .absent => andThen
           (modSlice sl.ctx tag (fun y => { y with pinned := y.pinned + 1 }))
           (onlyIf (sliceJobs s sl.ctx tag).isEmpty (andThen (startJob core slot 4 (.slice tag true 0)) (startFill sl.ctx tag)))
       | _ => skip),
      finishPlain core slot])))

/-- ESCUNPIN (R268). -/
def execEscunpin (a : Fin 32) (s : State) : Host.Outcome State Fault Refusal :=
  cWord s (fun core slot s => withTag core slot a s (fun tag => .act (andThen
    (modSlice (slotAt s core slot).ctx tag (fun y => { y with pins := y.pins - 1, pinned := min y.pinned (y.pins - 1) }))
    (finishPlain core slot))))

/-! ## Fills and evictions -/

/-- 128-byte lines of a slice. -/
def sliceLines : Nat := 16384

/-- What reading a slice's lines comes to: the next line, the fault that stopped it with its address, and the updates. -/
structure FillRes where
  line  : Nat
  fault : Option (Nat × Word)
  us    : List Upd

/-- A slice's lines read in order from one on, as far as the context's tokens reach (R266, R333), with fuel. [log 35 DEDUCED] -/
def readSlice (j : Job) (tag : Nat) : Nat → Nat → State → FillRes
  | 0, line, _ => { line := line, fault := none, us := [] }
  | fuel + 1, line, s =>
    if sliceLines ≤ line then { line := line, fault := none, us := [] }
    else
      let a := sliceAddr tag + word (128 * line)
      match j.party.reach s a .read with
      | .error 0 => { line := line, fault := none, us := [] }
      | .error c => { line := line, fault := some (c, a), us := [] }
      | .ok (t, f) =>
        if badBytes s j.ctx t 128 then { line := line, fault := some (0x0A, a), us := [] }
        else match payNow s (flockOf j.core) j.ctx (lineOf (keyOf t)) with
          | none => { line := line, fault := none, us := [] }
          | some pay =>
            let us := andThen f pay s
            let r := readSlice j tag fuel (line + 1) (applyAll s us)
            { r with us := us ++ r.us }

/-- The progress of a fill noted at its job. -/
def setFillLine (order line : Nat) : Micro := modJob order (fun j => match j.body with
  | .slice t p _ => { j with body := .slice t p line }
  | _ => j)

/-- A fill's fault: not present sets it aside, and any other ends its requests with it. -/
def fillFault (ctx tag : Nat) (j : Job) (cause : Nat) (a : Word) : Micro :=
  if cause = 0x07 then jobFault j.order cause a false
  else doAll [
    modSlice ctx tag (fun x => { x with state := .absent, pins := x.pins - x.pinned, pinned := 0, victim := none }),
    ask (fun s => forAll (sliceJobs s ctx tag) (fun k => failJob k cause a false))]

/-- SLICE_FILL_COMPLETE (R267): a fill that has waited for its release starts, and one that has room reads what it can, and the slice is resident once every line is read. -/
def execSliceFillComplete (ctx tag : Nat) (s : State) : Host.Outcome State Fault Refusal :=
  commit s (onlyIf (running s) (ask (fun s =>
    let x := sliceAt s ctx tag
    if x.state = .absent then startFill ctx tag
    else if x.state = .filling ∧ x.victim = none then
      match fillJob s ctx tag with
      | none => skip
      | some (j, line) =>
        if j.state = .aside ∨ coreUp s j.core = false ∨ j.released s = false then skip
        else
          let r := readSlice j tag sliceLines line s
          andThen (fun _ => r.us) (match r.fault with
            | some (c, a) => andThen (setFillLine j.order r.line) (fillFault ctx tag j c a)
            | none =>
              if sliceLines ≤ r.line then doAll [
                modSlice ctx tag (fun y => { y with state := .resident, used := s.tick, pinned := 0 }),
                bump,
                endSliceJobs ctx tag 0]
              else setFillLine j.order r.line)
    else skip)))

/-- A read of a slice through the aperture is in flight: a load of a thread that began before the eviction, and has still to read a
byte of the slice; one that began later is served from backing memory. [log 35 DEDUCED] -/
def sliceRead (s : State) (ctx tag : Nat) : Bool :=
  let lo := (sliceAddr tag).toNat
  s.slots.any (fun x => x.2.occupied && x.2.ctx == ctx && (match x.2.wait with
    | .load l => decide (l.begun ≤ (sliceAt s ctx tag).evictAt) &&
        overlaps (l.addr.toNat + l.got.length) ((l.pieces.map (fun p => p.size)).foldl (fun n k => n + k) 0) lo 0x200000
    | _ => false))

/-- SLICE_EVICTION_COMPLETE (R271): the slice is removed once no read of it is in flight, and the fill that waits for its room
goes on. -/
def execSliceEvictionComplete (ctx tag : Nat) (s : State) : Host.Outcome State Fault Refusal :=
  commit s (onlyIf (running s) (ask (fun s =>
    if (sliceAt s ctx tag).state = .evicting ∧ sliceRead s ctx tag = false then andThen
      (modSlice ctx tag (fun x => { x with state := .absent }))
      (modCtx ctx (fun c => { c with slices := c.slices.map (fun x =>
        if x.victim = some tag then { x with victim := none } else x) }))
    else skip)))

/-! ## ESCQ (R270) -/

/-- STATE of Table 11.6. -/
def sliceCode : SliceState → Nat
  | .absent => 0
  | .filling => 1
  | .resident => 2
  | .evicting => 3

/-- ESCQ's summary. -/
def sliceSummary (s : State) (ctx : Nat) : Word :=
  let l := (ctxAt s ctx).slices
  word ((l.filter (fun x => x.pins != 0)).length % 65536 * 2 ^ 32 +
    (l.filter (fun x => x.state == .resident)).length % 65536 * 2 ^ 16 + quotaOf s ctx % 65536)

/-- ESCQ. -/
def execEscq (d a : Fin 32) (s : State) : Host.Outcome State Fault Refusal :=
  cWord s (fun core slot s =>
    let sl := slotAt s core slot
    let v := gRead sl a
    withSlices core slot s (
      if v = word (2 ^ 32) then .act (finishBundle core slot (fun x => gWrite x d (sliceSummary s sl.ctx)) none)
      else if bitsNat v 63 26 ≠ 0 then .illegal sl 0x04
      else withStruct core slot s (tagCounter (ctxAt s sl.ctx).escbase v.toNat) 2 2 (fun bs =>
        let x := sliceAt s sl.ctx v.toNat
        .act (finishBundle core slot (fun y =>
          gWrite y d (word (leNat bs * 2 ^ 32 + x.pins * 2 ^ 16 + sliceCode x.state))) none))))

/-! ## ESCHIST (R269) -/

/-- ESCHIST: the update follows in LOAD_DATA_RETURN. [log 8 DEDUCED] -/
def execEschist (a b n : Fin 32) (s : State) : Host.Outcome State Fault Refusal :=
  cWord s (fun core slot s =>
    let sl := slotAt s core slot
    let addr := gRead sl a
    let v := gRead sl b
    let count := bitsNat v 26 16
    withSlices core slot s (
      if bitsNat v 63 27 ≠ 0 ∨ bitsNat v 15 10 ≠ 0 ∨ count = 0 ∨ 1024 < count ∨ 2 ≤ n.val then .illegal sl 0x04
      else onPieces .read (checkPieces s core slot addr 2 .read count) (fun _ =>
        .access (waitFor core slot (.eschist addr (bitsNat v 9 0) count (n.val == 1) []) 0))))

/-- A counter after an ESCHIST: halved if asked, then raised and saturated. -/
def histCounter (halve : Bool) (old add : Nat) : Nat := min ((if halve then old / 2 else old) + add) 0xFFFF

/-- The whole update of an ESCHIST, one step with the counters that it reads. -/
def histStep (w : Party) (base addr : Word) (layer count : Nat) (halve : Bool) : Eng Unit :=
  let n := if halve then 1024 else count
  let at_ := counterAddr base layer 0
  eThen (eRead w addr (2 * count)) (fun vs =>
  eThen (eReadAs w w.homeReader at_ (2 * n)) (fun cs =>
    eWrite w at_ ((List.range n).flatMap (fun e =>
      leBytes 2 (histCounter halve (fieldAt cs (2 * e) 2) (if e < count then fieldAt vs (2 * e) 2 else 0))))))

/-- A wait of a slot whose step is performed whole once its lines are paid for (R333): its own fault comes first, then the A word's
(R113). -/
def paidStep (core slot : Nat) (lines : List (Word × Nat × Access)) (paid : List Nat) (w : List Nat → Wait)
    (f : Eng Unit) (done : Micro) : Micro := ask (fun s =>
  let (ok, paid2, us) := payLines (slotAgent s core slot) lines paid s
  let note := modSlot core slot (fun x => { x with wait := w paid2 })
  andThen (fun _ => us) (if !ok then note
    else match f (applyAll s us) with
      | .later => note
      | .fault c v wr vs => andThen (fun _ => vs) (raiseC core slot { cause := c, value := v, write := wr })
      | .done .. => unlessA core slot (ask (fun s => match f s with
        | .done _ vs => andThen (fun _ => vs) done
        | _ => skip))))

/-- An ESCHIST performed. -/
def performHist (core slot : Nat) (addr : Word) (layer count : Nat) (halve : Bool) (paid : List Nat) : Micro :=
  ask (fun s =>
    let sl := slotAt s core slot
    let base := (ctxAt s sl.ctx).escbase
    let lines := fun (a : Word) (n : Nat) (k : Access) => (piecesOf a n).map (fun p => (p.1, p.2, k))
    onlyIf (sl.sb.isEmpty && releasable s core 6) (paidStep core slot
      (lines addr (2 * count) .read ++ lines (counterAddr base layer 0) (2 * (if halve then 1024 else count)) .write)
      paid (fun l => .eschist addr layer count halve l)
      (histStep (slotAgent s core slot) base addr layer count halve)
      (finishPlain core slot)))

/-! ## Loads and atomics end -/

/-- LOAD_DATA_RETURN (R183): the data of a load, the answer of an atomic or the end of an ESCHIST reaches its thread. -/
def execLoadDataReturn (core slot : Nat) (s : State) : Host.Outcome State Fault Refusal :=
  slotStep s core slot (ask (fun s =>
    match (slotAt s core slot).wait with
    | .load l => onlyIf (!l.queued && portClear s core slot) (advanceLoad core slot l)
    | .answered d => answerAtomic core slot d
    | .eschist addr layer count halve paid => performHist core slot addr layer count halve paid
    | _ => skip))

end Sys2Proof.Machine
end

