-- ==== Sys2Proof/Machine/Kv.lean ====
section
/-! DEFINITION. The KV block translator (R272–R278): the inverted table, KVXL, KVINS and KVDEL, and the export and import of
prefix records. The table's address is physical, as those of the other tables of Table 6.10 are (log entry 41). -/

namespace Sys2Proof.Machine

/-! ## The table (Table 11.7) -/

/-- 0xFFFF_FFFF, which ends a chain and names no block. -/
def kvNone : Nat := 0xFFFFFFFF

/-- A table's header, its place and the tenant that is served. -/
structure KvTable where
  base   : Nat
  home   : Nat
  beyond : Nat
  free   : Nat
  tenant : Nat
  deriving DecidableEq, Repr

/-- An entry of a table. -/
structure KvEntry where
  seq    : Nat
  block  : Nat
  tenant : Nat
  count  : Nat
  next   : Nat
  deriving DecidableEq, Repr

/-- The address of an entry. -/
def KvTable.addr (t : KvTable) (x : Nat) : Nat := t.base + 0x40 + 16 * x

/-- A translator's work on a table: it gives a value and a list of writes, or a fault with its address; either way, the lines
it has touched. -/
structure KvRun (α : Type) where
  result : Except (Nat × Nat) α
  lines  : List Nat

/-- A value. -/
def kvGive {α : Type} (v : α) : KvRun α := { result := .ok v, lines := [] }

/-- A fault. -/
def kvFail {α : Type} (cause addr : Nat) : KvRun α := { result := .error (cause, addr), lines := [] }

/-- One piece of work, then another. -/
def kvThen {α β : Type} (f : KvRun α) (g : α → KvRun β) : KvRun β :=
  match f.result with
  | .error e => { result := .error e, lines := f.lines }
  | .ok v => { result := (g v).result, lines := f.lines ++ (g v).lines }

/-- Bytes of the table read at their home; outside silo memory there is no table, and a poisoned line is data poison. [log 41 DEDUCED] -/
def kvBytes (s : State) (a n : Nat) : KvRun (List Byte) :=
  if !inSilo a || !inSilo (a + n - 1) then kvFail 0x0C a
  else { result := if poisonedIn s a n then .error (0x0A, a) else .ok (memBytes s a n), lines := [lineOf a] }

/-- The header read and checked (R272). [log 41 DEDUCED] -/
def kvHeader (s : State) (ctx : Nat) : KvRun KvTable :=
  let base := (ctxAt s ctx).kvtable.toNat
  if base = 0 then kvFail 0x0C 0
  else kvThen (kvBytes s base 64) (fun bs =>
    let t : KvTable := { base := base, home := fieldAt bs 0 4, beyond := fieldAt bs 4 4, free := fieldAt bs 8 4,
                         tenant := bitsNat (ctxAt s ctx).sessTenant 15 0 }
    if t.home < 8 ∨ 0xFFFFFFFF < t.home + t.beyond ∨ (t.free ≠ kvNone ∧ t.home + t.beyond ≤ t.free) ∨
        (bs.drop 12).all (fun b => b == 0) = false then kvFail 0x0C base
    else kvGive t)

/-- An entry read; a next value that names no entry is a bad descriptor at the entry. -/
def kvEntry (s : State) (t : KvTable) (x : Nat) : KvRun KvEntry :=
  kvThen (kvBytes s (t.addr x) 16) (fun bs =>
    let e : KvEntry := { seq := fieldAt bs 0 4, block := fieldAt bs 4 4, tenant := fieldAt bs 8 2, count := fieldAt bs 10 2,
                         next := fieldAt bs 12 4 }
    if e.next ≠ kvNone ∧ t.home + t.beyond ≤ e.next then kvFail 0x0C (t.addr x) else kvGive e)

/-- Fields that an operation writes, each with its address. -/
abbrev KvWrites := List (Nat × List Byte)

/-- An entry filled for a sequence, a block and the table's tenant, with a count of 1. -/
def KvTable.fill (t : KvTable) (x seq block : Nat) : KvWrites :=
  [(t.addr x, leBytes 4 seq ++ leBytes 4 block), (t.addr x + 8, leBytes 2 t.tenant ++ leBytes 2 1)]

/-- An entry's count. -/
def KvTable.putCount (t : KvTable) (x n : Nat) : KvWrites := [(t.addr x + 10, leBytes 2 n)]

/-- An entry's next. -/
def KvTable.putNext (t : KvTable) (x n : Nat) : KvWrites := [(t.addr x + 12, leBytes 4 n)]

/-- The header's free-list head. -/
def KvTable.putFree (t : KvTable) (x : Nat) : KvWrites := [(t.base + 8, leBytes 4 x)]

/-- The bucket of a sequence and block (R273). -/
def KvTable.bucket (t : KvTable) (seq block : Nat) : Nat :=
  (seq * 2 ^ 32 + block) * 0x9E3779B97F4A7C15 % 2 ^ 64 / 2 ^ 32 % t.home

/-- An entry maps a block of a sequence for the table's tenant. -/
def KvTable.holds (t : KvTable) (seq block : Nat) (e : KvEntry) : Bool :=
  e.count != 0 && e.seq == seq && e.block == block && e.tenant == t.tenant

/-- The probes of a bucket, with their entries. -/
def kvProbes (s : State) (t : KvTable) (h : Nat) : Nat → KvRun (List (Nat × KvEntry))
  | 0 => kvGive []
  | k + 1 => kvThen (kvProbes s t h k) (fun l =>
      kvThen (kvEntry s t ((h + k) % t.home)) (fun e => kvGive (l ++ [((h + k) % t.home, e)])))

/-- A chain from an entry on, with the entry before each; the fuel is the steps that are left. -/
def kvChain (s : State) (t : KvTable) : Nat → Nat → Nat → KvRun (List (Nat × KvEntry))
  | 0, before, x => if x = kvNone then kvGive [] else kvFail 0x0C (t.addr before)
  | fuel + 1, _, x =>
    if x = kvNone then kvGive []
    else kvThen (kvEntry s t x) (fun e =>
      kvThen (kvChain s t fuel x e.next) (fun l => kvGive ((x, e) :: l)))

/-- What a search of the table finds: the bucket, its probes, its chain, and the match. -/
structure KvFound where
  home   : Nat
  probes : List (Nat × KvEntry)
  chain  : List (Nat × KvEntry)
  hit    : Option (Nat × KvEntry)
  deriving DecidableEq, Repr

/-- A search: all eight probes, then the whole chain of the bucket (R273). -/
def kvSearch (s : State) (t : KvTable) (seq block : Nat) : KvRun KvFound :=
  let h := t.bucket seq block
  kvThen (kvProbes s t h 8) (fun probes =>
  kvThen (kvChain s t 256 h (((probes.head?).map (fun p => p.2.next)).getD kvNone)) (fun chain =>
    kvGive { home := h, probes := probes, chain := chain,
             hit := (probes ++ chain).find? (fun p => t.holds seq block p.2) }))

/-- A result and the fields that it writes. -/
abbrev KvOut := Int × KvWrites

/-- KVXL. -/
def kvLookup (s : State) (t : KvTable) (seq block : Nat) : KvRun KvOut :=
  kvThen (kvSearch s t seq block) (fun f => kvGive (match f.hit with
    | some (x, _) => ((x : Int), [])
    | none => (-1, [])))

/-- KVINS (R274). -/
def kvInsert (s : State) (t : KvTable) (seq block : Nat) : KvRun KvOut :=
  kvThen (kvSearch s t seq block) (fun f =>
    let first := fun (x : Nat) => (((x + 2 ^ 32 : Nat) : Int))
    match f.hit with
    | some (x, e) =>
      if e.count = 0xFFFF then kvGive (-2, [])
      else kvGive (((x + (e.count + 1) * 2 ^ 32 : Nat) : Int), t.putCount x (e.count + 1))
    | none =>
      match f.probes.find? (fun p => p.2.count == 0) with
      | some (x, _) => kvGive (first x, t.fill x seq block)
      | none =>
        if t.free = kvNone then kvGive (-1, [])
        else kvThen (kvEntry s t t.free) (fun e =>
          let tail := (f.chain.getLast?).orElse (fun _ => f.probes.head?)
          kvGive (first t.free, t.putFree e.next ++ t.fill t.free seq block ++ t.putNext t.free kvNone ++
            (match tail with
             | some (x, _) => t.putNext x t.free
             | none => []))))

/-- The entry whose next field leads to an entry of a bucket's chain. -/
def KvFound.before (f : KvFound) (x : Nat) : Option (Nat × KvEntry) :=
  match (f.chain.find? (fun p => p.2.next == x)) with
  | some p => some p
  | none => f.probes.head?

/-- KVDEL (R275). -/
def kvDelete (s : State) (t : KvTable) (seq block : Nat) : KvRun KvOut :=
  kvThen (kvSearch s t seq block) (fun f => kvGive (match f.hit with
    | none => (-1, [])
    | some (x, e) =>
      let left := e.count - 1
      (((x + left * 2 ^ 32 : Nat) : Int),
        if left ≠ 0 ∨ x < t.home then t.putCount x left
        else
          (match f.before x with
           | some (y, _) => t.putNext y e.next
           | none => []) ++ t.putCount x 0 ++ t.putNext x t.free ++ t.putFree x)))

/-- One operation. -/
def kvOperation (s : State) (ctx op : Nat) (seq block : Nat) : KvRun KvOut :=
  kvThen (kvHeader s ctx) (fun t => match op with
    | 0 => kvLookup s t seq block
    | 1 => kvInsert s t seq block
    | _ => kvDelete s t seq block)

/-! ## KVXL, KVINS, KVDEL -/

/-- The operands of KVXL. -/
def kvWord (op : Nat) (d a b : Fin 32) (core slot : Nat) (s : State) : CRes :=
  let sl := slotAt s core slot
  let x := gRead sl a
  let y := gRead sl b
  if bitsNat x 63 32 ≠ 0 ∨ bitsNat y 63 32 ≠ 0 then .illegal sl 0x04
  else .access (waitFor core slot (.kv op d (x.truncate 32) (y.truncate 32) []) 0)

/-- KVXL (R273). -/
def execKvxl (d a b : Fin 32) (s : State) : Host.Outcome State Fault Refusal := cWord s (kvWord 0 d a b)

/-- KVINS (R274). -/
def execKvins (d a b : Fin 32) (s : State) : Host.Outcome State Fault Refusal := cWord s (kvWord 1 d a b)

/-- KVDEL (R275). -/
def execKvdel (d a b : Fin 32) (s : State) : Host.Outcome State Fault Refusal := cWord s (kvWord 2 d a b)

/-- Lines of a physical range paid for as far as a context's tokens reach (R333). -/
def payKeys (flock ctx : Nat) : List Nat → List Nat → State → Bool × List Nat × List Upd
  | [], paid, _ => (true, paid, [])
  | l :: t, paid, s =>
    if paid.contains l then payKeys flock ctx t paid s
    else match payNow s flock ctx l with
      | none => (false, paid, [])
      | some f =>
        let us := f s
        let (ok, p, vs) := payKeys flock ctx t (l :: paid) (applyAll s us)
        (ok, p, us ++ vs)

/-- Fields of a table written at their home for a party. -/
def kvStore (writer : State → Writer) (l : KvWrites) : Micro :=
  forAll l (fun x => ask (fun s => andThen (countWrite (writer s)) (writeHome (writer s) x.1 x.2)))

/-- A translator's operation made for a slot: it writes as a party of its own, and the slot acquires exactly its writes (R101). -/
def kvPerform (core slot : Nat) (l : KvWrites) (f : Micro) : Micro := ask (fun s =>
  let p := jobParty s.tick
  doAll [
    kvStore (fun s => unitWriter s p true) l,
    bump,
    ask (fun s => acquireClock core slot (unitClock s p)),
    f])

/-- KV_TRANSLATOR_OP (R276): once the thread's stores are visible and the lines are paid for, the operation is one step, and the thread
acquires its result. -/
def execKvTranslatorOp (core slot : Nat) (s : State) : Host.Outcome State Fault Refusal :=
  slotStep s core slot (ask (fun s =>
    let sl := slotAt s core slot
    match sl.wait with
    | .kv op d seq block paid =>
      if !sl.sb.isEmpty || !dieSettled s (dieOf core) then skip
      else
        let r := kvOperation s sl.ctx op seq.toNat block.toNat
        let (ok, paid2, us) := payKeys (flockOf core) sl.ctx r.lines paid s
        andThen (fun _ => us) (
          if !ok then modSlot core slot (fun x => { x with wait := .kv op d seq block paid2 })
          else match r.result with
            | .error (c, a) => raiseC core slot (Trouble.of c (word a))
            | .ok (v, l) => unlessA core slot (kvPerform core slot l
                (finishBundle core slot (fun x => gWrite x d (BitVec.ofInt 64 v)) none)))
    | _ => skip))

/-! ## Prefix records (Table 11.8) -/

/-- Blocks a record may name. -/
def kvBlocks : Nat := 4096

/-- Bytes of a record before its MAC. -/
def recordSize (n : Nat) : Nat := 0x40 + (4 * n + 31) / 32 * 32

/-- The identity that a record carries: model, digest and tenant. -/
def sessionBytes (c : Ctx) : List Byte :=
  leBytes 8 c.sessModel.toNat ++ c.sessDigest.toList.flatMap (fun w => leBytes 8 w.toNat) ++
    leBytes 2 (bitsNat c.sessTenant 15 0)

/-- A record without its MAC. -/
def recordBytes (c : Ctx) (seq : Nat) (blocks : List Nat) : List Byte :=
  let head := sessionBytes c ++ leBytes 2 0 ++ leBytes 4 blocks.length ++ leBytes 4 seq ++ List.replicate 12 (0 : Byte)
  let list := blocks.flatMap (leBytes 4)
  head ++ list ++ List.replicate (recordSize blocks.length - 0x40 - list.length) (0 : Byte)

/-- A session key's bytes, word 0 first, each least significant byte first. [log 39 DEDUCED] -/
def keyBytes (k : Vector Word 4) : List Byte := k.toList.flatMap (fun w => leBytes 8 w.toNat)

/-- KVEXP (R277). The job keeps the session key that is loaded when it starts (R369). [log 39 DEDUCED] -/
def execKvexp (d a b : Fin 32) (s : State) : Host.Outcome State Fault Refusal :=
  cWord s (fun core slot s =>
    let sl := slotAt s core slot
    let addr := gRead sl a
    let v := gRead sl b
    let n := bitsNat v 47 32
    let h := nextHandle s core slot 5
    if bitsNat v 63 48 ≠ 0 ∨ n = 0 ∨ kvBlocks < n then .illegal sl 0x04
    else if addr.toNat % 64 ≠ 0 then .fault (Trouble.of 0x05 addr)
    else withRoom s core slot (.act (andThen
      (startJob core slot 5 (.kvExport addr (v.truncate 32) n s.pkg.key))
      (finishBundle core slot (fun x => gWrite x d h) none))))

/-- KVIMP (R278). [log 39 DEDUCED] -/
def execKvimp (d a : Fin 32) (s : State) : Host.Outcome State Fault Refusal :=
  cWord s (fun core slot s =>
    let sl := slotAt s core slot
    let addr := gRead sl a
    let h := nextHandle s core slot 5
    if addr.toNat % 64 ≠ 0 then .fault (Trouble.of 0x05 addr)
    else withRoom s core slot (.act (andThen (startJob core slot 5 (.kvImport addr s.pkg.key))
      (finishBundle core slot (fun x => gWrite x d h) none))))

/-- Work on a table as a piece of an engine's step. -/
def eKv {α : Type} (f : State → KvRun α) : Eng α := fun s =>
  match (f s).result with
  | .ok v => .done v []
  | .error (c, a) => .fault c (word a) false []

/-- The block numbers of a sequence, as a job looks them up; a missing one reads 0xFFFF_FFFF. -/
def exportBlocks (s : State) (ctx seq n : Nat) : KvRun (List Nat) :=
  kvThen (kvHeader s ctx) (fun t =>
    (List.range n).foldl (fun r i => kvThen r (fun l =>
      kvThen (kvSearch s t seq i) (fun f =>
        kvGive (l ++ [(f.hit.map (fun p => p.1)).getD kvNone])))) (kvGive []))

/-- The status and the bytes of an export. -/
def exportRecord (c : Ctx) (key : Vector Word 4) (seq : Nat) (blocks : List Nat) : Nat × List Byte :=
  let body := recordBytes c seq blocks
  if blocks.contains kvNone then (4, body ++ List.replicate 32 (0 : Byte)) else (0, body ++ hmac (keyBytes key) body)

/-- A KV job of a handle that may be performed: what it follows is visible. -/
def kvJob (s : State) (core ctx n : Nat) : Option Job :=
  s.jobs.find? (fun j => j.kind == 5 && j.core == core && j.ctx == ctx && j.n == n && j.state == .queued && j.released s &&
    dieSettled s (dieOf core))

/-- A job's table lines paid for as far as its context's tokens reach, and then the rest of its step. -/
def payTable (j : Job) (lines : List Nat) (f : Micro) : Micro := ask (fun s =>
  let (ok, paid, us) := payKeys (flockOf j.core) j.ctx lines j.paid s
  doAll [fun _ => us, modJob j.order (fun x => { x with paid := paid }), onlyIf ok f])

/-- Blocks of a record of `n` that its first bytes hold. -/
def blocksWithin (n bytes : Nat) : Nat := min n ((bytes - 0x40) / 4)

/-- A record of `n` blocks written line by line; INFO counts the blocks that have been written, also where a fault ends it (R277). -/
def writeRecord (j : Job) (addr : Word) (n : Nat) (bs : List Byte) : Eng Unit :=
  eThen (eEach (fun p =>
      let at_ := (p.1 - addr).toNat
      eThen (eWriteLine j.party p.1 ((bs.drop at_).take p.2)) (fun _ =>
        eDo (modJob j.order (fun x => { x with info := blocksWithin n (at_ + p.2) }))))
    (piecesOf addr bs.length)) (fun _ => eGive ())

/-- KV_EXPORT_JOB (R277). -/
def execKvExportJob (core ctx n : Nat) (s : State) : Host.Outcome State Fault Refusal :=
  coreStep s core (ask (fun s =>
    match kvJob s core ctx n with
    | none => skip
    | some j =>
      match j.body with
      | .kvExport _ _ _ none => endJob j (fun x => { x with status := 5 })
      | .kvExport addr seq count (some key) =>
        payTable j (exportBlocks s j.ctx seq.toNat count).lines (jobStep j.order
          (fun _ _ => [{ addr := addr, len := recordSize count + 32, kind := .write }])
          (fun j => eThen (eKv (fun s => exportBlocks s j.ctx seq.toNat count)) (fun blocks => eAsk (fun s =>
            let (status, bs) := exportRecord (ctxAt s j.ctx) key seq.toNat blocks
            eThen (writeRecord j addr count bs) (fun _ =>
              eDo (endJob j (fun x => { x with status := status, info := count })))))))
      | _ => skip))

/-- The entries that a record lists, each with one more use, or none when one of them refuses (R278). -/
def importEntries (s : State) (t : KvTable) (seq : Nat) : List (Nat × Nat) → List (Nat × KvEntry) →
    KvRun (Option (List (Nat × KvEntry)))
  | [], acc => kvGive (some acc)
  | (i, x) :: rest, acc =>
    if t.home + t.beyond ≤ x then kvGive none
    else kvThen (match acc.find? (fun p => p.1 == x) with
        | some p => kvGive p.2
        | none => kvEntry s t x) (fun e =>
      if !t.holds seq i e || e.count == 0xFFFF then kvGive none
      else importEntries s t seq rest ((x, { e with count := e.count + 1 }) :: acc.filter (fun p => p.1 != x)))

/-- What an import comes to: the fields it writes, or a refusal. -/
def importWrites (s : State) (ctx : Nat) (key : Vector Word 4) (body mac : List Byte) : KvRun (Option KvWrites) :=
  let count := fieldAt body 0x2C 4
  if body.take 0x2A != sessionBytes (ctxAt s ctx) || mac.all (fun b => b == 0) || hmac (keyBytes key) body != mac then
    kvGive none
  else kvThen (kvHeader s ctx) (fun t =>
    kvThen (importEntries s t (fieldAt body 0x30 4)
        ((List.range count).map (fun i => (i, fieldAt body (0x40 + 4 * i) 4))) []) (fun o =>
      kvGive (o.map (fun l => l.flatMap (fun p => t.putCount p.1 p.2.count)))))

/-- The record that an import reads: its header, then its blocks and MAC. -/
def eRecord (j : Job) (addr : Word) : Eng (List Byte × List Byte) :=
  eThen (eRead j.party addr 0x40) (fun head =>
    let n := fieldAt head 0x2C 4
    if n = 0 ∨ kvBlocks < n then eFail 0x0C addr false
    else
      let rest := recordSize n - 0x40
      eThen (eRead j.party (addr + 0x40) (rest + 32)) (fun bs => eGive (head ++ bs.take rest, bs.drop rest)))

/-- The table lines that an import touches. -/
def importLines (s : State) (j : Job) (addr : Word) (key : Option (Vector Word 4)) : List Nat :=
  match key, eRecord j addr s with
  | some k, .done r _ => (importWrites s j.ctx k r.1 r.2).lines
  | _, _ => []

/-- KV_IMPORT_JOB (R278). -/
def execKvImportJob (core ctx n : Nat) (s : State) : Host.Outcome State Fault Refusal :=
  coreStep s core (ask (fun s =>
    match kvJob s core ctx n with
    | none => skip
    | some j =>
      match j.body with
      | .kvImport addr key =>
        payTable j (importLines s j addr key) (jobStep j.order
          (fun j s => match eRead j.party addr 0x40 s with
            | .done head _ =>
              [{ addr := addr, len := recordSize (min (fieldAt head 0x2C 4) kvBlocks) + 32, kind := .read }]
            | _ => [])
          (fun j => eThen (eRecord j addr) (fun r =>
            let refuse : Eng Unit := eDo (endJob j (fun x => { x with status := 5 }))
            match key with
            | none => refuse
            | some k => eThen (eKv (fun s => importWrites s j.ctx k r.1 r.2)) (fun o => match o with
              | none => refuse
              | some l => eDo (andThen (kvStore (fun s => jobWriter s j.order) l)
                  (endJob j (fun x => { x with status := 0, info := fieldAt r.1 0x2C 4 })))))))
      | _ => skip))

end Sys2Proof.Machine
end

