-- ==== Sys2Proof/Machine/TilePages.lean ====
section
/-! DEFINITION. Tile pages (R213–R216, R349–R351): PCOMMIT, PDECOMMIT and PPROBE, the commit pool, and the invalidation that
ends a decommit. -/

namespace Sys2Proof.Machine

/-! ## The leaves of a tile page -/

/-- The sixteen leaves of a tile page: the physical address of the first, and their bits. -/
structure TileLeaves where
  addr : Nat
  bits : List Nat
  deriving DecidableEq, Repr

/-- Bit `k` of the first leaf, which keeps A, D and FREEING for the page. -/
def TileLeaves.has (t : TileLeaves) (k : Nat) : Bool := t.bits.headD 0 / 2 ^ k % 2 == 1

/-- Where a table of a context lies: a guest's lies where its second stage says (R343). -/
def tablePlace (s : State) (w : Walker) (a : Nat) : Except Nat Nat :=
  if (ctxAt s w.ctx).gptbase = 0 then .ok a else (stageTwo s w a).map (fun r => r.2)

/-- The step-4 table that covers an address, from step `step` on (R213): a missing upper level is not present, and a leaf
above level 0 is no tile page. -/
def leafTable (s : State) (w : Walker) (va : Nat) : Nat → Nat → Nat → Except Nat Nat
  | 0, _, table => .ok table
  | fuel + 1, step, table =>
    match tablePlace s w (table + 8 * stepIndex va step) with
    | .error c => .error c
    | .ok a =>
      match readPte s w a with
      | .error c => .error c
      | .ok e =>
        if !e.v then .error 0x07
        else if !e.pointer || e.malformed step then .error 0x08
        else leafTable s w va fuel (step + 1) e.frame

/-- A walker that sees memory as it stands at its homes: one of a die that no core lies on. [log 58 DEDUCED] -/
def homeWalker (s : State) (ctx : Nat) : Walker := { die := 4, ctx := ctx, reader := plainReader s, sb := [] }

/-- The leaves of the tile page at an address, as a walker reads them. -/
def tileLeaves (s : State) (w : Walker) (va : Nat) : Except Nat TileLeaves :=
  let root := (ctxAt s w.ctx).ptbase.toNat
  if root = 0 then .error 0x07
  else match leafTable s w va 4 0 root with
    | .error c => .error c
    | .ok table =>
      match tablePlace s w (table + 8 * stepIndex va 4) with
      | .error c => .error c
      | .ok a =>
        if !inSilo a then .error 0x08
        else if poisonedIn s a 128 then .error 0x0A
        else if w.sb.any (fun e => e.touches a 128) then .error 0
        else
          let bits := (chunks 8 (viewBytes s w.reader w.die a 128 a)).map leNat
          if bits.all (fun b => b / 2 ^ 10 % 2 == 1) then .ok { addr := a, bits := bits } else .error 0x08

/-- Leaves as they stand at their home, where a commit or a decommit acts on them as one step. -/
def TileLeaves.atHome (t : TileLeaves) (s : State) : TileLeaves := { t with bits := (chunks 8 (memBytes s t.addr 128)).map leNat }

/-- A party's write of bytes at their home. -/
def writeBy (writer : State → Writer) (key : Nat) (bs : List Byte) : Micro := ask (fun s =>
  andThen (countWrite (writer s)) (writeHome (writer s) key bs))

/-- The leaves written: each by its number and its old bits. -/
def putLeaves (writer : State → Writer) (t : TileLeaves) (f : Nat → Nat → Nat) : Micro :=
  writeBy writer t.addr (((List.range 16).zip t.bits).flatMap (fun x => leBytes 8 (f x.1 x.2)))

/-- Bits of an entry cleared. -/
def clearBits (b : Nat) (l : List Nat) : Nat := l.foldl (fun n k => n - n / 2 ^ k % 2 * 2 ^ k) b

/-- A leaf of a committed page (R350): its PPN and V set, A, D and FREEING clear. -/
def committedLeaf (frame i b : Nat) : Nat :=
  let c := clearBits b [0, 5, 6, 11]
  c - c / 2 ^ 12 % 2 ^ 40 * 2 ^ 12 + (frame + 4096 * i) + 1

/-- A leaf of a page that has been freed and awaits invalidation. -/
def freeingLeaf (b : Nat) : Nat := clearBits b [0, 5, 6, 11] + 2 ^ 11

/-- A leaf of a page whose frame has been pushed. -/
def pushedLeaf (b : Nat) : Nat :=
  let c := clearBits b [11]
  c - c / 2 ^ 12 % 2 ^ 40 * 2 ^ 12

/-! ## The pool (Table 18.6) -/

/-- A pool header as it stands at its home. -/
structure Pool where
  header  : Nat
  top     : Nat
  cap     : Nat
  stack   : Nat
  pending : Nat
  deriving DecidableEq, Repr

/-- The pool of a context, if it has one. -/
def poolOf (s : State) (ctx : Nat) : Option Pool :=
  let h := (ctxAt s ctx).poolbase.toNat
  if h = 0 then none
  else some { header := h, top := memNat s h 4, cap := memNat s (h + 4) 4, stack := memNat s (h + 8) 8,
              pending := memNat s (h + 0x10) 4 }

/-- A header in silo memory, whole, and not poisoned; the cause otherwise. [log 40 DEDUCED] -/
def Pool.fault (s : State) (p : Pool) : Option Nat :=
  if !inSilo p.header then some 0x0C else if poisonedIn s p.header 64 then some 0x0A else none

/-- A frame that the pool may hold: 64 KiB aligned, in silo memory. [log 40 DEDUCED] -/
def frameOk (f : Nat) : Bool := decide (f % 65536 = 0) && inSilo (f + 65535)

/-- A thread's next write of a pool or of its leaves, in its PCOMMIT or PDECOMMIT; `rel` is the scope of its release. -/
def tileWriter (core slot : Nat) (rel : Option Nat) (s : State) : Writer :=
  slotWriter s core slot (threadClock s core slot) rel true

/-! ## Operands (R213) -/


/-- The address checks of PCOMMIT, PDECOMMIT and PPROBE, and the page's leaves. -/
def withTile (core slot : Nat) (a : Fin 32) (s : State) (k : Word → TileLeaves → CRes) : CRes :=
  let sl := slotAt s core slot
  let addr := gRead sl a
  let region := regionOf addr.toNat
  let local_ := region == .pad || region == .parison || region == .aperture
  if region = .reserved ∨ (sl.pair = .execute ∧ local_ = true) then .fault (Trouble.of 0x06 addr)
  else if addr.toNat % 65536 ≠ 0 then .fault (Trouble.of 0x05 addr)
  else if region ≠ .ordinary then .fault (Trouble.of 0x06 addr)
  else match tileLeaves s (slotWalker s core slot) addr.toNat with
    | .error 0 => .again (.cond .tablesClear) 0
    | .error c => .fault (Trouble.of c addr)
    | .ok t => k addr t

/-- PCOMMIT (R213): it ends in PCOMMIT_COMPLETE. -/
def execPcommit (d a : Fin 32) (s : State) : Host.Outcome State Fault Refusal :=
  cWord s (fun core slot s => withTile core slot a s (fun addr _ => .access (waitFor core slot (.pcommit d addr []) 0)))

/-- A page that a slot has unmapped: the push of its frame follows all that happens before it (R349). -/
def Freeing.of (s : State) (core slot va : Nat) : Freeing :=
  { page := va, core := core, slot := slot, mark := (slotAt s core slot).sbIn, clock := releaseClock s core slot }

/-- A page unmapped (R350). -/
def unmap (core slot : Nat) (va : Nat) (t : TileLeaves) : Micro := ask (fun s =>
  let ctx := (slotAt s core slot).ctx
  doAll [
  putLeaves (tileWriter core slot none) t (fun _ b => freeingLeaf b),
  (match poolOf s ctx with
   | some p => writeBy (tileWriter core slot none) (p.header + 0x10) (leBytes 4 ((p.pending + 1) % 2 ^ 32))
   | none => skip),
  ask (fun s => modCtx ctx (fun c => { c with freeing := c.freeing ++ [Freeing.of s core slot va] }))])

/-- PDECOMMIT (R214). It waits for its die's own stores to the leaves. -/
def execPdecommit (d a : Fin 32) (s : State) : Host.Outcome State Fault Refusal :=
  cWord s (fun core slot s => withTile core slot a s (fun addr t =>
    if dieBusy s (dieOf core) t.addr 128 then .again (.cond .tablesClear) 0
    else
      let now := t.atHome s
      .act (if now.has 0 then andThen (unmap core slot addr.toNat now) (finishBundle core slot (fun x => gWrite x d 0) none)
        else finishBundle core slot (fun x => gWrite x d 1) none)))

/-- PPROBE's result (Table 9.9). -/
def probeWord (s : State) (ctx : Nat) (t : TileLeaves) : Word :=
  let free := min (((poolOf s ctx).map (fun p => p.top)).getD 0) 0xFFFF
  let state := if t.has 0 then 1 else if t.has 11 then 2 else 0
  word (free * 2 ^ 32 + bitIf (t.has 0 && t.has 6) 3 + bitIf (t.has 0 && t.has 5) 2 + state)

/-- PPROBE (R215). It takes its place among the commits and decommits of its page (R216), and waits for its die's own stores to the
leaves. -/
def execPprobe (d a : Fin 32) (s : State) : Host.Outcome State Fault Refusal :=
  cWord s (fun core slot s => withTile core slot a s (fun _ t =>
    if dieBusy s (dieOf core) t.addr 128 then .again (.cond .tablesClear) 0
    else .act (finishBundle core slot (fun x => gWrite x d (probeWord s (slotAt s core slot).ctx (t.atHome s))) none)))

/-! ## The end of a commit and of a decommit -/

/-- The lines of a frame. -/
def frameLines (f : Nat) : List Nat := (List.range 512).map (fun k => lineOf f + k)

/-- What the newest writes of a pool's TOP release. -/
def Pool.heads (s : State) (p : Pool) : List Head := (readFrom s [] p.header 4).flatMap (fun w => w.heads)

/-- A frame popped, which acquires and releases at PKG scope (R349), zeroed and mapped. -/
def mapFrame (core slot : Nat) (p : Pool) (frame : Nat) (t : TileLeaves) : Micro := ask (fun s => doAll [
  acquire core slot scopePkg none (p.heads s),
  writeBy (tileWriter core slot (some scopePkg)) p.header (leBytes 4 (p.top - 1)),
  putBytes frame (List.replicate 65536 (0 : Byte)),
  forget frame 65536,
  touchAll frame 65536,
  putLeaves (tileWriter core slot none) t (committedLeaf frame)])

/-- PCOMMIT_COMPLETE (R350): one step on the page and on the pool, once what the pop releases is visible. [log 40 DEDUCED] -/
def execPcommitComplete (core slot : Nat) (s : State) : Host.Outcome State Fault Refusal :=
  slotStep s core slot (ask (fun s =>
    let sl := slotAt s core slot
    match sl.wait with
    | .pcommit d addr paid =>
      let answer := fun (v : Word) => finishBundle core slot (fun x => gWrite x d v) none
      (match tileLeaves s (slotWalker s core slot) addr.toNat with
       | .error 0 => skip
       | .error c => raiseC core slot (Trouble.of c addr)
       | .ok read =>
         let t := read.atHome s
         if t.has 11 || !sl.sb.isEmpty || !dieSettled s (dieOf core) then skip
         else if t.has 0 then answer 1
         else match poolOf s sl.ctx with
           | none => answer 2
           | some p =>
             match p.fault s with
             | some c => raiseC core slot (Trouble.of c (word p.header))
             | none =>
               if p.top = 0 then answer 2
               else
                 let frame := memNat s (p.stack + 8 * (p.top - 1)) 8
                 if !frameOk frame then raiseC core slot (Trouble.of 0x0C (word p.header))
                 else
                   let (ok, paid2, us) := payKeys (flockOf core) sl.ctx (frameLines frame) paid s
                   andThen (fun _ => us)
                     (if ok then unlessA core slot (andThen (mapFrame core slot p frame t) (answer 0))
                      else modSlot core slot (fun x => { x with wait := .pcommit d addr paid2 })))
    | _ => skip))

/-- A page no longer awaiting invalidation. -/
def endFreeing (ctx : Nat) (f : Freeing) : Micro := modCtx ctx (fun c => { c with freeing := c.freeing.erase f })

/-- The next write of a push: it follows what its PDECOMMIT followed, and what the pool's newest step releases; that of TOP releases it at
PKG scope (R349). [log 40 DEDUCED] -/
def pushWriter (f : Freeing) (heads : List Head) (rel : Bool) (s : State) : Writer :=
  let w := unitWriter s poolParty true
  let c := Clock.join (acquired s scopePkg none f.core f.slot heads f.clock) w.clock
  { w with clock := c
           heads := if rel then [{ scope := scopePkg, place := .slot f.core f.slot, party := poolParty, clock := c }] else [] }

/-- A frame pushed, and its page's leaves cleared: one step that acquires and releases at PKG scope (R349). [log 40 DEDUCED] -/
def pushFrame (f : Freeing) (p : Pool) (t : TileLeaves) : Micro := ask (fun s =>
  let w := pushWriter f (p.heads s)
  doAll [
    writeBy (w false) (p.stack + 8 * p.top) (leBytes 8 (t.bits.headD 0 / 2 ^ 12 % 2 ^ 40 * 2 ^ 12)),
    writeBy (w true) p.header (leBytes 4 (p.top + 1)),
    writeBy (w false) (p.header + 0x10) (leBytes 4 (p.pending - 1)),
    putLeaves (w false) t (fun _ b => pushedLeaf b)])

/-- What a PDECOMMIT follows has left its buffer and its die, so that the push of its frame can release it. -/
def Freeing.released (s : State) (f : Freeing) : Bool :=
  decide (f.mark ≤ (slotAt s f.core f.slot).sbOut) && dieSettled s (dieOf f.core)

/-- PDECOMMIT_INVALIDATION_DONE (R350): once no access that used the old mapping is outstanding, the page's translations are
removed, and its frame is pushed as soon as the pool has room and what the push releases is visible. [log 33 DEDUCED] -/
def execPdecommitInvalidationDone (ctx page : Nat) (s : State) : Host.Outcome State Fault Refusal :=
  commit s (onlyIf (running s) (ask (fun s =>
    let dies := List.range 4
    let x := Removal.range page 65536
    match (ctxAt s ctx).freeing.find? (fun f => f.page == page) with
    | none => skip
    | some f =>
      if stillUsed s ctx (heldGone s dies ctx x) then skip
      else andThen (removeTranslations dies ctx x)
        (match tileLeaves s (homeWalker s ctx) page, poolOf s ctx with
         | .ok t, some p =>
           if !t.has 11 then endFreeing ctx f
           else onlyIf ((p.fault s).isNone && decide (p.top < p.cap) && f.released s) (andThen (pushFrame f p t) (endFreeing ctx f))
         | .error _, _ => endFreeing ctx f
         | _, none => skip))))

end Sys2Proof.Machine
end

