-- ==== Sys2Proof/Machine/Issue.lean ====
section
/-! DEFINITION. A core's cycle: which slot may issue (R15–R19, R316), what comes before its bundle (R29, R210, R239, R243, R298,
R302, R329), and the bundle's fetch and decoding (R5, R6, R79, R111–R113). -/

namespace Sys2Proof.Machine

/-! ## Readiness (R16, R316) -/

/-- A landed wait is over. -/
def bufferLanded (s : State) (core buf : Nat) : Bool :=
  ((coreAt s core).parison.toList.getD buf Parison.reset).state != .inFlight

/-- The condition of a wait that reissues holds. -/
def condHolds (s : State) (core slot : Nat) (c : Cond) : Bool :=
  let sl := slotAt s core slot
  match c with
  | .storeRoom => decide (sl.sb.length < bufferSize)
  | .drained t n => !(sl.sb.any (fun e => e.touches (keyOf t) n)) && (routedBytes s (slotReader s core slot) core sl.ctx t n).isSome
  | .tablesClear => !(sl.sb.any (fun e => e.touches 0 siloEnd))
  | .allowance p => decide (0 < (portAt s core p).allow) || (portAt s core p).owner.isNone
  | .received p => !(portAt s core p).queue.isEmpty || (portAt s core p).owner.isNone
  | .anyReady mask =>
    (altChoice s core sl (mask.zeroExtend 64)).isSome ||
    (List.range 8).any (fun k => bitAt mask k && (sl.q.toList.getD k none).isNone)
  | .jobDone seq => seqDone s core sl.ctx seq
  | .jobRoom => decide ((unfinished s core sl.ctx).length < jobLimit)
  | .engineRoom => decide ((queuedJobs s (flockOf core)).length < queueEntries)
  | .droverRoom => droverHasRoom s core
  | .packetWay target frame => packetClear s core slot target frame
  | .ringFree n => !ringBusy s core sl.ctx n
  | .landed buf _ => bufferLanded s core buf

/-- The wait of a slot lets it issue. A HALT ends once an interrupt is pending and enabled, also where a handler or S mode keeps it from
being taken: the bundle after the HALT then issues (R151). [log 100 DESIGN CHOICE] -/
def waitOver (s : State) (core slot : Nat) : Bool :=
  match (slotAt s core slot).wait with
  | .none => true
  | .halt => (slotAt s core slot).ctl.uipend &&& (slotAt s core slot).ctl.uimaskv != 0
  | .cond c => condHolds s core slot c
  | .exchange false .. => exchangeReady s core slot
  | _ => false

/-- Ready(s) of R17: a thread of an absent context is not ready in U mode (R316). -/
def slotReady (s : State) (core slot : Nat) : Bool :=
  let sl := slotAt s core slot
  sl.occupied && !(sl.mode == .user && absent (coreAt s core) sl.ctx) && sl.await == .none && waitOver s core slot

/-- Eight cycles have passed since the slot's last issue. -/
def spaced (c : Core) (sl : Slot) : Bool :=
  match sl.last with
  | none => true
  | some n => decide (n + 8 ≤ c.cycle)

/-- A slot may issue in the core's present cycle. -/
def mayIssue (s : State) (core slot : Nat) : Bool := slotReady s core slot && spaced (coreAt s core) (slotAt s core slot)

/-- The slot that issues in a cycle: its home slot, or the first of its partition to which the cycle is lent (R17). -/
def chosenSlot (s : State) (core : Nat) : Option Nat :=
  let c := coreAt s core
  let h := c.cycle % 16
  if mayIssue s core h then some h
  else ((List.range 15).map (fun k => (h + k + 1) % 16)).find? (fun k => partOf c k == partOf c h && mayIssue s core k)

/-- The issue cycle of a slot taken: it counts as an issue, also where the bundle's fetch misses. [log 19 DEDUCED] -/
def takeCycle (core slot : Nat) : Micro := ask (fun s => andThen
  (modCore core (fun c => { c with spent := true }))
  (modSlot core slot (fun sl => { sl with last := some (coreAt s core).cycle })))

/-! ## Switch requests (R298) -/

/-- The results of the slot's block instruction and long operation are in, or can be made. -/
def unitsDone (s : State) (core slot : Nat) : Bool :=
  match (slotAt s core slot).await with
  | .none => true
  | .block _ ready => decide (ready ≤ (coreAt s core).cycle)
  | .long _ => longHead s core == some slot
  | .kept _ => true

/-- A condition of the list below Table 16.11. The others hold an access of the bundle up, which is awaited (R298). [log 15 DEDUCED] -/
def Cond.reissues : Cond → Bool
  | .storeRoom => true
  | .allowance _ => true
  | .received _ => true
  | .anyReady _ => true
  | .jobDone _ => true
  | .jobRoom => true
  | .engineRoom => true
  | .droverRoom => true
  | .ringFree _ => true
  | .drained .. => false
  | .tablesClear => false
  | .packetWay .. => false
  | .landed .. => false

/-- A wait that no instruction of the slot makes, a suspendable one, or one that reissues (R298). [log 15 DEDUCED] -/
def suspendable : Wait → Bool
  | .none => true
  | .cond c => c.reissues
  | .fetch => true
  | .walk _ .fetch _ _ => true
  | .yield _ => true
  | .bar .. => true
  | .halt => true
  | .job _ => true
  | .join _ => true
  | .mwait .. => true
  | .replay => true
  | .retiring _ _ true => true
  | .storing _ => true
  | _ => false

/-- A switch request can be taken: the wait of a format block's read is no instruction's. [log 15 DEDUCED] -/
def switchable (s : State) (core slot : Nat) : Bool :=
  let sl := slotAt s core slot
  sl.occupied && sl.switchReq && sl.mode == .user && sl.replaceCause.isNone && (sl.fmtPending || suspendable sl.wait) &&
    unitsDone s core slot

/-- What a slot keeps of a wait that a switch suspends (Table 16.11). -/
def suspensionOf : Wait → Suspended
  | .bar addr gen scope => .bar gen addr scope
  | .halt => .halt
  | .job seq => .mxmab seq
  | .mwait d _ _ => .mwait d
  | .replay => .replay
  | .retiring failed escalate true => .retire failed escalate
  | _ => .none

/-- A suspended wait ends its bundle: the thread continues after it. -/
def endsBundle : Wait → Bool
  | .bar .. => true
  | .job _ => true
  | .mwait .. => true
  | _ => false

/-- The results of a slot's unit made. -/
def settleUnits (core slot : Nat) : Micro := andThen
  (modSlot core slot (fun sl => match sl.await with
    | .none => sl
    | .block e _ => { applyEffect sl e with await := .none }
    | .long e => { applyEffect sl e with await := .none }
    | .kept e => { applyEffect sl e with await := .none }))
  (modCore core (fun c => { c with longQ := c.longQ.filter (fun k => k != slot) }))

/-- The registers that an STV has still to put into the buffer when its wait for room is abandoned: its bundle goes on with them when
it issues again. -/
def abandonedStores (sl : Slot) : Option (Word × Nat) :=
  match sl.wait with
  | .storing rest => some (bundlePc sl, rest.length)
  | _ => sl.stv

/-- A switch request taken. -/
def takeSwitch (core slot : Nat) : Micro := ask (fun s =>
  let sl := slotAt s core slot
  let ends := endsBundle sl.wait
  doAll [
    onlyIf (sl.issue.isSome && ends) (finishPlain core slot),
    (if sl.issue.isNone || ends then settleUnits core slot
     else modSlot core slot (fun x => { x with await := .none })),
    modSlot core slot (fun x => { x with susp := suspensionOf sl.wait, switchReq := false, stv := abandonedStores sl }),
    takeCycle core slot,
    ask (fun s => enterTrap core slot
      { pc := (slotAt s core slot).regs.pc, async := true, esc := false, cause := 0x11, value := 0 })])

/-! ## What comes before the bundle -/

/-- A format descriptor that R56 rejects. -/
def badDescriptor (fd : Word) : Bool :=
  let acc := bitsNat fd 7 4
  let e := elemOf (bitsNat fd 3 0)
  e.isNone || (acc != 2 && acc != 4 && acc != 5) || bitsNat fd 63 56 != 0 || bitsNat fd 11 10 != 0 ||
  (bitAt fd 8 && !((e.map scalable).getD false))

/-- Descriptors loaded at a dispatch. [log 42 DEDUCED] -/
def loadFormats (core slot : Nat) (l : List Word) : Micro := modSlot core slot (fun sl =>
  { sl with fmtPending := false, ctl := { sl.ctl with fd := (Vector.range 4).map (fun k => l.getD k 0x55) } })

/-- The format block read (R29): as a structure read by the thread, it waits for the slot's own buffered stores to it. [log 97 DEDUCED] -/
def readFormats (core slot : Nat) : Micro := ask (fun s =>
  let sl := slotAt s core slot
  let addr := sl.task.fmtBlock
  if addr = 0 then loadFormats core slot []
  else match checkAddr s core slot addr 32 .read with
    | .fault c => formatFault core slot c addr
    | .miss va => modSlot core slot (fun x => { x with wait := (Wait.walk (word va) .read addr false).begun s core slot })
    | .landing buf => modSlot core slot (fun x => { x with wait := .cond (.landed buf addr) })
    | .refetch _ _ _ (some (c, a)) => formatFault core slot c a
    | .refetch _ _ buf none => andThen (modBuffer core buf (fun p => { p with state := .inFlight }))
        (modSlot core slot (fun x => { x with wait := .cond (.landed buf addr) }))
    | .ok t =>
      if sl.sb.any (fun e => e.touches (keyOf t) 32) then modSlot core slot (fun x => { x with wait := .cond (.drained t 32) })
      else if badBytes s sl.ctx t 32 then formatFault core slot 0x0A addr
      else match routedRead s (slotReader s core slot) core sl.ctx t 32 with
        | none => modSlot core slot (fun x => { x with wait := .cond (.drained t 32) })
        | some f =>
          let l := (chunks 8 f.bytes).map (fun b => word (leNat b))
          andThen (readBy core slot addr t 32 f) (match findAt badDescriptor l 0 with
          | some (k, _) => formatFault core slot 0x04 (addr + word (8 * k))
          | none => loadFormats core slot l))

/-- A fault of a dispatch raised before the task's first bundle, which then runs under the default formats if it is ignored. [log 42 DEDUCED] -/
def raiseDispatch (core slot : Nat) (c : Nat) (v : Word) : Micro := doAll [
  modSlot core slot (fun sl => { sl with dispatchFault := none }),
  loadFormats core slot [],
  ask (fun s => raiseAt core slot (slotAt s core slot).regs.pc { cause := c, value := v, write := false, async := true }
    skip)]

/-- The first fault of an engine's job that the slot's thread is to take. -/
def dueEngineFault (sl : Slot) : Option EngineFault :=
  if sl.mode = .user then sl.engineFaults.find? (fun f => f.ctx == sl.ctx) else none

/-- ENGINE_FAULT_DELIVERY's effect (R243): under IGNORE it is only recorded. -/
def deliverEngineFault (core slot : Nat) (f : EngineFault) : Micro := ask (fun s => andThen
  (modSlot core slot (fun sl => { sl with engineFaults := sl.engineFaults.erase f }))
  (raiseAt core slot (slotAt s core slot).regs.pc { cause := f.cause, value := f.value, write := f.write, async := true,
                                                     engine := some f.handle }
    skip))

/-- The first asynchronous-fault event for the slot's thread. -/
def dueEvent (sl : Slot) : Option (Nat × Word) :=
  if sl.mode = .user then sl.asyncEvents.find? (fun e => e.1 == sl.ctx) else none

/-- TRAP_ENTRY's effect for an asynchronous-fault event (R299, R329). -/
def deliverEvent (core slot : Nat) (e : Nat × Word) : Micro := ask (fun s => andThen
  (modSlot core slot (fun sl => { sl with asyncEvents := sl.asyncEvents.erase e }))
  (enterTrap core slot
    { pc := (slotAt s core slot).regs.pc, async := true, esc := false, cause := 0x10, value := e.2 }))

/-- No handler is active, and the thread is in U mode. -/
def Slot.interruptible (sl : Slot) : Bool := sl.mode == .user && sl.handler == .none

/-- The copy completion that the slot's thread is to take (R239). -/
def dueCompletion (sl : Slot) : Option Completion :=
  if sl.interruptible && bitAt sl.ctl.uimaskv 7 then sl.ccq.head? else none

/-- COPY_COMPLETION_ENTRY's effect, which acquires the copy's writes (R101). -/
def enterCompletion (core slot : Nat) (e : Completion) : Micro := andThen (acquireClock core slot e.clock)
  (modSlot core slot (fun sl => { sl with
    stall := none, ccq := sl.ccq.tail, handler := .user
    ctl := { sl.ctl with ulink := sl.regs.pc, xfrid := e.xfrid.zeroExtend 64 }
    regs := { sl.regs with pc := e.handler } }))

/-- The vector that the slot's thread is to take: the lowest that is pending and enabled (R210). -/
def dueVector (sl : Slot) : Option Nat :=
  if sl.interruptible then (List.range 8).find? (fun v => bitAt (sl.ctl.uipend &&& sl.ctl.uimaskv) v) else none

/-- A vector's entry to its handler. -/
def enterVector (v : Nat) (target : Word) (sl : Slot) : Slot :=
  { sl with
    handler := .user, stall := none
    ctl := { sl.ctl with ulink := sl.regs.pc, uipend := sl.ctl.uipend &&& ~~~(word (2 ^ v)) }
    regs := { sl.regs with pc := target } }

/-- The address of a vector's target. -/
def vectorAddr (sl : Slot) (v : Nat) : Word := sl.ctl.uivec + word (8 * v)

/-- A fault of the read of a vector's target: not present changes nothing and is replayed; any other is raised at ULINK, with
the entry's assignments made. -/
def vectorFault (core slot v cause : Nat) : Micro := ask (fun s =>
  let sl := slotAt s core slot
  let t := Trouble.of cause (vectorAddr sl v)
  if cause = 0x07 then raiseAt core slot sl.regs.pc t skip
  else andThen
    (modSlot core slot (fun sl => { enterVector v sl.regs.pc sl with handler := .none }))
    (raiseAt core slot sl.regs.pc t skip))

/-- The eight bytes of a vector's target: the slot's own buffered stores first. -/
def vectorRead (s : State) (core slot : Nat) (t : Target) : Option Found :=
  let sl := slotAt s core slot
  match coverOf sl.sb (keyOf t) 8 with
  | .all => some (.plain ((List.range 8).map (fun k => (bufferedByte sl.sb (keyOf t + k)).getD 0)))
  | .part => none
  | .none => routedRead s (slotReader s core slot) core sl.ctx t 8

/-- USER_INTERRUPT_ENTRY's effect (R210). -/
def enterInterrupt (core slot v : Nat) : Micro := ask (fun s =>
  let sl := slotAt s core slot
  match checkAddr s core slot (vectorAddr sl v) 8 .read with
  | .ok t =>
    if coverOf sl.sb (keyOf t) 8 == .none && badBytes s sl.ctx t 8 then vectorFault core slot v 0x0A
    else match vectorRead s core slot t with
      | none => skip
      | some f => andThen (readBy core slot (vectorAddr sl v) t 8 f) (modSlot core slot (enterVector v (word (leNat f.bytes))))
  | .fault c => vectorFault core slot v c
  | .miss va =>
    (match finishWalk s core (slotWalker s core slot) sl.mode va .read with
     | .ok (_, f) => f
     | .error 0 => skip
     | .error c => vectorFault core slot v c)
  | .landing _ => skip
  | .refetch _ _ _ (some (c, _)) => vectorFault core slot v c
  | .refetch _ _ buf none => modBuffer core buf (fun p => { p with state := .inFlight }))

/-! ## Fetch and decoding -/

/-- The unit that holds a fetch address, if its words have been fetched. -/
def fetched (c : Core) (ctx pc : Nat) : Option CodeUnit := c.code.find? (fun u => u.ctx == ctx && u.va == fetchUnit pc)

/-- The words at a bundle address: the first, and the one after it in the unit. -/
def CodeUnit.at (u : CodeUnit) (pc : Nat) : W32 × W32 := if pc % 8 = 0 then (u.word0, u.word1) else (u.word1, 0)

/-- A bundle of two words, as it is issued. -/
def issueOf (pc : Word) (w0 w1 : W32) (size : Nat) (c a : Option Instr) : Issue :=
  { pc := pc, size := size, word0 := w0, word1 := w1, c := c, a := a, aOver := none, aBad := false, muted := false }

/-- The word of a bundle that is executed, which performs the other with it. -/
def Issue.head (i : Issue) : Option Instr := i.c.orElse (fun _ => i.a)

/-- A bundle put into a slot, to be executed. One that issues again after it has reported its A word's fault keeps R33's writes in
that word's place (R113). -/
def putIssue (core slot : Nat) (i : Issue) : Micro := andThen
  (modSlot core slot (fun sl => { sl with issue := some i }))
  (ask (fun s => onlyIf ((slotAt s core slot).passed == some i.pc) (overrideA core slot)))

/-- A slot's bundle handed to the meaning of its word. -/
def handOver (core slot : Nat) : Micro := fun _ => [.issuing (some (core, slot))]

/-- An illegal bundle (R5, R6, R112): under IGNORE it is a NOP of its size. The fault's value is the bundle's first word. [log 99 DEDUCED] -/
def illegalBundle (core slot : Nat) (i : Issue) : Micro := andThen (putIssue core slot { i with c := none, a := none })
  (raiseAt core slot i.pc (Trouble.of 0x02 (i.word0.zeroExtend 64)) (finishPlain core slot))

/-- An illegal C word (R113): under IGNORE it is a NOP, and its A word completes. -/
def illegalC (core slot : Nat) (i : Issue) : Micro := andThen (putIssue core slot { i with c := none })
  (raiseC core slot (Trouble.of 0x01 (i.word0.zeroExtend 64)))

/-- A lone illegal A word (R113): under IGNORE it is a NOP. -/
def illegalA (core slot : Nat) (i : Issue) : Micro := andThen (putIssue core slot i)
  (raiseAt core slot i.pc (Trouble.of 0x01 (i.word0.zeroExtend 64)) (finishPlain core slot))

/-- What an issued bundle comes to: an instruction to execute, or the fault of R113's first two classes. A word that is illegal by a
reserved or a nonzero must-be-zero field is no instruction: it is no lone-only word, and it names no destination for R6's check of a pair. [log 98 DEDUCED] -/
def issueBundle (core slot : Nat) (pc : Word) (w0 w1 : W32) : Micro :=
  let one := issueOf pc w0 w1 4
  let two := issueOf pc w0 w1 8
  match decodeBundle (pc.toNat % 8 == 0) w0.toNat w1.toNat with
  | .illegal size => illegalBundle core slot (issueOf pc w0 w1 size none none)
  | .loneC (.ok c) => andThen (putIssue core slot (one (some c) none)) (handOver core slot)
  | .loneC (.error _) => illegalC core slot (one none none)
  | .loneA (.ok a) => andThen (putIssue core slot (one none (some a))) (handOver core slot)
  | .loneA (.error _) => illegalA core slot (one none none)
  | .pair (.ok c) (.ok a) =>
    if c.loneOnly || clash c a then illegalBundle core slot (two none none)
    else andThen (putIssue core slot (two (some c) (some a))) (handOver core slot)
  | .pair (.ok c) (.error _) =>
    if c.loneOnly then illegalBundle core slot (two none none)
    else andThen (putIssue core slot { two (some c) none with aBad := true }) (handOver core slot)
  | .pair (.error _) (.ok a) => illegalC core slot (two none (some a))
  | .pair (.error _) (.error _) => illegalC core slot (two none none)

/-- A fault of the fetch, if its address alone decides it (R29, R70, R79). -/
def fetchCause (pc : Nat) : Option Nat :=
  if regionOf pc = .reserved then some 0x06
  else if pc % 4 ≠ 0 then some 0x05
  else if regionOf pc ≠ .ordinary then some 0x06
  else none

/-- The bundle at the slot's pc fetched and issued, or the wait for its words; a context with no tables has no page to fetch from
(R338). -/
def issueAtPc (core slot : Nat) : Micro := ask (fun s =>
  let sl := slotAt s core slot
  match fetchCause sl.regs.pc.toNat with
  | some c => fetchFault core slot c
  | none =>
    if (ctxAt s sl.ctx).ptbase = 0 then fetchFault core slot 0x07
    else match fetched (coreAt s core) sl.ctx sl.regs.pc.toNat with
    | none => modSlot core slot (fun x => { x with wait := .fetch })
    | some u =>
      if sl.mode = .user ∧ u.user = false then fetchFault core slot 0x08
      else issueBundle core slot sl.regs.pc (u.at sl.regs.pc.toNat).1 (u.at sl.regs.pc.toNat).2)

/-- A replacement cause given by Calben (R302): the bundle, decoded afresh, takes that fault in place of its replay. [log 43 DEDUCED] -/
def raiseReplacement (core slot : Nat) (c : Nat) (v : Word) : Micro := ask (fun s =>
  let sl := slotAt s core slot
  let clear := modSlot core slot (fun x => { x with replaceCause := none })
  let fault := andThen clear (raiseC core slot (Trouble.of c v))
  (if sl.fmtPending && sl.mode == .user then
      modSlot core slot (fun x => { x with replaceCause := none, dispatchFault := some (c, v), fmtPending := false })
    else if v = sl.regs.pc then andThen clear (fetchFault core slot c)
    else match fetched (coreAt s core) sl.ctx sl.regs.pc.toNat with
      | none => modSlot core slot (fun x => { x with wait := .fetch })
      | some u =>
        let w := u.at sl.regs.pc.toNat
        match decodeBundle (sl.regs.pc.toNat % 8 == 0) w.1.toNat w.2.toNat with
        | .loneC x => andThen (putIssue core slot (issueOf sl.regs.pc w.1 w.2 4 x.toOption none)) fault
        | .loneA x => andThen (putIssue core slot (issueOf sl.regs.pc w.1 w.2 4 none x.toOption)) fault
        | .pair x y => andThen (putIssue core slot (issueOf sl.regs.pc w.1 w.2 8 x.toOption y.toOption)) fault
        | .illegal n => andThen (putIssue core slot (issueOf sl.regs.pc w.1 w.2 n none none)) fault))

/-- A slot that issues leaves the wait that held it. -/
def wake (core slot : Nat) : Micro := modSlot core slot (fun sl => { sl with issue := none, wait := .none })

/-- The bundle of a slot, or what Calben has put in its place. -/
def issueNow (core slot : Nat) : Micro := ask (fun s =>
  match (slotAt s core slot).replaceCause with
  | some (c, v) => raiseReplacement core slot c v
  | none => issueAtPc core slot)

/-- What a slot's issue takes first: the fault of its dispatch, a job's fault, an asynchronous-fault event, a copy completion, a
user interrupt; else its bundle. [log 19 DEDUCED] -/
def issueFirst (core slot : Nat) : Micro := ask (fun s =>
  let sl := slotAt s core slot
  if sl.fmtPending && sl.mode == .user then skip
  else match (if sl.mode = .user then sl.dispatchFault else none) with
    | some (c, v) => raiseDispatch core slot c v
    | none =>
      match dueEngineFault sl, dueEvent sl, dueCompletion sl, dueVector sl with
      | some f, _, _, _ => deliverEngineFault core slot f
      | none, some e, _, _ => deliverEvent core slot e
      | none, none, some e, _ => enterCompletion core slot e
      | none, none, none, some v => enterInterrupt core slot v
      | none, none, none, none => issueNow core slot)

/-- The issue of a slot. -/
def issueSlot (core slot : Nat) : Micro := ask (fun s =>
  match (slotAt s core slot).wait with
  | .exchange .. => takeExchange core slot
  | _ => doAll [
      takeCycle core slot,
      wake core slot,
      onlyIf ((slotAt s core slot).fmtPending && (slotAt s core slot).mode == .user && (slotAt s core slot).replaceCause.isNone)
        (readFormats core slot),
      ask (fun s =>
        let sl := slotAt s core slot
        if sl.wait != .none then skip
        else if sl.fmtPending && sl.mode == .user && sl.replaceCause.isSome then issueNow core slot
        else issueFirst core slot)])

/-! ## The events of an issue on their own -/

/-- The slot whose issue a core's present cycle is, while nothing has taken the cycle (R17). -/
def dueSlot (s : State) (core : Nat) : Option Nat := if (coreAt s core).spent then none else chosenSlot s core

/-- An entry made in place of the slot's issue, in a cycle that is its to issue in (R17). [log 19 DEDUCED] -/
def entryStep (core slot : Nat) (f : Slot → Option Micro) (s : State) : Host.Outcome State Fault Refusal :=
  slotStep s core slot (ask (fun s =>
    let sl := slotAt s core slot
    let free := !(sl.mode == .user && (sl.fmtPending || sl.dispatchFault.isSome)) && (match sl.wait with
      | .exchange .. => false
      | _ => true)
    match f sl with
    | some g => onlyIf (dueSlot s core == some slot && free) (doAll [takeCycle core slot, wake core slot, g])
    | none => skip))

/-- ENGINE_FAULT_DELIVERY (R243). -/
def execEngineFaultDelivery (core slot : Nat) (s : State) : Host.Outcome State Fault Refusal :=
  entryStep core slot (fun sl => (dueEngineFault sl).map (deliverEngineFault core slot)) s

/-- TRAP_ENTRY (R299): the asynchronous-fault event that is due. [log 20 DESIGN CHOICE] -/
def execTrapEntry (core slot : Nat) (s : State) : Host.Outcome State Fault Refusal :=
  entryStep core slot (fun sl => if (dueEngineFault sl).isSome then none
    else (dueEvent sl).map (deliverEvent core slot)) s

/-- COPY_COMPLETION_ENTRY (R239): ahead of any vector. -/
def execCopyCompletionEntry (core slot : Nat) (s : State) : Host.Outcome State Fault Refusal :=
  entryStep core slot (fun sl => if (dueEngineFault sl).isSome || (dueEvent sl).isSome then none
    else (dueCompletion sl).map (enterCompletion core slot)) s

/-- USER_INTERRUPT_ENTRY (R210). -/
def execUserInterruptEntry (core slot : Nat) (s : State) : Host.Outcome State Fault Refusal :=
  entryStep core slot (fun sl =>
    if (dueEngineFault sl).isSome || (dueEvent sl).isSome || (dueCompletion sl).isSome then none
    else (dueVector sl).map (enterInterrupt core slot)) s

/-- SWITCH_REQUEST_TAKEN (R298): at the slot's home cycle. [log 15 DEDUCED] -/
def execSwitchRequestTaken (core slot : Nat) (s : State) : Host.Outcome State Fault Refusal :=
  slotStep s core slot (ask (fun s =>
    onlyIf (!(coreAt s core).spent && (coreAt s core).cycle % 16 == slot && switchable s core slot) (takeSwitch core slot)))

/-- CONTEXT_EXCHANGE (R307): a SLOTHAND's takes the slot's home cycle, and a SWAPCTX's an issue cycle of the slot. -/
def execContextExchange (core slot : Nat) (s : State) : Host.Outcome State Fault Refusal :=
  slotStep s core slot (ask (fun s =>
    match (slotAt s core slot).wait with
    | .exchange true .. =>
      onlyIf (!(coreAt s core).spent && (coreAt s core).cycle % 16 == slot && exchangeReady s core slot) (takeExchange core slot)
    | .exchange false .. => onlyIf (dueSlot s core == some slot) (takeExchange core slot)
    | _ => skip))

/-! ## A cycle (R15, R17) -/

/-- The timed ends that a cycle brings: yields, block instructions, and the waits of jobs that are done. -/
def dueEnds (core : Nat) : Micro := forAll (List.range 16) (fun k => ask (fun s =>
  let c := coreAt s core
  let sl := slotAt s core k
  doAll [
    onlyIf (yieldDue c sl) (modSlot core k (fun x => { x with wait := .none })),
    onlyIf (blockDue c sl) (modSlot core k blockDone),
    (match sl.wait with
     | .job seq => onlyIf (seqDone s core sl.ctx seq)
         (andThen (acquireSeq core k seq) (endWait core k id))
     | _ => skip)]))

/-- An exchange that takes the home slot's cycle. -/
def dueExchange (s : State) (core slot : Nat) : Bool :=
  match (slotAt s core slot).wait with
  | .exchange true .. => exchangeReady s core slot
  | _ => false

/-- A core's next cycle, up to the meaning of the word that it issues, if it issues one. A hand-over by the core's window or by SLOTHAND,
and a switch request, take the cycle of their slot before it is lent (R17, R298). [log 79 DESIGN CHOICE] -/
def cycleStep (core : Nat) : Micro := doAll [
  modCore core (fun c => { c with cycle := c.cycle + 1, spent := false }),
  dueEnds core,
  ask (fun s =>
    let h := (coreAt s core).cycle % 16
    match dueHandOver s core h with
    | some f => f
    | none =>
    if switchable s core h then takeSwitch core h
    else if dueExchange s core h then takeExchange core h
    else match chosenSlot s core with
      | some k => issueSlot core k
      | none => skip)]

end Sys2Proof.Machine
end

