-- ==== Sys2Proof/Machine/Package.lean ====
section
/-! DEFINITION. What belongs to the package as a whole (R358–R375): the stages of start, scrub, the host endpoint, the links, power
and clocks, and the registers of the device register space that are written outside a window's commands. -/

namespace Sys2Proof.Machine

/-- The package's registers changed; a change of STATUS is signalled to the host (R368). -/
def setStatus (f : Pkg → Pkg) : Micro := ask (fun s => andThen (modPkg f)
  (onlyIf (statusWord (f s.pkg) != statusWord s.pkg) (postEvent .statusChange)))

/-- A step of the package, where it has its supply and its boot core has entered Safe. [log 11 and 61 DESIGN CHOICE] -/
def pkgStep (s : State) (f : Micro) : Host.Outcome State Fault Refusal :=
  commit s (onlyIf (s.pkg.powered && s.pkg.started) f)

/-! ## Power and the stages of start (R358–R363) -/

/-- Host memory and the memory of other packages, which do not share the supply. -/
def outside (key : Nat) : Bool := decide (0x4000000000000 ≤ key ∧ key < 0x10000000000000)

/-- Everything of the package at its value before power-good; flash keeps the repair record and the count of signatures. [log 61 DESIGN CHOICE] -/
def clearAll : Micro := fun s => [
  .mem ((s.mem.filter (fun c => !outside c.1)).map (fun c => (c.1, 0))),
  .poison (s.poison.filter outside), .order Order.reset,
  .jobs [], .reqs [], .msgs [], .records [], .issuing none,
  .pkg { Pkg.reset with repairRecord := s.pkg.repairRecord, signed := s.pkg.signed, flashOk := s.pkg.flashOk }]

/-- Every row of every table at reset. [log 61 DESIGN CHOICE] -/
def clearTables : Micro := fun s =>
  s.slots.map (fun x => .slot (x.1 / 16) (x.1 % 16) Slot.reset) ++ s.cores.map (fun x => .core x.1 Core.reset) ++
  s.flocks.map (fun x => .flock x.1 Flock.reset) ++ s.bands.map (fun x => .band x.1 Band.reset) ++
  s.diesT.map (fun x => .die x.1 Die.reset) ++ s.ctxs.map (fun x => .ctx x.1 Ctx.reset)

/-- POWER_GOOD (R358): a cold boot. -/
def execPowerGood (s : State) : Host.Outcome State Fault Refusal :=
  commit s (onlyIf (!s.pkg.powered) (doAll [clearTables, clearAll, modPkg (fun p => { p with powered := true })]))

/-- POWER_LOSS (R370): all work ends. -/
def execPowerLoss (s : State) : Host.Outcome State Fault Refusal :=
  commit s (onlyIf s.pkg.powered (andThen clearTables clearAll))

/-- A failure has stopped the start (R358, R361): every code of ERROR but 7. [log 61 DESIGN CHOICE] -/
def stopped (p : Pkg) : Bool := p.error != 0 && p.error != 7

/-- SAFE_STAGE_ENTRY (R358, R361): the boot core has read its flash and checked stage-one firmware. [log 80 DESIGN CHOICE] -/
def execSafeStageEntry (flashOk sigOk : Bool) (s : State) : Host.Outcome State Fault Refusal :=
  commit s (onlyIf (s.pkg.powered && !s.pkg.started && !stopped s.pkg) (setStatus (fun p =>
    if !flashOk then { p with error := 2 }
    else if !sigOk then { p with error := 1 }
    else { p with started := true })))

/-- The map in force, and whether the map found differs from the record in a way that the host is told of (R360). Both are
lists of disabled units. -/
def repairOf (fresh record : List Nat) : List Nat × Bool :=
  (fresh ++ record.filter (fun u => !fresh.contains u), fresh.any (fun u => !record.contains u))

/-! Units that self-test may disable have numbers of the model's own (log entry 61): first the built cores, 9 in each of 10 flocks of each
band, then the drovers, one in each band, then the channels, 136 in each silo. -/

/-- The built core that a core number names, by R3: its unit; none on a die that cannot be repaired, whose cores receive no numbers (R359). [log 84 DEDUCED] -/
def builtCore (map : List Nat) (core : Nat) : Option Nat :=
  let die := dieOf core
  let band := core / 72 % 8
  if dieRepairable map die then
    ((mapFlocks map die band)[core / 8 % 9]?).bind (fun flock =>
      ((mapCores map die band flock)[core % 8]?).map (fun k => coreUnit die band flock k))
  else none

/-- INVENTORY_STAGE_ENTRY (R358–R361): `fresh` are the units that self-test disables, `working` the channels that the worst silo
presents. A record that flash does not give up stops the stage (ERROR 2). -/
def execInventoryStageEntry (fresh : List Nat) (working : Nat) (recordSigOk : Bool) (s : State) :
    Host.Outcome State Fault Refusal :=
  pkgStep s (onlyIf (s.pkg.stage == .safe && !stopped s.pkg) (setStatus (fun p =>
    let r := repairOf fresh p.repairRecord
    let q := if recordSigOk then { p with repairMap := r.1, repairChg := r.2 }
      else { p with repairMap := fresh, repairChg := true, error := 7 }
    let trained := decide (128 ≤ working) && (List.range 12).all (fun silo => (mapChannels q.repairMap silo).length == 128)
    if !p.flashOk then { p with stage := .inventory, error := 2 }
    else { q with stage := .inventory, error := if trained then q.error else 3 })))

/-- KERNEL_STAGE_ENTRY (R358, R363): Calben's image on the first drive, and then on the second. [log 80 DESIGN CHOICE] -/
def execKernelStageEntry (found0 sig0 found1 sig1 : Bool) (s : State) : Host.Outcome State Fault Refusal :=
  pkgStep s (onlyIf (s.pkg.stage == .inventory && !stopped s.pkg) (setStatus (fun p =>
    { p with
      stage := .kernel
      error := if (found0 && sig0) || (found1 && sig1) then p.error else if found0 || found1 then 5 else 4 })))

/-- DIE_ENTERS_SERVICE (R358, R359). -/
def execDieEntersService (die : Nat) (repairable : Bool) (s : State) : Host.Outcome State Fault Refusal :=
  pkgStep s (onlyIf ((s.pkg.stage == .kernel || s.pkg.stage == .service) && !stopped s.pkg && repairable &&
      dieRepairable s.pkg.repairMap die && decide (die < 4))
    (setStatus (fun p => { p with stage := .service, dies := p.dies ||| BitVec.ofNat 4 (2 ^ die) })))

/-! ## Scrub (R362, R374) -/

/-- One more corrected error of a row or array. -/
def countError (row : Nat) (l : List (Nat × Nat)) : List (Nat × Nat) := assign l row (lookup 0 l row + 1)

/-- The word of a port's queue that a key names: channel SRAM has keys of the model's own, above the parison SRAM of its core (log
entry 10). [log 10 DESIGN CHOICE] -/
def channelWord (key : Nat) : Option (Nat × Nat × Nat) :=
  let off := (key - apertureBase) % 0x100000
  if apertureBase ≤ key ∧ 0x60000 ≤ off ∧ off < 0x61000 then
    some ((key - apertureBase) / 0x100000, (off - 0x60000) / 128, (off - 0x60000) % 128 / 8)
  else none

/-- A word of a port's queue changed. -/
def modChannelWord (key : Nat) (f : ChWord → ChWord) : Micro :=
  match channelWord key with
  | some (core, port, k) => modPort core port (fun p => { p with queue := p.queue.modify k f })
  | none => skip

/-- A retire request (R362): the host finds it in the mailbox from the device, in words whose layout is open, and vector 0 signals it. [log 5 and 64 DESIGN CHOICE] -/
def requestRetire (row : Nat) (silo : Bool) : Micro := ask (fun s => doAll [
  setStatus (fun p => { p with retires := p.retires ++ [(row, silo)] }),
  putPhys (deviceBase + 0x20002000) (leBytes 8 (Config.freeWord s.tick).toNat),
  postEvent (.retireRequest row),
  bump])

/-- The host's answer to a retire request: Calben then remaps a silo row; a core array leaves with the next repair record. [log 64 DESIGN CHOICE] -/
def answerRetire (row : Nat) : Micro := ask (fun s =>
  match s.pkg.retires.find? (fun x => x.1 == row) with
  | some x => setStatus (fun p => { p with
      retires := p.retires.erase x
      corrected := if x.2 then p.corrected.filter (fun c => c.1 != row) else p.corrected
      remapped := if x.2 then p.remapped ++ [row] else p.remapped })
  | none => skip)

/-- The name of an SRAM word of a core, as command 7 of a hearth's window takes it: its array and its word there (R366). [log 10 DESIGN CHOICE] -/
def sramName (u : Nat) : Nat := Config.wordOf u % 2 ^ 32 * 2 ^ 16 + Config.arrayOf u % 2 ^ 16

/-- The record of an uncorrectable error (R374): a line's physical address, or an SRAM word's name, and the core that holds it. No thread
raised it. [log 10 DESIGN CHOICE] -/
def errorRecord (u : Nat) : Record :=
  { cause := 0x0A, flags := 0, wait := 0, handle := 0, value := word (if u < apertureBase then u else sramName u), pc := 0,
    who := if u < apertureBase then 0 else word ((u - apertureBase) / 0x100000 % 0x1000) }

/-- SCRUB_READ (R362): `unit` is the key of the line or word. A read of the first line begins a scrub cycle. [log 7, 10, 64 DESIGN CHOICE] -/
def execScrubRead (unit : Nat) (corrected lost : Bool) (s : State) : Host.Outcome State Fault Refusal :=
  pkgStep s (ask (fun s =>
    let u := poisonUnit unit
    let row := Config.rowOf u
    let old := if u = 0 then [] else s.pkg.corrected
    let counts := if corrected then countError row old else old
    let due := corrected && decide (Config.scrubThreshold < lookup 0 counts row)
    doAll [
      setStatus (fun p => { p with corrected := counts }),
      onlyIf (due && !s.pkg.retires.any (fun x => x.1 == row)) (requestRetire row (inSilo u)),
      onlyIf lost (doAll [
        modChannelWord u (fun w => { w with poison := true }),
        (fun s => if s.poison.contains u || (channelWord u).isSome then [] else [.poison (s.poison ++ [u])]),
        postRecord (errorRecord u)])]))

/-! ## The host endpoint (R110, R368) -/

/-- A function of the endpoint that the host may use: virtual functions from Kernel on (Table 20.1). [log 65 DESIGN CHOICE] -/
def functionUp (p : Pkg) (fn : Nat) : Bool :=
  fn == 0 || (decide (fn ≤ 32) && (p.stage == .kernel || p.stage == .service))

/-- A step of the host endpoint, which a stage that fails leaves up (R358). [log 61 DESIGN CHOICE] -/
def endpointStep (s : State) (f : Micro) : Host.Outcome State Fault Refusal :=
  commit s (onlyIf (s.pkg.powered && (s.pkg.started || stopped s.pkg)) f)

/-- DOORBELL (R368). [log 65 DESIGN CHOICE] -/
def execDoorbell (fn value : Nat) (s : State) : Host.Outcome State Fault Refusal :=
  endpointStep s (onlyIf (functionUp s.pkg fn) (postEvent (.doorbell fn (word value))))

/-- HOST_POSTED_WRITE (R110, R368): a write of the host that releases at SYSTEM: `size` bytes at an offset in the functions' BARs, function `v` at v × 0x1_0000. [log 65 DESIGN CHOICE] -/
def execHostPostedWrite (addr size value : Nat) (s : State) : Host.Outcome State Fault Refusal :=
  endpointStep s (
    let off := addr % 0x10000
    let key := deviceBase + 0x20000000 + addr
    let w := outsideWriter s .host true
    let mailbox := decide (0x1000 ≤ off ∧ off + size ≤ 0x3000)
    let bell := off == 8 && size == 8
    onlyIf (functionUp s.pkg (addr / 0x10000) && (mailbox || bell)) (doAll [
      countWrite w, noteWrite w key (homeBytes s key size), putPhys key (leBytes size value), touchAll key size]))

/-- What a party outside the barrel cores may write: Calben silo memory, host memory, memory of other packages and mailboxes, the host
its own memory, and another package silo memory and its own. [log 65 DESIGN CHOICE] -/
def outsideReach (s : State) (x : Place) (a : Nat) : Bool :=
  match x with
  | .slot .. => false
  | .gaffer => inSilo a || inHost a || inPeer s a || ((mailboxOffset a).map (fun o => decide (0x10 ≤ o % 0x10000))).getD false
  | .host => inHost a
  | .peer p => inSilo a || (inPeer s a && peerOf a == p)

/-- Cells as writes of whole words: runs of rising addresses, cut where 8-byte words end (R99). -/
def cellRuns : List Host.Cell → List (Nat × List Byte)
  | [] => []
  | c :: t =>
    match cellRuns t with
    | [] => [(c.1, [c.2])]
    | (a, bs) :: rest => if c.1 + 1 = a ∧ a % 8 ≠ 0 then (c.1, c.2 :: bs) :: rest else (c.1, [c.2]) :: (a, bs) :: rest

/-- A write of a party outside the barrel cores, each word with its place in the order of its writes; `rel` says that they release. A
packet that Calben so puts into a spill area takes its id (R23). [log 65 DESIGN CHOICE] -/
def outsideWrite (x : Place) (cells : List Host.Cell) (rel : Bool) : Micro := ask (fun s => andThen
  (forAll (cellRuns (cells.filter (fun c => outsideReach s x c.1))) (fun r => ask (fun s =>
    let w := outsideWriter s x rel
    andThen (countWrite w) (writeHome w r.1 r.2))))
  (onlyIf (x == .gaffer) (forAll s.cores (fun c => forAll (c.2.residents.filter (fun r => r.spill != 0)) (fun r =>
    syncSpill c.1 r.ctx)))))

/-- A signature of the device key: 2^30 of them exhaust it (R370). [log 80 DESIGN CHOICE] -/
def signOnce : Micro := modPkg (fun p => { p with signed := min (p.signed + 1) (2 ^ 30) })

/-- A new repair record, which takes effect at the next cold boot (R360). -/
def newRecord (units : List Nat) : Micro := modPkg (fun p => { p with repairRecord := units })

/-! ## Scale-up links (R371–R373) -/

/-- A link changed. -/
def modLink (link : Nat) (f : Link → Link) : Micro := modPkg (fun p =>
  if h : link < 16 then { p with links := p.links.set link (f (p.links.get ⟨link, h⟩)) h } else p)

/-- A link. -/
def linkAt (s : State) (link : Nat) : Link := s.pkg.links.toList.getD link Link.reset

/-- A counter of a link: it saturates (R372). -/
def saturated (n : Nat) : Nat := min n (2 ^ 64 - 1)

/-- A link with a flit received. A failing flit is sent again, at most sixteen times. [log 66 DESIGN CHOICE] -/
def Link.received (l : Link) (crcOk : Bool) (corrected uncorrected : Nat) : Link :=
  let k := { l with feccorr := saturated (l.feccorr + corrected), fecuncorr := saturated (l.fecuncorr + uncorrected) }
  if crcOk then { k with tries := 0 }
  else { k with
    crcfail := saturated (l.crcfail + 1)
    retries := if l.tries < 16 then saturated (l.retries + 1) else l.retries
    tries := l.tries + 1 }

/-- LINK_FLIT_RECEIVE (R371). -/
def execLinkFlitReceive (link : Nat) (crcOk : Bool) (corrected uncorrected : Nat) (s : State) :
    Host.Outcome State Fault Refusal :=
  pkgStep s (onlyIf (running s && (linkAt s link).up && decide ((linkAt s link).tries ≤ 16))
    (modLink link (fun l => l.received crcOk corrected uncorrected)))

/-- A link that retrains. [log 66 DESIGN CHOICE] -/
def Link.retrained (l : Link) : Link :=
  { l with up := false, down := false, training := true, tries := 0, retrains := saturated (l.retrains + 1) }

/-- LINK_RETRAIN (R371): sixteen retries of one flit have failed. -/
def execLinkRetrain (link : Nat) (s : State) : Host.Outcome State Fault Refusal :=
  pkgStep s (onlyIf (running s && (linkAt s link).up && decide (16 < (linkAt s link).tries))
    (modLink link Link.retrained))

/-- LINK_RETRAIN_CMD (R372): a link that ENABLE holds down stays down. [log 66 DESIGN CHOICE] -/
def execLinkRetrainCmd (link : Nat) (s : State) : Host.Outcome State Fault Refusal :=
  pkgStep s (onlyIf (linkAt s link).enabled (modLink link Link.retrained))

/-- LINK_ENABLE (R372). -/
def execLinkEnable (link : Nat) (enable : Bool) (s : State) : Host.Outcome State Fault Refusal :=
  pkgStep s (modLink link (fun l =>
    if enable then (if l.enabled then l else { l with enabled := true, training := true })
    else { l with enabled := false, up := false, training := false, down := false, tries := 0 }))

/-- LINK_TRAINING_DONE (R372): also the first training after start. [log 66 DESIGN CHOICE] -/
def execLinkTrainingDone (link : Nat) (up : Bool) (peer peerLink : Nat) (s : State) : Host.Outcome State Fault Refusal :=
  pkgStep s (
    let l := linkAt s link
    onlyIf (running s && l.enabled && !l.up && (l.training || !l.down)) (
      if up then andThen
        (modLink link (fun l =>
          { l with up := true, training := false, down := false, tries := 0, peer := peer % 1024, peerLink := peerLink % 16 }))
        (modPkg (fun p => { p with lost := p.lost.filter (fun q => q != peer % 1024) }))
      else modLink link (fun l => { l with training := false, down := true })))

/-- The first piece of a load that a lost package holds, or the word of an atomic. [log 67 DEDUCED] -/
def lostAccess (s : State) (sl : Slot) : Option Word :=
  match sl.wait with
  | .load l => if l.pieces.any (fun p => unreachable s p.tgt) then some l.addr else none
  | .atomic a => if unreachable s a.tgt then some a.addr else none
  | _ => none

/-- PEER_LOST (R373): stores on their way are not performed, and are posted; loads and atomics on their way fault. [log 67 DEDUCED] -/
def execPeerLost (peer : Nat) (s : State) : Host.Outcome State Fault Refusal :=
  pkgStep s (onlyIf (decide (peer < 1024) && peer != s.pkg.pkgnum && !peerUp s peer && !s.pkg.lost.contains peer) (doAll [
    forAll (s.reqs.filter (fun r => unreachable s r.tgt)) (fun r => andThen (lostWrite r) (dropReq r.id)),
    forAll s.slots (fun x => match lostAccess s x.2 with
      | some a => onlyIf x.2.occupied (raiseC (x.1 / 16) (x.1 % 16) (Trouble.of 0x0A a))
      | none => skip),
    modPkg (fun p => { p with lost := p.lost ++ [peer] }),
    postEvent (.peerLost peer)]))

/-! ## Power, clocks and cooling (R375) -/

/-- THERMAL_TRIP: during start it is a failure (Table 20.3, ERROR 6). [log 61 DESIGN CHOICE] -/
def execThermalTrip (s : State) : Host.Outcome State Fault Refusal :=
  pkgStep s (setStatus (fun p =>
    { p with trip := true, error := if p.stage = .service ∨ stopped p = true then p.error else 6 }))

/-- THERMAL_RESUME. -/
def execThermalResume (s : State) : Host.Outcome State Fault Refusal :=
  pkgStep s (setStatus (fun p => { p with trip := false }))

/-- CAPPED: some flock's clock stands below the nominal 2.25 GHz. [log 62 PRESUMED] -/
def cappedNow (s : State) : Bool := s.flocks.any (fun x => decide (x.2.clock < 2250))

/-- A flock's clock changed. [log 62 PRESUMED] -/
def setClock (flock clock : Nat) : Micro := andThen
  (onlyIf (decide (flock < 288 ∧ 1200 ≤ clock ∧ clock ≤ 2600)) (modFlock flock (fun f => { f with clock := clock })))
  (ask (fun s => setStatus (fun p => { p with capped := cappedNow s })))

/-- JUNCTION_THROTTLE: the clock is lowered. -/
def execJunctionThrottle (flock clock : Nat) (s : State) : Host.Outcome State Fault Refusal :=
  pkgStep s (onlyIf (decide (clock < (flockAt s flock).clock)) (setClock flock clock))

/-- CLOCK_CHANGE: between two cycles. -/
def execClockChange (flock clock : Nat) (s : State) : Host.Outcome State Fault Refusal :=
  pkgStep s (setClock flock clock)

/-! ## Registers of the package (R364–R369, R372) -/

/-- PWRCAP (Table 20.8). -/
def execPwrcap (value : Nat) (s : State) : Host.Outcome State Fault Refusal :=
  pkgStep s (modPkg (fun p => { p with pwrcap := max 600 (min 2400 (value % 65536)) }))

/-- SESSKEY (R369): the fourth word loads the key. -/
def execSesskey (word_ value : Nat) (s : State) : Host.Outcome State Fault Refusal :=
  pkgStep s (modPkg (fun p =>
    if h : word_ < 4 then
      let w := p.keyWords.set word_ (word value) h
      { p with keyWords := w, key := if word_ = 3 then some w else p.key }
    else p))

/-- A slice of some context is filling, resident or evicting. -/
def slicesHeld (s : State) : Bool := s.ctxs.any (fun x => x.2.slices.any (fun y => y.state != .absent))

/-- ESCWAYS (R366): hearth 0's, for all four. [log 68 DESIGN CHOICE] -/
def execEscways (hearth value : Nat) (s : State) : Host.Outcome State Fault Refusal :=
  pkgStep s (onlyIf (hearth == 0 && !slicesHeld s) (modPkg (fun p => { p with escways := min value 8 })))

/-- A hearth's window changed. -/
def modHearth (hearth : Nat) (f : Hearth → Hearth) : Micro := modPkg (fun p =>
  if h : hearth < 4 then { p with hearths := p.hearths.set hearth (f (p.hearths.get ⟨hearth, h⟩)) h } else p)

/-- A write to a core control window (Table 20.4): CMD takes a command only while it reads 0, and Idle is done at once. -/
def windowWrite (core off : Nat) (v : Word) : Micro := onlyIf (decide (core < coreCount)) (match off with
  | 0x00 => modWindow core (fun w =>
      if w.cmd = 0 then { w with cmd := v, result := if v = 0 then 0 else w.result, begun := none } else w)
  | 0x10 => modWindow core (fun w => { w with op0 := v })
  | 0x18 => modWindow core (fun w => { w with op1 := v })
  | _ => skip)

/-- A write to a hearth control window (Table 20.6). -/
def hearthWrite (hearth off : Nat) (v : Word) : Micro := match off with
  | 0x00 => modHearth hearth (fun w => if w.cmd = 0 then { w with cmd := v, result := if v = 0 then 0 else w.result } else w)
  | 0x10 => modHearth hearth (fun w => { w with addr := v })
  | 0x18 => modHearth hearth (fun w => { w with arg := v })
  | _ => modHearth hearth (fun w =>
      if 0x40 ≤ off then (if h : (off - 0x40) / 8 < 8 then { w with data := w.data.set ((off - 0x40) / 8) v h } else w)
      else w)

/-- A write to package control (Table 20.7). -/
def packageWrite (off : Nat) (v : Word) : Micro := match off with
  | 0x10 => modPkg (fun p => { p with grpbase := word (bitsNat v 55 23 * 2 ^ 23) })
  | 0x18 => modPkg (fun p => { p with pkgnum := bitsNat v 9 0 })
  | _ => skip

/-- A write to a link's counters (Table 20.9). -/
def linkWrite (link off n : Nat) : Micro := match off with
  | 0x10 => modLink link (fun l => { l with crcfail := n })
  | 0x18 => modLink link (fun l => { l with retries := n })
  | 0x20 => modLink link (fun l => { l with retrains := n })
  | 0x28 => modLink link (fun l => { l with feccorr := n })
  | 0x30 => modLink link (fun l => { l with fecuncorr := n })
  | _ => skip

/-- DEVICE_REGISTER_WRITE (R364): an aligned 8-byte word at an offset of the device register space. The registers whose writes
have a row of their own (PWRCAP, SESSKEY, ESCWAYS, LCTL, DOORBELL), read-only registers and reserved offsets stay as they are. -/
def execDeviceRegisterWrite (offset value : Nat) (s : State) : Host.Outcome State Fault Refusal :=
  pkgStep s (
    let v := word value
    if offset % 8 ≠ 0 then skip
    else if offset < 0x09000000 then windowWrite (offset / 0x10000) (offset % 0x10000) v
    else if offset < 0x09040000 then hearthWrite ((offset - 0x09000000) / 0x10000) (offset % 0x10000) v
    else if 0x10000000 ≤ offset ∧ offset < 0x10001000 then packageWrite (offset % 0x1000) v
    else if 0x30000000 ≤ offset ∧ offset < 0x30010000 then linkWrite ((offset - 0x30000000) / 0x1000) (offset % 0x1000) v.toNat
    else if 0x20000000 ≤ offset ∧ offset < 0x20210000 ∧ 0x1000 ≤ offset % 0x10000 ∧ offset % 0x10000 < 0x3000 then
      andThen (putPhys (deviceBase + offset) (leBytes 8 v.toNat)) (touchAll (deviceBase + offset) 8)
    else skip)

/-! ## Commands of the hearth windows (R366) -/

/-- A hearth's window. -/
def hearthAt (s : State) (hearth : Nat) : Hearth := s.pkg.hearths.toList.getD hearth Hearth.reset

/-- A command of a hearth window: refused, or performed. -/
def hearthCmd (s : State) (hearth : Nat) (hit : Nat → Bool) (f : Hearth → State → Option Micro) :
    Host.Outcome State Fault Refusal :=
  pkgStep s (ask (fun s =>
    let w := hearthAt s hearth
    onlyIf (decide (hearth < 4) && w.cmd != 0 && hit (bitsNat w.cmd 7 0)) (
      let done := fun (r : Word) => modHearth hearth (fun x => { x with cmd := 0, result := r })
      match f w s with
      | some g => andThen g (done 0)
      | none => done 1)))

/-- HEARTH_CMD_IDLE. -/
def execHearthCmdIdle (hearth : Nat) (s : State) : Host.Outcome State Fault Refusal :=
  hearthCmd s hearth (fun c => c == 0) (fun _ _ => some skip)

/-- HEARTH_CMD_RESERVED. -/
def execHearthCmdReserved (hearth : Nat) (s : State) : Host.Outcome State Fault Refusal :=
  hearthCmd s hearth (fun c => c != 0 && c != 6 && c != 7 && c != 8) (fun _ _ => none)

/-- The hearth that caches a silo address (R81). -/
def hearthOf (pa : Nat) : Nat := pa / 256 % 12 / 3

/-- A unit no longer poisoned. -/
def cleanUnit (u : Nat) : Micro := fun s => [.poison (s.poison.filter (fun x => x != u))]

/-- A scrub write of Calben's: one write, which clears the unit's poison. -/
def calbenWrite (s : State) (key : Nat) (bs : List Byte) : Micro :=
  let w := outsideWriter s .gaffer false
  doAll [countWrite w, writeHome w key bs, cleanUnit key]

/-- HEARTH_SCRUB_LINE: command 6. -/
def execHearthScrubLine (hearth : Nat) (s : State) : Host.Outcome State Fault Refusal :=
  hearthCmd s hearth (fun c => c == 6) (fun w s =>
    let a := w.addr.toNat
    if a % 64 ≠ 0 ∨ inSilo a = false ∨ hearthOf a ≠ hearth then none
    else some (calbenWrite s a (w.data.toList.flatMap (fun x => leBytes 8 x.toNat))))

/-- The poisoned SRAM words: those of cores' scratchpads and parison SRAM, and those of their ports' queues. -/
def poisonedWords (s : State) : List Nat :=
  s.poison.filter (fun u => decide (apertureBase ≤ u)) ++
  s.cores.flatMap (fun c => (List.range 32).flatMap (fun p =>
    ((List.range 16).filter (fun k => (((portAt s c.1 p).queue[k]?).map (fun x => x.poison)).getD false)).map (fun k =>
      apertureBase + c.1 * 0x100000 + 0x60000 + 128 * p + 8 * k)))

/-- The word that an array and a word number of a hearth's window name: first a poisoned one, whose record has carried that name; none where
there is no such word in the arrays of the hearth die and of the compute die above it. [log 10 DESIGN CHOICE] -/
def scrubbedWord (s : State) (hearth : Nat) (addr : Word) : Option (Option Nat) :=
  let named := fun (u : Nat) => sramName u == bitsNat addr 47 0 && decide (apertureBase ≤ u) &&
    dieOf ((u - apertureBase) / 0x100000) == hearth
  match (poisonedWords s).find? named with
  | some u => some (some u)
  | none =>
    match Config.arrayWord hearth (bitsNat addr 15 0) (bitsNat addr 47 16) with
    | some (some key) => if named (key / 8 * 8) then some (some (key / 8 * 8)) else none
    | x => x

/-- HEARTH_SCRUB_WORD: command 7. [log 10 and 68 DESIGN CHOICE] -/
def execHearthScrubWord (hearth : Nat) (s : State) : Host.Outcome State Fault Refusal :=
  hearthCmd s hearth (fun c => c == 7) (fun w s =>
    match scrubbedWord s hearth w.addr with
    | none => none
    | some none => some skip
    | some (some u) =>
      if (channelWord u).isSome then some (modChannelWord u (fun x => { x with data := w.data.get 0, poison := false }))
      else some (calbenWrite s u (leBytes 8 (w.data.get 0).toNat)))

/-- The quota table with a context's entry set; a quota of 0 removes it. -/
def setQuota (ctx quota : Nat) (l : List (Nat × Nat)) : List (Nat × Nat) :=
  l.filter (fun x => x.1 != ctx) ++ (if quota = 0 then [] else [(ctx, quota)])

/-- A core on which a context is resident, or core 0. -/
def someCore (s : State) (ctx : Nat) : Nat :=
  ((s.cores.find? (fun x => (residentOf x.2 ctx).isSome)).map (fun x => x.1)).getD 0

/-- One unpinned slice of a context put to eviction, in the victim order of R266. -/
def evictOne (ctx : Nat) : Micro := ask (fun s =>
  match victimOf s (someCore s ctx) ctx none with
  | none => skip
  | some v => andThen bump (modSlice ctx v (fun x => { x with state := .evicting, evictAt := s.tick })))

/-- HEARTH_SLICE_QUOTA: command 8. [log 68 DESIGN CHOICE] -/
def execHearthSliceQuota (hearth : Nat) (s : State) : Host.Outcome State Fault Refusal :=
  hearthCmd s hearth (fun c => c == 8) (fun w s =>
    let ctx := bitsNat w.addr 15 0
    let quota := w.arg.toNat
    let l := setQuota ctx quota s.pkg.quotas
    if hearth ≠ 0 ∨ 256 < quota ∨ 64 < l.length ∨ 32 * s.pkg.escways < l.foldl (fun n x => n + x.2) 0 then none
    else
      let resident := ((ctxAt s ctx).slices.filter (fun x => x.state == .resident)).length
      some (andThen (modPkg (fun p => { p with quotas := l }))
        (forAll (List.range (resident - quota)) (fun _ => evictOne ctx))))

end Sys2Proof.Machine
end

