-- ==== Sys2Proof/Machine/Windows.lean ====
section
/-! DEFINITION. The commands of the core control windows (R365, Table 20.5), and the end of a tenant's quantum (R317). -/

namespace Sys2Proof.Machine

/-! ## Performing a command -/

/-- A command of a core's window, if CMD holds its code. -/
def coreCmd (s : State) (core : Nat) (hit : Nat → Bool) (f : Window → State → CmdRes) : Host.Outcome State Fault Refusal :=
  coreStep s core (ask (fun s =>
    let w := (coreAt s core).window
    onlyIf (w.cmd != 0 && hit (bitsNat w.cmd 7 0)) (match f w s with
      | .refused => endCmd core 1
      | .done g => andThen g (endCmd core 0)
      | .waits g => g)))

/-- The context of a command. -/
def Window.ctx (w : Window) : Nat := bitsNat w.cmd 47 32

/-- CORE_CMD_IDLE. -/
def execCoreCmdIdle (core : Nat) (s : State) : Host.Outcome State Fault Refusal :=
  coreCmd s core (fun c => c == 0) (fun _ _ => .done skip)

/-- CORE_CMD_RESERVED. -/
def execCoreCmdReserved (core : Nat) (s : State) : Host.Outcome State Fault Refusal :=
  coreCmd s core (fun c => decide (15 ≤ c)) (fun _ _ => .refused)

/-! ## Threads held for Calben (R302, R303) -/

/-- A replacement cause of R302. -/
def replacement (v : Word) : Option Nat := if v = 0x06 ∨ v = 0x08 ∨ v = 0x0A then some v.toNat else none

/-- A held thread let go on at an address. -/
def continueAt (core slot : Nat) (pc : Word) : Micro := modSlot core slot (fun sl =>
  { sl.quiet with regs := { sl.regs with pc := pc } })

/-- The unit of a slot's bundle let go: a replayed bundle is fetched and decoded afresh (R302). [log 73 DEDUCED] -/
def dropUnit (core slot : Nat) : Micro := ask (fun s =>
  let sl := slotAt s core slot
  modCore core (fun c => { c with
    code := c.code.filter (fun u => !(u.ctx == sl.ctx && u.va == fetchUnit sl.regs.pc.toNat)) }))

/-- A thread held by R302 let go: its bundle is replayed, or takes a cause in place of its replay. [log 73 DEDUCED] -/
def replayThread (core slot : Nat) (cause : Option Nat) : Micro := ask (fun s =>
  let sl := slotAt s core slot
  match sl.wait, cause with
  | .retiring failed esc _, none => modSlot core slot (fun x => { x with wait := .retiring failed esc false })
  | .retiring _ _ _, some c => frameFault core slot sl.task.frame c
  | _, c => andThen (dropUnit core slot) (modSlot core slot (fun x =>
      { x.quiet with replaceCause := c.map (fun k => (k, x.replayValue)) })))

/-- What Calben has done before it lets a thread or a job go: its table stores come before the replay's walk (R347). -/
def calbenClock (s : State) : Clock := (knowsOf s (placeParty s .gaffer)).clock

/-- CORE_CMD_RESUME: command 1. [log 63 DESIGN CHOICE] -/
def execCoreCmdResume (core : Nat) (s : State) : Host.Outcome State Fault Refusal :=
  coreCmd s core (fun c => c == 1) (fun w s =>
    let sl := slotAt s core w.slot
    if sl.occupied = false ∨ heldWait sl.wait = false then .refused
    else if w.op1 ≠ 0 then
      (match replacement w.op1 with
       | none => .refused
       | some c => if sl.wait = .held then .refused else .done (replayThread core w.slot (some c)))
    else .done (andThen (acquireClock core w.slot (calbenClock s))
      (if w.op0 ≠ 0 then continueAt core w.slot w.op0 else replayThread core w.slot none)))

/-- CORE_CMD_RETIRE_AS_FAILED: command 2. [log 63 DESIGN CHOICE] -/
def execCoreCmdRetireAsFailed (core : Nat) (s : State) : Host.Outcome State Fault Refusal :=
  coreCmd s core (fun c => c == 2) (fun w s =>
    let sl := slotAt s core w.slot
    if sl.occupied = false then .refused
    else .done (match sl.wait with
      | .leaving => skip
      | .retiring _ esc _ => modSlot core w.slot (fun x => { x with wait := .retiring true esc false })
      | _ => retireFailed core w.slot 0))

/-! ## Residency (R315) -/

/-- A spill header as R25 has it. -/
def spillOk (s : State) (h : Word) : Bool :=
  let a := h.toNat
  let cap := memNat s (a + 8) 4
  let arr := memNat s a 8
  h == 0 ||
  (decide (a % 64 = 0) && inSilo (a + 63) && memNat s (a + 0xC) 4 == 0 && memNat s (a + 0x18) 0x28 == 0 &&
   (cap == 0 ||
    ((List.range 21).any (fun k => cap == 2 ^ k) && decide (arr % 64 = 0) && inSilo (arr + 64 * cap - 1) &&
     decide ((memNat s (a + 0x14) 4 + 2 ^ 32 - memNat s (a + 0x10) 4) % 2 ^ 32 ≤ cap))))

/-- Contexts resident on some core of a flock. -/
def flockContexts (s : State) (flock : Nat) : List Nat :=
  ((List.range 8).flatMap (fun k => (coreAt s (8 * flock + k)).residents.map (fun r => r.ctx))).eraseDups

/-- What a core holds of a context that has just become resident. [log 1 DESIGN CHOICE] -/
def Resident.new (ctx part : Nat) (bufmask : BitVec 8) (spill : Word) : Resident :=
  { ctx := ctx, part := part, bufmask := bufmask, spill := spill, deque := [], spilled := [],
    rings := Vector.replicate 16 none, pfthr := 2, spawns := 0, jobs := 0 }

/-- CORE_CMD_MAKE_RESIDENT: command 3. [log 63 DESIGN CHOICE] -/
def execCoreCmdMakeResident (core : Nat) (s : State) : Host.Outcome State Fault Refusal :=
  coreCmd s core (fun c => c == 3) (fun w s =>
    let c := coreAt s core
    let here := flockContexts s (flockOf core)
    let mask : BitVec 8 := BitVec.ofNat 8 (bitsNat w.op0 15 8)
    if (residentOf c w.ctx).isSome = true ∨ within w.op0 0xFF03 = false ∨ 16 ≤ c.residents.length ∨
        (here.contains w.ctx = false ∧ 32 ≤ here.length) ∨ c.residents.any (fun r => r.bufmask &&& mask != 0) = true ∨
        spillOk s w.op1 = false then .refused
    else .done (doAll [
      onlyIf (!here.contains w.ctx)
        (modFlock (flockOf core) (fun f => { f with buckets := f.buckets.filter (fun b => b.ctx != w.ctx) })),
      modCore core (fun k => { k with residents := k.residents ++ [Resident.new w.ctx (bitsNat w.op0 1 0) mask w.op1] }),
      syncSpill core w.ctx]))

/-- A context still holds something on a core: a buffer of its mask that is not free is not taken from it (R315). -/
def holdsHere (s : State) (core ctx : Nat) : Bool :=
  let c := coreAt s core
  (List.range 16).any (fun k => (slotAt s core k).occupied && (slotAt s core k).ctx == ctx) ||
  c.parked.any (fun p => p.ctx == ctx) || absent c ctx ||
  s.jobs.any (fun j => j.core == core && j.ctx == ctx && j.state != .done) ||
  c.ports.toList.any (fun p => (p.owner.map (fun o => o.ctx == ctx)).getD false) ||
  c.parison.toList.any (fun p => p.state != .free && p.ctx == ctx) ||
  (match residentOf c ctx with
   | none => false
   | some r => !r.deque.isEmpty || ((spillOf s r).map (fun a => a.count != 0)).getD false)

/-- CORE_CMD_REMOVE: command 4. [log 63 DESIGN CHOICE] -/
def execCoreCmdRemove (core : Nat) (s : State) : Host.Outcome State Fault Refusal :=
  coreCmd s core (fun c => c == 4) (fun w s =>
    if holdsHere s core w.ctx then .refused
    else .done (doAll [
      modJobs (fun js => js.filter (fun j => !(j.core == core && j.ctx == w.ctx))),
      modCore core (fun c => { c with residents := c.residents.filter (fun r => r.ctx != w.ctx) })]))

/-! ## Masks (R314) -/

/-- Some byte of a ring lies in a bank. -/
def Ring.touches (r : Ring) (bank : Nat) : Bool := overlaps r.base (r.size * r.count) (bank * 0x4000) 0x4000

/-- SLOTMASK would move a slot that holds a thread, or to which a parked image of a resident context belongs. -/
def slotmaskBad (s : State) (core : Nat) (m : Word) : Bool :=
  let c := coreAt s core
  (List.range 16).any (fun k => partOf { c with slotmask := m } k != partOf c k &&
    ((slotAt s core k).occupied || c.parked.any (fun p => p.slot == k && (residentOf c p.ctx).isSome)))

/-- BANKMASK would move a bank that a diversion entry names or that a ring touches. -/
def bankmaskBad (s : State) (core : Nat) (m : Word) : Bool :=
  let c := coreAt s core
  (List.range 16).any (fun k => bankPart { c with bankmask := m } k != bankPart c k &&
    (c.divert.toList.any (fun d => d.state != .off && bitAt d.mask k) ||
     c.residents.any (fun r => r.rings.toList.any (fun x => (x.map (fun y => y.touches k)).getD false))))

/-- CORE_CMD_WRITE_MASKS: command 5. Bits [63:32] are zero. [log 63 DESIGN CHOICE] -/
def execCoreCmdWriteMasks (core : Nat) (s : State) : Host.Outcome State Fault Refusal :=
  coreCmd s core (fun c => c == 5) (fun w s =>
    let sm := bitsW w.op0 31 0
    let bm := bitsW w.op1 31 0
    if slotmaskBad s core sm || bankmaskBad s core bm then .refused
    else .done (modCore core (fun c => { c with slotmask := sm, bankmask := bm })))

/-! ## Diversion entries (R308, R309) -/

/-- The operands of a DIVSET: entry, operation, context, bank mask and lehr base. -/
structure DivOperands where
  entry : Nat
  op    : Nat
  ctx   : Nat
  mask  : BitVec 16
  base  : Word

/-- The operands of a DIVSET, unless a bit that must be zero is set. -/
def divOperands (a b : Word) : Option DivOperands :=
  if bitsNat a 15 5 ≠ 0 ∨ bitsNat a 63 56 ≠ 0 ∨ bitsNat b 31 16 ≠ 0 ∨ bitsNat b 63 48 ≠ 0 then none
  else some { entry := bitsNat a 2 0, op := bitsNat a 4 3, ctx := bitsNat b 47 32, mask := b.truncate 16,
              base := lehrBase a }

/-- Operands that the window accepts: the banks are those of the partition in which the context is resident. -/
def windowDivert (s : State) (core : Nat) (w : Window) : Option DivOperands :=
  (divOperands w.op0 w.op1).bind (fun d => (residentOf (coreAt s core) d.ctx).bind (fun r =>
    if divertBad s core d.entry d.op d.ctx d.mask d.base (some r.part) then none else some d))

/-- CORE_CMD_DIVERT: command 6. It has taken effect when the save or restore it began has ended. -/
def execCoreCmdDivert (core : Nat) (s : State) : Host.Outcome State Fault Refusal :=
  coreCmd s core (fun c => c == 6) (fun w s =>
    match w.begun with
    | some e =>
      let st := (entryAt s core e).state
      if st = .saving ∨ st = .restoring then .waits skip else .done skip
    | none =>
      match windowDivert s core w with
      | none => .refused
      | some d => .waits (andThen (beginDivert core d.entry d.op d.ctx d.mask d.base)
          (modWindow core (fun x => { x with begun := some d.entry }))))

/-- CORE_CMD_CLEAR_ENTRY: command 7. -/
def execCoreCmdClearEntry (core : Nat) (s : State) : Host.Outcome State Fault Refusal :=
  coreCmd s core (fun c => c == 7) (fun w s =>
    let st := (entryAt s core (bitsNat w.op0 2 0)).state
    if bitsNat w.op0 63 3 ≠ 0 ∨ st = .saving ∨ st = .restoring then .refused
    else .done (onlyIf (st == .diverted) (entryOff core (bitsNat w.op0 2 0))))

/-- An entry over an image that stands in memory. -/
def Divert.installed (d : DivOperands) : Divert :=
  { Divert.begun d.ctx d.mask d.base .diverted with
    banks := (Vector.range 16).map (fun k => { BankCursor.reset with done := bitAt d.mask k }) }

/-- The ports that a lehr image holds, taken over with it: each stays bound to the slot and endpoint that its state names, and counts as
saved (R325). [log 94 DEDUCED] -/
def adoptPorts (core : Nat) (d : DivOperands) : Micro := ask (fun s => forAll (List.range 32) (fun p =>
  let at_ := portImage (Divert.installed d) p
  let flags := memNat s (at_ + 4) 1
  let who := memNat s (at_ + 10) 1
  onlyIf (flags % 2 == 1) (modPort core p (fun x => match x.owner with
    | some o => if o.ctx = d.ctx then { x with saved := true } else x
    | none => { Port.reset with
        owner := some { ctx := d.ctx, slot := who % 16, ep := Fin.ofNat 8 (who / 16) }, far := BitVec.ofNat 32 (memNat s at_ 4),
        recv := flags / 2 % 2 == 1, auto := flags / 4 % 2 == 1, saved := true }))))

/-- CORE_CMD_INSTALL_ENTRY: command 8. [log 94 DEDUCED] -/
def execCoreCmdInstallEntry (core : Nat) (s : State) : Host.Outcome State Fault Refusal :=
  coreCmd s core (fun c => c == 8) (fun w s =>
    match windowDivert s core w with
    | some d => if d.op = 1 then .done (andThen (modEntry core d.entry (fun _ => Divert.installed d)) (adoptPorts core d)) else .refused
    | none => .refused)

/-! ## Slots (R307, R298) -/

/-- CORE_CMD_HAND_OVER: command 9. Its exchange takes the slot's home cycle (R17): that of the cycle which the core is in, or the next,
with which it is made. [log 63 DESIGN CHOICE] -/
def execCoreCmdHandOver (core : Nat) (s : State) : Host.Outcome State Fault Refusal :=
  coreCmd s core (fun c => c == 9) (fun w s =>
    match handOverCmd s core with
    | .done f => if (coreAt s core).spent = true ∨ (coreAt s core).cycle % 16 ≠ w.slot then .waits skip else .done f
    | r => r)

/-- A switch request posted to a slot: an empty slot takes none (R355). [log 15 DEDUCED] -/
def postSwitch (core slot : Nat) : Micro := modSlot core slot (fun sl => { sl with switchReq := sl.occupied })

/-- CORE_CMD_SWITCH_REQUEST: command 10. -/
def execCoreCmdSwitchRequest (core : Nat) (s : State) : Host.Outcome State Fault Refusal :=
  coreCmd s core (fun c => c == 10) (fun w _ => .done (postSwitch core w.slot))

/-- The cores of the span of a partition of a core: those that Calben has set it up on, and where no span is known those on which one of its contexts is resident in it. [log 69 DEDUCED] -/
def partitionSpan (s : State) (core part : Nat) : List Nat :=
  let ctxs := ((coreAt s core).residents.filter (fun r => r.part == part)).map (fun r => r.ctx)
  match spanOf s core part with
  | some x => x
  | none => (s.cores.filter (fun x => x.1 == core || x.2.residents.any (fun r => r.part == part && ctxs.contains r.ctx))).map
    (fun x => x.1)

/-- QUANTUM_END (R317): Calben acts on one timer event. [log 69 DEDUCED] -/
def execQuantumEnd (core part : Nat) (s : State) : Host.Outcome State Fault Refusal :=
  pkgStep s (onlyIf (s.pkg.stage == .service) (andThen
    (postEvent (.quantum core part))
    (forAll (partitionSpan s core part) (fun n =>
      forAll ((List.range 16).filter (fun k => partOf (coreAt s n) k == part)) (postSwitch n)))))

/-! ## Registers -/

/-- The number of a privileged control register in an operand. -/
def privReg (v : Word) : Option Nat :=
  let n := bitsNat v 13 0
  if 0x2000 ≤ n ∧ assigned n = true then some n else none

/-- CORE_CMD_WRITE_REGISTER: command 11. The masks are written under R314. -/
def execCoreCmdWriteRegister (core : Nat) (s : State) : Host.Outcome State Fault Refusal :=
  coreCmd s core (fun c => c == 11) (fun w s =>
    match privReg w.op0 with
    | none => .refused
    | some n =>
      if (n = 0x2010 ∧ (within w.op1 0xFFFFFFFF = false ∨ slotmaskBad s core w.op1 = true)) ∨
          (n = 0x2011 ∧ (within w.op1 0xFFFFFFFF = false ∨ bankmaskBad s core w.op1 = true)) then .refused
      else match writeReg s core w.slot w.ctx n w.op1 true with
        | .error _ => .refused
        | .ok f => .done f)

/-- CORE_CMD_READ_REGISTER: command 12. -/
def execCoreCmdReadRegister (core : Nat) (s : State) : Host.Outcome State Fault Refusal :=
  coreCmd s core (fun c => c == 12) (fun w s =>
    match privReg w.op0 with
    | none => .refused
    | some n => .done (modWindow core (fun x => { x with value := readReg s core w.slot w.ctx n })))

/-! ## Deques and jobs -/

/-- The oldest packet of a deque moved to the newest end of its spill area. -/
def spillOldest (core ctx : Nat) : Micro := ask (fun s =>
  match residentOf (coreAt s core) ctx with
  | none => skip
  | some r =>
    match spillOf s r, r.deque.getLast? with
    | some a, some p => andThen (pushSpill a p.words)
        (modResident core ctx (fun r => { r with deque := r.deque.dropLast, spilled := r.spilled ++ [p.note] }))
    | _, _ => skip)

/-- CORE_CMD_SPILL_DEQUE: command 13. -/
def execCoreCmdSpillDeque (core : Nat) (s : State) : Host.Outcome State Fault Refusal :=
  coreCmd s core (fun c => c == 13) (fun w s =>
    match (residentOf (coreAt s core) w.ctx).bind (fun r => (spillOf s r).map (fun a => (r, a))) with
    | none => .refused
    | some (r, a) =>
      if a.cap < a.count + r.deque.length then .refused
      else .done (forAll r.deque (fun _ => spillOldest core w.ctx)))

/-- A job set aside that a cause ends: a slice's fill ends with it. -/
def failAside (j : Job) (cause : Nat) : Micro :=
  match j.body with
  | .slice tag _ _ => fillFault j.ctx tag j cause j.value
  | _ => failJob j cause j.value j.write

/-- CORE_CMD_RELEASE_JOB: command 14. [log 22 DEDUCED, 63 DESIGN CHOICE] -/
def execCoreCmdReleaseJob (core : Nat) (s : State) : Host.Outcome State Fault Refusal :=
  coreCmd s core (fun c => c == 14) (fun w s =>
    match (jobsOf s core w.ctx).find? (fun j => j.state == .aside && w.op0 == word j.handle) with
    | none => .refused
    | some j =>
      if w.op1 = 0 then
        .done (modJob j.order (fun x => { x with state := .queued, clock := Clock.join x.clock (calbenClock s) }))
      else match replacement w.op1 with
        | none => .refused
        | some c => .done (failAside j c))

end Sys2Proof.Machine
end

