-- ==== Sys2Proof/Machine/Dispatch.lean ====
section
/-! DEFINITION. One arm per constructor of Instr: the meaning of each instruction and of each step no word encodes. -/

namespace Sys2Proof.Machine

def exec (i : Instr) (s : State) : Host.Outcome State Fault Refusal :=
  match i with
  | .add d a b gp => Sys2Proof.Machine.execAdd d a b gp s
  | .sub d a b gp => Sys2Proof.Machine.execSub d a b gp s
  | .and_ d a b gp => Sys2Proof.Machine.execAnd d a b gp s
  | .or_ d a b gp => Sys2Proof.Machine.execOr d a b gp s
  | .xor_ d a b gp => Sys2Proof.Machine.execXor d a b gp s
  | .andn d a b gp => Sys2Proof.Machine.execAndn d a b gp s
  | .shl d a b gp => Sys2Proof.Machine.execShl d a b gp s
  | .shr d a b gp => Sys2Proof.Machine.execShr d a b gp s
  | .sar d a b gp => Sys2Proof.Machine.execSar d a b gp s
  | .mul d a b gp => Sys2Proof.Machine.execMul d a b gp s
  | .mulh d a b gp => Sys2Proof.Machine.execMulh d a b gp s
  | .mulhu d a b gp => Sys2Proof.Machine.execMulhu d a b gp s
  | .div d a b gp => Sys2Proof.Machine.execDiv d a b gp s
  | .divu d a b gp => Sys2Proof.Machine.execDivu d a b gp s
  | .rem d a b gp => Sys2Proof.Machine.execRem d a b gp s
  | .remu d a b gp => Sys2Proof.Machine.execRemu d a b gp s
  | .min d a b gp => Sys2Proof.Machine.execMin d a b gp s
  | .max d a b gp => Sys2Proof.Machine.execMax d a b gp s
  | .minu d a b gp => Sys2Proof.Machine.execMinu d a b gp s
  | .maxu d a b gp => Sys2Proof.Machine.execMaxu d a b gp s
  | .clz d a gp => Sys2Proof.Machine.execClz d a gp s
  | .ctz d a gp => Sys2Proof.Machine.execCtz d a gp s
  | .popc d a gp => Sys2Proof.Machine.execPopc d a gp s
  | .sel d a b ps => Sys2Proof.Machine.execSel d a b ps s
  | .addsl1 d a b gp => Sys2Proof.Machine.execAddsl1 d a b gp s
  | .addsl2 d a b gp => Sys2Proof.Machine.execAddsl2 d a b gp s
  | .addsl3 d a b gp => Sys2Proof.Machine.execAddsl3 d a b gp s
  | .addsl4 d a b gp => Sys2Proof.Machine.execAddsl4 d a b gp s
  | .cmpeq d a b gp => Sys2Proof.Machine.execCmpeq d a b gp s
  | .cmpne d a b gp => Sys2Proof.Machine.execCmpne d a b gp s
  | .cmplt d a b gp => Sys2Proof.Machine.execCmplt d a b gp s
  | .cmple d a b gp => Sys2Proof.Machine.execCmple d a b gp s
  | .cmpltu d a b gp => Sys2Proof.Machine.execCmpltu d a b gp s
  | .cmpleu d a b gp => Sys2Proof.Machine.execCmpleu d a b gp s
  | .pand d a b gp => Sys2Proof.Machine.execPand d a b gp s
  | .por d a b gp => Sys2Proof.Machine.execPor d a b gp s
  | .pxor d a b gp => Sys2Proof.Machine.execPxor d a b gp s
  | .pandn d a b gp => Sys2Proof.Machine.execPandn d a b gp s
  | .addi d a imm => Sys2Proof.Machine.execAddi d a imm s
  | .andi d a imm => Sys2Proof.Machine.execAndi d a imm s
  | .ori d a imm => Sys2Proof.Machine.execOri d a imm s
  | .xori d a imm => Sys2Proof.Machine.execXori d a imm s
  | .shli d a imm => Sys2Proof.Machine.execShli d a imm s
  | .shri d a imm => Sys2Proof.Machine.execShri d a imm s
  | .sari d a imm => Sys2Proof.Machine.execSari d a imm s
  | .li d imm => Sys2Proof.Machine.execLi d imm s
  | .lis d a imm => Sys2Proof.Machine.execLis d a imm s
  | .cmpeqi d a imm => Sys2Proof.Machine.execCmpeqi d a imm s
  | .cmplti d a imm => Sys2Proof.Machine.execCmplti d a imm s
  | .cmpltui d a imm => Sys2Proof.Machine.execCmpltui d a imm s
  | .bfx d a l p => Sys2Proof.Machine.execBfx d a l p s
  | .bfi d a l p => Sys2Proof.Machine.execBfi d a l p s
  | .fadd d a b z gp => Sys2Proof.Machine.execFadd d a b z gp s
  | .fsub d a b z gp => Sys2Proof.Machine.execFsub d a b z gp s
  | .fmul d a b z gp => Sys2Proof.Machine.execFmul d a b z gp s
  | .fdiv d a b z gp => Sys2Proof.Machine.execFdiv d a b z gp s
  | .fsqrt d a z gp => Sys2Proof.Machine.execFsqrt d a z gp s
  | .fmin d a b z gp => Sys2Proof.Machine.execFmin d a b z gp s
  | .fmax d a b z gp => Sys2Proof.Machine.execFmax d a b z gp s
  | .ffma d a b z gp => Sys2Proof.Machine.execFfma d a b z gp s
  | .fabs d a z gp => Sys2Proof.Machine.execFabs d a z gp s
  | .fneg d a z gp => Sys2Proof.Machine.execFneg d a z gp s
  | .fclass d a z gp => Sys2Proof.Machine.execFclass d a z gp s
  | .fcvti d a u z gp => Sys2Proof.Machine.execFcvti d a u z gp s
  | .fcvtf d a u z gp => Sys2Proof.Machine.execFcvtf d a u z gp s
  | .fcvtp d a z gp => Sys2Proof.Machine.execFcvtp d a z gp s
  | .fcmpeq d a b z gp => Sys2Proof.Machine.execFcmpeq d a b z gp s
  | .fcmplt d a b z gp => Sys2Proof.Machine.execFcmplt d a b z gp s
  | .fcmple d a b z gp => Sys2Proof.Machine.execFcmple d a b z gp s
  | .fcmpun d a b z gp => Sys2Proof.Machine.execFcmpun d a b z gp s
  | .badd d a b h w => Sys2Proof.Machine.execBadd d a b h w s
  | .bsub d a b h w => Sys2Proof.Machine.execBsub d a b h w s
  | .bmul d a b h w => Sys2Proof.Machine.execBmul d a b h w s
  | .bfma d a b h w => Sys2Proof.Machine.execBfma d a b h w s
  | .bmin d a b h w => Sys2Proof.Machine.execBmin d a b h w s
  | .bmax d a b h w => Sys2Proof.Machine.execBmax d a b h w s
  | .band d a b h w => Sys2Proof.Machine.execBand d a b h w s
  | .bor d a b h w => Sys2Proof.Machine.execBor d a b h w s
  | .bxor d a b h w => Sys2Proof.Machine.execBxor d a b h w s
  | .bdot d a b h w => Sys2Proof.Machine.execBdot d a b h w s
  | .bred d a o h w => Sys2Proof.Machine.execBred d a o h w s
  | .bcmplt d a b h w => Sys2Proof.Machine.execBcmplt d a b h w s
  | .bsel d a b h w => Sys2Proof.Machine.execBsel d a b h w s
  | .bmov d a h w => Sys2Proof.Machine.execBmov d a h w s
  | .bneg d a h w => Sys2Proof.Machine.execBneg d a h w s
  | .babs d a h w => Sys2Proof.Machine.execBabs d a h w s
  | .bexp2 d a h w => Sys2Proof.Machine.execBexp2 d a h w s
  | .blog2 d a h w => Sys2Proof.Machine.execBlog2 d a h w s
  | .brcp d a h w => Sys2Proof.Machine.execBrcp d a h w s
  | .brsq d a h w => Sys2Proof.Machine.execBrsq d a h w s
  | .bsigm d a h w => Sys2Proof.Machine.execBsigm d a h w s
  | .btanh d a h w => Sys2Proof.Machine.execBtanh d a h w s
  | .bsqrt d a h w => Sys2Proof.Machine.execBsqrt d a h w s
  | .brelu d a h w => Sys2Proof.Machine.execBrelu d a h w s
  | .bcvt d a f h w => Sys2Proof.Machine.execBcvt d a f h w s
  | .bscal d a g h w => Sys2Proof.Machine.execBscal d a g h w s
  | .badds d a g h w => Sys2Proof.Machine.execBadds d a g h w s
  | .bbcst d g h w => Sys2Proof.Machine.execBbcst d g h w s
  | .bget l a g h w => Sys2Proof.Machine.execBget l a g h w s
  | .bset d l g h w => Sys2Proof.Machine.execBset d l g h w s
  | .bgnorm d a g h w => Sys2Proof.Machine.execBgnorm d a g h w s
  | .bshuf d a g h w => Sys2Proof.Machine.execBshuf d a g h w s
  | .bscl d a g h w => Sys2Proof.Machine.execBscl d a g h w s
  | .nop gp => Sys2Proof.Machine.execNop gp s
  | .halt gp => Sys2Proof.Machine.execHalt gp s
  | .brk gp => Sys2Proof.Machine.execBrk gp s
  | .syscall gp => Sys2Proof.Machine.execSyscall gp s
  | .yield gp => Sys2Proof.Machine.execYield gp s
  | .uiret gp => Sys2Proof.Machine.execUiret gp s
  | .ifence gp => Sys2Proof.Machine.execIfence gp s
  | .tret gp => Sys2Proof.Machine.execTret gp s
  | .br p ps d => Sys2Proof.Machine.execBr p ps d s
  | .jal l d => Sys2Proof.Machine.execJal l d s
  | .jalr d a b gp => Sys2Proof.Machine.execJalr d a b gp s
  | .ld8 t ps o c k => Sys2Proof.Machine.execLd8 t ps o c k s
  | .ld8U t ps o c k => Sys2Proof.Machine.execLd8U t ps o c k s
  | .ld16 t ps o c k => Sys2Proof.Machine.execLd16 t ps o c k s
  | .ld16U t ps o c k => Sys2Proof.Machine.execLd16U t ps o c k s
  | .ld32 t ps o c k => Sys2Proof.Machine.execLd32 t ps o c k s
  | .ld32U t ps o c k => Sys2Proof.Machine.execLd32U t ps o c k s
  | .ld64 t ps o c k => Sys2Proof.Machine.execLd64 t ps o c k s
  | .st8 t ps o c k => Sys2Proof.Machine.execSt8 t ps o c k s
  | .st16 t ps o c k => Sys2Proof.Machine.execSt16 t ps o c k s
  | .st32 t ps o c k => Sys2Proof.Machine.execSt32 t ps o c k s
  | .st64 t ps o c k => Sys2Proof.Machine.execSt64 t ps o c k s
  | .ldv v ps o h w k => Sys2Proof.Machine.execLdv v ps o h w k s
  | .stv v ps o h w k => Sys2Proof.Machine.execStv v ps o h w k s
  | .aadd d ps b c k w => Sys2Proof.Machine.execAadd d ps b c k w s
  | .aaddf d ps b c k w => Sys2Proof.Machine.execAaddf d ps b c k w s
  | .amin d ps b c k w => Sys2Proof.Machine.execAmin d ps b c k w s
  | .amax d ps b c k w => Sys2Proof.Machine.execAmax d ps b c k w s
  | .aminu d ps b c k w => Sys2Proof.Machine.execAminu d ps b c k w s
  | .amaxu d ps b c k w => Sys2Proof.Machine.execAmaxu d ps b c k w s
  | .aand d ps b c k w => Sys2Proof.Machine.execAand d ps b c k w s
  | .aor d ps b c k w => Sys2Proof.Machine.execAor d ps b c k w s
  | .axor d ps b c k w => Sys2Proof.Machine.execAxor d ps b c k w s
  | .aswp d ps b c k w => Sys2Proof.Machine.execAswp d ps b c k w s
  | .acas d ps b c k w => Sys2Proof.Machine.execAcas d ps b c k w s
  | .fence k c => Sys2Proof.Machine.execFence k c s
  | .pref l ps o => Sys2Proof.Machine.execPref l ps o s
  | .send a q => Sys2Proof.Machine.execSend a q s
  | .sendt p a q => Sys2Proof.Machine.execSendt p a q s
  | .recv d q => Sys2Proof.Machine.execRecv d q s
  | .recvt d p q => Sys2Proof.Machine.execRecvt d p q s
  | .sendc a q => Sys2Proof.Machine.execSendc a q s
  | .alt d a => Sys2Proof.Machine.execAlt d a s
  | .chgrant a q => Sys2Proof.Machine.execChgrant a q s
  | .chbind a f q => Sys2Proof.Machine.execChbind a f q s
  | .chunbind q => Sys2Proof.Machine.execChunbind q s
  | .chstat d q => Sys2Proof.Machine.execChstat d q s
  | .spawn p a => Sys2Proof.Machine.execSpawn p a s
  | .spawnat p a b => Sys2Proof.Machine.execSpawnat p a b s
  | .join a => Sys2Proof.Machine.execJoin a s
  | .retire => Sys2Proof.Machine.execRetire s
  | .bar a b => Sys2Proof.Machine.execBar a b s
  | .fmtsel n => Sys2Proof.Machine.execFmtsel n s
  | .taskinfo d n => Sys2Proof.Machine.execTaskinfo d n s
  | .mwarm a => Sys2Proof.Machine.execMwarm a s
  | .mwait d a => Sys2Proof.Machine.execMwait d a s
  | .mwdis a => Sys2Proof.Machine.execMwdis a s
  | .uisend a b => Sys2Proof.Machine.execUisend a b s
  | .uimask d a => Sys2Proof.Machine.execUimask d a s
  | .jpoll p a => Sys2Proof.Machine.execJpoll p a s
  | .jwait d a => Sys2Proof.Machine.execJwait d a s
  | .rdc d n => Sys2Proof.Machine.execRdc d n s
  | .wrc a n => Sys2Proof.Machine.execWrc a n s
  | .hsift a b c k => Sys2Proof.Machine.execHsift a b c k s
  | .mxma d a => Sys2Proof.Machine.execMxma d a s
  | .mxmab a => Sys2Proof.Machine.execMxmab a s
  | .mxld a n => Sys2Proof.Machine.execMxld a n s
  | .mxst a n => Sys2Proof.Machine.execMxst a n s
  | .mxzero n => Sys2Proof.Machine.execMxzero n s
  | .mxq d => Sys2Proof.Machine.execMxq d s
  | .ringset a n => Sys2Proof.Machine.execRingset a n s
  | .ringadv a n => Sys2Proof.Machine.execRingadv a n s
  | .ringq d n => Sys2Proof.Machine.execRingq d n s
  | .cpy d a => Sys2Proof.Machine.execCpy d a s
  | .cpys a q => Sys2Proof.Machine.execCpys a q s
  | .cpym d a => Sys2Proof.Machine.execCpym d a s
  | .cpyq d a => Sys2Proof.Machine.execCpyq d a s
  | .pfetch d a b => Sys2Proof.Machine.execPfetch d a b s
  | .pconf a b => Sys2Proof.Machine.execPconf a b s
  | .pcanc a => Sys2Proof.Machine.execPcanc a s
  | .pfset a b => Sys2Proof.Machine.execPfset a b s
  | .pfget d a => Sys2Proof.Machine.execPfget d a s
  | .pfstat d a => Sys2Proof.Machine.execPfstat d a s
  | .aejob d a => Sys2Proof.Machine.execAejob d a s
  | .aeres d a => Sys2Proof.Machine.execAeres d a s
  | .aeabort a => Sys2Proof.Machine.execAeabort a s
  | .escreq d a => Sys2Proof.Machine.execEscreq d a s
  | .escpin a => Sys2Proof.Machine.execEscpin a s
  | .escunpin a => Sys2Proof.Machine.execEscunpin a s
  | .eschist a b n => Sys2Proof.Machine.execEschist a b n s
  | .escq d a => Sys2Proof.Machine.execEscq d a s
  | .kvxl d a b => Sys2Proof.Machine.execKvxl d a b s
  | .kvins d a b => Sys2Proof.Machine.execKvins d a b s
  | .kvdel d a b => Sys2Proof.Machine.execKvdel d a b s
  | .kvexp d a b => Sys2Proof.Machine.execKvexp d a b s
  | .kvimp d a => Sys2Proof.Machine.execKvimp d a s
  | .pcommit d a => Sys2Proof.Machine.execPcommit d a s
  | .pdecommit d a => Sys2Proof.Machine.execPdecommit d a s
  | .pprobe d a => Sys2Proof.Machine.execPprobe d a s
  | .swapctx a => Sys2Proof.Machine.execSwapctx a s
  | .slothand a => Sys2Proof.Machine.execSlothand a s
  | .divset a b => Sys2Proof.Machine.execDivset a b s
  | .divclr a => Sys2Proof.Machine.execDivclr a s
  | .tlbinv a b => Sys2Proof.Machine.execTlbinv a b s
  | .tlbinvc a => Sys2Proof.Machine.execTlbinvc a s
  | .pfclr => Sys2Proof.Machine.execPfclr s
  | .taskDispatch core slot => Sys2Proof.Machine.execTaskDispatch core slot s
  | .ifetchFill core slot => Sys2Proof.Machine.execIfetchFill core slot s
  | .loadDataReturn core slot => Sys2Proof.Machine.execLoadDataReturn core slot s
  | .storeBufferDrain core slot => Sys2Proof.Machine.execStoreBufferDrain core slot s
  | .homeRequestArrival rid => Sys2Proof.Machine.execHomeRequestArrival rid s
  | .atomicPerform core slot => Sys2Proof.Machine.execAtomicPerform core slot s
  | .longOpComplete core slot => Sys2Proof.Machine.execLongOpComplete core slot s
  | .blockOpComplete core slot => Sys2Proof.Machine.execBlockOpComplete core slot s
  | .fenceComplete core slot => Sys2Proof.Machine.execFenceComplete core slot s
  | .ifenceComplete core slot => Sys2Proof.Machine.execIfenceComplete core slot s
  | .yieldExpiry core slot => Sys2Proof.Machine.execYieldExpiry core slot s
  | .userInterruptEntry core slot => Sys2Proof.Machine.execUserInterruptEntry core slot s
  | .copyCompletionEntry core slot => Sys2Proof.Machine.execCopyCompletionEntry core slot s
  | .channelWordArrival mid => Sys2Proof.Machine.execChannelWordArrival mid s
  | .grantArrival mid => Sys2Proof.Machine.execGrantArrival mid s
  | .chunbindAck core slot => Sys2Proof.Machine.execChunbindAck core slot s
  | .spawnComplete core slot => Sys2Proof.Machine.execSpawnComplete core slot s
  | .spawnatPacketArrival rid => Sys2Proof.Machine.execSpawnatPacketArrival rid s
  | .spawnatAck core slot => Sys2Proof.Machine.execSpawnatAck core slot s
  | .joinWake core slot => Sys2Proof.Machine.execJoinWake core slot s
  | .retireFrameUpdate core slot => Sys2Proof.Machine.execRetireFrameUpdate core slot s
  | .retireSlotFree core slot => Sys2Proof.Machine.execRetireSlotFree core slot s
  | .barWake core slot => Sys2Proof.Machine.execBarWake core slot s
  | .mwaitWake core slot => Sys2Proof.Machine.execMwaitWake core slot s
  | .mwaitTimeout core slot => Sys2Proof.Machine.execMwaitTimeout core slot s
  | .stallReport core slot => Sys2Proof.Machine.execStallReport core slot s
  | .uisendArrival mid => Sys2Proof.Machine.execUisendArrival mid s
  | .trapEntry core slot => Sys2Proof.Machine.execTrapEntry core slot s
  | .switchRequestTaken core slot => Sys2Proof.Machine.execSwitchRequestTaken core slot s
  | .contextExchange core slot => Sys2Proof.Machine.execContextExchange core slot s
  | .engineFaultDelivery core slot => Sys2Proof.Machine.execEngineFaultDelivery core slot s
  | .matrixJobStart flock => Sys2Proof.Machine.execMatrixJobStart flock s
  | .matrixPanelFetch flock => Sys2Proof.Machine.execMatrixPanelFetch flock s
  | .matrixStep flock mismatch rerunMismatch => Sys2Proof.Machine.execMatrixStep flock mismatch rerunMismatch s
  | .matrixJobComplete flock => Sys2Proof.Machine.execMatrixJobComplete flock s
  | .accumTransferComplete flock => Sys2Proof.Machine.execAccumTransferComplete flock s
  | .mxzeroJob flock => Sys2Proof.Machine.execMxzeroJob flock s
  | .copyStart core ctx n => Sys2Proof.Machine.execCopyStart core ctx n s
  | .copyTurn flock => Sys2Proof.Machine.execCopyTurn flock s
  | .copyComplete core ctx n => Sys2Proof.Machine.execCopyComplete core ctx n s
  | .droverJobStart band => Sys2Proof.Machine.execDroverJobStart band s
  | .droverRound band => Sys2Proof.Machine.execDroverRound band s
  | .droverJobEnd band => Sys2Proof.Machine.execDroverJobEnd band s
  | .sliceFillComplete ctx tag => Sys2Proof.Machine.execSliceFillComplete ctx tag s
  | .sliceEvictionComplete ctx tag => Sys2Proof.Machine.execSliceEvictionComplete ctx tag s
  | .kvTranslatorOp core slot => Sys2Proof.Machine.execKvTranslatorOp core slot s
  | .kvExportJob core ctx n => Sys2Proof.Machine.execKvExportJob core ctx n s
  | .kvImportJob core ctx n => Sys2Proof.Machine.execKvImportJob core ctx n s
  | .speculativeFetchLine core buf => Sys2Proof.Machine.execSpeculativeFetchLine core buf s
  | .parisonDataLand core buf => Sys2Proof.Machine.execParisonDataLand core buf s
  | .pageWalkComplete core slot => Sys2Proof.Machine.execPageWalkComplete core slot s
  | .tlbinvComplete core slot => Sys2Proof.Machine.execTlbinvComplete core slot s
  | .pcommitComplete core slot => Sys2Proof.Machine.execPcommitComplete core slot s
  | .pdecommitInvalidationDone ctx page => Sys2Proof.Machine.execPdecommitInvalidationDone ctx page s
  | .tokenBucketRefill flock => Sys2Proof.Machine.execTokenBucketRefill flock s
  | .slicePortGrant flock slice => Sys2Proof.Machine.execSlicePortGrant flock slice s
  | .portSaveStep core entry => Sys2Proof.Machine.execPortSaveStep core entry s
  | .saveStep core entry => Sys2Proof.Machine.execSaveStep core entry s
  | .restoreReadIssue core entry => Sys2Proof.Machine.execRestoreReadIssue core entry s
  | .restoreLineWrite core entry bank => Sys2Proof.Machine.execRestoreLineWrite core entry bank s
  | .portRestoreStep core entry => Sys2Proof.Machine.execPortRestoreStep core entry s
  | .lehrAccess core => Sys2Proof.Machine.execLehrAccess core s
  | .lehrChannelWrite mid => Sys2Proof.Machine.execLehrChannelWrite mid s
  | .quantumEnd core part => Sys2Proof.Machine.execQuantumEnd core part s
  | .powerGood => Sys2Proof.Machine.execPowerGood s
  | .safeStageEntry flashOk sigOk => Sys2Proof.Machine.execSafeStageEntry flashOk sigOk s
  | .inventoryStageEntry fresh working recordSigOk => Sys2Proof.Machine.execInventoryStageEntry fresh working recordSigOk s
  | .kernelStageEntry found0 sig0 found1 sig1 => Sys2Proof.Machine.execKernelStageEntry found0 sig0 found1 sig1 s
  | .dieEntersService die repairable => Sys2Proof.Machine.execDieEntersService die repairable s
  | .scrubRead unit corrected lost => Sys2Proof.Machine.execScrubRead unit corrected lost s
  | .doorbell fn value => Sys2Proof.Machine.execDoorbell fn value s
  | .hostPostedWrite addr size value => Sys2Proof.Machine.execHostPostedWrite addr size value s
  | .linkFlitReceive link crcOk corrected uncorrected => Sys2Proof.Machine.execLinkFlitReceive link crcOk corrected uncorrected s
  | .linkRetrain link => Sys2Proof.Machine.execLinkRetrain link s
  | .peerLost peer => Sys2Proof.Machine.execPeerLost peer s
  | .thermalTrip => Sys2Proof.Machine.execThermalTrip s
  | .thermalResume => Sys2Proof.Machine.execThermalResume s
  | .junctionThrottle flock clock => Sys2Proof.Machine.execJunctionThrottle flock clock s
  | .clockChange flock clock => Sys2Proof.Machine.execClockChange flock clock s
  | .pwrcap value => Sys2Proof.Machine.execPwrcap value s
  | .sesskey k value => Sys2Proof.Machine.execSesskey k value s
  | .escways hearth value => Sys2Proof.Machine.execEscways hearth value s
  | .linkRetrainCmd link => Sys2Proof.Machine.execLinkRetrainCmd link s
  | .linkEnable link enable => Sys2Proof.Machine.execLinkEnable link enable s
  | .deviceRegisterWrite offset value => Sys2Proof.Machine.execDeviceRegisterWrite offset value s
  | .hearthCmdIdle hearth => Sys2Proof.Machine.execHearthCmdIdle hearth s
  | .hearthScrubLine hearth => Sys2Proof.Machine.execHearthScrubLine hearth s
  | .hearthScrubWord hearth => Sys2Proof.Machine.execHearthScrubWord hearth s
  | .hearthSliceQuota hearth => Sys2Proof.Machine.execHearthSliceQuota hearth s
  | .hearthCmdReserved hearth => Sys2Proof.Machine.execHearthCmdReserved hearth s
  | .coreCmdIdle core => Sys2Proof.Machine.execCoreCmdIdle core s
  | .coreCmdResume core => Sys2Proof.Machine.execCoreCmdResume core s
  | .coreCmdRetireAsFailed core => Sys2Proof.Machine.execCoreCmdRetireAsFailed core s
  | .coreCmdMakeResident core => Sys2Proof.Machine.execCoreCmdMakeResident core s
  | .coreCmdRemove core => Sys2Proof.Machine.execCoreCmdRemove core s
  | .coreCmdWriteMasks core => Sys2Proof.Machine.execCoreCmdWriteMasks core s
  | .coreCmdDivert core => Sys2Proof.Machine.execCoreCmdDivert core s
  | .coreCmdClearEntry core => Sys2Proof.Machine.execCoreCmdClearEntry core s
  | .coreCmdInstallEntry core => Sys2Proof.Machine.execCoreCmdInstallEntry core s
  | .coreCmdHandOver core => Sys2Proof.Machine.execCoreCmdHandOver core s
  | .coreCmdSwitchRequest core => Sys2Proof.Machine.execCoreCmdSwitchRequest core s
  | .coreCmdWriteRegister core => Sys2Proof.Machine.execCoreCmdWriteRegister core s
  | .coreCmdReadRegister core => Sys2Proof.Machine.execCoreCmdReadRegister core s
  | .coreCmdSpillDeque core => Sys2Proof.Machine.execCoreCmdSpillDeque core s
  | .coreCmdReleaseJob core => Sys2Proof.Machine.execCoreCmdReleaseJob core s
  | .coreCmdReserved core => Sys2Proof.Machine.execCoreCmdReserved core s
  | .linkTrainingDone link up peer peerLink => Sys2Proof.Machine.execLinkTrainingDone link up peer peerLink s
  | .powerLoss => Sys2Proof.Machine.execPowerLoss s

end Sys2Proof.Machine
end

