-- ==== Sys2Proof/Machine/Moves.lean ====
section
/-! DEFINITION. What one move of the package does: a core's cycle, a step no word encodes, or an act of the outside world; and how
an instruction is placed where a core fetches next. -/

namespace Sys2Proof.Machine

/-- A constructor that stands for a step no word encodes. -/
def isEvent (i : Instr) : Bool := (encode .pairC i).isNone && (encode .loneC i).isNone && (encode .wordA i).isNone

/-- The word that the issuing slot's bundle hands to its meaning. -/
def handedWord (s : State) : Option Instr :=
  match s.issuing with
  | some (core, slot) => (slotAt s core slot).issue.bind Issue.head
  | none => none

/-- A core's next cycle: what it brings, and the meaning of the word that it issues, if it issues one. -/
def runCycle (core : Nat) (s : State) : Host.Outcome State Fault Refusal :=
  if coreUp s core then
    let t := applyAll s (cycleStep core s)
    match handedWord t with
    | some i => exec i t
    | none => .next t
  else .next s

/-- The line of a slot's watch is evicted from its core's L1: the spurious event of R206. [log 57 DEDUCED] -/
def evictWatched (core slot : Nat) : Micro := modCore core (fun c =>
  { c with watches := c.watches.map (fun w => if w.slot = slot then w.note 2 else w) })

/-- Calben sets a partition up on the cores of its span, in place of one of its number that has a core among them (R314): on cores that
have numbers (R359). [log 9 DEDUCED] -/
def setSpan (part : Nat) (cores : List Nat) : Micro := modPkg (fun p =>
  let here := cores.filter (fun n => decide (n < coreCount) && dieRepairable p.repairMap (dieOf n))
  { p with spans := p.spans.filter (fun x => !(x.1 == part && x.2.any (fun c => here.contains c))) ++ [(part, here)] })

/-- One move. An instruction word moves only in a cycle. [log 4 DESIGN CHOICE] -/
def runMove (m : Move) (s : State) : Host.Outcome State Fault Refusal :=
  match m with
  | .cycle core => runCycle core s
  | .event i => if isEvent i then exec i s else .next s
  | .outside place bytes rel => pkgStep s (outsideWrite place bytes rel)
  | .dropTranslation level k => commit s (dropTlb level k)
  | .evictWatched core slot => commit s (evictWatched core slot)
  | .span part cores => pkgStep s (setSpan part cores)
  | .flash ok => commit s (modPkg (fun p => { p with flashOk := ok }))
  | .answerRetire row => endpointStep s (answerRetire row)
  | .sign => pkgStep s signOnce
  | .repair units => pkgStep s (newRecord units)

/-- The move that comes next, and the state that has let go of it. [log 4 DESIGN CHOICE] -/
def nextMove (s : State) : Move × State :=
  match s.agenda with
  | m :: t => (m, { s with agenda := t })
  | [] => (Config.freeMove s.tick, { s with tick := s.tick + 1 })

/-! ## A program placed -/

/-- Where `withFetchWord` puts its bundle: an address of ordinary memory, 8-byte aligned. -/
def placedPc : Nat := 0x800000

/-- The A word after a placed C word of a pair: `add g0, g0, g0`, which changes nothing. -/
def fillerWord : W32 := 0x80000000

/-- A thread of context 0 about to fetch at `placedPc`. -/
def placedSlot (sl : Slot) : Slot :=
  { Slot.reset with
    occupied := true
    regs := { sl.regs with pc := word placedPc }
    ctl := sl.ctl
    trap := sl.trap }

/-- A core that holds the unit at `placedPc`, with context 0 resident and present, at the cycle before slot 0's. -/
def placedCore (c : Core) (w : W32) : Core :=
  { c with
    cycle := 15
    divert := Vector.replicate 8 Divert.reset
    window := Window.reset
    residents := if (residentOf c 0).isSome then c.residents else c.residents ++ [Resident.new 0 (partOf c 0) 0xFF 0]
    code := { ctx := 0, va := placedPc, word0 := w, word1 := fillerWord, user := true } ::
      c.code.filter (fun u => u.va != placedPc) }

/-- A package in service, as Calben has it when it lets a core run. -/
def placedPkg (p : Pkg) : Pkg :=
  { p with powered := true, started := true, stage := .service, dies := 0xF, trip := false }

/-- Context 0 with a root of tables, since it must have one to fetch (R338). -/
def placedCtx (c : Ctx) : Ctx := { c with ptbase := if c.ptbase = 0 then 0x1000 else c.ptbase }

/-- A state whose next step issues the bundle that a word begins, in slot 0 of core 0. -/
def placeWord (s : State) (w : W32) : State := applyAll s [
  .pkg (placedPkg s.pkg),
  .ctx 0 (placedCtx (ctxAt s 0)),
  .core 0 (placedCore (coreAt s 0) w),
  .slot 0 0 (placedSlot (slotAt s 0 0)),
  .issuing none,
  .agenda (.cycle 0 :: s.agenda)]

end Sys2Proof.Machine
end

