-- ==== Sys2Proof/Machine/Step.lean ====
section
/-! DEFINITION. One step of the package, and a state whose next step runs a given instruction. -/

namespace Sys2Proof.Machine

/-- One step: the move that comes next is made. [log 4 DESIGN CHOICE] -/
def step (s : State) : Host.Outcome State Fault Refusal := runMove (nextMove s).1 (nextMove s).2

/-- `s` with an instruction's word where core 0 fetches next: the package is in service, slot 0 holds a thread of context 0 at
`placedPc`, the word stands in the fetched unit there, and the next move is core 0's cycle. [log 12 DESIGN CHOICE] -/
def State.withFetchWord (s : State) (_nbits w : Nat) : State := placeWord s (BitVec.ofNat 32 w)

end Sys2Proof.Machine
end

