-- ==== Sys2Proof/Machine/Registers.lean ====
section
/-! DEFINITION. What a read of the device register space returns to the Gaffer machine level (R364–R369, R372): core control windows,
hearth control windows, package control, mailboxes and link registers, as aligned 8-byte words. -/

namespace Sys2Proof.Machine

/-- A diversion entry as a core control window shows it (Table 20.4). -/
def divertWord (d : Divert) (off : Nat) : Word :=
  let cursors := fun (lo : Nat) => leNat ((List.range 8).map (fun k => BitVec.ofNat 8 (d.bank (lo + k)).cursor))
  match off with
  | 0x00 => word (d.ctx % 65536 + d.mask.toNat * 2 ^ 16 + (match d.state with
      | .off => 0
      | .saving => 1
      | .diverted => 2
      | .restoring => 3) * 2 ^ 32)
  | 0x08 => d.base
  | 0x10 => word (cursors 0)
  | 0x18 => word (cursors 8)
  | 0x20 => word (((List.range 16).map (fun k => bitIf (d.bank k).done k)).foldl (fun n x => n + x) 0)
  | _ => 0

/-- A resident context as a core control window shows it. -/
def residentWord (r : Resident) (off : Nat) : Word :=
  if off = 0 then word (r.ctx % 65536 + r.part % 4 * 2 ^ 16 + r.bufmask.toNat * 2 ^ 24) else r.spill

/-- A ring descriptor in the layout of Table 4.2. -/
def ringBytes (r : Ring) : List Byte :=
  leBytes 4 r.base ++ leBytes 4 r.size ++ leBytes 2 r.count ++ leBytes 2 r.head ++ leBytes 2 r.tail ++ leBytes 2 0

/-- A ring of a resident context as a core control window shows it; none reads as zero. -/
def ringShown (r : Resident) (off : Nat) : Word :=
  match r.rings.toList.getD (off / 16) none with
  | some x => word (fieldAt (ringBytes x) (off % 16) 8)
  | none => 0

/-- The words of a slot's image, a copy of Table 16.10, as a suspension would make it: a wait that ends its bundle continues after it
(Table 16.11). An empty slot's is zero. -/
def slotImage (s : State) (core slot : Nat) : List Word :=
  let wait := (slotAt s core slot).wait
  let t := applyAll s (onlyIf ((slotAt s core slot).issue.isSome && endsBundle wait) (finishPlain core slot) s)
  let sl := slotAt t core slot
  if sl.occupied then imageOf t core { sl with wait := wait } sl.regs.pc else []

/-- A word of a core control window (Table 20.4). -/
def windowRead (s : State) (core off : Nat) : Word :=
  let c := coreAt s core
  let w := c.window
  if off = 0 then w.cmd else if off = 0x08 then w.result else if off = 0x10 then w.op0 else if off = 0x18 then w.op1
  else if off = 0x20 then w.value
  else if 0x100 ≤ off ∧ off < 0x300 then divertWord (entryAt s core ((off - 0x100) / 64)) (off % 64)
  else if 0x400 ≤ off ∧ off < 0x500 then
    ((c.residents[(off - 0x400) / 16]?).map (fun r => residentWord r (off % 16))).getD 0
  else if 0x800 ≤ off ∧ off < 0x8800 then imageWord (slotImage s core ((off - 0x800) / 0x800)) ((off - 0x800) % 0x800)
  else if 0x9000 ≤ off ∧ off < 0xA000 then
    ((c.residents[(off - 0x9000) / 256]?).map (fun r => ringShown r (off % 256))).getD 0
  else 0

/-- An entry of the quota table (Table 20.6). -/
def quotaWord (s : State) (k : Nat) : Word :=
  match s.pkg.quotas[k]? with
  | some (ctx, quota) => word (ctx % 65536 + quota * 2 ^ 16 +
      ((ctxAt s ctx).slices.filter (fun x => x.state == .resident)).length * 2 ^ 32)
  | none => 0

/-- A word of a hearth control window (Table 20.6): ESCWAYS, ESCCAP and the quotas read the same in all four. -/
def hearthRead (s : State) (hearth off : Nat) : Word :=
  let w := hearthAt s hearth
  if off = 0 then w.cmd else if off = 0x08 then w.result else if off = 0x10 then w.addr else if off = 0x18 then w.arg
  else if 0x40 ≤ off ∧ off < 0x80 then w.data.toList.getD ((off - 0x40) / 8) 0
  else if off = 0x100 then word s.pkg.escways
  else if off = 0x108 then word (32 * s.pkg.escways)
  else if 0x200 ≤ off ∧ off < 0x400 then quotaWord s ((off - 0x200) / 8)
  else 0

/-- A word of package control (Table 20.7): the words of SESSKEY read 0 (R369). -/
def packageRead (p : Pkg) (off : Nat) : Word :=
  match off with
  | 0x00 => statusWord p
  | 0x08 => word p.pwrcap
  | 0x10 => p.grpbase
  | 0x18 => word p.pkgnum
  | _ => 0

/-- A word of a link's registers (Table 20.9): RETRAIN reads 0. -/
def linkRead (l : Link) (off : Nat) : Word :=
  match off with
  | 0x00 => word (bitIf l.up 0 + bitIf l.training 1 + bitIf l.down 2 + l.peerLink % 16 * 2 ^ 28 + l.peer % 1024 * 2 ^ 32)
  | 0x08 => word (bitIf l.enabled 0)
  | 0x10 => word l.crcfail
  | 0x18 => word l.retries
  | 0x20 => word l.retrains
  | 0x28 => word l.feccorr
  | 0x30 => word l.fecuncorr
  | _ => 0

/-- What the Gaffer machine level reads at an offset of the device register space; none where the offset is reserved, which is an address
fault, or is no aligned word (R364). A word of a region that no table gives reads 0. [log 68 DESIGN CHOICE] -/
def registerRead (s : State) (off : Nat) : Option Word :=
  if off % 8 ≠ 0 then none
  else if off < 0x09000000 then some (windowRead s (off / 0x10000) (off % 0x10000))
  else if off < 0x09040000 then some (hearthRead s ((off - 0x09000000) / 0x10000) (off % 0x10000))
  else if 0x10000000 ≤ off ∧ off < 0x10001000 then some (packageRead s.pkg (off % 0x1000))
  else if 0x20000000 ≤ off ∧ off < 0x20210000 then
    (if off % 0x10000 < 0x10 ∨ (0x1000 ≤ off % 0x10000 ∧ off % 0x10000 < 0x3000) then
      some (word (leNat (homeBytes s (deviceBase + off) 8))) else none)
  else if 0x30000000 ≤ off ∧ off < 0x30010000 then
    some (linkRead (linkAt s ((off - 0x30000000) / 0x1000)) (off % 0x1000))
  else none

end Sys2Proof.Machine
end

