-- ==== Sys2Proof/Safety.lean ====
section
/-! DEFINITION. What counts as a safe run, and the terms in which claims speak of one instruction: a slot that is issuing a
bundle, and the states in which that bundle has ended or waits. -/

namespace Sys2Proof.Machine

/-- A state whose memory is in canonical form. -/
def State.Canonical (s : State) : Prop := Memory.wf s.mem = true

/-- The machine went on. -/
def Goes (o : Host.Outcome State Fault Refusal) : Prop := ∃ t, o = .next t

/-- The state after a piece of a step. -/
def after (f : Micro) (s : State) : State := applyAll s (f s)

/-! ## A bundle being issued -/

/-- Slot `slot` of core `core` is issuing the bundle `iss`, with no unit at work for it. -/
structure Issuing (s : State) (core slot : Nat) (iss : Issue) : Prop where
  issuing : s.issuing = some (core, slot)
  bundle  : (slotAt s core slot).issue = some iss
  idle    : (slotAt s core slot).await = .none

/-- The same, where the bundle's A word raises no fault and does `o`: none when the bundle has no A word (R5, R6). -/
structure Issues (s : State) (core slot : Nat) (iss : Issue) (o : Option AOut) : Prop extends Issuing s core slot iss where
  partner : companion core (slotAt s core slot) iss = .ok o

/-- The address after a bundle. -/
def Issue.after (iss : Issue) : Word := iss.pc + word iss.size

/-- The state in which slot `slot` of core `core` is `v`, and the unit that the A word `o` needs has taken it (R135, R163). The
step is over: no bundle is being issued. Nothing else is changed. -/
def withUnit (s : State) (core slot : Nat) (o : Option AOut) (v : Slot) : State :=
  let c := coreAt s core
  match o with
  | some { eff := e, kind := .long } => { s with
      slots := assign s.slots (core * 16 + slot) { v with await := .long e }
      cores := assign s.cores core { c with longQ := c.longQ.filter (fun k => k != slot) ++ [slot] }
      issuing := none }
  | some { eff := e, kind := .block occ } => { s with
      slots := assign s.slots (core * 16 + slot) { v with await := .block e (max c.cycle c.blockFree + occ + 7) }
      cores := assign s.cores core { c with blockFree := max c.cycle c.blockFree + occ }
      issuing := none }
  | _ => { s with slots := assign s.slots (core * 16 + slot) v, issuing := none }

/-- A bundle's end: the slot is `v` but for the bundle, which is gone, and the address `next` of the one after it; the A word's
writes come on top, or its unit has taken it. -/
def ended (s : State) (core slot : Nat) (o : Option AOut) (v : Slot) (next : Word) : State :=
  withUnit s core slot o (match o with
    | some { eff := e, kind := .now } => applyEffect (v.doneAt next) e
    | _ => v.doneAt next)

/-- Slot `slot` of core `core` holds the bundle `iss`, whose C word waits, and no bundle is being issued; `o` is what the bundle's A
word does, if it has one. -/
structure Waits (s : State) (core slot : Nat) (iss : Issue) (o : Option AOut) : Prop where
  between : s.issuing = none
  bundle  : (slotAt s core slot).issue = some iss
  partner : companion core (slotAt s core slot) iss = .ok o

/-- The end of a bundle that has waited: as `ended`, but an A word whose unit took it while the C word waited stays with the unit, and
one whose unit has finished makes its writes (R6). -/
def closed (s : State) (core slot : Nat) (o : Option AOut) (v : Slot) (next : Word) : State :=
  match (slotAt s core slot).await with
  | .none => ended s core slot o v next
  | .kept e => { s with slots := assign s.slots (core * 16 + slot) { applyEffect (v.doneAt next) e with await := .none } }
  | w => { s with slots := assign s.slots (core * 16 + slot) { v.doneAt next with await := w } }

/-- A bundle that waits as `w`, with no count toward a stall report. -/
def waiting (s : State) (core slot : Nat) (o : Option AOut) (v : Slot) (w : Wait) : State :=
  withUnit s core slot o { v with wait := w, stall := none }

/-- A bundle that is to be issued again when `c` holds; `x` is its count toward a stall report (R305). One that has reported its A word's
fault is marked (R113). -/
def retrying (s : State) (core slot : Nat) (c : Cond) (x : Option Stall) : State :=
  { s with
    slots := assign s.slots (core * 16 + slot)
      { slotAt s core slot with
        wait := .cond c, await := .none, stall := x
        passed := if (slotAt s core slot).muted then (slotAt s core slot).issue.map (fun iss => iss.pc) else none }
    issuing := none }

/-- The state after a step's piece, with the step over. -/
def stepEnd (s : State) (f : Micro) : State := { after f s with issuing := none }

/-! ## What a step keeps -/

/-- The slots of a state but one are as in another. -/
def SameSlots (s t : State) (core slot : Nat) : Prop :=
  ∀ k, k ≠ core * 16 + slot → lookup Slot.reset t.slots k = lookup Slot.reset s.slots k

/-- Every byte of memory reads as before. -/
def SameMemory (s t : State) : Prop := t.poison = s.poison ∧ ∀ a, memRead t.mem a = memRead s.mem a

/-- Two states agree but for what the flocks hold: L2 lines, token buckets, and requests at slice ports. -/
def ButForFlocks (t u : State) : Prop := { t with flocks := u.flocks } = u

/-- The bytes from `key` on read as `bs`, and every other byte as before. -/
def Stored (s t : State) (key : Nat) (bs : List Byte) : Prop :=
  ∀ a, memRead t.mem a = if key ≤ a ∧ a < key + bs.length then bs.getD (a - key) 0 else memRead s.mem a

/-- The cores are as before, but that the watches on the written bytes have seen the write (R206). -/
def Watched (s t : State) (here : Nat → Bool) (key n : Nat) : Prop :=
  ∀ c, coreAt t c = if here c then { coreAt s c with watches := (coreAt s c).watches.map (watchTouched key n) } else coreAt s c

/-- A structure of `n` bytes at `addr` is read whole, as `bs`, from `t` (R20, R180, R181): the access is allowed, no buffered store of
the slot touches it, nothing in it is poisoned, and no diversion holds it; `us` is what its way out of the flock takes (R333), and then
what the thread has seen by it (R88, R94). -/
structure ReadsStruct (s : State) (core slot : Nat) (addr : Word) (align n : Nat) (t : Target) (bs : List Byte) (us : List Upd) :
    Prop where
  allowed : checkAddr s core slot addr align .read = .ok t
  drained : (slotAt s core slot).sb.any (fun e => e.touches (keyOf t) n) = false
  sound   : badBytes s (slotAt s core slot).ctx t n = false
  found   : ∃ f pay, routedRead s (slotReader s core slot) core (slotAt s core slot).ctx t n = some f ∧ f.bytes = bs ∧
    payRange core (slotAt s core slot).ctx t false n s = some pay ∧ us = pay ++ readBy core slot addr t n f (applyAll s pay)

end Sys2Proof.Machine
end

