-- ==== Sys2Proof/Certificates/Slice0/Obligations.lean ====
section
/-! DEFINITION. The statements for the provers. Each formalises rules of the spec about decoding, one instruction word, one step
of a unit, or the machine as a whole; helper definitions stand in the namespace Sys2Proof.Certificates.

A word's result is stated as the whole next state, so that the state it names is also the instruction's frame: what does not
stand in it is unchanged. `ended`, `waiting`, `retrying` and `stepEnd` are those of Sys2Proof/Safety.lean. `Issues s core slot iss o`
covers both a lone C word (`o` is none) and each pair whose A word raises no fault of its own (`o` is what the A word does). -/

namespace Sys2Proof.Certificates

open Sys2Proof Sys2Proof.Machine

/-- What a step answers. -/
abbrev Out := Host.Outcome State Fault Refusal

/-- The bundle of a slot has ended: the slot is `v`, but for the bundle, and goes on after it. Nothing else has changed. -/
def done (s : State) (core slot : Nat) (iss : Issue) (v : Slot) : Out := .next (ended s core slot none v iss.after)

/-- A unit of the core has taken the word `e` (R135, R163): the slot is unchanged but for its bundle, and does not issue. -/
def taken (s : State) (core slot : Nat) (iss : Issue) (e : AEffect) (k : AKind) : Out :=
  .next (ended s core slot (some { eff := e, kind := k }) (slotAt s core slot) iss.after)

/-- The slot with `v` in general register `d`, if the guard holds (R134). -/
def gIf (sl : Slot) (gp : Fin 8) (d : Fin 32) (v : Word) : Slot := if pRead sl gp then gWrite sl d v else sl

/-- The slot with `v` in predicate `d`, if the guard holds (R134). -/
def pIf (sl : Slot) (gp : Fin 8) (d : Fin 8) (v : Bool) : Slot := if pRead sl gp then pWrite sl d v else sl

/-- Everything of two states but the slots, the cores' rows and the step's own mark agrees. -/
def SameOutside (s t : State) : Prop :=
  t.mem = s.mem ∧ t.poison = s.poison ∧ t.flocks = s.flocks ∧ t.bands = s.bands ∧ t.diesT = s.diesT ∧ t.ctxs = s.ctxs ∧
  t.jobs = s.jobs ∧ t.reqs = s.reqs ∧ t.msgs = s.msgs ∧ t.records = s.records ∧ t.pkg = s.pkg ∧ t.agenda = s.agenda ∧
  t.order = s.order ∧ t.tick = s.tick

end Sys2Proof.Certificates

section
open Sys2Proof Sys2Proof.Machine Sys2Proof.Certificates

/-! ## Decoding and encoding -/

/-- Table 6.1's stream decodes as the table says (R5, R111), and so does a word of each format of Table 6.2, written out field by
field (R114). -/
def Obligations.WordsDecodeAsTheTablesSay : Prop :=
  decodeBundle true 0x0F000004 0x89480080 = .pair (.ok (.ldv 0 0 0 0 1 0)) (.ok (.li 9 128)) ∧
  decodeBundle false 0x89480080 0 = .loneA (.ok (.li 9 128)) ∧
  decodeBundle true 0x5C4C0000 0x8B084000 = .loneC (.ok (.fence 2 6)) ∧
  decodeBundle false 0x8B084000 0 = .loneA (.ok (.cmpeqi 1 1 0)) ∧
  decodeBundle true 0x40000000 0x0F000004 = .loneC (.ok (.nop 0)) ∧
  decodeBundle false 0x0F000004 0 = .illegal 4 ∧
  -- AR: ADD g1, g2, g3 under p5
  decodeWord 0b10_000000_00001_00010_00011_000000_101 = .ok (.add 1 2 3 5) ∧
  -- AI: ADDI g31, g30, -1
  decodeWord 0b10_000010_11111_11110_11111111111111 = .ok (.addi 31 30 (-1)) ∧
  -- AB: BFMA b8, b0, b4, of 4 by 4 registers
  decodeWord 0b10_100011_001000_000000_000100_11_0011 = .ok (.bfma 8 0 4 3 3) ∧
  -- AF: BSCAL b16, b32, g7, of 1 by 16 registers
  decodeWord 0b10_110000_010000_100000_00111_0_00_1111 = .ok (.bscal 16 32 7 0 15) ∧
  -- CR: YIELD under p7
  decodeWord 0b01_000000_00000_00000_00000_000100_111 = .ok (.yield 7) ∧
  -- CB: BR p6, s = 1, two words back
  decodeWord 0b01_000001_110_1_11111111111111111110 = .ok (.br 6 true (-2)) ∧
  -- CJ: JAL g31, four words on
  decodeWord 0b00_000010_11111_0000000000000000100 = .ok (.jal 31 4) ∧
  -- CI: WRC 3, g9
  decodeWord 0b01_100010_00000_01001_00000000000011 = .ok (.wrc 9 3) ∧
  -- CM: ST32 g4 at g5 - 4, unordered
  decodeWord 0b00_001101_00100_00101_11111111_0000_00 = .ok (.st32 4 5 (-1) 0 0) ∧
  -- CA: AADD.8 g1, g2, g3 at scope 3, acquire and release
  decodeWord 0b01_010001_00001_00010_00011_0011_11_1_00 = .ok (.aadd 1 2 3 3 3 true) ∧
  -- CX: SENDT p2, g7, q5
  decodeWord 0b00_011110_00010_00111_00000_00101_0001 = .ok (.sendt 2 7 5) ∧
  decodeWord 0xC0000000 = .error .badRole

/-- Decoding the word of a well-formed instruction gives that instruction, with every operand at every value its field admits, in
each role the instruction may have; and the word has that role (R5, R111, R114). -/
def Obligations.DecodeOfEncode : Prop :=
  ∀ (role : Role) (i : Instr) (w : Nat), i.WellFormed = true → encode role i = some w →
    w < 2 ^ 32 ∧ roleOf w = role ∧ decodeWord w = .ok i

/-- Every word that decodes is the one word of its instruction in its role: no bit of it is ignored (R115). A C word that may only
stand alone is excepted in the role of a pair's C word, where its bundle is illegal (R112). -/
def Obligations.EncodeOfDecode : Prop :=
  ∀ (w : Nat) (i : Instr), w < 2 ^ 32 → decodeWord w = .ok i → (roleOf w = .pairC → i.loneOnly = false) →
    i.WellFormed = true ∧ encode (roleOf w) i = some w

end

/-! ## The step -/

namespace Sys2Proof.Certificates
open Sys2Proof Sys2Proof.Machine

/-- Core `core` is about to begin a cycle in which slot `slot` issues the bundle at its pc, and nothing comes before the bundle:
no timed wait ends, no hand-over, switch request, exchange, fault, event or interrupt is due (R15–R19, R210, R239, R243, R298, R329), and
the context has tables (R338). `s` is the state with the cycle begun. -/
structure AboutToIssue (s : State) (core slot : Nat) (u : CodeUnit) : Prop where
  up       : coreUp s core = true
  noEnds   : ∀ k, k < 16 → yieldDue (coreAt s core) (slotAt s core k) = false ∧
    blockDue (coreAt s core) (slotAt s core k) = false ∧ ∀ n, (slotAt s core k).wait ≠ .job n
  noSwitch : switchable s core ((coreAt s core).cycle % 16) = false
  noSwap   : ∀ h a w p q, (slotAt s core slot).wait ≠ .exchange h a w p q
  noHand   : dueExchange s core ((coreAt s core).cycle % 16) = false
  noWindow : dueHandOver s core ((coreAt s core).cycle % 16) = none
  chosen   : chosenSlot s core = some slot
  formats  : (slotAt s core slot).mode = .user →
    (slotAt s core slot).fmtPending = false ∧ (slotAt s core slot).dispatchFault = none
  noFault  : (slotAt s core slot).replaceCause = none ∧
    dueEngineFault (slotAt s core slot) = none ∧ dueEvent (slotAt s core slot) = none ∧
    dueCompletion (slotAt s core slot) = none ∧ dueVector (slotAt s core slot) = none
  pc       : fetchCause (slotAt s core slot).regs.pc.toNat = none
  tables   : (ctxAt s (slotAt s core slot).ctx).ptbase ≠ 0
  words    : fetched (coreAt s core) (slotAt s core slot).ctx (slotAt s core slot).regs.pc.toNat = some u
  user     : (slotAt s core slot).mode = .user → u.user = true

/-- A bundle as it is issued: one that issues again after it has reported its A word's fault has that word's writes under IGNORE in
place of it, and reports no other fault (R33, R113). -/
def issuedAs (core : Nat) (sl : Slot) (iss : Issue) : Issue :=
  if sl.passed = some iss.pc then
    { iss with aOver := some ((iss.a.map (ignored core sl)).getD AEffect.nothing), muted := true }
  else iss

/-- The state in which slot `slot` of core `core` issues the bundle `iss` in the core's present cycle, which it has taken. -/
def issuingState (s : State) (core slot : Nat) (iss : Issue) : State :=
  { s with
    slots := assign s.slots (core * 16 + slot)
      { slotAt s core slot with
        last := some (coreAt s core).cycle, wait := .none, issue := some (issuedAs core (slotAt s core slot) iss) }
    cores := assign s.cores core { coreAt s core with spent := true }
    issuing := some (core, slot) }

/-- A context's slices have one row for each tag. -/
def OneRowATag (s : State) (ctx : Nat) : Prop := ((ctxAt s ctx).slices.map (fun x => x.tag)).Nodup

/-- Jobs, requests and messages each have a name of their own, below the state's counter, from which the next is taken; a slot has one row,
and so has a slice of a context. -/
def NamesAreUnique (s : State) : Prop :=
  (∀ j ∈ s.jobs, j.order < s.tick) ∧ (s.jobs.map (fun j => j.order)).Nodup ∧
  (∀ r ∈ s.reqs, r.id < s.tick) ∧ (s.reqs.map (fun r => r.id)).Nodup ∧
  (∀ m ∈ s.msgs, m.id < s.tick) ∧ (s.msgs.map (fun m => m.id)).Nodup ∧
  (s.slots.map (fun x => x.1)).Nodup ∧ ∀ ctx, OneRowATag s ctx

/-- A state with the next cycle of a core begun, its move taken from the agenda. -/
def beginCycle (s : State) (core : Nat) (rest : List Move) : State :=
  { s with
    agenda := rest
    cores := assign s.cores core { coreAt s core with cycle := (coreAt s core).cycle + 1, spent := false } }

end Sys2Proof.Certificates

section
open Sys2Proof Sys2Proof.Machine Sys2Proof.Certificates

/-- A step in which a slot issues runs the meaning of the decoded bundle's first word, in the state in which the slot has taken the
core's cycle and holds the bundle: a lone C word, a lone A word, or a legal pair, whose C word runs with its A word beside it
(R5, R6, R15, R111). -/
def Obligations.StepRunsTheDecodedBundle : Prop :=
  ∀ (s : State) (core slot : Nat) (u : CodeUnit) (rest : List Move), s.agenda = .cycle core :: rest →
    let t := beginCycle s core rest
    let pc := (slotAt t core slot).regs.pc
    let w := u.at pc.toNat
    AboutToIssue t core slot u →
    (∀ c, decodeBundle (pc.toNat % 8 == 0) w.1.toNat w.2.toNat = .loneC (.ok c) →
      step s = exec c (issuingState t core slot (issueOf pc w.1 w.2 4 (some c) none))) ∧
    (∀ a, decodeBundle (pc.toNat % 8 == 0) w.1.toNat w.2.toNat = .loneA (.ok a) →
      step s = exec a (issuingState t core slot (issueOf pc w.1 w.2 4 none (some a)))) ∧
    (∀ c a, decodeBundle (pc.toNat % 8 == 0) w.1.toNat w.2.toNat = .pair (.ok c) (.ok a) → c.loneOnly = false →
      clash c a = false → step s = exec c (issuingState t core slot (issueOf pc w.1 w.2 8 (some c) (some a))))

/-- A step whose move is a unit's or the package's runs that event's meaning; a state whose agenda is empty makes the move that
Config leaves free (log entry 4, a choice of the model's). -/
def Obligations.StepRunsTheNextMove : Prop :=
  (∀ (s : State) (i : Instr) (rest : List Move), s.agenda = .event i :: rest → isEvent i = true →
    step s = exec i { s with agenda := rest }) ∧
  (∀ (s : State), s.agenda = [] → step s = runMove (Config.freeMove s.tick) { s with tick := s.tick + 1 })

/-- No fault and no refusal stops the machine: every step of every state goes on, every step no word encodes goes on in every
state, and every instruction word goes on in every state in which a slot is issuing a bundle, whatever its operands. -/
def Obligations.EveryStepGoesOn : Prop :=
  (∀ s : State, Goes (step s)) ∧
  (∀ (i : Instr) (s : State), isEvent i = true → Goes (exec i s)) ∧
  (∀ (i : Instr) (s : State) (core slot : Nat), s.issuing = some (core, slot) → (slotAt s core slot).issue.isSome = true →
    Goes (exec i s))

/-- Every step keeps memory in its canonical form: addresses strictly rising and no entry equal to what an unlisted address reads
as. -/
def Obligations.StepKeepsMemoryCanonical : Prop :=
  ∀ s t : State, s.Canonical → step s = .next t → t.Canonical

/-- Every step keeps apart the names by which jobs, requests, messages, slots and slices are found: what the statements about them assume. -/
def Obligations.StepKeepsNamesUnique : Prop :=
  ∀ s t : State, NamesAreUnique s → step s = .next t → NamesAreUnique t

/-- The control registers whose reset value is 0 by Tables 6.8 and 6.10: CYCLE, FCTL, FMTACT, LHVEC, ULINK, UCAUSE, UIVEC, XFRID, UIPEND,
UIMASKV and AEEPS; TVEC, TCAUSE, TVAL, TPC, TSTATE, OCCUP, PTBASE, GPTBASE, POOLBASE, SESSMODEL, SESSDIGEST, SESSTENANT, KVTABLE, ESCBASE and
MCBASE. -/
def Sys2Proof.Certificates.zeroRegisters : List Nat :=
  [0x000, 0x003, 0x005, 0x010, 0x011, 0x012, 0x013, 0x014, 0x015, 0x016, 0x028,
   0x2000, 0x2001, 0x2002, 0x2003, 0x2004, 0x2021, 0x2040, 0x2041, 0x2042, 0x2050, 0x2051, 0x2052, 0x2053, 0x2054, 0x2055,
   0x2060, 0x2061, 0x2062]

/-- The machine after reset: memory is canonical and lists nothing, so that a byte reads 0 (log entry 3, a choice of the model's); nothing
is powered, no core has started, no context is resident, every slot is empty and every port unbound (R26, R358); the control registers,
the package's registers and the links' hold the reset values that Tables 6.8, 6.10, 17.7 to 17.10, 20.3, 20.6, 20.7, 20.8 and 20.9
state. -/
def Obligations.ResetLeaves : Prop :=
  let s := State.reset
  s.Canonical ∧ NamesAreUnique s ∧ (∀ a, memRead s.mem a = 0) ∧
  s.pkg.powered = false ∧ s.pkg.key = none ∧
  (∀ core slot, (slotAt s core slot).occupied = false) ∧
  (∀ core, (coreAt s core).residents = [] ∧ ∀ port : Nat, (portAt s core port).owner = none) ∧
  (∀ core slot ctx n, n ∈ zeroRegisters → readReg s core slot ctx n = 0) ∧
  (∀ core slot ctx,
    -- WAITLIM and AEMAXR; WAYMASK, TBRATE, TBDEPTH with its COUNT, SPRATE with its COUNT and DEPTH
    readReg s core slot ctx 0x018 = 0x100000000 ∧ readReg s core slot ctx 0x029 = 1024 ∧ readReg s core slot ctx 0x2020 = 0xFFFF ∧
    readReg s core slot ctx 0x2030 = 8 ∧ readReg s core slot ctx 0x2031 = 0x200020 ∧ readReg s core slot ctx 0x2032 = 0x80802) ∧
  -- STATUS: RETIREREQ, TRIP, CAPPED, REPAIRCHG, DIES, ERROR and STAGE, and the whole word
  s.pkg.retires = [] ∧ s.pkg.trip = false ∧ s.pkg.capped = false ∧ s.pkg.repairChg = false ∧ s.pkg.dies = 0 ∧ s.pkg.error = 0 ∧
  s.pkg.stage = .safe ∧ registerRead s 0x10000000 = some 0 ∧
  -- PWRCAP, GRPBASE, PKGNUM and each hearth's ESCWAYS
  registerRead s 0x10000008 = some 2400 ∧ registerRead s 0x10000010 = some 0 ∧ registerRead s 0x10000018 = some 0 ∧
  (∀ h, h < 4 → registerRead s (0x09000100 + 0x10000 * h) = some 0) ∧
  -- LSTATUS, LCTL and the five counters of each link
  (∀ l, l < 16 → ∀ k, k < 7 → registerRead s (0x30000000 + 0x1000 * l + 8 * k) = some (if k = 1 then 1 else 0))

/-- Registers: g0 reads zero and p0 reads true, and writes to them are discarded (R115, R140); in S mode g28 to g31 are registers
of their own (R292); any other register read after a write gives the value written, and a write changes no other register. -/
def Obligations.RegisterFile : Prop :=
  ∀ (sl : Slot) (v : Word) (x : Bool) (q : Quad),
    gRead sl 0 = 0 ∧ gWrite sl 0 v = sl ∧ pRead sl 0 = true ∧ pWrite sl 0 x = sl ∧
    (∀ d : Fin 32, d ≠ 0 → gRead (gWrite sl d v) d = v) ∧
    (∀ d e : Fin 32, d ≠ e → gRead (gWrite sl d v) e = gRead sl e) ∧
    (∀ d : Fin 8, d ≠ 0 → pRead (pWrite sl d x) d = x) ∧
    (∀ d e : Fin 8, d ≠ e → pRead (pWrite sl d x) e = pRead sl e) ∧
    (∀ d : Fin 64, bRead (bWrite sl d q) d = q) ∧
    (∀ d e : Fin 64, d ≠ e → bRead (bWrite sl d q) e = bRead sl e) ∧
    (∀ d : Fin 32, sl.mode = .supervisor → 28 ≤ d.val → (gWrite sl d v).regs.g = sl.regs.g) ∧
    (∀ d : Fin 32, sl.mode = .user ∨ d.val < 28 → (gWrite sl d v).regs.sh = sl.regs.sh)

end

/-! ## Integer, immediate, compare and predicate words -/

section
open Sys2Proof Sys2Proof.Machine Sys2Proof.Certificates

/-- Table 7.2: each integer word of major 0x00 that the pipeline completes writes its function of a and b to d, or nothing when its
guard is off; the slot goes on with the next bundle, no flag is set, and nothing else changes (R134, R136). -/
def Sys2Proof.Certificates.PlainIntegerWords : Prop :=
  ∀ (s : State) (core slot : Nat) (iss : Issue), Issuing s core slot iss → ∀ (d a b : Fin 32) (gp : Fin 8),
    let sl := slotAt s core slot
    let x := gRead sl a
    let y := gRead sl b
    let puts := fun (v : Word) => done s core slot iss (gIf sl gp d v)
    let n := (y &&& 63).toNat
    exec (.add d a b gp) s = puts (x + y) ∧
    exec (.sub d a b gp) s = puts (x - y) ∧
    exec (.and_ d a b gp) s = puts (x &&& y) ∧
    exec (.or_ d a b gp) s = puts (x ||| y) ∧
    exec (.xor_ d a b gp) s = puts (x ^^^ y) ∧
    exec (.andn d a b gp) s = puts (x &&& ~~~y) ∧
    exec (.shl d a b gp) s = puts (x <<< n) ∧
    exec (.shr d a b gp) s = puts (x >>> n) ∧
    exec (.sar d a b gp) s = puts (x.sshiftRight n) ∧
    exec (.mul d a b gp) s = puts (x * y) ∧
    exec (.mulh d a b gp) s = puts ((x.signExtend 128 * y.signExtend 128).extractLsb' 64 64) ∧
    exec (.mulhu d a b gp) s = puts ((x.zeroExtend 128 * y.zeroExtend 128).extractLsb' 64 64) ∧
    exec (.min d a b gp) s = puts (if y.slt x then y else x) ∧
    exec (.max d a b gp) s = puts (if x.slt y then y else x) ∧
    exec (.minu d a b gp) s = puts (if y.ult x then y else x) ∧
    exec (.maxu d a b gp) s = puts (if x.ult y then y else x) ∧
    exec (.addsl1 d a b gp) s = puts (2 * x + y) ∧
    exec (.addsl2 d a b gp) s = puts (4 * x + y) ∧
    exec (.addsl3 d a b gp) s = puts (8 * x + y) ∧
    exec (.addsl4 d a b gp) s = puts (16 * x + y) ∧
    -- SEL's last operand is a selector and no guard (R118)
    exec (.sel d a b gp) s = done s core slot iss (gWrite sl d (if pRead sl gp then x else y))

/-- CLZ, CTZ and POPC (Table 7.2): the number of zero bits above the highest one bit, of zero bits below the lowest one bit, each 64
for zero, and of one bits. -/
def Sys2Proof.Certificates.BitCounts : Prop :=
  ∀ (s : State) (core slot : Nat) (iss : Issue), Issuing s core slot iss → ∀ (d a : Fin 32) (gp : Fin 8),
    let sl := slotAt s core slot
    let x := gRead sl a
    (∃ n : Nat, n ≤ 64 ∧ exec (.clz d a gp) s = done s core slot iss (gIf sl gp d (BitVec.ofNat 64 n)) ∧
      (∀ k, 64 - n ≤ k → k < 64 → bitAt x k = false) ∧ (n < 64 → bitAt x (63 - n) = true)) ∧
    (∃ n : Nat, n ≤ 64 ∧ exec (.ctz d a gp) s = done s core slot iss (gIf sl gp d (BitVec.ofNat 64 n)) ∧
      (∀ k, k < n → bitAt x k = false) ∧ (n < 64 → bitAt x n = true)) ∧
    exec (.popc d a gp) s =
      done s core slot iss (gIf sl gp d (BitVec.ofNat 64 ((List.range 64).countP (fun k => bitAt x k))))

/-- Table 7.3: the immediate words, which no guard controls. LIS extends its immediate with zeros, every other sign-extends it; a
shift's amount is 0 to 63; BFX and BFI take len bits at pos, and with pos + len above 64 raise an illegal-operand fault (0x04) that
reports the word and writes nothing (R137, R138). -/
def Obligations.ImmediateWords : Prop :=
  ∀ (s : State) (core slot : Nat) (iss : Issue), Issuing s core slot iss → ∀ (d a : Fin 32) (p : Fin 8) (i : BitVec 14)
      (l n : Fin 64),
    let sl := slotAt s core slot
    let x := gRead sl a
    let v := i.signExtend 64
    let puts := fun (v : Word) => done s core slot iss (gWrite sl d v)
    let putp := fun (v : Bool) => done s core slot iss (pWrite sl p v)
    let ones := BitVec.allOnes 64 >>> (63 - l.val)
    exec (.addi d a i) s = puts (x + v) ∧
    exec (.andi d a i) s = puts (x &&& v) ∧
    exec (.ori d a i) s = puts (x ||| v) ∧
    exec (.xori d a i) s = puts (x ^^^ v) ∧
    exec (.shli d a n) s = puts (x <<< n.val) ∧
    exec (.shri d a n) s = puts (x >>> n.val) ∧
    exec (.sari d a n) s = puts (x.sshiftRight n.val) ∧
    exec (.li d i) s = puts v ∧
    exec (.lis d a i) s = puts (x <<< 14 ||| i.zeroExtend 64) ∧
    exec (.cmpeqi p a i) s = putp (decide (x = v)) ∧
    exec (.cmplti p a i) s = putp (x.slt v) ∧
    exec (.cmpltui p a i) s = putp (x.ult v) ∧
    (n.val + (l.val + 1) ≤ 64 →
      exec (.bfx d a l n) s = puts ((x >>> n.val) &&& ones) ∧
      exec (.bfi d a l n) s =
        puts ((gRead sl d &&& ~~~(ones <<< n.val)) ||| ((x &&& ones) <<< n.val))) ∧
    (64 < n.val + (l.val + 1) →
      exec (.bfx d a l n) s = .next (stepEnd s (raiseA core slot 0x04 (finishPlain core slot))) ∧
      exec (.bfi d a l n) s = .next (stepEnd s (raiseA core slot 0x04 (finishPlain core slot))))

/-- Compares write a predicate and predicate words combine two; each may be guarded, and guarded off writes nothing
(R134, R139, R140). -/
def Obligations.CompareAndPredicateWords : Prop :=
  ∀ (s : State) (core slot : Nat) (iss : Issue), Issuing s core slot iss → ∀ (d : Fin 8) (a b : Fin 32) (p q gp : Fin 8),
    let sl := slotAt s core slot
    let x := gRead sl a
    let y := gRead sl b
    let putp := fun (v : Bool) => done s core slot iss (pIf sl gp d v)
    exec (.cmpeq d a b gp) s = putp (decide (x = y)) ∧
    exec (.cmpne d a b gp) s = putp (decide (x ≠ y)) ∧
    exec (.cmplt d a b gp) s = putp (x.slt y) ∧
    exec (.cmple d a b gp) s = putp (!(y.slt x)) ∧
    exec (.cmpltu d a b gp) s = putp (x.ult y) ∧
    exec (.cmpleu d a b gp) s = putp (!(y.ult x)) ∧
    exec (.pand d p q gp) s = putp (pRead sl p && pRead sl q) ∧
    exec (.por d p q gp) s = putp (pRead sl p || pRead sl q) ∧
    exec (.pxor d p q gp) s = putp (xor (pRead sl p) (pRead sl q)) ∧
    exec (.pandn d p q gp) s = putp (pRead sl p && !(pRead sl q))

/-- The long operations on integers: the unit takes the word, which changes no register yet and joins the core's queue; the values
are those of Table 3.12, with all ones for a quotient by zero, the dividend for a remainder by zero, and the least number for its
quotient by minus one (R135, R136). A guarded-off word takes no unit (R134). -/
def Obligations.LongIntegerWords : Prop :=
  ∀ (s : State) (core slot : Nat) (iss : Issue), Issuing s core slot iss → ∀ (d a b : Fin 32) (gp : Fin 8),
    let sl := slotAt s core slot
    let x := gRead sl a
    let y := gRead sl b
    let takes := fun (v : Word) => taken s core slot iss (.ofG d v) .long
    (pRead sl gp = true →
      exec (.div d a b gp) s = takes (if y = 0 then BitVec.allOnes 64 else x.sdiv y) ∧
      exec (.divu d a b gp) s = takes (if y = 0 then BitVec.allOnes 64 else x / y) ∧
      exec (.rem d a b gp) s = takes (if y = 0 then x else x.srem y) ∧
      exec (.remu d a b gp) s = takes (if y = 0 then x else x % y)) ∧
    (pRead sl gp = false → ∀ i ∈ [Instr.div d a b gp, .divu d a b gp, .rem d a b gp, .remu d a b gp],
      exec i s = done s core slot iss sl)

/-- The unit's end: the oldest request of the core's long-operation unit is written, and its slot may issue again (R135); where the C
word of its bundle still waits, the core holds the writes until that is done, and the unit is free (R6). A block operation is written
when its time has come and its bundle is done (R163). -/
def Obligations.UnitsComplete : Prop :=
  ∀ (s : State) (core slot : Nat), coreUp s core = true → slot < 16 →
    let c := coreAt s core
    let sl := slotAt s core slot
    let becomes := fun (v : Slot) (l : List Nat) => Host.Outcome.next { s with
      slots := assign s.slots (core * 16 + slot) v, cores := assign s.cores core { c with longQ := l } }
    (∀ e, sl.await = .long e → longHead s core = some slot →
      (sl.issue = none → exec (.longOpComplete core slot) s =
        becomes { applyEffect sl e with await := .none } (c.longQ.erase slot)) ∧
      (sl.issue ≠ none → exec (.longOpComplete core slot) s = becomes { sl with await := .kept e } (c.longQ.erase slot))) ∧
    (longHead s core ≠ some slot → exec (.longOpComplete core slot) s = .next s) ∧
    (∀ e ready, sl.await = .block e ready →
      (sl.issue = none → ready ≤ c.cycle → exec (.blockOpComplete core slot) s = .next { s with
        slots := assign s.slots (core * 16 + slot) { applyEffect sl e with await := .none } }) ∧
      (sl.issue ≠ none ∨ c.cycle < ready → exec (.blockOpComplete core slot) s = .next s)) ∧
    -- the oldest request is the first in the queue whose slot still waits on the unit
    (∀ l r, c.longQ = l ++ slot :: r → (∃ e, sl.await = .long e) → (∀ k ∈ l, ∀ e, (slotAt s core k).await ≠ .long e) →
      longHead s core = some slot)

/-- Table 7.2: every integer word of major 0x00 that the pipeline completes, and the three that count bits. -/
def Obligations.IntegerWords : Prop := PlainIntegerWords ∧ BitCounts

end

/-! ## Scalar floating point -/

namespace Sys2Proof.Certificates
open Sys2Proof Sys2Proof.Machine

/-- The value of a finite number of a magnitude m · 2^e. -/
def ratOf (neg : Bool) (m : Nat) (e : Int) : ℚ := (if neg then -(m : ℚ) else m) * (2 : ℚ) ^ e

/-- The 16 random bits of a slot and the RSEED after them, in RSR; else no bits and RSEED as it is (R61, R141). -/
def seedDraw (sl : Slot) : Nat × Word :=
  if modeOf sl = 5 then ((draw (sl.ctl.rseed.toNat % 2 ^ 32)).1, word (draw (sl.ctl.rseed.toNat % 2 ^ 32)).2)
  else (0, sl.ctl.rseed)

/-- The slot with flags ORed into FCTL[12:8] and RSEED as given. -/
def withFlags (sl : Slot) (f : Flags) (seed : Word) : Slot :=
  { sl with ctl := { sl.ctl with fctl := sl.ctl.fctl ||| f.zeroExtend 64 <<< 8, rseed := seed } }

/-- The slot with a result rounded once, under its rounding mode and to the word's precision, in `d` (R141, R142). -/
def rounded (sl : Slot) (z : Bool) (d : Fin 32) (p : Pre) : Slot :=
  let r := p.finish (precision z) false (modeOf sl) (seedDraw sl).1
  withFlags (gWrite sl d (word r.bits)) r.flags (seedDraw sl).2

end Sys2Proof.Certificates

section
open Sys2Proof Sys2Proof.Machine Sys2Proof.Certificates

/-- Table 7.4: FADD, FSUB, FMUL and FFMA write their exact result rounded once, FFMA with d as its addend, and FDIV and FSQRT are
taken by the long-operation unit; the flags are ORed into FCTL and, in RSR, RSEED moves on by the 16 bits taken. A guarded-off word
writes nothing, sets no flag and takes no bits and no unit (R134, R135, R141, R142). -/
def Obligations.FloatArithmeticWords : Prop :=
  ∀ (s : State) (core slot : Nat) (iss : Issue), Issuing s core slot iss → ∀ (d a b : Fin 32) (z : Bool) (gp : Fin 8),
    let sl := slotAt s core slot
    let x := fpVal z (gRead sl a)
    let y := fpVal z (gRead sl b)
    let m := modeOf sl
    let puts := fun (p : Pre) => done s core slot iss (if pRead sl gp then rounded sl z d p else sl)
    let takes := fun (p : Pre) =>
      if pRead sl gp then taken s core slot iss (fpResult z d p sl) .long else done s core slot iss sl
    exec (.fadd d a b z gp) s = puts (addPre core m x y) ∧
    exec (.fsub d a b z gp) s = puts (subPre core m x y) ∧
    exec (.fmul d a b z gp) s = puts (mulPre core x y) ∧
    exec (.ffma d a b z gp) s = puts (fmaPre core m x y (fpVal z (gRead sl d))) ∧
    exec (.fdiv d a b z gp) s = takes (divPre core x y) ∧
    exec (.fsqrt d a z gp) s = takes (sqrtPre core x) ∧
    -- what the unit will write is the same rounded result
    (∀ p, applyEffect sl (fpResult z d p sl) = rounded sl z d p)

/-- FDIV and FSQRT before rounding (R142). Of finite numbers the quotient, and of a positive number the root, lie between `x.m` and
`x.m + 1` units of 2^`x.e`, of more than 128 bits, and `x.sticky` says whether they are `x.m` units exactly: no rounding to a scalar
format can tell more. A finite number over zero is an infinity with DZ; zero over zero, infinity over infinity and the root of a
negative number create a NaN with NV; the root of a zero is that zero. -/
def Sys2Proof.Certificates.QuotientsAndRoots : Prop :=
  ∀ (core : Nat) (na nb : Bool) (ma mb : Nat) (ea eb : Int),
    let a := Val.num na ma ea
    let b := Val.num nb mb eb
    let made := fun (p : Pre) => p.val = .nan false true (core % 4096 * 1024) ∧ p.approx = none ∧ p.flags = flagNV
    let near := fun (x : Approx) (below above : Prop) (exact : Prop) =>
      2 ^ 128 ≤ x.m ∧ below ∧ above ∧ (x.sticky = false ↔ exact)
    let unit := fun (x : Approx) => (2 : ℚ) ^ x.e
    (ma ≠ 0 → mb ≠ 0 → ∃ x : Approx, divPre core a b = .ofApprox x noFlags ∧ x.neg = (na != nb) ∧
      let q := ratOf false ma ea / ratOf false mb eb
      near x (x.m * unit x ≤ q) (q < (x.m + 1) * unit x) (x.m * unit x = q)) ∧
    (ma ≠ 0 → divPre core a (.num nb 0 eb) = .ofVal (.inf (na != nb)) flagDZ) ∧
    (mb ≠ 0 → divPre core (.num na 0 ea) b = .ofVal (.num (na != nb) 0 0) noFlags) ∧
    made (divPre core (.num na 0 ea) (.num nb 0 eb)) ∧ made (divPre core (.inf na) (.inf nb)) ∧
    divPre core (.inf na) b = .ofVal (.inf (na != nb)) noFlags ∧
    divPre core a (.inf nb) = .ofVal (.num (na != nb) 0 0) noFlags ∧
    (ma ≠ 0 → ∃ x : Approx, sqrtPre core (.num false ma ea) = .ofApprox x noFlags ∧ x.neg = false ∧
      let v := ratOf false ma ea
      near x ((x.m * unit x) ^ 2 ≤ v) (v < ((x.m + 1) * unit x) ^ 2) ((x.m * unit x) ^ 2 = v)) ∧
    (ma ≠ 0 → made (sqrtPre core (.num true ma ea))) ∧ made (sqrtPre core (.inf true)) ∧
    sqrtPre core (.num na 0 ea) = .ofVal (.num na 0 ea) noFlags ∧ sqrtPre core (.inf false) = .ofVal (.inf false) noFlags

/-- Before rounding, sums, differences, products and fused products of finite numbers are exact; a zero product has the product of the
signs, a sum of negative zeros is a negative zero, and any other zero sum is positive but in RDN. An operation of infinities that has no
value creates the quiet NaN of R63 with NV; quotients and roots are what R142 says (R63, R142). -/
def Obligations.FloatResultsAreExact : Prop :=
  QuotientsAndRoots ∧ ∀ (core mode : Nat) (na nb nc : Bool) (ma mb mc : Nat) (ea eb ec : Int),
    let a := Val.num na ma ea
    let b := Val.num nb mb eb
    let c := Val.num nc mc ec
    let sign := fun (negZeros : Prop) [Decidable negZeros] => decide (negZeros ∨ mode = 3)
    (∃ n m e, (addPre core mode a b).val = .num n m e ∧ ratOf n m e = ratOf na ma ea + ratOf nb mb eb ∧
      (m = 0 → n = sign (ma = 0 ∧ na = true ∧ mb = 0 ∧ nb = true))) ∧
    (∃ n m e, (subPre core mode a b).val = .num n m e ∧ ratOf n m e = ratOf na ma ea - ratOf nb mb eb ∧
      (m = 0 → n = sign (ma = 0 ∧ na = true ∧ mb = 0 ∧ nb = false))) ∧
    (∃ n m e, (mulPre core a b).val = .num n m e ∧ ratOf n m e = ratOf na ma ea * ratOf nb mb eb ∧ n = (na != nb)) ∧
    (∃ n m e, (fmaPre core mode a b c).val = .num n m e ∧
      ratOf n m e = ratOf na ma ea * ratOf nb mb eb + ratOf nc mc ec ∧
      (m = 0 → n = sign ((ma = 0 ∨ mb = 0) ∧ na ≠ nb ∧ mc = 0 ∧ nc = true))) ∧
    (addPre core mode (.inf true) (.inf false)).val = .nan false true (core % 4096 * 1024) ∧
    (addPre core mode (.inf true) (.inf false)).flags = flagNV ∧
    (mulPre core (.num na 0 ea) (.inf nb)).val = .nan false true (core % 4096 * 1024) ∧
    (mulPre core (.num na 0 ea) (.inf nb)).flags = flagNV

/-- Round(x, format, mode) of R60, R61 and R67 on every finite x. Without OF the result is a value of the format with the sign of x, with
no other value between the two: the nearest in RNE, of two nearest the one with an even last bit, and in RNA the one farther from zero;
the next toward zero, up or down in RTZ, RUP and RDN; and in RSR the next away from zero just when the random bits are below the part of
the gap that x has covered, in units of 2^-16. NX says that the result differs. With OF every value of the format is smaller than x, and
the result is the largest, an infinity, or E4M3's NaN, with the sign of x. -/
def Sys2Proof.Certificates.RoundIsFaithful : Prop :=
  ∀ (f : Elem) (sat : Bool) (mode rnd : Nat) (neg : Bool) (m : Nat) (e : Int), isFloat f = true → rnd < 2 ^ 16 →
    let r := toFloat f sat mode rnd (.num neg m e)
    let x := ratOf neg m e
    let isValue := fun (v : ℚ) => ∃ b n k i, b < 2 ^ laneBits f ∧ floatVal f b = .num n k i ∧ v = ratOf n k i
    r.bits < 2 ^ laneBits f ∧
    (r.flags &&& flagOF = 0 → ∃ k i, floatVal f r.bits = .num neg k i ∧
      let y := ratOf neg k i
      (r.flags &&& flagNX = 0 ↔ y = x) ∧
      (∀ v, isValue v → ¬(min y x < v ∧ v < max y x) ∧ (v = x → y = x)) ∧
      (mode = 0 → ∀ v, isValue v → |y - x| ≤ |v - x| ∧ (|v - x| = |y - x| → v ≠ y → r.bits % 2 = 0)) ∧
      (mode = 1 → |y| ≤ |x|) ∧ (mode = 2 → x ≤ y) ∧ (mode = 3 → y ≤ x) ∧
      (mode = 4 → ∀ v, isValue v → |y - x| ≤ |v - x| ∧ (|v - x| = |y - x| → |v| ≤ |y|)) ∧
      (mode = 5 → ∀ t u, isValue t → isValue u → 0 ≤ t → t ≤ |x| → |x| < u → (∀ v, isValue v → ¬(t < v ∧ v < u)) →
        |y| = if (rnd : Int) < ⌊(|x| - t) / (u - t) * 65536⌋ then u else t)) ∧
    (r.flags &&& flagOF ≠ 0 →
      let largest := sat = true ∨ (f ≠ .e4m3 ∧ (mode = 1 ∨ (mode = 2 ∧ neg = true) ∨ (mode = 3 ∧ neg = false)))
      (∀ v, isValue v → |v| < |x|) ∧
      (largest → ∃ k i, floatVal f r.bits = .num neg k i ∧ ∀ v, isValue v → |v| ≤ |ratOf neg k i|) ∧
      (¬largest → f ≠ .e4m3 → floatVal f r.bits = .inf neg) ∧
      (¬largest → f = .e4m3 → floatVal f r.bits = .nan neg true 0))

/-- A number that a floating format represents is rounded into that format as itself, in every rounding mode, with no flag: Round is
the identity on representable values (R60 to R62); and every other number is rounded to a neighbour of its, as its mode says. -/
def Obligations.RoundKeepsRepresentable : Prop :=
  RoundIsFaithful ∧
  ∀ (f : Elem) (sat : Bool) (mode rnd b : Nat) (neg : Bool) (m : Nat) (e : Int), isFloat f = true → b < 2 ^ laneBits f →
    floatVal f b = .num neg m e → toFloat f sat mode rnd (.num neg m e) = { bits := b, flags := noFlags }

/-- FABS and FNEG change the sign bit alone, and an FP32 word clears the high half of d; FCLASS sets exactly the bit that Table 7.5
gives the operand's sign, exponent and fraction (R142, R144). None of them sets a flag. -/
def Obligations.FloatSignAndClassWords : Prop :=
  ∀ (s : State) (core slot : Nat) (iss : Issue), Issuing s core slot iss → ∀ (d a : Fin 32) (gp : Fin 8),
    let sl := slotAt s core slot
    let x := gRead sl a
    let puts := fun (v : Word) => done s core slot iss (gIf sl gp d v)
    let classOf := fun (ebits fbits : Nat) (v : Nat) =>
      let neg := decide (v / 2 ^ (ebits + fbits) % 2 = 1)
      let ex := v / 2 ^ fbits % 2 ^ ebits
      let fr := v % 2 ^ fbits
      if ex = 2 ^ ebits - 1 then
        (if fr = 0 then (if neg then 0 else 7) else if fr / 2 ^ (fbits - 1) = 1 then 9 else 8)
      else if ex = 0 then (if fr = 0 then (if neg then 3 else 4) else (if neg then 2 else 5))
      else (if neg then 1 else 6)
    exec (.fabs d a false gp) s = puts (x &&& 0x7FFFFFFFFFFFFFFF) ∧
    exec (.fabs d a true gp) s = puts (x &&& 0x7FFFFFFF) ∧
    exec (.fneg d a false gp) s = puts (x ^^^ 0x8000000000000000) ∧
    exec (.fneg d a true gp) s = puts ((x &&& 0xFFFFFFFF) ^^^ 0x80000000) ∧
    exec (.fclass d a false gp) s = puts (BitVec.ofNat 64 (2 ^ classOf 11 52 x.toNat)) ∧
    exec (.fclass d a true gp) s = puts (BitVec.ofNat 64 (2 ^ classOf 8 23 (x.toNat % 2 ^ 32)))

/-- FCMPEQ, FCMPLT, FCMPLE and FCMPUN on numbers, on NaNs, and their flags (R146); `cmpVal` compares two non-NaN values, with the two
zeros equal. FMIN and FMAX return one operand's bits, −0 below +0; of two NaNs, the one earliest in core order, quieted; two that core
order does not tell apart give the first, a choice of the model's (R64, R143, log entry 85). -/
def Sys2Proof.Certificates.FloatCompareWords : Prop :=
  ∀ (s : State) (core slot : Nat) (iss : Issue), Issuing s core slot iss →
    ∀ (p : Fin 8) (d a b : Fin 32) (z : Bool) (gp : Fin 8),
    let sl := slotAt s core slot
    let x := fpVal z (gRead sl a)
    let y := fpVal z (gRead sl b)
    let nan := x.isNaN || y.isNaN
    let snan := x.isSignalling || y.isSignalling
    let puts := fun (v : Bool) (nv : Bool) => done s core slot iss
      (if pRead sl gp then withFlags (pWrite sl p v) (if nv then 0x10 else 0) sl.ctl.rseed else sl)
    exec (.fcmpeq p a b z gp) s = puts (!nan && decide (cmpVal x y = 0)) snan ∧
    exec (.fcmplt p a b z gp) s = puts (!nan && decide (cmpVal x y < 0)) nan ∧
    exec (.fcmple p a b z gp) s = puts (!nan && decide (cmpVal x y ≤ 0)) nan ∧
    exec (.fcmpun p a b z gp) s = puts nan snan ∧
    (∀ (less : Bool), ∃ v : Word,
      exec (if less then .fmin d a b z gp else .fmax d a b z gp) s = done s core slot iss
        (if pRead sl gp then withFlags (gWrite sl d v) (if snan then 0x10 else 0) sl.ctl.rseed else sl) ∧
      let bits := fun (w : Word) => if z then w &&& 0xFFFFFFFF else w
      (nan = false → v = bits (gRead sl a) ∨ v = bits (gRead sl b)) ∧
      (nan = false → cmpVal x y < 0 → v = bits (gRead sl (if less then a else b))) ∧
      (nan = false → 0 < cmpVal x y → v = bits (gRead sl (if less then b else a))) ∧
      (∀ na nb ea eb, x = .num na 0 ea → y = .num nb 0 eb → na ≠ nb → v = bits (gRead sl (if na = less then a else b))) ∧
      (x.isNaN = true → y.isNaN = false → v = bits (gRead sl b)) ∧
      (x.isNaN = false → y.isNaN = true → v = bits (gRead sl a)) ∧
      (∀ na nb qa qb pa pb, x = .nan na qa pa → y = .nan nb qb pb →
        let order := fun (n : Bool) (p : Nat) => p % 2 ^ 22 * 2 + (if n then 1 else 0)
        v = word (if order na pa ≤ order nb pb then nanBits (precision z) na true pa else nanBits (precision z) nb true pb)))

/-- The conversions of R145: FCVTI rounds to an integer and replaces a result outside the range by its nearest limit, with NV alone, and
a NaN by 0 with NV; FCVTF rounds an integer; FCVTP.s rounds FP64 to FP32 and takes bits in RSR, FCVTP.d takes none. -/
def Sys2Proof.Certificates.FloatConversionWords : Prop :=
  ∀ (s : State) (core slot : Nat) (iss : Issue), Issuing s core slot iss → ∀ (d a : Fin 32) (u z : Bool) (gp : Fin 8),
    let sl := slotAt s core slot
    let x := gRead sl a
    let puts := fun (v : Word) (f : Flags) (seed : Word) =>
      done s core slot iss (if pRead sl gp then withFlags (gWrite sl d v) f seed else sl)
    let lo : Int := if u then 0 else -2 ^ 63
    let hi : Int := if u then 2 ^ 64 - 1 else 2 ^ 63 - 1
    (∃ (n : Int) (f : Flags), exec (.fcvti d a u z gp) s = puts (BitVec.ofInt 64 n) f (seedDraw sl).2 ∧ lo ≤ n ∧ n ≤ hi ∧
      ((fpVal z x).isNaN = true → n = 0 ∧ f = flagNV) ∧
      (fpVal z x = .inf true → n = lo ∧ f = flagNV) ∧ (fpVal z x = .inf false → n = hi ∧ f = flagNV) ∧
      (∀ neg m e, fpVal z x = .num neg m e →
        let t := roundAt (modeOf sl) (seedDraw sl).1 (.exact neg m e) 0
        let r : Int := if neg then -(t.1 : Int) else t.1
        (r < lo → n = lo ∧ f = flagNV) ∧ (hi < r → n = hi ∧ f = flagNV) ∧
        (lo ≤ r → r ≤ hi → n = r ∧ f = if t.2 then flagNX else noFlags))) ∧
    (let n : Int := if u then x.toNat else x.toInt
     exec (.fcvtf d a u z gp) s =
      done s core slot iss (if pRead sl gp then rounded sl z d (.ofVal (.num (decide (n < 0)) n.natAbs 0) noFlags) else sl)) ∧
    (let r := toFloat .fp32 false (modeOf sl) (seedDraw sl).1 (fpVal false x)
     exec (.fcvtp d a true gp) s = puts (word r.bits) r.flags (seedDraw sl).2) ∧
    (let r := toFloat .fp64 false (modeOf sl) 0 (fpVal true x)
     exec (.fcvtp d a false gp) s = puts (word r.bits) r.flags sl.ctl.rseed)

/-- The floating compares (R146) and conversions (R145). -/
def Obligations.FloatCompareAndConversionWords : Prop := FloatCompareWords ∧ FloatConversionWords

end

/-! ## Block words -/

namespace Sys2Proof.Certificates
open Sys2Proof Sys2Proof.Machine

/-- Lane `k` of the register in row `i` and column `j` of the operand at `v`. -/
def laneAt (f : Elem) (sl : Slot) (v : Fin 64) (i j k : Nat) : Nat :=
  laneOf f (bRead sl (gridReg (v.val / 16 + i) (v.val % 16 + j))) k

/-- The RSEED after `n` draws (R61). -/
def seedAfter (n : Nat) (seed : Nat) : Nat := (fun s => (draw s).2)^[n] seed

/-- The bits of the draw after `n` draws in RSR; none are taken in another mode (R61). -/
def bitsAt (e : BEnv) (n : Nat) : Nat := if e.mode = 5 then (draw (seedAfter n e.seed)).1 else 0

/-- A register with each lane of an operand of `h` by `w` registers at `v` as `lane` says, at row, column and lane, with the flags
that the lanes raise and nothing else; the lanes take their random bits register by register and lane by lane (R61, R161). -/
structure WritesLanes (e : BEnv) (v : Fin 64) (h w : Nat) (lane : Nat → Nat → Nat → LaneRes) (eff : AEffect) : Prop where
  noG   : eff.g = []
  noP   : eff.p = []
  regs  : eff.b.map Prod.fst = blockRegs v h w
  lanes : ∀ i, i < h → ∀ j, j < w → ∀ k, k < laneCount e.fmt → ∃ q,
    (gridReg (v.val / 16 + i) (v.val % 16 + j), q) ∈ eff.b ∧
    laneOf e.fmt q k =
      ((lane i j k).finish e (bitsAt e ((i * w + j) * laneCount e.fmt + k))).bits % 2 ^ usedBits e.fmt
  flags : ∀ n, n < 5 → (eff.flags.getLsbD n = true ↔ ∃ i j k, i < h ∧ j < w ∧ k < laneCount e.fmt ∧
    ((lane i j k).finish e (bitsAt e ((i * w + j) * laneCount e.fmt + k))).flags.getLsbD n = true)
  seed  : eff.rseed.getD (word e.seed) =
    word (seedAfter (if e.mode = 5 ∧ (lane 0 0 0).draws e.fmt = true then h * w * laneCount e.fmt else 0) e.seed)
  still : e.mode ≠ 5 → eff.rseed = none

/-- The block unit takes a word that writes lanes, for `occ` cycles (R163, Table 8.2). -/
def TakesLanes (s : State) (core slot : Nat) (iss : Issue) (i : Instr) (e : BEnv) (v : Fin 64) (h : Fin 4) (w : Fin 16)
    (occ : Nat) (lane : Nat → Nat → Nat → LaneRes) : Prop :=
  ∃ eff, exec i s = taken s core slot iss eff (.block occ) ∧ WritesLanes e v (rows h) (cols w) lane eff

end Sys2Proof.Certificates

section
open Sys2Proof Sys2Proof.Machine Sys2Proof.Certificates

/-- The elementwise block words in every format: each lane of d is the word's function of the lanes of d, a and b at the same place, as
they stood before the word (R165 to R168): integers wrap or saturate, numbers round once, BMIN and BMAX return one operand's lane,
and a bitwise, copy, compare or select lane is bits. -/
def Obligations.ElementwiseBlockWords : Prop :=
  ∀ (s : State) (core slot : Nat) (iss : Issue), Issuing s core slot iss →
    ∀ (d a b : Fin 64) (h : Fin 4) (w : Fin 16) (e : BEnv),
    let sl := slotAt s core slot
    blockEnv core sl = some e →
    inGrid d (rows h) (cols w) = true → inGrid a (rows h) (cols w) = true → inGrid b (rows h) (cols w) = true →
    let occ := (rows h * cols w + 1) / 2
    let D := laneAt e.fmt sl d
    let A := laneAt e.fmt sl a
    let B := laneAt e.fmt sl b
    let V := elemVal e.fmt
    let I := elemInt e.fmt
    let takes := fun (i : Instr) (lane : Nat → Nat → Nat → LaneRes) => TakesLanes s core slot iss i e d h w occ lane
    takes (.badd d a b h w) (fun i j k =>
      if isInt e.fmt then .int (I (A i j k) + I (B i j k)) else .real (addPre core e.mode (V (A i j k)) (V (B i j k)))) ∧
    takes (.bsub d a b h w) (fun i j k =>
      if isInt e.fmt then .int (I (A i j k) - I (B i j k)) else .real (subPre core e.mode (V (A i j k)) (V (B i j k)))) ∧
    takes (.bmul d a b h w) (fun i j k =>
      if isInt e.fmt then .int (I (A i j k) * I (B i j k))
      else if e.fmt = .lg6 then .real (.ofVal (lgProduct (A i j k) (B i j k) 127 127) noFlags)
      else .real (mulPre core (V (A i j k)) (V (B i j k)))) ∧
    takes (.bfma d a b h w) (fun i j k =>
      if isInt e.fmt then .int (I (A i j k) * I (B i j k) + I (D i j k))
      else if e.fmt = .lg6 then .real (addPre core e.mode (lgProduct (A i j k) (B i j k) 127 127) (V (D i j k)))
      else .real (fmaPre core e.mode (V (A i j k)) (V (B i j k)) (V (D i j k)))) ∧
    takes (.bmin d a b h w) (fun i j k =>
      .raw (pickElem e.fmt true (A i j k) (B i j k)).1 (pickElem e.fmt true (A i j k) (B i j k)).2) ∧
    takes (.bmax d a b h w) (fun i j k =>
      .raw (pickElem e.fmt false (A i j k) (B i j k)).1 (pickElem e.fmt false (A i j k) (B i j k)).2) ∧
    takes (.band d a b h w) (fun i j k => .raw (A i j k &&& B i j k) noFlags) ∧
    takes (.bor d a b h w) (fun i j k => .raw (A i j k ||| B i j k) noFlags) ∧
    takes (.bxor d a b h w) (fun i j k => .raw (A i j k ^^^ B i j k) noFlags) ∧
    takes (.bmov d a h w) (fun i j k => .raw (A i j k) noFlags) ∧
    takes (.bcmplt d a b h w) (fun i j k =>
      if (V (A i j k)).isNaN || (V (B i j k)).isNaN then .raw 0 flagNV
      else .raw (if cmpVal (V (A i j k)) (V (B i j k)) < 0 then 2 ^ usedBits e.fmt - 1 else 0) noFlags) ∧
    takes (.bsel d a b h w) (fun i j k => .raw (if D i j k = 0 then B i j k else A i j k) noFlags)

/-- The unary block words, and those with a scalar in every lane: the functions of Table 8.3 rounded once (formats that are not
integers), sign changes on bits, and BSCAL, BADDS, BBCST and BSCL with the element in the low bits of g (R169, R171, R174). -/
def Obligations.UnaryAndScalarBlockWords : Prop :=
  ∀ (s : State) (core slot : Nat) (iss : Issue), Issuing s core slot iss →
    ∀ (d a : Fin 64) (g : Fin 32) (h : Fin 4) (w : Fin 16) (e : BEnv),
    let sl := slotAt s core slot
    blockEnv core sl = some e → inGrid d (rows h) (cols w) = true → inGrid a (rows h) (cols w) = true →
    let n := rows h * cols w
    let A := laneAt e.fmt sl a
    let V := elemVal e.fmt
    let I := elemInt e.fmt
    let x := (gRead sl g).toNat % 2 ^ usedBits e.fmt
    let top := 2 ^ (usedBits e.fmt - 1)
    let takes := fun (i : Instr) (occ : Nat) (lane : Nat → Nat → Nat → LaneRes) =>
      TakesLanes s core slot iss i e d h w occ lane
    let fn := fun (i : Instr) (f : Val → Pre) =>
      takes i (if e.fmt = .fp64 then 2 * n else n) (fun i j k => .real (f (V (A i j k))))
    takes (.bneg d a h w) ((n + 1) / 2) (fun i j k =>
      if isInt e.fmt then .int (-I (A i j k)) else .raw (A i j k ^^^ top) noFlags) ∧
    takes (.babs d a h w) ((n + 1) / 2) (fun i j k =>
      if isInt e.fmt then .int |I (A i j k)| else .raw (A i j k % top) noFlags) ∧
    takes (.brelu d a h w) ((n + 1) / 2) (fun i j k =>
      match V (A i j k) with
      | .nan neg quiet p => .raw (nanBits e.fmt neg true p) (if quiet then noFlags else flagNV)
      | v => .raw (if 0 < cmpVal v (.num false 0 0) then A i j k else zeroElem e.fmt) noFlags) ∧
    takes (.bscal d a g h w) ((n + 1) / 2) (fun i j k =>
      if isInt e.fmt then .int (I (A i j k) * I x)
      else if e.fmt = .lg6 then .real (.ofVal (lgProduct (A i j k) x 127 127) noFlags)
      else .real (mulPre core (V (A i j k)) (V x))) ∧
    takes (.badds d a g h w) ((n + 1) / 2) (fun i j k =>
      if isInt e.fmt then .int (I (A i j k) + I x) else .real (addPre core e.mode (V (A i j k)) (V x))) ∧
    takes (.bbcst d g h w) ((n + 1) / 2) (fun _ _ _ => .raw x noFlags) ∧
    (isInt e.fmt = false →
      fn (.bexp2 d a h w) exp2Pre ∧ fn (.blog2 d a h w) (log2Pre core) ∧ fn (.brcp d a h w) (rcpPre core) ∧
      fn (.brsq d a h w) (rsqPre core) ∧ fn (.bsigm d a h w) sigmPre ∧ fn (.btanh d a h w) tanhPre ∧
      fn (.bsqrt d a h w) (sqrtPre core) ∧
      takes (.bscl d a g h w) ((n + 1) / 2) (fun i j k =>
        .real (.ofVal (scaleVal (max (-8192) (min 8192 (gRead sl g).toInt)) (V (A i j k))) noFlags)))

/-- BCVT, BSHUF, BGET and BSET (R170, R172, R173). BCVT converts the lanes that both formats have, each rounded lane taking its draw
of RSEED in RSR, raises the flags that those lanes raise, and fills the other lanes with zero, which take no draw; BSHUF puts the lane that selector k of g names in lane k; BGET reads one lane, sign-extended if it is a signed integer; BSET replaces one
lane and leaves the register's other bits. -/
def Obligations.LaneMovingBlockWords : Prop :=
  ∀ (s : State) (core slot : Nat) (iss : Issue), Issuing s core slot iss →
    ∀ (d a l : Fin 64) (f : Fin 16) (g : Fin 32) (h : Fin 4) (w : Fin 16) (e : BEnv),
    let sl := slotAt s core slot
    blockEnv core sl = some e → inGrid d (rows h) (cols w) = true → inGrid a (rows h) (cols w) = true →
    let A := laneAt e.fmt sl a
    let occ := (rows h * cols w + 1) / 2
    let n := laneCount e.fmt
    let sel := fun (k : Nat) => (gRead sl g).toNat / 2 ^ (4 * k) % 16
    (∀ dst, elemOf f.val = some dst →
      let m := min n (laneCount dst)
      let drawing := decide (e.fmt ≠ dst) && (isFloat dst || (isInt dst && !isInt e.fmt))
      let out := fun (i j k : Nat) =>
        if e.fmt = dst then
          (match elemVal dst (A i j k) with
           | .nan neg quiet p => { bits := nanBits dst neg true p, flags := if quiet then noFlags else flagNV : Rounded }
           | _ => { bits := A i j k, flags := noFlags })
        else convert e.fmt dst e.sat e.mode (if drawing then bitsAt e ((i * cols w + j) * m + k) else 0) 127
          (elemVal e.fmt (A i j k))
      ∃ eff, exec (.bcvt d a f h w) s = taken s core slot iss eff (.block occ) ∧
      eff.g = [] ∧ eff.p = [] ∧ eff.b.map Prod.fst = blockRegs d (rows h) (cols w) ∧
      (∀ c, c < 5 → (eff.flags.getLsbD c = true ↔
        ∃ i j k, i < rows h ∧ j < cols w ∧ k < m ∧ (out i j k).flags.getLsbD c = true)) ∧
      eff.rseed = (if e.mode = 5 then some (word (seedAfter (if drawing then rows h * cols w * m else 0) e.seed)) else none) ∧
      ∀ i, i < rows h → ∀ j, j < cols w → ∃ q, (gridReg (d.val / 16 + i) (d.val % 16 + j), q) ∈ eff.b ∧
        ∀ k, k < laneCount dst → laneOf dst q k =
          (if k < m then (out i j k).bits % 2 ^ usedBits dst else zeroElem dst)) ∧
    ((∀ k, k < n → sel k < n) →
      TakesLanes s core slot iss (.bshuf d a g h w) e d h w occ (fun i j k => .raw (A i j (sel k)) noFlags)) ∧
    (l.val < n →
      exec (.bget l a g 0 0) s = taken s core slot iss (.ofG g
        (if e.fmt = .int8 ∨ e.fmt = .int16 ∨ e.fmt = .int32 ∨ e.fmt = .int64 then BitVec.ofInt 64 (elemInt e.fmt (A 0 0 l.val))
         else BitVec.ofNat 64 (A 0 0 l.val))) (.block 1) ∧
      ∃ q, exec (.bset d l g 0 0) s = taken s core slot iss (.ofB [(d, q)]) (.block 1) ∧
        laneOf e.fmt q l.val = (gRead sl g).toNat % 2 ^ usedBits e.fmt ∧
        ∀ k, k < n → k ≠ l.val → laneOf e.fmt q k = laneOf e.fmt (bRead sl d) k)

/-- The value of a number; zero for what is none. -/
def Sys2Proof.Certificates.valOf : Val → ℚ
  | .num neg m e => ratOf neg m e
  | _ => 0

/-- A number, and no infinity or NaN. -/
def Sys2Proof.Certificates.Finite (v : Val) : Prop := ∃ neg m e, v = .num neg m e

/-- One accumulator of a BDOT after group `g` of its products (R65, R176): the group's elements are those from g · n on, and in RSR the
bits are draw 16 · g + place of the word. -/
def Sys2Proof.Certificates.dotStep (e : BEnv) (acc fa fb : Elem) (n : Nat) (xs ys : List Nat) (place g v : Nat) : Rounded :=
  groupStep acc fa fb e.core g e.mode e.sat (bitsAt e (16 * g + place)) v
    (((xs.drop (g * n)).take n).zip ((ys.drop (g * n)).take n))

/-- The accumulator before group `g`. -/
def Sys2Proof.Certificates.dotBefore (e : BEnv) (acc fa fb : Elem) (n : Nat) (xs ys : List Nat) (place v : Nat) : Nat → Nat
  | 0 => v
  | g + 1 => (dotStep e acc fa fb n xs ys place g (dotBefore e acc fa fb n xs ys place v g)).bits

/-- The terms of sums and groups gathered (R63 to R65, R177, R178): of finite terms the sum, and the accumulator with all products of a
group, are exact; with no NaN among the terms, infinities of both signs, or a product of zero and infinity, create the NaN of the group
with NV; infinities of one sign give that infinity. -/
def Sys2Proof.Certificates.SumsAreExact : Prop :=
  (∀ (l : List Val) (core mode group : Nat), let p := (l.foldl (fun g x => g.addVal x) Gather.start).pre core group mode
    p.approx = none ∧
    ((∀ v ∈ l, Finite v) → Finite p.val ∧ valOf p.val = (l.map valOf).sum ∧ p.flags = noFlags) ∧
    ((∀ v ∈ l, v.isNaN = false) →
      (Val.inf true ∈ l → Val.inf false ∈ l → p.val = .nan false true (core % 4096 * 1024 + group % 1024) ∧ p.flags = flagNV) ∧
      (∀ neg, Val.inf neg ∈ l → Val.inf (!neg) ∉ l → p.val = .inf neg ∧ p.flags = noFlags))) ∧
  ∀ (acc fa fb : Elem) (v : Nat) (l : List (Nat × Nat)) (core mode group : Nat), fa ≠ .lg6 →
    let p := (gatherAll fa fb (Gather.start.addVal (elemVal acc v)) l).pre core group mode
    let A := elemVal fa
    let B := elemVal fb
    (Finite (elemVal acc v) → (∀ x ∈ l, Finite (A x.1) ∧ Finite (B x.2)) → Finite p.val ∧ p.approx = none ∧ p.flags = noFlags ∧
      valOf p.val = valOf (elemVal acc v) + (l.map (fun x => valOf (A x.1) * valOf (B x.2))).sum) ∧
    ((elemVal acc v).isNaN = false → (∀ x ∈ l, (A x.1).isNaN = false ∧ (B x.2).isNaN = false) →
      (∃ x ∈ l, (valOf (A x.1) = 0 ∧ Finite (A x.1) ∧ ¬Finite (B x.2)) ∨ (¬Finite (A x.1) ∧ valOf (B x.2) = 0 ∧ Finite (B x.2))) →
      p.val = .nan false true (core % 4096 * 1024 + group % 1024) ∧ p.flags = flagNV)

/-- BDOT, BRED and BGNORM complete for every operand in the grid in an active format that the word has: the block unit takes them, for the
time of Table 8.2 (R163, R176 to R178). BDOT rounds each of its 16 accumulators once for each group of products, in the order of groups,
rows and columns; on integers that adds the products of its row of a and its row of b over all columns and lanes. BRED writes the sum,
least or greatest element of each row to lane 0 of d's first column, with zeros in the other lanes. BGNORM writes the vector's sum to g
and each lane divided by it, or what R178 says of a sum that is a NaN, infinite or zero. -/
def Sys2Proof.Certificates.SummingWords : Prop :=
  ∀ (s : State) (core slot : Nat) (iss : Issue), Issuing s core slot iss →
    ∀ (d a b : Fin 64) (g : Fin 32) (h : Fin 4) (w : Fin 16) (e : BEnv),
    let sl := slotAt s core slot
    blockEnv core sl = some e →
    let A := laneAt e.fmt sl a
    let I := elemInt e.fmt
    let V := elemVal e.fmt
    let seedIs := fun (eff : AEffect) (n : Nat) =>
      eff.rseed = if e.mode = 5 then some (word (seedAfter n e.seed)) else none
    let flagsAre := fun (eff : AEffect) (l : List Flags) =>
      ∀ n, n < 5 → (eff.flags.getLsbD n = true ↔ ∃ f ∈ l, f.getLsbD n = true)
    (inGrid d 4 1 = true → inGrid a 4 (cols w) = true → inGrid b 4 (cols w) = true →
      ∀ fa fb acc n, dotFormats sl = some (fa, fb, acc, n) →
      let row := fun (f : Elem) (v : Fin 64) (i : Nat) =>
        (List.range (cols w)).flatMap (fun c => (List.range (laneCount f)).map (fun k => laneAt f sl v i c k))
      let groups := (cols w * laneCount fa + n - 1) / n
      let was := fun (i j : Nat) => dotBefore e acc fa fb n (row fa a i) (row fb b j) (4 * i + j) (laneAt acc sl d i 0 j)
      ∃ eff, exec (.bdot d a b 3 w) s =
          taken s core slot iss eff (.block (if fa = .fp32 then 8 * cols w else 4 * cols w)) ∧
        eff.g = [] ∧ eff.p = [] ∧ eff.b.map Prod.fst = blockRegs d 4 1 ∧
        seedIs eff (if isFloat acc then 16 * groups else 0) ∧
        flagsAre eff ((List.range groups).flatMap (fun k => (List.range 4).flatMap (fun i => (List.range 4).map (fun j =>
          (dotStep e acc fa fb n (row fa a i) (row fb b j) (4 * i + j) k (was i j k)).flags)))) ∧
        ∀ i, i < 4 → ∀ j, j < 4 → ∃ q, (gridReg (d.val / 16 + i) (d.val % 16), q) ∈ eff.b ∧
          laneOf acc q j = was i j groups ∧
          (acc = .int32 → e.sat = false → (laneOf .int32 q j : Int) = (elemInt .int32 (laneAt .int32 sl d i 0 j) +
            ((List.range (cols w)).flatMap (fun c => (List.range (laneCount fa)).map (fun k =>
              elemInt fa (laneAt fa sl a i c k) * elemInt fb (laneAt fb sl b j c k)))).sum) % 2 ^ 32)) ∧
    (inGrid d (rows h) (cols w) = true → inGrid a (rows h) (cols w) = true →
      ∀ op : Fin 64, op.val < 3 →
      let row := fun (i : Nat) => (List.range (cols w)).flatMap (fun c => (List.range (laneCount e.fmt)).map (fun k => A i c k))
      let out := fun (i : Nat) => (reduceRow e op.val (row i)).finish e (bitsAt e i)
      ∃ eff, exec (.bred d a op h w) s = taken s core slot iss eff (.block ((rows h * cols w + 1) / 2 + 2)) ∧
        eff.g = [] ∧ eff.p = [] ∧ eff.b.map Prod.fst = blockRegs d (rows h) 1 ∧
        seedIs eff (if op.val = 0 ∧ isFloat e.fmt = true then rows h else 0) ∧
        flagsAre eff ((List.range (rows h)).map (fun i => (out i).flags)) ∧
        ∀ i, i < rows h → ∃ q, (gridReg (d.val / 16 + i) (d.val % 16), q) ∈ eff.b ∧
          (∀ k, 0 < k → k < laneCount e.fmt → laneOf e.fmt q k = zeroElem e.fmt) ∧
          let r := laneOf e.fmt q 0
          r = (out i).bits % 2 ^ usedBits e.fmt ∧
          (isInt e.fmt = true →
            (op.val = 0 → r = (intResult e.fmt e.sat ((row i).map I).sum).bits) ∧
            (op.val = 1 → r ∈ row i ∧ ∀ x ∈ row i, I r ≤ I x) ∧
            (op.val = 2 → r ∈ row i ∧ ∀ x ∈ row i, I x ≤ I r)) ∧
          (isFloat e.fmt = true → op.val ≠ 0 → (∃ x ∈ row i, (V x).isNaN = false) → r ∈ row i ∧ (V r).isNaN = false ∧
            ∀ x ∈ row i, (V x).isNaN = false →
              let c := if op.val = 1 then cmpVal (V r) (V x) else cmpVal (V x) (V r)
              c ≤ 0 ∧ ((V x).sign = decide (op.val = 1) → c = 0 → (V r).sign = decide (op.val = 1)))) ∧
    (inGrid d (rows h) (cols w) = true → inGrid a (rows h) (cols w) = true → e.fmt = .fp32 →
      let n := 4 * rows h * cols w
      let xs := (List.range (rows h)).flatMap (fun i => (List.range (cols w)).flatMap (fun j =>
        (List.range 4).map (fun k => elemVal .fp32 (A i j k))))
      let sum := (xs.foldl (fun g x => g.addVal x) Gather.start).pre core 0 e.mode
      let infs := (xs.filter Val.isInf).length
      let mode := match sum.val with
        | .num _ 0 _ => 0
        | _ => e.mode
      let lane := fun (x : Val) =>
        match sum.val with
        | .nan .. => sum
        | .inf neg => if x.isInf then .ofApprox (quotient x.sign 1 0 infs 0) noFlags else .ofVal (.num (x.sign != neg) 0 0) noFlags
        | .num _ m _ => if m = 0 then .ofApprox (quotient false 1 0 n 0) noFlags else { divPre 0 x sum.val with flags := noFlags }
      let out := fun (k : Nat) => (lane (xs.getD k (.num false 0 0))).finish .fp32 e.sat mode (bitsAt e k)
      let total := sum.finish .fp32 e.sat e.mode (bitsAt e n)
      ∃ eff, exec (.bgnorm d a g h w) s = taken s core slot iss eff (.block ((rows h * cols w + 1) / 2 + 8)) ∧
        eff.g = [(g, word total.bits)] ∧ total.bits < 2 ^ 32 ∧ eff.p = [] ∧
        eff.b.map Prod.fst = blockRegs d (rows h) (cols w) ∧ seedIs eff (n + 1) ∧
        flagsAre eff (total.flags :: (List.range n).map (fun k => (out k).flags)) ∧
        ∀ i, i < rows h → ∀ j, j < cols w → ∀ k, k < 4 → ∃ q, (gridReg (d.val / 16 + i) (d.val % 16 + j), q) ∈ eff.b ∧
          laneOf .fp32 q k = (out ((i * cols w + j) * 4 + k)).bits)

/-- The block words that sum: BDOT, BRED and BGNORM, and the exact sums that they round (R65, R66, R176 to R178). -/
def Obligations.SummingBlockWords : Prop := SummingWords ∧ SumsAreExact

/-- A block word with a reserved format code, with an operand outside the grid, or with a form the format forbids is an
illegal-operand fault (0x04), before anything is computed (R129, R160, R162, R172, R173); so is a BDOT whose formats are of two classes
or of none that it has, whose ACC is not the class's accumulator, or whose lane counts differ (R57, R175). -/
def Obligations.BlockWordsRefuse : Prop :=
  ∀ (s : State) (core slot : Nat) (iss : Issue), Issuing s core slot iss →
    ∀ (d a b : Fin 64) (g : Fin 32) (h : Fin 4) (w : Fin 16),
    let sl := slotAt s core slot
    let faults := fun (i : Instr) => exec i s = .next (stepEnd s (raiseA core slot 0x04 (finishPlain core slot)))
    let noInt := [Instr.bexp2 d a h w, .blog2 d a h w, .brcp d a h w, .brsq d a h w, .bsigm d a h w, .btanh d a h w,
      .bsqrt d a h w, .bscl d a g h w]
    (12 ≤ (descriptorAt sl 0).toNat % 16 → ∀ i ∈ [Instr.badd d a b h w, .bsub d a b h w, .bmul d a b h w, .bfma d a b h w,
      .bmin d a b h w, .bmax d a b h w, .band d a b h w, .bor d a b h w, .bxor d a b h w, .bmov d a h w, .bcmplt d a b h w,
      .bsel d a b h w, .bneg d a h w, .babs d a h w, .brelu d a h w, .bcvt d a 5 h w, .bscal d a g h w, .badds d a g h w,
      .bbcst d g h w, .bget d a g h w, .bset d a g h w, .bshuf d a g h w, .bred d a 0 h w, .bgnorm d a g h w,
      .bdot d a b h w] ++ noInt, faults i) ∧
    (inGrid d (rows h) (cols w) = false → ∀ i ∈ [Instr.badd d a b h w, .bsub d a b h w, .bmul d a b h w, .bfma d a b h w,
      .bmin d a b h w, .bmax d a b h w, .band d a b h w, .bor d a b h w, .bxor d a b h w, .bmov d a h w, .bcmplt d a b h w,
      .bsel d a b h w, .bneg d a h w, .babs d a h w, .brelu d a h w, .bcvt d a 5 h w, .bscal d a g h w, .badds d a g h w,
      .bbcst d g h w, .bshuf d a g h w, .bred d a 0 h w, .bgnorm d a g h w] ++ noInt, faults i) ∧
    (inGrid a (rows h) (cols w) = false → ∀ i ∈ [Instr.badd d a b h w, .bsub d a b h w, .bmul d a b h w, .bfma d a b h w,
      .bmin d a b h w, .bmax d a b h w, .band d a b h w, .bor d a b h w, .bxor d a b h w, .bmov d a h w, .bcmplt d a b h w,
      .bsel d a b h w, .bneg d a h w, .babs d a h w, .brelu d a h w, .bcvt d a 5 h w, .bscal d a g h w, .badds d a g h w,
      .bshuf d a g h w, .bred d a 0 h w, .bgnorm d a g h w] ++ noInt, faults i) ∧
    (inGrid b (rows h) (cols w) = false → ∀ i ∈ [Instr.badd d a b h w, .bsub d a b h w, .bmul d a b h w, .bfma d a b h w,
      .bmin d a b h w, .bmax d a b h w, .band d a b h w, .bor d a b h w, .bxor d a b h w, .bcmplt d a b h w,
      .bsel d a b h w], faults i) ∧
    (h ≠ 3 ∨ inGrid d 4 1 = false ∨ inGrid a 4 (cols w) = false ∨ inGrid b 4 (cols w) = false → faults (.bdot d a b h w)) ∧
    (12 ≤ (descriptorAt sl 1).toNat % 16 ∨ 12 ≤ (descriptorAt sl 0).toNat / 16 % 16 → faults (.bdot d a b h w)) ∧
    (∀ fa fb acc, elemOf ((descriptorAt sl 0).toNat % 16) = some fa → elemOf ((descriptorAt sl 1).toNat % 16) = some fb →
      elemOf ((descriptorAt sl 0).toNat / 16 % 16) = some acc →
      let narrow := [Elem.bf16, .fp16, .e4m3, .e5m2]
      let ints := [Elem.int8, .uint8, .int16]
      ¬(laneCount fa = laneCount fb ∧ ((fa ∈ narrow ∧ fb ∈ narrow ∧ acc = .fp32) ∨ (fa = .lg6 ∧ fb = .lg6 ∧ acc = .fp32) ∨
        (fa = .fp32 ∧ fb = .fp32 ∧ acc = .fp32) ∨ (fa ∈ ints ∧ fb ∈ ints ∧ acc = .int32))) →
      faults (.bdot d a b h w)) ∧
    (∀ e, blockEnv core sl = some e → isInt e.fmt = true → ∀ i ∈ noInt, faults i) ∧
    (∀ e, blockEnv core sl = some e → e.fmt ≠ .fp32 → faults (.bgnorm d a g h w)) ∧
    (∀ e, blockEnv core sl = some e → laneCount e.fmt ≤ b.val ∨ h ≠ 0 ∨ w ≠ 0 →
      faults (.bget b a g h w) ∧ faults (.bset d b g h w)) ∧
    (∀ e k, blockEnv core sl = some e → k < laneCount e.fmt →
      laneCount e.fmt ≤ (gRead sl g).toNat / 2 ^ (4 * k) % 16 → faults (.bshuf d a g h w))

end

/-! ## Every A word -/

section
open Sys2Proof Sys2Proof.Machine Sys2Proof.Certificates

/-- Every A word does the same alone and as the second word of a pair: its effect is read from the registers as they stood before the
bundle, and its writes come with the bundle's end (R5, R6); a fault of its own is raised with neither word's writes made (R113). -/
def Obligations.AWordAloneAndInPair : Prop :=
  ∀ (s : State) (core slot : Nat) (iss : Issue) (i : Instr), Issuing s core slot iss →
    let sl := slotAt s core slot
    (∀ out, aEffect core sl i = some (.ok out) →
      exec i s = .next (ended s core slot (some out) sl iss.after) ∧
      (iss.a = some i → iss.aOver = none → iss.aBad = false → ∀ gp,
        exec (.nop gp) s = .next (ended s core slot (some out) sl iss.after))) ∧
    (∀ c, aEffect core sl i = some (.error c) →
      exec i s = .next (stepEnd s (raiseA core slot c (finishPlain core slot))) ∧
      (iss.a = some i → iss.aOver = none → iss.aBad = false → ∀ gp,
        exec (.nop gp) s = .next (stepEnd s (raiseA core slot c (finishPlain core slot)))))

/-- The frame of every A word, alone: the writes it makes, at once or through its unit, are to the registers it names, to FCTL[12:8]
and, in RSR, to RSEED; making them leaves every other register, control register and part of the slot as it was; and the step
itself changes nothing but the slot and, for a unit, the core's queue: every byte of memory reads as before. -/
def Obligations.AWordFrame : Prop :=
  (∀ (core : Nat) (sl : Slot) (i : Instr) (out : AOut), aEffect core sl i = some (.ok out) →
    (∀ x ∈ out.eff.g, Dst.g x.1 ∈ destsOf i) ∧ (∀ x ∈ out.eff.p, Dst.p x.1 ∈ destsOf i) ∧
    (∀ x ∈ out.eff.b, ∃ l, Dst.b l ∈ destsOf i ∧ x.1 ∈ l) ∧ (modeOf sl ≠ 5 → out.eff.rseed = none)) ∧
  (∀ (sl : Slot) (e : AEffect),
    let t := applyEffect sl e
    (∀ r, r ∉ e.g.map Prod.fst → gRead t r = gRead sl r) ∧ (∀ r, r ∉ e.p.map Prod.fst → pRead t r = pRead sl r) ∧
    (∀ r, r ∉ e.b.map Prod.fst → bRead t r = bRead sl r) ∧ t.regs.pc = sl.regs.pc ∧
    { t with regs := sl.regs, ctl := sl.ctl } = sl ∧
    { t.ctl with fctl := sl.ctl.fctl, rseed := sl.ctl.rseed } = sl.ctl ∧
    t.ctl.fctl &&& ~~~0x1F00 = sl.ctl.fctl &&& ~~~0x1F00 ∧ sl.ctl.fctl &&& ~~~t.ctl.fctl = 0 ∧
    (e.rseed = none → t.ctl.rseed = sl.ctl.rseed)) ∧
  (∀ (s t : State) (core slot : Nat) (iss : Issue) (i : Instr) (out : AOut), Issuing s core slot iss →
    aEffect core (slotAt s core slot) i = some (.ok out) → exec i s = .next t →
    SameOutside s t ∧ SameSlots s t core slot ∧ SameMemory s t ∧ (∀ c, c ≠ core → coreAt t c = coreAt s c) ∧
    { coreAt t core with longQ := (coreAt s core).longQ, blockFree := (coreAt s core).blockFree } = coreAt s core)

end

/-! ## Control flow, traps and containment -/

namespace Sys2Proof.Certificates
open Sys2Proof Sys2Proof.Machine

/-- A state with one slot replaced and the step over. -/
def withSlot (s : State) (core slot : Nat) (v : Slot) : State :=
  { s with slots := assign s.slots (core * 16 + slot) v, issuing := none }

/-- The record that a fault posts to Calben (R302 to R304): of a job's fault, with ENGINE, the job's handle and no bundle address. -/
def faultRecord (s : State) (core slot : Nat) (pc : Word) (t : Trouble) : Record :=
  { cause := t.cause
    flags := recordFlags t.async false (decide ((slotAt s core slot).mode = .supervisor)) t.engine.isSome t.write
    wait := 0, handle := t.engine.getD 0, value := t.value, pc := if t.engine.isSome then 0 else pc
    who := whoOf s core slot }

/-- A slot out of its bundle, in S mode at `entry`, with the trap registers of R299: nothing else of it is changed. -/
def inSMode (sl : Slot) (entry pc : Word) (cause : Nat) (async esc : Bool) (value : Word) : Slot :=
  { sl with
    issue := none, wait := .none, await := .none, stall := none, passed := none, mode := .supervisor, handler := .none
    trap := {
      tcause := word ((if async then 0x8000 else 0) + (if esc then 0x4000 else 0) + cause % 256)
      tval := value
      tpc := pc &&& 0x00FFFFFFFFFFFFFC
      tstate := word (suspKind sl.susp * 16 + handlerCode sl.handler * 2 + (if sl.mode = .supervisor then 1 else 0)) }
    regs := { sl.regs with pc := entry } }

/-- A slot held at the machine level at an address (R300, R303). -/
def held (sl : Slot) (pc : Word) : Slot :=
  { sl with issue := none, wait := .held, await := .none, stall := none, passed := none, regs := { sl.regs with pc := pc } }

/-- A state with one slot replaced. -/
def putSlot (s : State) (core slot : Nat) (v : Slot) : State := { s with slots := assign s.slots (core * 16 + slot) v }

/-- A slot whose task retires as failed, passing a cause up or none (Table 2.7). -/
def failing (sl : Slot) (escalate : Nat) : Slot :=
  { sl with issue := none, await := .none, stall := none, passed := none, wait := .retiring true escalate false }

/-- A slot with one more fault in its task's fault word (R34). -/
def noted (sl : Slot) (pc : Word) (cause : Nat) : Slot :=
  { sl with task := { sl.task with faultWord := recordFault sl.task.faultWord pc cause } }

/-- The writes of R33 for a word, if there is one. -/
def ignoredWord (core : Nat) (sl : Slot) (i : Option Instr) : AEffect := (i.map (ignored core sl)).getD AEffect.nothing

end Sys2Proof.Certificates

section
open Sys2Proof Sys2Proof.Machine Sys2Proof.Certificates

/-- NOP, BR, JAL, JALR and YIELD (R147 to R150, R152): where the thread goes on, and the link. Displacements count words; a link is the
address after the bundle; JALR's target must be a multiple of four, or it is an alignment fault (0x05) that reports the target; a
yielding slot may not issue for fifteen cycles after its own. Guarded off, a word does nothing (R134). -/
def Obligations.ControlFlowWords : Prop :=
  ∀ (s : State) (core slot : Nat) (iss : Issue) (o : Option AOut), Issues s core slot iss o →
    ∀ (p gp : Fin 8) (sense : Bool) (d20 : BitVec 20) (d19 : BitVec 19) (d a b l : Fin 32),
    let sl := slotAt s core slot
    let e := ended s core slot o sl iss.after
    let target := gRead sl a + gRead sl b
    exec (.nop gp) s = .next (ended s core slot o sl iss.after) ∧
    exec (.br p sense d20) s = .next (ended s core slot o sl
      (if pRead sl p = sense then iss.pc + d20.signExtend 64 * 4 else iss.after)) ∧
    exec (.jal l d19) s = .next (ended s core slot o (gWrite sl l iss.after) (iss.pc + d19.signExtend 64 * 4)) ∧
    (pRead sl gp = true → target &&& 3 = 0 →
      exec (.jalr d a b gp) s = .next (ended s core slot o (gWrite sl d iss.after) target)) ∧
    (pRead sl gp = true → target &&& 3 ≠ 0 →
      exec (.jalr d a b gp) s = .next (stepEnd s (raiseC core slot { cause := 0x05, value := target, write := false }))) ∧
    (pRead sl gp = true → exec (.yield gp) s = .next (withSlot e core slot
      { slotAt e core slot with wait := .yield ((coreAt s core).cycle + 16) })) ∧
    (pRead sl gp = false → ∀ i ∈ [Instr.jalr d a b gp, .yield gp, .halt gp, .brk gp, .syscall gp, .uiret gp, .ifence gp],
      exec i s = .next (ended s core slot o sl iss.after))

/-- HALT, UIRET and IFENCE (R151, R153, R154). HALT waits with the thread at the next bundle, and with no interrupt enabled is an
illegal-operand fault; UIRET ends the active handler at ULINK, and with none active is an illegal-operand fault; IFENCE waits for its
end (that it has one to wait for is log entry 54). -/
def Obligations.WaitingControlWords : Prop :=
  ∀ (s : State) (core slot : Nat) (iss : Issue) (o : Option AOut), Issues s core slot iss o → ∀ (gp : Fin 8),
    let sl := slotAt s core slot
    let e := ended s core slot o sl iss.after
    let illegal := .next (stepEnd s (raiseC core slot { cause := 0x04, value := iss.word0.zeroExtend 64, write := false }))
    pRead sl gp = true →
    (sl.ctl.uimaskv ≠ 0 → exec (.halt gp) s = .next (withSlot e core slot { slotAt e core slot with wait := .halt })) ∧
    (sl.ctl.uimaskv = 0 → exec (.halt gp) s = illegal) ∧
    (sl.handler ≠ .none →
      exec (.uiret gp) s = .next (ended s core slot o { sl with handler := .none } sl.ctl.ulink)) ∧
    (sl.handler = .none → exec (.uiret gp) s = illegal) ∧
    exec (.ifence gp) s = .next (waiting s core slot o sl .ifence)

/-- The ends of the waits of IFENCE and YIELD (R152, R154): IFENCE ends its bundle once the thread's stores have left (log entry 54), and
the core has then discarded the words it held for the context, and what its thread sees is what later fetches of the context see
(log entry 72); a yield ends in its time. -/
def Obligations.IfenceAndYieldEnd : Prop :=
  ∀ (s : State) (core slot : Nat), coreUp s core = true → slot < 16 →
    let sl := slotAt s core slot
    (∀ iss o, Waits s core slot iss o → sl.wait = .ifence → sl.sb = [] →
      exec (.ifenceComplete core slot) s = .next (closed
        { s with
          cores := assign s.cores core
            { coreAt s core with
              code := (coreAt s core).code.filter (fun u => u.ctx != sl.ctx)
              codeSeen := assign (coreAt s core).codeSeen sl.ctx
                ((lookup Knows.none (coreAt s core).codeSeen sl.ctx).join (knowsOf s (slotParty s core slot))) } }
        core slot o sl iss.after)) ∧
    (∀ n, sl.wait = .yield n → n ≤ (coreAt s core).cycle →
      exec (.yieldExpiry core slot) s =
        .next { s with slots := assign s.slots (core * 16 + slot) { sl with wait := .none } })

/-- SYSCALL and BREAK of a U-mode thread enter S mode at TVEC with cause 0x0F or 0x0E and value 0; the cause, the bundle's address and the
mode, handler and suspended wait of the thread are saved in TCAUSE, TPC and TSTATE; no register of the thread changes (R150, R299).
With TVEC zero the event is posted to Calben and the thread is held (R300); in S mode the call is posted with the S-MODE flag and
the thread is held (R303). -/
def Obligations.CallsEnterSMode : Prop :=
  ∀ (s : State) (core slot : Nat) (iss : Issue) (o : Option AOut), Issues s core slot iss o → iss.muted = false →
    ∀ (gp : Fin 8) (i : Instr) (cause : Nat), (i = .syscall gp ∧ cause = 0x0F) ∨ (i = .brk gp ∧ cause = 0x0E) →
    let sl := slotAt s core slot
    let tvec := tvecOf (coreAt s core) slot
    let posted := fun (t : State) => { t with
      records := s.records ++ [{ cause := cause, flags := 4, wait := 0, handle := 0, value := 0, pc := iss.pc,
                                 who := whoOf s core slot }] }
    pRead sl gp = true →
    (sl.mode = .user → tvec ≠ 0 →
      exec i s = .next (withSlot s core slot (inSMode sl tvec iss.pc cause false false 0))) ∧
    (sl.mode = .user → tvec = 0 → exec i s = .next (posted (withSlot s core slot (held sl iss.pc)))) ∧
    (sl.mode = .supervisor → exec i s = .next (posted (withSlot s core slot (held sl iss.pc))))

/-- TRET in S mode: the mode, the handler state and a suspended wait come back from TSTATE and the slot, the thread goes on at TPC, and a
suspended MWAIT ends with 2 in its register and its watch disarmed (R301, Table 16.11). Guarded off it is a NOP. -/
def Obligations.TrapReturn : Prop :=
  ∀ (s : State) (core slot : Nat) (iss : Issue), Issues s core slot iss none → ∀ (gp : Fin 8),
    let sl := slotAt s core slot
    let ts := sl.trap.tstate
    let back := { sl with
      issue := none, await := .none, stall := none, passed := none, susp := .none
      mode := if ts.getLsbD 0 then .supervisor else .user
      handler := if ts.toNat / 2 % 4 = 1 then .light else if ts.toNat / 2 % 4 = 2 then .user else .none
      regs := { sl.regs with pc := sl.trap.tpc } }
    sl.mode = .supervisor →
    (pRead sl gp = false → exec (.tret gp) s = .next (ended s core slot none sl iss.after)) ∧
    (pRead sl gp = true →
      (sl.susp = .none → exec (.tret gp) s = .next (withSlot s core slot { back with wait := .none })) ∧
      (sl.susp = .halt → exec (.tret gp) s = .next (withSlot s core slot { back with wait := .halt })) ∧
      (sl.susp = .replay → exec (.tret gp) s = .next (withSlot s core slot { back with wait := .replay })) ∧
      (∀ failed escalate, sl.susp = .retire failed escalate →
        exec (.tret gp) s = .next (withSlot s core slot { back with wait := .retiring failed escalate true })) ∧
      (∀ n, sl.susp = .mxmab n → exec (.tret gp) s = .next (withSlot s core slot { back with wait := .job n })) ∧
      (∀ gen addr sc, sl.susp = .bar gen addr sc → exec (.tret gp) s = .next (withSlot s core slot { back with
        wait := .bar addr gen sc
        stall := some { code := 5, start := (coreAt s core).cycle, limit := sl.ctl.waitlim.toNat, posted := false } })) ∧
      (∀ d, sl.susp = .mwait d → ∃ t, exec (.tret gp) s = .next t ∧
        slotAt t core slot = gWrite { back with wait := .none } d 2 ∧
        (coreAt t core).watches = (coreAt s core).watches.filter (fun w => w.slot != slot)))

/-- A privileged word in U mode is a privileged-instruction fault (0x03) that reports the word, whatever its operands, its guard or the
register it names, and has none of its effect (R128, R130, R134, R307). -/
def Obligations.PrivilegedWordsInUserMode : Prop :=
  ∀ (s : State) (core slot : Nat) (iss : Issue) (o : Option AOut), Issues s core slot iss o →
    (slotAt s core slot).mode = .user → ∀ (gp : Fin 8) (d a b : Fin 32) (n : BitVec 14), 0x2000 ≤ n.toNat →
    ∀ i ∈ [Instr.tret gp, .rdc d n, .wrc a n, .swapctx a, .slothand a, .divset a b, .divclr a, .tlbinv a b, .tlbinvc a,
      .pfclr],
      exec i s = .next (stepEnd s (raiseC core slot { cause := 0x03, value := iss.word0.zeroExtend 64, write := false }))

/-- What a fault raised at the bundle at `pc` comes to, whatever raised it; `go` is what IGNORE goes on with. Not present (0x07): posted,
and the thread waits at the bundle for Calben's service (R302). In S mode any other fault is posted and the thread is held (R303). A
U-mode fault but a call is recorded in the task's fault word, the first with its address and cause, and the task's policy acts: IGNORE
goes on; KILL_SELF retires the task as failed, and a root task's failure is reported with the fault word; KILL_PARENT passes the fault to
the join frame, or at a root into S mode with the fault word as its value, or with TVEC zero to Calben; RETRY restarts the task from its
packet at the first fault, and passes any later one up (R31 to R34, R297, R300). -/
def Sys2Proof.Certificates.EveryFault : Prop :=
  ∀ (s : State) (core slot : Nat) (pc : Word) (t : Trouble) (go : Micro),
    let sl := slotAt s core slot
    let raised := after (raiseAt core slot pc t go) s
    let posted := fun (x : State) (r : Record) => { x with records := s.records ++ [r] }
    let v := noted sl pc t.cause
    let fw := v.task.faultWord
    let faults := sl.task.faultWord.toNat / 256 % 256
    let tvec := tvecOf (coreAt s core) slot
    let passedUp :=
      (sl.task.frame ≠ 0 → raised = putSlot s core slot (failing v t.cause)) ∧
      (sl.task.frame = 0 → tvec ≠ 0 → raised = putSlot s core slot (inSMode v tvec pc t.cause t.async true fw)) ∧
      (sl.task.frame = 0 → tvec = 0 → raised = posted (putSlot s core slot (held v pc))
        { cause := t.cause, flags := recordFlags t.async true true t.engine.isSome t.write, wait := 0
          handle := t.engine.getD 0, value := fw, pc := if t.engine.isSome then 0 else pc, who := whoOf s core slot })
    (t.cause = 0x07 → raised = posted (putSlot s core slot { sl with
      wait := .replay, await := .none, stall := none, replayValue := t.value, replayFor := none
      regs := { sl.regs with pc := pc } }) (faultRecord s core slot pc t)) ∧
    (t.cause ≠ 0x07 → sl.mode = .supervisor → raised = posted (putSlot s core slot (held sl pc)) (faultRecord s core slot pc t)) ∧
    (t.cause ≠ 0x07 → t.cause ≠ 0x0E → t.cause ≠ 0x0F → sl.mode = .user →
      (policyOf sl = 0 → raised = after go (putSlot s core slot v)) ∧
      (policyOf sl = 2 → sl.task.frame ≠ 0 → raised = putSlot s core slot (failing v 0)) ∧
      (policyOf sl = 2 → sl.task.frame = 0 → raised = posted (putSlot s core slot (failing v 0))
        { cause := 0x15, flags := 0, wait := 0, handle := 0, value := fw, pc := 0, who := whoOf s core slot }) ∧
      (policyOf sl = 3 → passedUp) ∧
      (policyOf sl = 1 → faults ≠ 0 → passedUp) ∧
      (policyOf sl = 1 → faults = 0 →
        let w := slotAt raised core slot
        let id := sl.task.task &&& 0xFFFFFFFF
        w.regs.pc = sl.task.entry ∧ w.mode = .user ∧ w.handler = .none ∧ w.task = v.task ∧ w.wait = .none ∧ w.issue = none ∧
        w.await = .none ∧ w.fmtPending = true ∧ w.q = Vector.replicate 8 none ∧
        w.ctl = { UserCtl.reset with rseed := if id = 0 then 1 else id } ∧ gRead w 6 = id ∧
        (∀ k (h : k < 5), gRead w (Fin.ofNat 32 (k + 1)) = sl.task.args.get ⟨k, h⟩) ∧
        raised.mem = s.mem ∧ raised.records = s.records)) ∧
    (faults = 0 → t.cause < 256 →
      fw.toNat % 256 = t.cause ∧ fw.toNat / 256 % 256 = 1 ∧ fw.toNat / 65536 = pc.toNat % 2 ^ 48) ∧
    (faults ≠ 0 → fw = if faults < 255 then sl.task.faultWord + 0x100 else sl.task.faultWord)

/-- The values that IGNORE gives a faulting word's destinations (R33): 0 in a general register, false in a predicate, and in each lane of
a block register the quiet NaN of the core with group index 0 in a floating format, 0 in an integer format and 0x10 in LG6; an operand
that leaves the grid has its registers in the grid written (log entry 51, the model's choice). No flag is set and RSEED stays. -/
def Sys2Proof.Certificates.IgnoredValues : Prop :=
  ∀ (core : Nat) (sl : Slot) (i : Instr),
    let e := ignored core sl i
    let format := elemOf ((descriptorAt sl 0).toNat % 16)
    e.flags = 0 ∧ e.rseed = none ∧
    (∀ r v, (r, v) ∈ e.g ↔ v = 0 ∧ Dst.g r ∈ destsOf i) ∧ (∀ r v, (r, v) ∈ e.p ↔ v = false ∧ Dst.p r ∈ destsOf i) ∧
    (∀ r q, (r, q) ∈ e.b → ∃ l, Dst.b l ∈ destsOf i ∧ r ∈ l) ∧
    (∀ l, Dst.b l ∈ destsOf i → ∀ r ∈ l, ∃ q, (r, q) ∈ e.b) ∧
    (∀ r q, (r, q) ∈ e.b → ∀ f, format = some f → ∀ k, k < laneCount f → laneOf f q k =
      (if isFloat f then nanBits f false true (core % 4096 * 1024) else if f = .lg6 then 0x10 else 0) % 2 ^ usedBits f)

/-- A fault of a C word is raised at its bundle, and exactly one of a bundle is reported (R113): in a bundle that has reported its A
word's, it is as IGNORE leaves it. Under IGNORE the C word makes R33's writes, and its A word completes as it would have: now, or by the
unit that it takes or has taken (R6, R33, R163); an A word that faults too makes R33's writes. -/
def Sys2Proof.Certificates.CWordFaults : Prop :=
  ∀ (s : State) (core slot : Nat) (iss : Issue) (t : Trouble), (slotAt s core slot).issue = some iss →
    let sl := slotAt s core slot
    let c := ignoredWord core sl iss.c
    let over_ := fun (x : State) => { x with issuing := none }
    (iss.muted = false → after (raiseC core slot t) s = after (raiseAt core slot iss.pc t (passC core slot)) s) ∧
    (iss.muted = true → after (raiseC core slot t) s = after (passC core slot) s) ∧
    (∀ o, companion core sl iss = .ok o →
      over_ (after (passC core slot) s) = over_ (closed s core slot o (applyEffect sl c) iss.after)) ∧
    (∀ k, companion core sl iss = .error k → sl.await = .none → over_ (after (passC core slot) s) =
      ended s core slot (some { eff := ignoredWord core sl iss.a, kind := .now }) (applyEffect sl c) iss.after)

/-- A fault of an A word is raised at its bundle with that word as its value (R113, Table 16.7). Under IGNORE the A word makes R33's
writes and the bundle goes on with its C word, whose own fault is then not reported; an A word alone ends the bundle so (R33). -/
def Sys2Proof.Certificates.AWordFaults : Prop :=
  ∀ (s : State) (core slot : Nat) (iss : Issue) (cause : Nat) (f : Micro), (slotAt s core slot).issue = some iss →
    let sl := slotAt s core slot
    let a := ignoredWord core sl iss.a
    let v := putSlot s core slot { sl with issue := some { iss with aOver := some a, muted := true } }
    let value : Word := (if iss.c.isSome then iss.word1 else iss.word0).zeroExtend 64
    after (raiseA core slot cause f) s =
      after (raiseAt core slot iss.pc { cause := cause, value := value, write := false } (andThen (overrideA core slot) f)) s ∧
    after (andThen (overrideA core slot) f) s = after f v ∧
    (sl.await = .none → stepEnd v (finishPlain core slot) =
      ended s core slot (some { eff := a, kind := .now }) sl iss.after)

/-- A fault of a fetch has the bundle's address as its value and leaves no instruction to complete: under IGNORE the task retires as
failed. A pc outside ordinary memory, or an entry that is no multiple of four, is one (R29, R33, R149). An illegal bundle is a fault with
its first word as its value (log entry 99) and under IGNORE a NOP of its size. -/
def Sys2Proof.Certificates.FetchFaults : Prop :=
  ∀ (s : State) (core slot cause : Nat) (i : Issue),
    let sl := slotAt s core slot
    let pc := sl.regs.pc
    after (fetchFault core slot cause) s =
      after (raiseAt core slot pc { cause := cause, value := pc, write := false } (killSelf core slot)) s ∧
    (sl.task.frame ≠ 0 → after (killSelf core slot) s = putSlot s core slot (failing sl 0)) ∧
    (sl.task.frame = 0 → after (killSelf core slot) s = { putSlot s core slot (failing sl 0) with
      records := s.records ++ [{ cause := 0x15, flags := 0, wait := 0, handle := 0, value := sl.task.faultWord, pc := 0,
                                 who := whoOf s core slot }] }) ∧
    (∀ c, fetchCause pc.toNat = some c → after (issueAtPc core slot) s = after (fetchFault core slot c) s) ∧
    (regionOf pc.toNat = .reserved → fetchCause pc.toNat = some 0x06) ∧
    (regionOf pc.toNat ≠ .reserved → pc &&& 3 ≠ 0 → fetchCause pc.toNat = some 0x05) ∧
    (regionOf pc.toNat ≠ .reserved → regionOf pc.toNat ≠ .ordinary → pc &&& 3 = 0 → fetchCause pc.toNat = some 0x06) ∧
    (sl.mode = .user → policyOf sl = 0 → sl.passed ≠ some i.pc → sl.await = .none → i.aOver = none → i.aBad = false →
      after (illegalBundle core slot i) s =
        putSlot s core slot ((noted sl i.pc 0x02).doneAt (i.pc + BitVec.ofNat 64 i.size)))

/-- Every fault is contained as its task's policy says, with IGNORE's values, for each kind of bundle fault: of a C word, of an A word, and
of a fetch (R29 to R34, R297, R300, R302, R303). -/
def Obligations.FaultsAreContained : Prop := EveryFault ∧ IgnoredValues ∧ CWordFaults ∧ AWordFaults ∧ FetchFaults

end

/-! ## Control registers -/

namespace Sys2Proof.Certificates
open Sys2Proof Sys2Proof.Machine

/-- RDC reads every user control register of Table 6.8 in either mode, WHO as Table 6.9 lays it out, and zero for a number that names no
register; TASKINFO reads the task's words of Table 9.6 (R130 to R132, R155, R202). -/
def UserRegisterReads : Prop :=
  ∀ (s : State) (core slot : Nat) (iss : Issue) (o : Option AOut), Issues s core slot iss o → ∀ (d : Fin 32),
    let sl := slotAt s core slot
    let c := coreAt s core
    let gets := fun (i : Instr) (v : Word) => exec i s = .next (ended s core slot o (gWrite sl d v) iss.after)
    (∀ x ∈ ([(0x000, word c.cycle),
        (0x001, word (sl.ctx % 65536 * 2 ^ 32 + partOf c slot * 2 ^ 16 + slot % 16 * 2 ^ 12 + core % 4096)),
        (0x002, sl.task.task), (0x003, sl.ctl.fctl), (0x004, sl.ctl.rseed), (0x005, sl.ctl.fmtact),
        (0x008, sl.ctl.fd.get 0), (0x009, sl.ctl.fd.get 1), (0x00A, sl.ctl.fd.get 2), (0x00B, sl.ctl.fd.get 3),
        (0x010, sl.ctl.lhvec), (0x011, sl.ctl.ulink), (0x012, sl.ctl.ucause), (0x013, sl.ctl.uivec), (0x014, sl.ctl.xfrid),
        (0x015, sl.ctl.uipend), (0x016, sl.ctl.uimaskv), (0x018, sl.ctl.waitlim), (0x028, sl.ctl.aeeps),
        (0x029, sl.ctl.aemaxr)] : List (Nat × Word)), gets (.rdc d (BitVec.ofNat 14 x.1)) x.2) ∧
    (∀ r, residentOf c sl.ctx = some r → gets (.rdc d 0x020) r.pfthr) ∧
    (∀ n : BitVec 14, n.toNat < 0x2000 → assigned n.toNat = false → gets (.rdc d n) 0) ∧
    gets (.taskinfo d 0) sl.task.faultWord ∧ gets (.taskinfo d 1) sl.task.frame ∧
    gets (.taskinfo d 2) sl.task.entry ∧ gets (.taskinfo d 3) sl.task.fmtBlock ∧
    (∀ n : Fin 32, 4 ≤ n.val → exec (.taskinfo d n) s =
      .next (stepEnd s (raiseC core slot { cause := 0x04, value := iss.word0.zeroExtend 64, write := false })))

/-- WRC writes each user control register of Table 6.8 that is writable, FMTSEL writes FMTACT and UIMASK exchanges UIMASKV; a register
that is read-only or unassigned, and a value with a bit that must be zero or a field out of range, is an illegal-operand fault and
writes nothing (R130, R131, R155, R156, R179, R209). -/
def UserRegisterWrites : Prop :=
  ∀ (s : State) (core slot : Nat) (iss : Issue) (o : Option AOut), Issues s core slot iss o → ∀ (d a : Fin 32),
    let sl := slotAt s core slot
    let v := gRead sl a
    let c := sl.ctl
    let rejects := fun (i : Instr) => exec i s =
      .next (stepEnd s (raiseC core slot { cause := 0x04, value := iss.word0.zeroExtend 64, write := false }))
    let writes := fun (n : BitVec 14) (ok : Prop) (c' : UserCtl) =>
      (ok → exec (.wrc a n) s = .next (ended s core slot o { sl with ctl := c' } iss.after)) ∧ (¬ok → rejects (.wrc a n))
    writes 0x003 (v &&& ~~~0x1F07 = 0 ∧ v.toNat % 8 ≤ 5) { c with fctl := v } ∧
    writes 0x005 (v.toNat < 4) { c with fmtact := v } ∧
    writes 0x010 (v &&& ~~~0x00FFFFFFFFFFFFFC = 0) { c with lhvec := v } ∧
    writes 0x011 (v &&& ~~~0x00FFFFFFFFFFFFFC = 0) { c with ulink := v } ∧
    writes 0x012 True { c with ucause := v } ∧
    writes 0x013 (v &&& ~~~0x00FFFFFFFFFFFFC0 = 0) { c with uivec := v } ∧
    writes 0x014 True { c with xfrid := v } ∧
    writes 0x016 (v.toNat < 256) { c with uimaskv := v } ∧
    writes 0x018 True { c with waitlim := v } ∧
    writes 0x028 (v.toNat < 2 ^ 32) { c with aeeps := v } ∧
    writes 0x029 (v ≠ 0 ∧ v.toNat < 65536) { c with aemaxr := v } ∧
    -- a word that writes RSEED wins over its A word's advance of it
    (v.toNat < 2 ^ 32 → exec (.wrc a 0x004) s = .next (ended s core slot
      (o.map (fun x => { x with eff := { x.eff with rseed := none } }))
      { sl with ctl := { c with rseed := if v = 0 then 1 else v } } iss.after)) ∧
    (2 ^ 32 ≤ v.toNat → rejects (.wrc a 0x004)) ∧
    (v.toNat < 8 → exec (.wrc a 0x020) s = .next (ended
      { s with
        cores := assign s.cores core { coreAt s core with
          residents := (coreAt s core).residents.map (fun r => if r.ctx = sl.ctx then { r with pfthr := v } else r) } }
      core slot o sl iss.after)) ∧
    (8 ≤ v.toNat → rejects (.wrc a 0x020)) ∧
    (∀ n : BitVec 14, n.toNat < 0x2000 →
      (assigned n.toNat = false ∨ n ∈ ([0x000, 0x001, 0x002, 0x008, 0x009, 0x00A, 0x00B, 0x015] : List (BitVec 14))) →
      rejects (.wrc a n)) ∧
    (∀ n : Fin 32, n.val < 4 →
      exec (.fmtsel n) s = .next (ended s core slot o { sl with ctl := { c with fmtact := word n.val } } iss.after)) ∧
    (∀ n : Fin 32, 4 ≤ n.val → rejects (.fmtsel n)) ∧
    (v.toNat < 256 → exec (.uimask d a) s = .next (ended s core slot o
      { gWrite sl d c.uimaskv with ctl := { c with uimaskv := v } } iss.after)) ∧
    (256 ≤ v.toNat → rejects (.uimask d a))

end Sys2Proof.Certificates

section
open Sys2Proof Sys2Proof.Machine Sys2Proof.Certificates

/-- RDC, WRC, TASKINFO, FMTSEL and UIMASK on the user control registers. -/
def Obligations.UserRegisters : Prop := UserRegisterReads ∧ UserRegisterWrites

/-- In S mode RDC and WRC reach the privileged registers of Table 6.10: the slot's trap registers, the partition's TVEC, the context's
registers and its buckets in the flock; what a register's rule rejects is an illegal-operand fault, and SLOTMASK and BANKMASK are
written only by the Gaffer machine level, a privileged-instruction fault (R130, R133, R293 to R295, R332, R336). -/
def Obligations.PrivilegedRegisters : Prop :=
  ∀ (s : State) (core slot : Nat) (iss : Issue) (o : Option AOut), Issues s core slot iss o →
    (slotAt s core slot).mode = .supervisor → ∀ (d a : Fin 32),
    let sl := slotAt s core slot
    let v := gRead sl a
    let c := coreAt s core
    let x := ctxAt s sl.ctx
    let b := bucketOf (flockAt s (flockOf core)) sl.ctx (core % 8)
    let rejects := fun (n : BitVec 14) (cause : Nat) => exec (.wrc a n) s =
      .next (stepEnd s (raiseC core slot { cause := cause, value := iss.word0.zeroExtend 64, write := false }))
    let traps := fun (n : BitVec 14) (ok : Prop) (r : TrapRegs) =>
      (ok → exec (.wrc a n) s = .next (ended s core slot o { sl with trap := r } iss.after)) ∧ (¬ok → rejects n 0x04)
    let ctxs := fun (n : BitVec 14) (ok : Prop) (r : Ctx) =>
      (ok → exec (.wrc a n) s =
        .next (ended { s with ctxs := assign s.ctxs sl.ctx r } core slot o sl iss.after)) ∧ (¬ok → rejects n 0x04)
    let buckets := fun (n : BitVec 14) (ok : Prop) (f : Bucket → Bucket) =>
      (ok → ∃ t, exec (.wrc a n) s = .next (ended t core slot o sl iss.after) ∧ t.cores = s.cores ∧ t.mem = s.mem ∧
        t.slots = s.slots ∧ (∀ k, k < 8 → bucketOf (flockAt t (flockOf core)) sl.ctx k =
          f (bucketOf (flockAt s (flockOf core)) sl.ctx k)) ∧
        (∀ j k, j ≠ sl.ctx → bucketOf (flockAt t (flockOf core)) j k = bucketOf (flockAt s (flockOf core)) j k)) ∧
      (¬ok → rejects n 0x04)
    (∀ y ∈ ([(0x2000, tvecOf c slot), (0x2001, sl.trap.tcause), (0x2002, sl.trap.tval), (0x2003, sl.trap.tpc),
        (0x2004, sl.trap.tstate), (0x2010, c.slotmask), (0x2011, c.bankmask), (0x2020, b.waymask.zeroExtend 64),
        (0x2021, word (((flockAt s (flockOf core)).l2.filter (fun l => l.owner == sl.ctx)).length * 65536 +
          ((flockAt s (flockOf core)).l2.filter (fun l => l.owner == sl.ctx && l.slice == core % 8)).length)),
        (0x2030, word b.rate), (0x2031, word ((b.count % 65536).toNat * 65536 + b.depth)), (0x2032, word (b.spec * 65536 + b.spDepth * 256 + b.spRate)),
        (0x2040, x.ptbase), (0x2041, x.gptbase), (0x2042, x.poolbase), (0x2050, x.sessModel), (0x2051, x.sessDigest.get 0),
        (0x2052, x.sessDigest.get 1), (0x2053, x.sessDigest.get 2), (0x2054, x.sessDigest.get 3), (0x2055, x.sessTenant),
        (0x2060, x.kvtable), (0x2061, x.escbase), (0x2062, x.mcbase)] : List (Nat × Word)),
      exec (.rdc d (BitVec.ofNat 14 y.1)) s = .next (ended s core slot o (gWrite sl d y.2) iss.after)) ∧
    (∀ n : BitVec 14, 0x2000 ≤ n.toNat → assigned n.toNat = false →
      exec (.rdc d n) s = .next (ended s core slot o (gWrite sl d 0) iss.after) ∧ rejects n 0x04) ∧
    traps 0x2001 (v &&& ~~~0xC0FF = 0) { sl.trap with tcause := v } ∧
    traps 0x2002 True { sl.trap with tval := v } ∧
    traps 0x2003 (v &&& ~~~0x00FFFFFFFFFFFFFC = 0) { sl.trap with tpc := v } ∧
    (let ok := v.toNat < 256 ∧ v.toNat / 2 % 4 ≠ 3 ∧ (v.toNat / 16 = 0 ∨ v.toNat / 16 = sl.trap.tstate.toNat / 16 % 16)
     (ok → exec (.wrc a 0x2004) s = .next (ended s core slot o { sl with
        trap := { sl.trap with tstate := v }
        susp := if v.toNat / 16 = 0 then .none else sl.susp } iss.after)) ∧ (¬ok → rejects 0x2004 0x04)) ∧
    ctxs 0x2040 (v &&& ~~~0x00FFFFFFFFFFF000 = 0) { x with ptbase := v } ∧
    ctxs 0x2041 (v &&& ~~~0x00FFFFFFFFFFF000 = 0) { x with gptbase := v } ∧
    ctxs 0x2042 (v &&& ~~~0x00FFFFFFFFFFFFC0 = 0) { x with poolbase := v } ∧
    ctxs 0x2050 True { x with sessModel := v } ∧ ctxs 0x2055 True { x with sessTenant := v } ∧
    ctxs 0x2051 True { x with sessDigest := x.sessDigest.set 0 v } ∧
    ctxs 0x2052 True { x with sessDigest := x.sessDigest.set 1 v } ∧
    ctxs 0x2053 True { x with sessDigest := x.sessDigest.set 2 v } ∧
    ctxs 0x2054 True { x with sessDigest := x.sessDigest.set 3 v } ∧
    ctxs 0x2060 (v &&& ~~~0x00FFFFFFFFFFFFC0 = 0) { x with kvtable := v } ∧
    ctxs 0x2061 (v.toNat % 0x200000 = 0 ∧ (v = 0 ∨ 0x400000 ≤ v.toNat)) { x with escbase := v } ∧
    ctxs 0x2062 (v &&& ~~~0x00FFFFFFFFFFC000 = 0) { x with mcbase := v } ∧
    buckets 0x2020 (v.toNat < 65536) (fun b => { b with waymask := v.truncate 16 }) ∧
    buckets 0x2030 (v.toNat < 256) (fun b => { b with rate := v.toNat }) ∧
    buckets 0x2031 (v &&& ~~~0xFFFF00FF = 0) (fun b => { b with
      depth := v.toNat % 256
      count := max (-((v.toNat % 256 / 2 : Nat) : Int)) (min b.count (v.toNat % 256 : Nat)) }) ∧
    buckets 0x2032 (v.toNat < 2 ^ 32) (fun b => { b with
      spRate := v.toNat % 256, spDepth := v.toNat / 256 % 256, spec := min b.spec (v.toNat / 256 % 256) }) ∧
    (v &&& ~~~0x00FFFFFFFFFFFFFC = 0 → ∃ t, exec (.wrc a 0x2000) s = .next (ended t core slot o sl iss.after) ∧
      tvecOf (coreAt t core) slot = v ∧ t.slots = s.slots ∧ t.mem = s.mem ∧
      ∀ k, partOf c k ≠ partOf c slot → tvecOf (coreAt t core) k = tvecOf c k) ∧
    rejects 0x2010 0x03 ∧ rejects 0x2011 0x03 ∧ rejects 0x2021 0x04

end

/-! ## Memory words and memory traffic -/

namespace Sys2Proof.Certificates
open Sys2Proof Sys2Proof.Machine

/-- A load of pieces that waits for its bytes; `acq` is the scope at which it acquires, and `begun` the counter when it began. -/
def loading (addr : Word) (ps : List Piece) (d : Dest) (acq : Option Nat) (begun : Nat) : Wait :=
  .load { addr := addr, pieces := ps, got := [], bad := false, dest := d, acq := acq, met := [], begun := begun, queued := false }

/-- A bundle that waits for a table walk and is then issued again; one of the die's walks works for it, if there is room (R345). -/
def walking (s : State) (core slot : Nat) (va : Nat) (k : Access) (report : Word) : State :=
  withSlot s core slot { slotAt s core slot with
    wait := .walk (word va) k report (walkRoom s (dieOf core) (slotAt s core slot).ctx (word va).toNat 64), stall := none
    passed := if (slotAt s core slot).muted then (slotAt s core slot).issue.map (fun iss => iss.pc) else none }

/-- Core `n` lies in the span of a partition of a core (R314): the core itself; else, on a die that is in use, what Calben has set up, or
where it has named no span, a core on which the context is resident in that partition. Which cores these are is the model's (log entry 9). -/
def SpanHas (s : State) (core part ctx n : Nat) : Prop :=
  n = core ∨ (dieRepairable s.pkg.repairMap (dieOf n) = true ∧
    match s.pkg.spans.find? (fun x => x.1 == part && x.2.contains core) with
    | some x => n ∈ x.2
    | none => ∃ r, residentOf (coreAt s n) ctx = some r ∧ r.part = part)

/-- What reading one piece of a load gives (R20, R88, R91, R181): on an ordinary page the newest bytes of the slot's own buffer; else, where
no link reaches, poison; else, after the thread's earlier stores to device pages if the piece is on one, what the thread's die has
stored last and, beyond that, what the order of writes lets the thread read; `f` says the bytes and the writes that they come from. -/
def PieceReads (s : State) (core slot : Nat) (p : Piece) (f : Found) (bad : Bool) : Prop :=
  let sl := slotAt s core slot
  let key := keyOf p.tgt
  (onDevice p.tgt = false ∧ coverOf sl.sb key p.size = .all ∧ bad = false ∧ f.froms = [] ∧ f.ways = [] ∧
    f.bytes.length = p.size ∧ ∀ k, k < p.size → bufferedByte sl.sb (key + k) = f.bytes[k]?) ∨
  ((onDevice p.tgt = true ∨ coverOf sl.sb key p.size = .none) ∧
    ((unreachable s p.tgt = true ∧ f = { bytes := List.replicate p.size 0, froms := [], ways := [] } ∧ bad = true) ∨
     (unreachable s p.tgt = false ∧ deviceClear s core sl p.tgt = true ∧ routeOf s sl.ctx p.tgt = .bank ∧
      readTarget s (slotReader s core slot) core sl.ctx p.tgt p.size 0 = some f ∧
      bad = poisonedIn s key p.size)))

/-- A state after a read by a slot's thread: what the thread knows of the order of writes, and when an expert slice was last read, may
have changed, and nothing else. -/
structure ReadBy (s t : State) (core slot : Nat) : Prop where
  rest   : { t with order := s.order, ctxs := s.ctxs, tick := s.tick } = s
  writes : t.order.writes = s.order.writes ∧ t.order.count = s.order.count
  others : ∀ p, p ≠ slotParty s core slot → knowsOf t p = knowsOf s p
  slices : ∀ c, { ctxAt t c with slices := (ctxAt s c).slices } = ctxAt s c

/-- What loads and stores come to before their own effect: a reserved scope is illegal, a failed check is the fault it names, with the
address, and an address with no translation waits for a walk (R85, R180, R183, R345). -/
def ChecksFirst (s : State) (core slot : Nat) (iss : Issue) (i : Instr) (scope : Option (Fin 16)) (addr : Word) (k : Access)
    (r : TRes) : Prop :=
  ((∃ c, scope = some c ∧ 12 ≤ c.val) → exec i s = .next (stepEnd s (raiseC core slot
    { cause := 0x04, value := iss.word0.zeroExtend 64, write := false }))) ∧
  ((∀ c, scope = some c → c.val < 12) →
    (∀ cause, r = .fault cause → exec i s = .next (stepEnd s (raiseC core slot
      { cause := cause, value := addr, write := decide (k ≠ .read) }))) ∧
    (∀ va, r = .miss va → exec i s = .next (walking s core slot va k addr)))

end Sys2Proof.Certificates

section
open Sys2Proof Sys2Proof.Machine Sys2Proof.Certificates

/-- The address map and the checks of an access before translation, in their order (R70, R73 to R75, R83, Table 9.1): reserved addresses
and the regions an execute slot may not use are address faults (0x06), then alignment (0x05), then each region's own rule; an
ordinary address goes through the translation that its core, flock or die holds, and with no tables is not present (0x07). Which cores an
access through the global aperture finds inside the span is log entry 9. -/
def Obligations.AddressChecks : Prop :=
  ∀ (s : State) (core slot : Nat) (addr : Word) (size : Nat) (k : Access),
    let sl := slotAt s core slot
    let va := addr.toNat
    let r := checkAddr s core slot addr size k
    let part := partOf (coreAt s core) slot
    let pad := fun (owner off : Nat) =>
      if bankPart (coreAt s owner) (off / 0x4000) = part then TRes.ok (.pad owner off) else .fault 0x08
    let reserved := (0x00E0800000000000 ≤ va ∧ va < 0x00F0000000000000) ∨ 0x00F0000090000000 ≤ va
    let barred := sl.pair = .execute ∧ (va < 0x60000 ∨ (0x00F0000000000000 ≤ va ∧ va < 0x00F0000090000000))
    (reserved → r = .fault 0x06) ∧
    (barred → r = .fault 0x06) ∧
    (¬reserved → ¬barred → va % size ≠ 0 → r = .fault 0x05) ∧
    (¬reserved → ¬barred → va % size = 0 →
      (va < 0x40000 → r = pad core va) ∧
      (0x40000 ≤ va → va < 0x60000 →
        let buf := (va - 0x40000) / 0x4000
        let p := (coreAt s core).parison.toList.getD buf Parison.reset
        (k ≠ .read → r = .fault 0x08) ∧
        (k = .read → p.state = .free ∨ p.ctx ≠ sl.ctx → r = .fault 0x06) ∧
        (k = .read → p.ctx = sl.ctx → p.state = .predicted ∨ p.state = .unpredicted ∨ p.state = .void → r = .fault 0x09) ∧
        (k = .read → p.ctx = sl.ctx → p.state = .landed → r = .ok (.parison core buf ((va - 0x40000) % 0x4000)))) ∧
      (0x00E0000000000000 ≤ va → va < 0x00E0800000000000 →
        let base := (ctxAt s sl.ctx).escbase
        let a := base.toNat + (va - 0x00E0000000000000)
        (k ≠ .read ∨ base = 0 → r = .fault 0x08) ∧
        -- past the translated space a backing address is no address, a choice of the model's (log entry 86)
        (k = .read → base ≠ 0 → 0x00E0000000000000 ≤ a → r = .fault 0x06) ∧
        (k = .read → base ≠ 0 → a < 0x00E0000000000000 → r = translate s core sl.ctx sl.mode a .read)) ∧
      (0x00F0000000000000 ≤ va → va < 0x00F0000090000000 →
        let n := (va - 0x00F0000000000000) / 0x100000
        let off := va % 0x100000
        (0x40000 ≤ off → r = .fault 0x06) ∧
        -- log entry 9
        let inside := SpanHas s core part sl.ctx n
        (off < 0x40000 → ¬inside → r = .fault 0x08) ∧
        (off < 0x40000 → inside → r = pad n off)) ∧
      (0x60000 ≤ va → va < 0x00E0000000000000 →
        ((ctxAt s sl.ctx).ptbase = 0 → r = .fault 0x07) ∧
        ((ctxAt s sl.ctx).ptbase ≠ 0 → tlbFind s core sl.ctx va = none → r = .miss va) ∧
        (∀ t, (ctxAt s sl.ctx).ptbase ≠ 0 → tlbFind s core sl.ctx va = some t →
          (permits t sl.mode k = false → r = .fault 0x08) ∧
          (∀ c, refusal s t sl.mode k va = some c → r = .fault c) ∧
          (refusal s t sl.mode k va = none →
            r = if t.aSeen = true ∧ ((k = .write ∨ k = .update ∨ ∃ pcie, k = .atomic pcie) → t.dSeen = true)
              then .ok (.phys (t.pa + va % t.size) t.dev) else .miss va))))

/-- LD8 to LD64 and LDV (R182, R183, R185): the load waits for its bytes, with no register and no memory changed. -/
def Sys2Proof.Certificates.LoadWords : Prop :=
  ∀ (s : State) (core slot : Nat) (iss : Issue) (o : Option AOut), Issues s core slot iss o →
    ∀ (t b : Fin 32) (off : BitVec 8) (c : Fin 16) (k : Fin 4) (v : Fin 64) (off5 : BitVec 5) (h : Fin 4) (w : Fin 16),
    let sl := slotAt s core slot
    (∀ x ∈ ([(.ld8 t b off c k, 1, true), (.ld8U t b off c k, 1, false), (.ld16 t b off c k, 2, true),
        (.ld16U t b off c k, 2, false), (.ld32 t b off c k, 4, true), (.ld32U t b off c k, 4, false),
        (.ld64 t b off c k, 8, true)] : List (Instr × Nat × Bool)),
      let addr := gRead sl b + off.signExtend 64 * BitVec.ofNat 64 x.2.1
      let r := checkAddr s core slot addr x.2.1 .read
      ChecksFirst s core slot iss x.1 (if k = 0 then none else some c) addr .read r ∧
      (∀ tgt, (k = 0 ∨ c.val < 12) → r = .ok tgt →
        (coverOf sl.sb (keyOf tgt) x.2.1 = .part →
          exec x.1 s = .next (retrying s core slot (.drained tgt x.2.1) none)) ∧
        (coverOf sl.sb (keyOf tgt) x.2.1 ≠ .part → ∃ u, exec x.1 s = .next u ∧ ButForFlocks u
          (waiting s core slot o sl (loading addr [{ tgt := tgt, size := x.2.1 }] (.g t x.2.1 x.2.2)
            (if k = 0 then none else some c.val) s.tick))))) ∧
    (let addr := gRead sl b + off5.signExtend 64 * 16
     (inGrid v (rows h) (cols w) = false → exec (.ldv v b off5 h w k) s = .next (stepEnd s (raiseC core slot
      { cause := 0x04, value := iss.word0.zeroExtend 64, write := false }))) ∧
     (∀ ts : List Target, inGrid v (rows h) (cols w) = true → ts.length = rows h * cols w →
      (∀ n (hn : n < ts.length), checkAddr s core slot (addr + BitVec.ofNat 64 (16 * n)) 16 .read = .ok ts[n]) →
      let ps := ts.flatMap (fun t => [{ tgt := t, size := 8 }, { tgt := targetPlus t 8, size := 8 : Piece }])
      (∀ p ∈ ps, coverOf sl.sb (keyOf p.tgt) 8 ≠ .part) →
      ∃ u, exec (.ldv v b off5 h w k) s = .next u ∧
        ButForFlocks u (waiting s core slot o sl (loading addr ps (.block v (rows h) (cols w))
          (if k = 0 then none else some 5) s.tick))))

/-- LOAD_DATA_RETURN (R20, R88, R90, R93, R181 to R183, R185, R189). A load reads its pieces one at a time, each at a moment of its own;
with its last it ends: LD8 to LD64 write d sign- or zero-extended, LDV one register for each sixteen bytes; poison in any byte is a
data-poison fault (0x0A) and nothing is written; an ordered load acquires at its scope what the writes it read from release. An
atomic's old value is written to d. The bundle ends, and nothing else changes. -/
def Sys2Proof.Certificates.LoadDataReturns : Prop :=
  ∀ (s : State) (core slot : Nat) (iss : Issue) (o : Option AOut), Waits s core slot iss o → coreUp s core = true → slot < 16 →
    let sl := slotAt s core slot
    let event := exec (.loadDataReturn core slot) s
    let ends := fun (u : State) (v : Slot) => event = .next (closed u core slot o v iss.after)
    (∀ (l : LoadReq) (p : Piece) (rest : List Piece) (f : Found) (bad : Bool),
      sl.wait = .load l → l.queued = false → portClear s core slot = true → l.pieces = p :: rest →
      PieceReads s core slot p f bad →
      let got := l.got ++ f.bytes
      let met := l.met ++ f.froms.flatMap (fun w => w.heads)
      ∃ u, ReadBy s u core slot ∧
        (rest ≠ [] → event = .next (putSlot u core slot { sl with
          wait := .load { l with pieces := rest, got := got, bad := l.bad || bad, met := met, queued := false } })) ∧
        (rest = [] → (l.bad || bad) = true →
          event = .next (after (raiseC core slot { cause := 0x0A, value := l.addr, write := false }) u)) ∧
        (rest = [] → (l.bad || bad) = false →
          let z := match l.acq with
            | none => u
            | some 0 => u
            | some c => after (acquire core slot c (peerFor s p.tgt) met) u
          (∀ d size, l.dest = .g d size false → ends z (gWrite sl d (BitVec.ofNat 64 (leNat got)))) ∧
          (∀ d size, l.dest = .g d size true → 0 < size →
            ends z (gWrite sl d ((BitVec.ofNat (8 * size) (leNat got)).signExtend 64))) ∧
          (∀ v h w, l.dest = .block v h w → inGrid v h w = true → got.length = 16 * (h * w) → ∃ x, ends z x ∧
            { x with regs := { x.regs with b := sl.regs.b } } = sl ∧
            (∀ r, r ∉ blockRegs v h w → bRead x r = bRead sl r) ∧
            ∀ i, i < h → ∀ j, j < w → bRead x (gridReg (v.val / 16 + i) (v.val % 16 + j)) =
              BitVec.ofNat 128 (leNat ((got.drop (16 * (i * w + j))).take 16))))) ∧
    (∀ d v, sl.wait = .answered (some (d, v)) → ends s (gWrite sl d v)) ∧
    (sl.wait = .answered none → ends s sl)

/-- Who sees whose writes. A read gives the newest write to each byte, or an older one, but it never misses a write of its own party, one of
its own die (R89), one that happens before it (R95), one that the party has read at that byte (R88), or one that a FULL fence has shown it
(R98); `was` of a write is what it replaced, and of what its die and its own party have on their way it reads the newest. A release
carries every write of its thread and all that happens before it; an acquire at a scope makes what a release has carried happen before
what follows, where each lies in the scope of the other, and nothing else does (R93, R94); a REL fence makes each later write of its
thread release at its scope, and a FULL one shows its thread's writes to the parties of its scope (R98); a read-modify-write goes on with every release sequence of the write it follows, a plain write with
its own thread's alone (R97). [log entry 58] -/
def Sys2Proof.Certificates.OrderOfWrites : Prop :=
  (∀ (s : State) (r : Reader) (key choice : Nat) (now : List Byte),
    let all := writesTo s key now.length
    let x := readAt s r key now choice
    ∃ miss : List PastWrite, miss.Sublist all ∧ x.1 = miss.foldl (fun bs w => before w key bs) now ∧
      x.2 = readFrom s miss key now.length ∧
      -- at each byte the newest are missed, as far as any are
      (∀ b, key ≤ b → b < key + now.length → ∃ n, miss.filter (fun w => w.covers b) = (all.filter (fun w => w.covers b)).take n) ∧
      ∀ w ∈ miss, w.by_.party ≠ r.party ∧ (r.die = none ∨ w.by_.die ≠ r.die) ∧ Clock.at r.clock w.by_.party < w.by_.n ∧
        r.since < w.stamp ∧ shownTo s r w = false ∧
        ∀ b, key ≤ b → b < key + now.length → w.covers b = true → lookup 0 r.reads b < w.stamp) ∧
  (∀ (s : State) (r : Reader) (die key choice k : Nat) (now : List Byte) (q : Flight), k < now.length →
    flightOf s r die (key + k) = some q → let x := lookAt s r die key now choice
    x.bytes[k]? = q.byteAt (key + k) ∧ q.by_ ∈ x.ways) ∧
  (∀ (s : State) (core slot key n : Nat) (ws : List PastWrite), let t := after (sawWrites core slot key n ws) s
    let k := knowsOf s (slotParty s core slot)
    let k' := knowsOf t (slotParty s core slot)
    (∀ b, lookup 0 k.reads b ≤ lookup 0 k'.reads b) ∧
      (∀ w ∈ ws, (∀ h ∈ w.heads, h ∈ k'.met) ∧
        (∀ b, key ≤ b → b < key + n → w.covers b = true → w.stamp ≤ lookup 0 k'.reads b) ∧
        (w.by_.die = some (dieOf core) → ∀ p, Clock.at w.by_.clock p ≤ Clock.at k'.clock p)) ∧
      ((∀ w ∈ ws, w.by_.die ≠ some (dieOf core)) → k'.clock = k.clock)) ∧
  (∀ (s : State) (core slot scope : Nat) (peer : Option Nat) (heads : List Head) (party : Nat),
    let at_ := fun (u : State) => Clock.at (knowsOf u (slotParty s core slot)).clock party
    let t := after (acquire core slot scope peer heads) s
    at_ s ≤ at_ t ∧ (∀ h ∈ heads, syncs s scope peer core slot h = true → Clock.at h.clock party ≤ at_ t) ∧
      (at_ t ≠ at_ s → ∃ h ∈ heads, syncs s scope peer core slot h = true ∧ (party, at_ t) ∈ h.clock)) ∧
  (∀ (s : State) (core slot scope : Nat) (clock : Clock) (rmw : Bool) (h : Head), let w := slotWriter s core slot clock (some scope) rmw
    let k := knowsOf s (slotParty s core slot)
    w.party = slotParty s core slot ∧ w.n = k.wrote + 1 ∧ w.n ≤ Clock.at w.clock w.party ∧
      (∀ p, Clock.at clock p ≤ Clock.at w.clock p) ∧
      { scope := scope, place := .slot core slot, party := w.party, clock := w.clock } ∈ w.heads ∧ (h ∈ k.fences → h ∈ w.heads)) ∧
  (∀ (s : State) (core slot scope : Nat) (r : Reader) (x : Place) (w : PastWrite), r.place = some x →
    placeIn s scope none core slot x = true → w.by_.party = slotParty s core slot →
    w.by_.n ≤ (knowsOf s (slotParty s core slot)).wrote → shownTo (after (showWrites core slot scope) s) r w = true) ∧
  (∀ (s : State) (w : Writer) (key : Nat) (was : List Byte) (h : Head) (p : PastWrite), let t := after (noteWrite w key was) s
    ∃ q, t.order.writes = q :: s.order.writes ∧ q.stamp = s.order.count + 1 ∧ q.key = key ∧ q.was = was ∧ q.by_ = w ∧
      (h ∈ w.heads → h ∈ q.heads) ∧
      (s.order.writes.find? (fun x => overlaps x.key x.was.length key was.length) = some p → h ∈ p.heads →
        (w.rmw = true ∨ h.party = w.party → h ∈ q.heads) ∧ (h ∈ q.heads → h ∈ w.heads ∨ w.rmw = true ∨ h.party = w.party)))

/-- ST8 to ST64 and STV (R20, R182 to R185): the bytes of the register enter the slot's buffer, oldest first, and the bundle ends; a full
buffer makes a store wait to be issued again, and an STV wait with the registers that have no room yet. Memory does not change. -/
def Sys2Proof.Certificates.StoreWords : Prop :=
  ∀ (s : State) (core slot : Nat) (iss : Issue) (o : Option AOut), Issues s core slot iss o →
    ∀ (t b : Fin 32) (off : BitVec 8) (c : Fin 16) (k : Fin 4) (v : Fin 64) (off5 : BitVec 5) (h : Fin 4) (w : Fin 16),
    let sl := slotAt s core slot
    (∀ x ∈ ([(.st8 t b off c k, 1), (.st16 t b off c k, 2), (.st32 t b off c k, 4), (.st64 t b off c k, 8)] :
        List (Instr × Nat)),
      let addr := gRead sl b + off.signExtend 64 * BitVec.ofNat 64 x.2
      let r := checkAddr s core slot addr x.2 .write
      ChecksFirst s core slot iss x.1 (if k = 0 then none else some c) addr .write r ∧
      (∀ tgt, (k = 0 ∨ c.val < 12) → r = .ok tgt →
        (8 ≤ sl.sb.length → exec x.1 s = .next (retrying s core slot .storeRoom none)) ∧
        (sl.sb.length < 8 → exec x.1 s = .next (ended s core slot o { sl with
          sb := sl.sb ++ [.store tgt ((List.range x.2).map (fun n => (gRead sl t).extractLsb' (8 * n) 8))
            (if k = 0 then none else some c.val) (threadClock s core slot)]
          sbIn := sl.sbIn + 1 } iss.after)))) ∧
    (let addr := gRead sl b + off5.signExtend 64 * 16
     (inGrid v (rows h) (cols w) = false → exec (.stv v b off5 h w k) s = .next (stepEnd s (raiseC core slot
      { cause := 0x04, value := iss.word0.zeroExtend 64, write := false }))) ∧
     (∀ ts : List Target, inGrid v (rows h) (cols w) = true → ts.length = rows h * cols w →
      (∀ n (hn : n < ts.length), checkAddr s core slot (addr + BitVec.ofNat 64 (16 * n)) 16 .write = .ok ts[n]) →
      ∃ es : List StoreEntry, es.length = ts.length ∧
        (∀ n (hn : n < ts.length), es[n]? = some (.store ts[n]
          ((List.range 16).map (fun m =>
            (bRead sl (gridReg (v.val / 16 + n / cols w) (v.val % 16 + n % cols w))).extractLsb' (8 * m) 8))
          (if n = 0 ∧ k ≠ 0 then some 5 else none) (threadClock s core slot))) ∧
        -- the rest of an STV that a switch has put aside half done
        let left := match sl.stv with
          | some (pc, n) => if pc = iss.pc then es.drop (es.length - n) else es
          | none => es
        let room := 8 - sl.sb.length
        let into := { sl with sb := sl.sb ++ left.take room, sbIn := sl.sbIn + (left.take room).length, stv := none }
        (left.length ≤ room → exec (.stv v b off5 h w k) s = .next (ended s core slot o into iss.after)) ∧
        (room < left.length → exec (.stv v b off5 h w k) s =
          .next (waiting s core slot o into (.storing (left.drop room))))))

/-- STORE_BUFFER_DRAIN and HOME_REQUEST_ARRIVAL (R20, R89, R90, R105, R184, R190, R206, R373). The oldest store leaves its slot's buffer, if
what it releases is visible: into the core's own bank at once, else as a request to its home, which performs it there; exactly the
stored bytes change. A register of an STV leaves as two halves, the low half first. A REL fence leaves with nothing stored; a waiting
STV's next register enters. A write that no link can carry is dropped with a record. -/
def Sys2Proof.Certificates.StoresReachMemory : Prop :=
  (∀ (s : State) (core slot : Nat), coreUp s core = true → slot < 16 → s.Canonical →
    let sl := slotAt s core slot
    let event := exec (.storeBufferDrain core slot) s
    let gone := { sl with sb := sl.sb.tail, sbOut := sl.sbOut + 1 }
    -- what is left once the first eight bytes of a store have gone
    let left := fun (tgt : Target) (bs : List Byte) (c : List (Nat × Nat)) =>
      if bs.length ≤ 8 then gone else { sl with sb := .store (targetPlus tgt 8) (bs.drop 8) none c :: sl.sb.tail }
    (∀ e ∈ sl.sb.head?, (∀ l, sl.wait ≠ .storing l) →
      (∀ sc c, e = .fence sc c → releasable s core sc = true →
        event = .next (putSlot (after (fenceRelease core slot sc c) s) core slot gone)) ∧
      (∀ off bs rel c, e = .store (.pad core off) bs rel c → releasable s core (rel.getD 0) = true →
        padRoute (coreAt s core) sl.ctx off = .bank →
        let key := keyOf (.pad core off)
        let half := bs.take 8
        dieBusy s (dieOf core) (locOf sl.ctx (.pad core off)) half.length = false →
        ∃ t, event = .next t ∧ Stored s t key half ∧ slotAt t core slot = left (.pad core off) bs c ∧ SameSlots s t core slot ∧
          Watched s t (fun _ => true) key half.length ∧ t.poison = s.poison ∧ t.reqs = s.reqs ∧ t.msgs = s.msgs ∧
          t.order.count = s.order.count + 1) ∧
      (∀ tgt bs rel c, e = .store tgt bs rel c → (∀ off, tgt ≠ .pad core off) → releasable s core (rel.getD 0) = true →
        let key := keyOf tgt
        let half := bs.take 8
        let f := flockAt s (flockOf core)
        let slice := sliceOfLine (key / 128)
        insideFlock s core sl.ctx tgt = true ∨ portTurn f slice sl.ctx (decide (1 ≤ (bucketOf f sl.ctx slice).count)) = true →
        ∃ t, event = .next t ∧ SameMemory s t ∧ slotAt t core slot = left tgt bs c ∧ SameSlots s t core slot ∧
          Watched s t (fun c => dieOf c == dieOf core) key half.length ∧ t.msgs = s.msgs ∧ t.order.writes = s.order.writes ∧
          t.reqs = s.reqs ++ [{ id := s.tick, core := core, ctx := sl.ctx, home := homeOf tgt, kind := .write, tgt := tgt,
                                bytes := cellsAt (locOf sl.ctx tgt) half, who := whoOf s core slot
                                by_ := slotWriter s core slot c rel false }])) ∧
    (∀ sc c e more, sl.sb.head? = some (.fence sc c) → releasable s core sc = true → sl.sb.length = 8 →
      sl.wait = .storing (e :: more) → more ≠ [] →
      let v := { gone with sb := sl.sb.tail ++ [e], sbIn := sl.sbIn + 1, wait := .storing more }
      event = .next (putSlot (after (fenceRelease core slot sc c) s) core slot v))) ∧
  (∀ (s : State) (r : Req), s.Canonical → s.reqs.find? (fun q => q.id == r.id) = some r → r.kind = .write →
    running s = true → mayArrive s r = true →
    let event := exec (.homeRequestArrival r.id) s
    (unreachable s r.tgt = true → event = .next { s with
      reqs := s.reqs.filter (fun q => q.id != r.id)
      records := s.records ++ [{ cause := 0x0A, flags := 16, wait := 0, handle := 0, value := word (keyOf r.tgt), pc := 0,
                                 who := r.who }] }) ∧
    (unreachable s r.tgt = false → (∀ pa dev, r.tgt = .phys pa dev → mailboxOffset pa = none) →
      routeOf s r.ctx r.tgt = .bank →
      ∃ t, event = .next t ∧ Stored s t (keyOf r.tgt) (r.bytes.map Prod.snd) ∧ t.slots = s.slots ∧ t.poison = s.poison ∧
        t.reqs = s.reqs.filter (fun q => q.id != r.id) ∧ t.msgs = s.msgs ∧ t.records = s.records ∧
        Watched s t (fun c => dieOf c != dieOf r.core) (keyOf r.tgt) r.bytes.length) ∧
    (∀ core off pa, r.tgt = .pad core off → routeOf s r.ctx r.tgt = .lehr pa →
      ∃ t, event = .next t ∧ SameMemory s t ∧ t.slots = s.slots ∧ t.reqs = s.reqs.filter (fun q => q.id != r.id) ∧
        (coreAt t core).lehrQ = (coreAt s core).lehrQ ++
          [.write (cellsAt pa (r.bytes.map Prod.snd)) (some (locOf r.ctx r.tgt, r.by_))]))

/-- Loads: at issue, when their data returns, and which writes they may read. -/
def Obligations.Loads : Prop := LoadWords ∧ LoadDataReturns ∧ OrderOfWrites

/-- Stores: at issue, and when they leave the buffer and arrive. -/
def Obligations.Stores : Prop := StoreWords ∧ StoresReachMemory

end

/-! ## Atomics, fences, ports, walks and fetches -/

namespace Sys2Proof.Certificates
open Sys2Proof Sys2Proof.Machine

/-- The new word of an atomic of Table 9.2 but AADDF, from the old one and the operand, each of `n` bits; none for no write. -/
def newWord {n : Nat} (op : AtomicOp) (old b : BitVec n) : Option (BitVec n) :=
  match op with
  | .add => some (old + b)
  | .min => some (if b.slt old then b else old)
  | .max => some (if old.slt b then b else old)
  | .minu => some (if b.ult old then b else old)
  | .maxu => some (if old.ult b then b else old)
  | .and_ => some (old &&& b)
  | .or_ => some (old ||| b)
  | .xor_ => some (old ^^^ b)
  | .swap => some b
  | .cas expected => if old = expected.setWidth n then some b else none
  | _ => none

/-- No parent of a heap is better than its child (R254). -/
def HeapOrder (h : List HeapEntry) : Prop :=
  ∀ n, 0 < n → n < h.length → better (h.getD ((n - 1) / 2) (0, 0)) (h.getD n (0, 0)) = false

/-- Two states agree but for what a flock holds and for the translations that cores, flocks and dies hold. -/
def ButForCaches (t u : State) : Prop :=
  { t with flocks := u.flocks, diesT := u.diesT, cores := u.cores } = u ∧
  ∀ c, { coreAt t c with tlb := [] } = { coreAt u c with tlb := [] }

/-- A way out of the flock is open to an access of a context (R333, R334). -/
def WayOut (s : State) (core ctx : Nat) (t : Target) : Prop :=
  let f := flockAt s (flockOf core)
  let slice := sliceOfLine (keyOf t / 128)
  insideFlock s core ctx t = true ∨ portTurn f slice ctx (decide (1 ≤ (bucketOf f ctx slice).count)) = true

/-- The entries of a heap's bytes: score and index, little-endian. -/
def entriesOf (k : Nat) (bs : List Byte) : List HeapEntry :=
  (List.range k).map (fun n => (leNat ((bs.drop (8 * n)).take 4), leNat ((bs.drop (8 * n + 4)).take 4)))

end Sys2Proof.Certificates

section
open Sys2Proof Sys2Proof.Machine Sys2Proof.Certificates

/-- The twelve atomics and HSIFT are checked, then wait to be performed: no register and no memory changes at issue (R187, R189, R253,
R255). HSIFT's checks come in the order of R253. -/
def Sys2Proof.Certificates.AtomicWords : Prop :=
  ∀ (s : State) (core slot : Nat) (iss : Issue) (o : Option AOut), Issues s core slot iss o →
    ∀ (d b v : Fin 32) (c : Fin 16) (k : Fin 4) (w : Bool) (n : Fin 16),
    let sl := slotAt s core slot
    let size := if w then 8 else 4
    (∀ x ∈ ([(.aadd d b v c k w, .add, true), (.aaddf d b v c k w, .addf, false), (.amin d b v c k w, .min, false),
        (.amax d b v c k w, .max, false), (.aminu d b v c k w, .minu, false), (.amaxu d b v c k w, .maxu, false),
        (.aand d b v c k w, .and_, false), (.aor d b v c k w, .or_, false), (.axor d b v c k w, .xor_, false),
        (.aswp d b v c k w, .swap, true), (.acas d b v c k w, .cas (gRead sl d), true)] : List (Instr × AtomicOp × Bool)),
      let addr := gRead sl b
      let r := checkAtomic s core slot addr size x.2.2
      ChecksFirst s core slot iss x.1 (some c) addr (.atomic x.2.2) r ∧
      (∀ tgt, c.val < 12 → r = .ok tgt → ∃ u, exec x.1 s = .next u ∧ ButForFlocks u (waiting s core slot o sl (.atomic
        { addr := addr, tgt := tgt, size := size, op := x.2.1, operand := gRead sl v, d := d,
          signed := decide (w = false ∧ (x.2.1 = .min ∨ x.2.1 = .max)), scope := c.val,
          acq := decide (k = 1 ∨ k = 3), rel := decide (k = 2 ∨ k = 3), queued := false })))) ∧
    (let addr := gRead sl d
     let a := addr.toNat
     let m := n.val + 1
     let fails := fun (cause : Nat) => exec (.hsift d b v n) s =
      .next (stepEnd s (raiseC core slot { cause := cause, value := addr, write := true }))
     let owns := fun (off : Nat) => bankPart (coreAt s core) (off / 0x4000) = partOf (coreAt s core) slot
     (sl.pair = .execute → fails 0x06) ∧
     (sl.pair ≠ .execute → a % 8 ≠ 0 → fails 0x05) ∧
     (sl.pair ≠ .execute → a % 8 = 0 → 0x40000 < a + 8 * m → fails 0x06) ∧
     (sl.pair ≠ .execute → a % 8 = 0 → a + 8 * m ≤ 0x40000 → ¬(owns a ∧ owns (a + 8 * m - 1)) → fails 0x08) ∧
     (sl.pair ≠ .execute → a % 8 = 0 → a + 8 * m ≤ 0x40000 → owns a → owns (a + 8 * m - 1) →
      ∃ u, exec (.hsift d b v n) s = .next u ∧ ButForFlocks u (waiting s core slot o sl (.atomic
        { addr := addr, tgt := .pad core a, size := 8 * m,
          op := .sift m ((gRead sl b).setWidth 32) ((gRead sl v).setWidth 32), operand := 0, d := 0, signed := false,
          scope := 0, acq := false, rel := false, queued := false }))))

/-- ATOMIC_PERFORM: one step at the home of the word. With the slot's buffer empty, its reads gone out, its core's route to the home clear,
and what a release covers visible, the word becomes Table 9.2's function of itself and the operand, and the old word is on its way to
d; a BAR arrival counts or completes the barrier (R203); HSIFT's heap becomes what R254 says, and only the entries of its path count
as written; with nothing that the host must see before it on its way (R110); a poisoned byte, or a home no link reaches, is a data-poison fault with nothing written (R82, R181, R187 to R189, R203,
R254, R255, R373). Every byte outside the word is as before. An acquire takes what the newest write of each byte releases, and a release
goes with the write (R93, R94). -/
def Sys2Proof.Certificates.AtomicsPerform : Prop :=
  ∀ (s : State) (core slot : Nat) (iss : Issue) (o : Option AOut) (a : AtomicReq), Waits s core slot iss o → coreUp s core = true →
    slot < 16 → s.Canonical →
    let sl := slotAt s core slot
    let key := keyOf a.tgt
    let loc := locOf sl.ctx a.tgt
    let me := slotParty s core slot
    let event := exec (.atomicPerform core slot) s
    let old := memNat s key a.size
    sl.wait = .atomic a → a.queued = false → sl.sb = [] → portClear s core slot = true →
    (a.rel = true → releasable s core a.scope = true) → dieBusy s (dieOf core) loc a.size = false → routeClear s core a.tgt = true →
    s.reqs.any (fun q => q.beforeHost me a.tgt) = false →
    (unreachable s a.tgt = true → event = .next (after (raiseC core slot { cause := 0x0A, value := a.addr, write := false }) s)) ∧
    (unreachable s a.tgt = false → (∀ n, n < a.size → routeOf s sl.ctx (targetPlus a.tgt n) = .bank) →
      (poisonedIn s key a.size = true →
        event = .next (after (raiseC core slot { cause := 0x0A, value := a.addr, write := false }) s)) ∧
      (poisonedIn s key a.size = false →
        let keeps := fun (t : State) (v : Slot) => slotAt t core slot = v ∧ SameSlots s t core slot ∧ t.poison = s.poison ∧
          t.reqs = s.reqs ∧ t.msgs = s.msgs ∧ t.flocks = s.flocks ∧ t.jobs = s.jobs ∧ t.pkg = s.pkg ∧
          (a.acq = true → a.scope ≠ 0 → ∀ b, loc ≤ b → b < loc + a.size →
            ∀ w ∈ (writesTo s loc a.size).find? (fun w => w.covers b), ∀ h ∈ w.heads,
            syncs s a.scope (peerFor s a.tgt) core slot h = true →
            ∀ p, Clock.at h.clock p ≤ Clock.at (knowsOf t me).clock p)
        let leaves := fun (new : List Byte) (v : Slot) => ∃ t, event = .next t ∧ keeps t v ∧ Stored s t key new ∧
          Watched s t (fun _ => true) key a.size ∧
          ∃ q, t.order.writes = q :: s.order.writes ∧ q.key = loc ∧ q.by_.party = me ∧ q.by_.rmw = true ∧
            (a.rel = true → a.scope ≠ 0 → ∃ h ∈ q.heads, h.scope = a.scope ∧ h.place = .slot core slot ∧
              ∀ p, Clock.at (knowsOf s me).clock p ≤ Clock.at h.clock p)
        let returns := { sl with wait := .answered (some (a.d,
          if a.signed then (BitVec.ofNat (8 * a.size) old).signExtend 64 else BitVec.ofNat 64 old)) }
        (0 < a.size → ∀ new,
          newWord a.op (BitVec.ofNat (8 * a.size) old) (a.operand.setWidth (8 * a.size)) = some new →
          leaves ((List.range a.size).map (fun n => new.extractLsb' (8 * n) 8)) returns) ∧
        (∀ expected, 0 < a.size → a.op = .cas expected →
          BitVec.ofNat (8 * a.size) old ≠ expected.setWidth (8 * a.size) →
          ∃ t, event = .next t ∧ keeps t returns ∧ t.mem = s.mem ∧ t.cores = s.cores ∧ t.order.writes = s.order.writes) ∧
        (a.op = .addf → let f := if a.size = 8 then Elem.fp64 else .fp32
          let sum := (addPre core 0 (floatVal f old) (floatVal f (a.operand.toNat % 2 ^ (8 * a.size)))).finish f false 0 0
          a.size = 4 ∨ a.size = 8 → leaves (leBytes a.size sum.bits) returns) ∧
        (∀ count, a.op = .arrive count → a.size = 8 →
          (count ≤ old % 2 ^ 32 + 1 →
            leaves (leBytes 8 ((old / 2 ^ 32 + 1) % 2 ^ 32 * 2 ^ 32)) { sl with wait := .answered none }) ∧
          (old % 2 ^ 32 + 1 < count → ∃ x, leaves (leBytes 8 ((old + 1) % 2 ^ 64))
            { sl with wait := .bar a.addr (BitVec.ofNat 64 (old / 2 ^ 32)) a.scope, stall := some x })) ∧
        (∀ k sc ix, a.op = .sift k sc ix → 0 < k → a.size = 8 * k →
          let h := entriesOf k (memBytes s key (8 * k))
          let new := (sc.toNat, ix.toNat)
          let path := if better new (h.getD 0 (0, 0)) then siftPath k new k h 0 else []
          ∃ t, event = .next t ∧ keeps t { sl with wait := .answered none } ∧
            Stored s t key (siftBytes k sc.toNat ix.toNat (memBytes s key (8 * k))) ∧
            ∀ c, coreAt t c = { coreAt s c with
              watches := path.foldl (fun ws i => ws.map (watchTouched (key + 8 * i) 8)) (coreAt s c).watches })))

/-- HSIFT keeps the best of what it is shown: a candidate that is not better than the root changes nothing; a better one takes the root's
place, and every other entry stays; a heap stays a heap, and what was dropped is better than nothing that was kept (R254). -/
def Obligations.HsiftKeepsTheBest : Prop :=
  ∀ (k : Nat) (bs : List Byte) (score index : W32), 0 < k → bs.length = 8 * k →
    let h := entriesOf k bs
    let new := (score.toNat, index.toNat)
    let root := h.getD 0 (0, 0)
    let out := siftBytes k score.toNat index.toNat bs
    let r := entriesOf k out
    out.length = 8 * k ∧
    (better new root = false → out = bs) ∧
    (better new root = true → List.Perm r (new :: h.tail)) ∧
    (HeapOrder h → HeapOrder r ∧ ∀ x ∈ r, better (if better new root then root else new) x = false)

/-- FENCE and PREF (R98, R186, R190). A fence of THREAD scope only ends its bundle; REL enters the buffer, or waits for room; ACQ and FULL
wait, FULL until the buffer is empty and what comes before is visible. PREF ends its bundle whatever its address, and faults only
where R186 says. Slice ports let one request out for a token, and buckets refill (R332 to R334). -/
def Obligations.FencesPrefetchAndPorts : Prop :=
  (∀ (s : State) (core slot : Nat) (iss : Issue) (o : Option AOut), Issues s core slot iss o →
    ∀ (c : Fin 16) (l : Fin 4) (b : Fin 32) (off : BitVec 8),
    let sl := slotAt s core slot
    let fails := fun (i : Instr) (cause : Nat) (value : Word) => exec i s =
      .next (stepEnd s (raiseC core slot { cause := cause, value := value, write := false }))
    (∀ k, 12 ≤ c.val → fails (.fence k c) 0x04 (iss.word0.zeroExtend 64)) ∧
    (∀ k, exec (.fence k 0) s = .next (ended s core slot o sl iss.after)) ∧
    (0 < c.val → c.val < 12 →
      exec (.fence 0 c) s = .next (waiting s core slot o sl (.fenceFull c.val)) ∧
      exec (.fence 1 c) s = .next (waiting s core slot o sl (.fenceAcq c.val)) ∧
      (8 ≤ sl.sb.length → exec (.fence 2 c) s = .next (retrying s core slot .storeRoom none)) ∧
      (sl.sb.length < 8 → exec (.fence 2 c) s = .next (ended s core slot o
        { sl with sb := sl.sb ++ [.fence c.val (releaseClock s core slot)], sbIn := sl.sbIn + 1 } iss.after))) ∧
    (let addr := gRead sl b + off.signExtend 64 * 64
     let va := addr.toNat
     let p := (coreAt s core).parison.toList.getD ((va - 0x40000) / 0x4000) Parison.reset
     let faults : Option Nat :=
      if regionOf va = .reserved then some 0x06
      else if sl.pair = .execute ∧ regionOf va ∈ [.pad, .parison, .aperture] then some 0x06
      else if regionOf va = .parison ∧ (p.state = .free ∨ p.ctx ≠ sl.ctx) then some 0x06
      else if regionOf va = .parison ∧ p.state ∈ [.predicted, .unpredicted, .void] then some 0x09
      else none
     (∀ cause, faults = some cause → fails (.pref l b off) cause addr) ∧
     (faults = none → ∃ u, exec (.pref l b off) s = .next u ∧ ButForCaches u (ended s core slot o sl iss.after) ∧
      -- one for the LLC is brought into no L2
      (2 ≤ l.val → ∀ f, (flockAt u f).l2 = (flockAt s f).l2)))) ∧
  (∀ (s : State) (core slot : Nat) (iss : Issue) (o : Option AOut), Waits s core slot iss o → coreUp s core = true → slot < 16 →
    let sl := slotAt s core slot
    let event := exec (.fenceComplete core slot) s
    (∀ c, sl.wait = .fenceFull c → (sl.sb = [] ∧ releasable s core c = true →
        event = .next (closed (after (if 5 < c then showWrites core slot c else skip)
          (after (ask (fun u => fenceRelease core slot c (threadClock u core slot)))
          (after (acquireMet core slot c) s))) core slot o sl iss.after)) ∧
      (sl.sb ≠ [] ∨ releasable s core c = false → event = .next s)) ∧
    (∀ c, sl.wait = .fenceAcq c →
      event = .next (closed (after (acquireMet core slot c) s) core slot o sl iss.after))) ∧
  (∀ (s : State) (flock : Nat) (slice : Fin 8), flockUp s flock = true →
    let f := flockAt s flock
    let last := f.portLast.get slice
    let tokens := fun (q : PortReq) => (bucketOf f q.ctx slice.val).count
    let here := f.portQ.filter (fun q => q.slice == slice.val)
    let may := fun (q : PortReq) => q ∈ here ∧
      (if ∃ x ∈ here, 1 ≤ tokens x then 1 ≤ tokens q else canPay f q.ctx slice.val = true)
    ((∃ q, may q) → ∃ t r, exec (.slicePortGrant flock slice.val) s = .next t ∧ may r ∧ ButForFlocks t s ∧
      (∀ q, may q → last < q.ctx → last < r.ctx ∧ r.ctx ≤ q.ctx) ∧ (∀ q, may q → r.ctx ≤ last → r.ctx ≤ q.ctx) ∧
      (here.filter (fun q => q.ctx == r.ctx)).head? = some r ∧
      let g := flockAt t flock
      (∃ backs, g.portQ = f.portQ.erase r ++ backs ∧
        -- a dirty line that the fill replaces is written back
        ∀ x ∈ backs, r.fill = true ∧ x.fill = false ∧ ∃ l ∈ f.l2, l.dirty = true ∧ l.line = x.line ∧ l.owner = x.ctx) ∧
      (bucketOf g r.ctx slice.val).count = tokens r - 1 ∧ g.portLast.get slice = r.ctx) ∧
    ((¬∃ q, may q) → exec (.slicePortGrant flock slice.val) s = .next s)) ∧
  (∀ (s : State) (flock : Nat), flockUp s flock = true → ∃ t, exec (.tokenBucketRefill flock) s = .next t ∧
    ButForFlocks t s ∧ (flockAt t flock).buckets = (flockAt s flock).buckets.map (fun b => { b with
      count := min (b.count + b.rate) b.depth, spec := min (b.spec + b.spRate) b.spDepth }))

/-- PAGE_WALK_COMPLETE and IFETCH_FILL (R79, R149, R338, R339, R341, R344, R345, R347, R348). A walk that ends in a translation sets A, and
D for a write, in the entries that keep them, A in those of the second stage through which it has read a guest's tables, and D where it
writes a guest's entry through one; only where they were not seen set, and in nothing else; and the core, its flock and its die hold it,
at the head of what they hold (log entry 87); one of which such an entry has changed at its home is walked again; a walk that fails is the fault it names, and one for
which the die has no walker waits. A fetch that has its translation and its way out brings the unit's two words, no older than what the
thread sees or a thread of its context had seen on the core at an IFENCE (log entry 72), and the slot is ready; one that fails is a
fault at the pc, and a poisoned word is data poison (log entry 45). -/
def Sys2Proof.Certificates.WalksAndFetchesEnd : Prop :=
  ∀ (s : State) (core slot : Nat), coreUp s core = true → slot < 16 → s.Canonical →
    let sl := slotAt s core slot
    let die := dieOf core
    let ready := { sl with wait := .none }
    (∀ va k report going, sl.wait = .walk va k report going →
      let event := exec (.pageWalkComplete core slot) s
      let walk := walkTables s (slotWalker s core slot) va.toNat
      let dirty := decide (k ≠ .read ∧ k ≠ .fetch)
      let lacks := fun (e : Pte) (d : Bool) => e.bits.testBit 5 = false ∨ (d = true ∧ e.bits.testBit 6 = false)
      -- the entries that a walk marks, each with whether D is set in it too
      let due := fun (w : Walked) (e : Pte) (d : Bool) => lacks e d ∧ ((e ∈ w.marks ∧ d = dirty) ∨ (e ∈ w.through ∧ d = false) ∨
        (e ∈ w.under ∧ d = true ∧ ∃ m ∈ w.marks.head?, lacks m dirty))
      let stale := fun (e : Pte) => (e.bits % 2 = 1 ∧ memNat s e.addr 8 % 2 = 0) ∨
        memNat s e.addr 8 / 2 ^ 12 % 2 ^ 40 ≠ e.bits / 2 ^ 12 % 2 ^ 40
      let works := going = true ∨ walkRoom s die sl.ctx va.toNat 64 = true
      (¬works → event = .next s) ∧
      (∀ tgt, works → translate s core sl.ctx sl.mode va.toNat k = .ok tgt → event = .next (putSlot s core slot ready)) ∧
      (works → (∀ tgt, translate s core sl.ctx sl.mode va.toNat k ≠ .ok tgt) →
        (∀ w, walk = .ok w → refusal s w.entry sl.mode k va.toNat = none →
          ((∃ e d, due w e d ∧ stale e) →
            event = .next (putSlot s core slot { sl with wait := .walk va k report true })) ∧
          ((∀ e d, due w e d → ¬stale e) →
            let held := { w.entry with aSeen := true, dSeen := dirty || w.marks.all (fun e => e.bits.testBit 6) }
            ∃ t, event = .next t ∧ slotAt t core slot = ready ∧ SameSlots s t core slot ∧
              (coreAt t core).tlb.head? = some held ∧ (flockAt t (flockOf core)).tlb.head? = some held ∧
              (dieAt t die).tlb.head? = some held ∧
              (∀ x ∈ (dieAt t die).tlb.tail, x ∈ (dieAt s die).tlb ∧
                ¬(x.ctx = w.entry.ctx ∧ x.va < w.entry.va + w.entry.size ∧ w.entry.va < x.va + x.size)) ∧
              (coreAt t core).tlb.length ≤ 64 ∧ (flockAt t (flockOf core)).tlb.length ≤ 2048 ∧
              (dieAt t die).tlb.length ≤ 16384 ∧
              ∀ a, ((∃ e, due w e true ∧ e.addr = a) → memRead t.mem a = memRead s.mem a ||| 0x60) ∧
                ((∀ e, due w e true → e.addr ≠ a) → (∃ e, due w e false ∧ e.addr = a) →
                  memRead t.mem a = memRead s.mem a ||| 0x20) ∧
                ((∀ e d, due w e d → e.addr ≠ a) → memRead t.mem a = memRead s.mem a))) ∧
        (walk = .error 0 → event = .next (putSlot s core slot { sl with wait := .walk va k report true })) ∧
        (∀ c, c ≠ 0 → walk = .error c ∨ (∃ w, walk = .ok w ∧ refusal s w.entry sl.mode k va.toNat = some c) →
          sl.fmtPending = false →
          (k ≠ .fetch → event = .next (after (raiseC core slot { cause := c, value := report, write := dirty }) s)) ∧
          (k = .fetch → event = .next (after (raiseAt core slot sl.regs.pc
            { cause := c, value := sl.regs.pc, write := false } (killSelf core slot)) s))))) ∧
    (sl.wait = .fetch → (ctxAt s sl.ctx).ptbase ≠ 0 →
      let va := sl.regs.pc.toNat / 8 * 8
      let event := exec (.ifetchFill core slot) s
      (∀ t, tlbFind s core sl.ctx va = some t → refusal s t sl.mode .fetch va = none → t.aSeen = true →
        let pa := t.pa + va % t.size
        let tgt := Target.phys pa t.dev
        let bs := viewBytes s (codeReader s core slot) die pa 8 0
        (poisonedIn s pa 8 = false → unreachable s tgt = false → WayOut s core sl.ctx tgt →
          ∃ u, event = .next u ∧ slotAt u core slot = ready ∧ SameSlots s u core slot ∧ SameMemory s u ∧
            (coreAt u core).code.length ≤ 4096 ∧
            ∃ c, (coreAt u core).code.head? = some c ∧ c.ctx = sl.ctx ∧ c.va = va ∧
              c.word0 = BitVec.ofNat 32 (leNat (bs.take 4)) ∧ c.word1 = BitVec.ofNat 32 (leNat (bs.drop 4)) ∧
              (c.user = true ↔ refusal s t .user .fetch va = none)) ∧
        (poisonedIn s pa 8 = true ∨ unreachable s tgt = true → event = .next (after (raiseAt core slot sl.regs.pc
          { cause := 0x0A, value := sl.regs.pc, write := false } (killSelf core slot)) s))) ∧
      (tlbFind s core sl.ctx va = none →
        let v := { sl with wait := .walk (word va) .fetch sl.regs.pc (walkRoom s die sl.ctx (word va).toNat 64) }
        event = .next (putSlot s core slot v)))

/-- A walk through tables of one stage (R338, R339, R341, R345, R347): an entry that the die holds is used as it is held, and another is read
by the accessing party, after its own buffered stores to it; an entry with V clear is not present (0x07), a malformed entry is a
permission fault (0x08), one in a poisoned line is data poison (0x0A), a pointer leads to the next table, indexed by the address's
next nine bits, and a leaf ends the walk. A root of zero has no tables. -/
def Sys2Proof.Certificates.TableWalk : Prop :=
  (∀ (s : State) (w : Walker) (second : Bool) (rd : Nat → Except Nat Pte) (va : Nat), walkRoot s w second rd 0 va = .error 0x07) ∧
  (∀ (s : State) (w : Walker) (second : Bool) (va step a : Nat) (u : UpperEntry) (rd : Nat → Except Nat Pte),
    let mine := fun (x : UpperEntry) => x.ctx = w.ctx ∧ x.second = second ∧ x.step = step ∧ x.index = va / 2 ^ (48 - 9 * step)
    ((dieAt s w.die).upper.find? (fun x => decide (mine x)) = some u →
      stepEntry s w second va rd step a = .ok { addr := u.addr, bits := u.bits }) ∧
    ((∀ x ∈ (dieAt s w.die).upper, ¬mine x) → stepEntry s w second va rd step a = rd a)) ∧
  (∀ (s : State) (w : Walker) (va step fuel table : Nat) (path : List (Nat × Pte)) (e : Pte),
    let at_ := table + 8 * (if step = 0 then va / 2 ^ 48 % 256 else va / 2 ^ (48 - 9 * step) % 512)
    let rd := fun (_ : Nat) => readPte s w
    let walk := walkFrom rd va (fuel + 1) step table path
    e = { addr := at_, bits := leNat (viewBytes s w.reader w.die at_ 8 at_) } →
    let bit := fun (k : Nat) => e.bits / 2 ^ k % 2 = 1
    let frame := e.bits / 2 ^ 12 % 2 ^ 40 * 2 ^ 12
    (0x00C000000000 ≤ at_ → walk = .error 0x08) ∧
    (at_ < 0x00C000000000 → poisonedIn s at_ 8 = true → walk = .error 0x0A) ∧
    (at_ < 0x00C000000000 → poisonedIn s at_ 8 = false → w.sb.any (fun x => x.touches at_ 8) = true → walk = .error 0) ∧
    (at_ < 0x00C000000000 → poisonedIn s at_ 8 = false → w.sb.any (fun x => x.touches at_ 8) = false →
      (¬bit 0 → walk = .error 0x07) ∧
      (bit 0 → e.malformed step = true → walk = .error 0x08) ∧
      (bit 0 → e.malformed step = false → ¬bit 1 → ¬bit 2 → ¬bit 3 →
        walk = walkFrom rd va fuel (step + 1) frame (path ++ [(step, e)])) ∧
      (bit 0 → e.malformed step = false → bit 1 ∨ bit 2 ∨ bit 3 → walk = .ok { step := step, pte := e, path := path })) ∧
    (bit 0 → (∃ k, 61 ≤ k ∧ k < 64 ∧ bit k) → e.malformed step = true) ∧
    (bit 0 → step < 4 → bit 1 ∨ bit 2 ∨ bit 3 → step < 2 ∨ frame % 2 ^ (48 - 9 * step) ≠ 0 → e.malformed step = true) ∧
    (bit 0 → bit 2 → ¬bit 1 → e.malformed step = true))

/-- Atomics and HSIFT: at issue, and when they are performed. -/
def Obligations.Atomics : Prop := AtomicWords ∧ AtomicsPerform

/-- Table walks and instruction fetches. -/
def Obligations.WalksAndFetches : Prop := WalksAndFetchesEnd ∧ TableWalk

end

/-! ## Channels -/

namespace Sys2Proof.Certificates
open Sys2Proof Sys2Proof.Machine

/-- A state with one port of a core replaced. -/
def withPort (s : State) (core : Nat) (port : Fin 32) (p : Port) : State :=
  { s with cores := assign s.cores core { coreAt s core with ports := (coreAt s core).ports.set port.val p port.isLt } }

/-- A message more on its way, under an id of its own. -/
def withMsg (s : State) (m : Msg) : State := { s with msgs := s.msgs ++ [{ m with id := s.tick }], tick := s.tick + 1 }

/-- The count toward a stall report of a wait with this code: one already begun goes on (R305). -/
def counted (s : State) (core slot code : Nat) : Stall :=
  let new : Stall := { code := code, start := (coreAt s core).cycle, limit := (slotAt s core slot).ctl.waitlim.toNat,
                       posted := false }
  match (slotAt s core slot).stall with
  | some x => if x.code = code then x else new
  | none => new

/-- A receiver has granted `k` more, and a live channel carries the grant to its sender (R37). -/
def granting (s : State) (core : Nat) (port : Fin 32) (p : Port) (k : Nat) : State :=
  if k = 0 then withPort s core port p
  else
    let t := withPort s core port { p with granted := p.granted + k }
    if live s core port.val then withMsg t
      { id := 0, fromCore := core, fromPort := port.val, core := coreOfName p.far, port := portOfName p.far,
        ctx := (p.owner.map (fun o => o.ctx)).getD 0, slot := 0, mark := 0, kind := .grant k }
    else t

/-- A queue's head taken by a slot, with the grant that auto-grant makes for it; the thread acquires what the word's send released
(R41, R108). -/
def taking (s : State) (core slot : Nat) (port : Fin 32) : State :=
  let p := portAt s core port.val
  after (acquireClock core slot ((p.queue.head?.map (fun w => w.clock)).getD []))
    (granting s core port { p with queue := p.queue.tail }
      (if p.auto then min 16 (16 - p.granted - p.queue.tail.length) else 0))

end Sys2Proof.Certificates

section
open Sys2Proof Sys2Proof.Machine Sys2Proof.Certificates

/-- SEND, SENDC and SENDT (R36 to R38, R41, R194). With allowance, one is used and the word leaves for the far end, after the stores before
it, tagged if by SENDC; SENDT writes its predicate. Without, SEND and SENDC wait and are counted, and SENDT writes false. An endpoint
not bound for sending is an unbound-endpoint fault (0x0B). -/
def Sys2Proof.Certificates.SendWords : Prop :=
  ∀ (s : State) (core slot : Nat) (iss : Issue) (o : Option AOut), Issues s core slot iss o →
    ∀ (a : Fin 32) (p q : Fin 8),
    let sl := slotAt s core slot
    let v := gRead sl a
    let unbound := fun (i : Instr) => exec i s =
      .next (stepEnd s (raiseC core slot { cause := 0x0B, value := BitVec.ofNat 64 q.val, write := false }))
    ((sl.q.get q = none ∨ ∃ n, sl.q.get q = some n ∧ (portAt s core n).recv = true) →
      unbound (.send a q) ∧ unbound (.sendc a q) ∧ unbound (.sendt p a q)) ∧
    (∀ n : Fin 32, sl.q.get q = some n.val → (portAt s core n.val).recv = false →
      let pt := portAt s core n.val
      let sent := fun (data : Word) (ctl : Bool) => withMsg (withPort s core n { pt with allow := pt.allow - 1 })
        { id := 0, fromCore := core, fromPort := n.val, core := coreOfName pt.far, port := portOfName pt.far, ctx := sl.ctx,
          slot := slot, mark := sl.sbIn, kind := .word { data := data, ctl := ctl, poison := false, clock := releaseClock s core slot } }
      (pt.allow = 0 →
        exec (.send a q) s = .next (retrying s core slot (.allowance n.val) (some (counted s core slot 1))) ∧
        exec (.sendc a q) s = .next (retrying s core slot (.allowance n.val) (some (counted s core slot 1))) ∧
        exec (.sendt p a q) s = .next (ended s core slot o (pWrite sl p false) iss.after)) ∧
      (0 < pt.allow →
        exec (.send a q) s = .next (ended (sent v false) core slot o sl iss.after) ∧
        exec (.sendc a q) s = .next (ended (sent (v &&& 0x00FFFFFFFFFFFFFF) true) core slot o sl iss.after) ∧
        exec (.sendt p a q) s = .next (ended (sent v false) core slot o (pWrite sl p true) iss.after)))

/-- RECV and RECVT (R37, R39, R181, R195). A data word at the head is taken and written to d, and auto-grant grants for it; an empty queue
makes RECV wait and be counted, and RECVT write false. A control word at the head is taken into the light handler at LHVEC, with the
bundle's address in ULINK, or is an illegal-operand fault where no light handler can be entered. A poisoned word, of either kind, is a data-poison
fault, whose value the spec does not give (log entry 5). An endpoint not bound for receiving is an unbound-endpoint fault. -/
def Sys2Proof.Certificates.ReceiveWords : Prop :=
  ∀ (s : State) (core slot : Nat) (iss : Issue) (o : Option AOut), Issues s core slot iss o →
    ∀ (d : Fin 32) (p q : Fin 8),
    let sl := slotAt s core slot
    let unbound := fun (i : Instr) => exec i s =
      .next (stepEnd s (raiseC core slot { cause := 0x0B, value := BitVec.ofNat 64 q.val, write := false }))
    ((sl.q.get q = none ∨ ∃ n, sl.q.get q = some n ∧ (portAt s core n).recv = false) →
      unbound (.recv d q) ∧ unbound (.recvt d p q)) ∧
    (∀ n : Fin 32, sl.q.get q = some n.val → (portAt s core n.val).recv = true →
      let pt := portAt s core n.val
      (pt.queue = [] →
        exec (.recv d q) s = .next (retrying s core slot (.received n.val) (some (counted s core slot 2))) ∧
        exec (.recvt d p q) s = .next (ended s core slot o (pWrite sl p false) iss.after)) ∧
      (∀ w rest, pt.queue = w :: rest → pt.stream = none →
        (w.ctl = false → w.poison = false →
          exec (.recv d q) s = .next (ended (taking s core slot n) core slot o (gWrite sl d w.data) iss.after) ∧
          exec (.recvt d p q) s =
            .next (ended (taking s core slot n) core slot o (pWrite (gWrite sl d w.data) p true) iss.after)) ∧
        (∀ i ∈ [Instr.recv d q, .recvt d p q],
          (w.ctl = true → w.poison = false → sl.handler = .none → sl.ctl.lhvec ≠ 0 → sl.mode = .user →
            exec i s = .next (withSlot (taking s core slot n) core slot { sl with
              issue := none, wait := .none, stall := none, passed := none, handler := .light
              ctl := { sl.ctl with
                ulink := iss.pc
                ucause := BitVec.ofNat 64 (w.data.toNat % 2 ^ 56 * 256 + n.val * 8 + q.val) }
              regs := { sl.regs with pc := sl.ctl.lhvec } })) ∧
          (w.ctl = true → w.poison = false → sl.handler ≠ .none ∨ sl.ctl.lhvec = 0 ∨ sl.mode = .supervisor →
            exec i s = .next (stepEnd s (raiseC core slot
              { cause := 0x04, value := iss.word0.zeroExtend 64, write := false }))) ∧
          (w.poison = true → exec i s = .next (stepEnd { s with tick := s.tick + 1 }
            (raiseC core slot { cause := 0x0A, value := Config.freeWord s.tick, write := false }))))))

/-- ALT, CHGRANT and CHSTAT (R37, R40, R191, R196 to R198). ALT writes the index of the first ready endpoint of its mask after the one it
chose last, or waits and is counted; CHGRANT grants at most what keeps granted and queued words within sixteen; CHSTAT writes Table
9.5. -/
def Sys2Proof.Certificates.ChannelStateWords : Prop :=
  ∀ (s : State) (core slot : Nat) (iss : Issue) (o : Option AOut), Issues s core slot iss o →
    ∀ (d a : Fin 32) (q : Fin 8),
    let sl := slotAt s core slot
    let mask := gRead sl a
    let fails := fun (i : Instr) (cause : Nat) (value : Word) => exec i s =
      .next (stepEnd s (raiseC core slot { cause := cause, value := value, write := false }))
    let ready := fun (k : Fin 8) => mask.getLsbD k.val = true ∧ ∃ n, sl.q.get k = some n ∧
      (if (portAt s core n).recv then (portAt s core n).queue ≠ [] else 0 < (portAt s core n).allow)
    let turn := fun (k : Fin 8) => (k.val + 7 - sl.altLast.val) % 8
    (mask = 0 ∨ 256 ≤ mask.toNat → fails (.alt d a) 0x04 (iss.word0.zeroExtend 64)) ∧
    (mask ≠ 0 → mask.toNat < 256 →
      (∀ k : Fin 8, mask.getLsbD k.val = true → sl.q.get k = none →
        (∀ j : Fin 8, j < k → mask.getLsbD j.val = true → (sl.q.get j).isSome = true) →
        fails (.alt d a) 0x0B (BitVec.ofNat 64 k.val)) ∧
      ((∀ k : Fin 8, mask.getLsbD k.val = true → (sl.q.get k).isSome = true) →
        (∀ k, ready k → (∀ j, ready j → turn k ≤ turn j) → exec (.alt d a) s =
          .next (ended s core slot o { gWrite sl d (BitVec.ofNat 64 k.val) with altLast := k } iss.after)) ∧
        ((∀ k, ¬ready k) → exec (.alt d a) s =
          .next (retrying s core slot (.anyReady (mask.setWidth 8)) (some (counted s core slot 3)))))) ∧
    ((sl.q.get q = none ∨ ∃ n, sl.q.get q = some n ∧ (portAt s core n).recv = false) →
      fails (.chgrant a q) 0x0B (BitVec.ofNat 64 q.val)) ∧
    (∀ n : Fin 32, sl.q.get q = some n.val →
      let pt := portAt s core n.val
      (pt.recv = true → pt.stream = none → exec (.chgrant a q) s = .next (ended
        (granting s core n pt (min mask.toNat (16 - pt.granted - pt.queue.length))) core slot o sl iss.after)) ∧
      (pt.recv = true → pt.stream.isSome = true →
        exec (.chgrant a q) s = .next (ended s core slot o sl iss.after)) ∧
      (exec (.chstat d q) s = .next (ended s core slot o (gWrite sl d (BitVec.ofNat 64 (
        pt.far.toNat * 2 ^ 32 + n.val * 2 ^ 21 + (if sl.pair ≠ .unpaired then 2 ^ 11 else 0) +
        (if live s core n.val then 2 ^ 10 else 0) +
        (if pt.recv = true ∧ (pt.queue.head?.map (fun w => w.ctl)) = some true then 2 ^ 9 else 0) +
        (if pt.auto then 2 ^ 8 else 0) + (if pt.recv then 2 ^ 7 else 0) + 2 ^ 6 +
        (if pt.recv then pt.queue.length else pt.allow)))) iss.after))) ∧
    (sl.q.get q = none → exec (.chstat d q) s = .next (ended s core slot o (gWrite sl d 0) iss.after))

/-- CHBIND and CHUNBIND (R35, R37, R42, R192, R193). A binding that R192 does not refuse takes the port for the endpoint; auto-grant grants
sixteen; the pair form makes the slot and the one eight further on a pair. An unbound endpoint is unbound by doing nothing; a sender,
or a receiver whose channel is not live, is unbound at once; a receiver of a live channel waits for its sender's end, whose
allowance is revoked and whose words on their way are dropped. A far core outside the span is the model's log entry 9; what a receiver
has granted for words that are still on their way is its log entry 26. -/
def Sys2Proof.Certificates.BindingWords : Prop :=
  (∀ (s : State) (core slot : Nat) (iss : Issue) (o : Option AOut), Issues s core slot iss o → slot < 16 →
    ∀ (a f : Fin 32) (q : Fin 8),
    let sl := slotAt s core slot
    let v := gRead sl a
    let port : Fin 32 := Fin.ofNat 32 (v.toNat / 2 ^ 32 % 32)
    let far := v.toNat % 2 ^ 32
    let partner := slotAt s core (slot + 8)
    -- the cores of the span of the context's partition (R314), as the model has it (log entry 9)
    let inside := SpanHas s core (partOf (coreAt s core) slot) sl.ctx
    let refused := (sl.q.get q).isSome = true ∨ (portAt s core port.val).owner.isSome = true ∨ 2 ^ 37 ≤ v.toNat ∨
      2 ^ 17 ≤ far ∨ 8 ≤ f.val ∨ 2304 ≤ far % 4096 ∨ ¬inside (far % 4096) ∨
      (4 ≤ f.val ∧ (8 ≤ slot ∨ partner.occupied = false ∨ partner.wait = .leaving ∨ partner.ctx ≠ sl.ctx))
    (refused → exec (.chbind a f q) s = .next (stepEnd s (raiseC core slot
      { cause := 0x04, value := iss.word0.zeroExtend 64, write := false }))) ∧
    (¬refused → ∃ u, exec (.chbind a f q) s = .next (ended u core slot o { sl with
        q := sl.q.set q.val (some port.val) q.isLt
        pair := if 4 ≤ f.val then .access else sl.pair } iss.after) ∧
      { u with cores := s.cores, slots := s.slots, msgs := s.msgs, tick := s.tick } = s ∧
      portAt u core port.val = { Port.reset with
        owner := some { ctx := sl.ctx, slot := slot, ep := q }
        far := v.setWidth 32
        recv := decide (f.val % 2 = 1)
        auto := decide (f.val % 2 = 1 ∧ f.val / 2 % 2 = 1)
        granted := if f.val % 2 = 1 ∧ f.val / 2 % 2 = 1 then 16 else 0 } ∧
      (∀ n, n ≠ port.val → portAt u core n = portAt s core n) ∧ (∀ c, c ≠ core → coreAt u c = coreAt s c) ∧
      (∀ c k, c * 16 + k ≠ core * 16 + slot → slotAt u c k = if 4 ≤ f.val ∧ c * 16 + k = core * 16 + (slot + 8)
        then { partner with pair := .execute } else slotAt s c k))) ∧
  (∀ (s : State) (core slot : Nat) (iss : Issue) (o : Option AOut), Issues s core slot iss o → ∀ (q : Fin 8),
    let sl := slotAt s core slot
    let free := { sl with q := sl.q.set q.val none q.isLt }
    (sl.q.get q = none → exec (.chunbind q) s = .next (ended s core slot o sl iss.after)) ∧
    (∀ n : Fin 32, sl.q.get q = some n.val →
      (((portAt s core n.val).recv = false ∨ live s core n.val = false) → (portAt s core n.val).stream = none →
        ∃ u, exec (.chunbind q) s = .next (ended u core slot o free iss.after) ∧ portAt u core n.val = Port.reset ∧
          { u with cores := s.cores, slots := s.slots, msgs := s.msgs } = s ∧ SameSlots s u core slot ∧
          u.msgs = s.msgs.filter (fun m => !(if (portAt s core n.val).recv
            then m.isWordFor core n.val || m.isGrantOf core n.val else m.isGrantFor core n.val)) ∧
          let far := portAt s (coreOfName (portAt s core n.val).far) (portOfName (portAt s core n.val).far)
          (live s core n.val = true → far.saved = false →
            portAt u (coreOfName (portAt s core n.val).far) (portOfName (portAt s core n.val).far) =
              { far with granted := wordsTo s (coreOfName (portAt s core n.val).far)
                          (portOfName (portAt s core n.val).far) })) ∧
      ((portAt s core n.val).recv = true → live s core n.val = true →
        exec (.chunbind q) s = .next (waiting s core slot o sl (.unbind q n.val))))) ∧
  (∀ (s : State) (core slot : Nat) (iss : Issue) (o : Option AOut), Waits s core slot iss o → coreUp s core = true → slot < 16 →
    ∀ (q : Fin 8) (n : Fin 32),
    let sl := slotAt s core slot
    let pt := portAt s core n.val
    sl.wait = .unbind q n.val → pt.recv = true → live s core n.val = true →
      ∃ u, exec (.chunbindAck core slot) s =
          .next (closed u core slot o { sl with q := sl.q.set q.val none q.isLt } iss.after) ∧
        { u with cores := s.cores, slots := s.slots, msgs := s.msgs } = s ∧ SameSlots s u core slot ∧
        portAt u core n.val = Port.reset ∧
        ((portAt s (coreOfName pt.far) (portOfName pt.far)).saved = false →
          portAt u (coreOfName pt.far) (portOfName pt.far) =
            { portAt s (coreOfName pt.far) (portOfName pt.far) with allow := 0 }) ∧
        u.msgs = s.msgs.filter (fun m => !(m.isWordFor core n.val || m.isGrantOf core n.val)))

/-- CHANNEL_WORD_ARRIVAL and GRANT_ARRIVAL (R36, R37, R41, R105). A word that may land joins the end of its receiver's queue and uses what
was granted for it; a grant raises its sender's allowance; the message is then gone, and nothing else changes. A message that may
not land yet changes nothing. -/
def Sys2Proof.Certificates.MessagesArrive : Prop :=
  ∀ (s : State) (m : Msg) (port : Fin 32), s.msgs.find? (fun x => x.id == m.id) = some m → m.port = port.val →
    let p := portAt s m.core port.val
    let gone := fun (t : State) => { t with msgs := s.msgs.filter (fun x => x.id != m.id) }
    (∀ w, m.kind = .word w →
      (mayLand s m = true → p.saved = false → exec (.channelWordArrival m.id) s =
        .next (gone (withPort s m.core port { p with queue := p.queue ++ [w], granted := p.granted - 1 }))) ∧
      (mayLand s m = false ∨ p.saved = true → exec (.channelWordArrival m.id) s = .next s)) ∧
    (∀ k, m.kind = .grant k →
      (mayLand s m = true → p.saved = false → exec (.grantArrival m.id) s =
        .next (gone (withPort s m.core port { p with allow := p.allow + k }))) ∧
      (mayLand s m = false ∨ p.saved = true → exec (.grantArrival m.id) s = .next s)) ∧
    (mayLand s m = true → ∀ x ∈ s.msgs.takeWhile (fun x => x.id != m.id),
      x.isWordFor m.core m.port = false ∧ x.isGrantFor m.core m.port = false)

/-- Sends and receives. -/
def Obligations.SendsAndReceives : Prop := SendWords ∧ ReceiveWords

/-- The other channel words, and the arrival of words and grants. Where a far core lies outside the span is log entry 9, and which granted
words a receiver counts is log entry 26. -/
def Obligations.ChannelsBindAndCarry : Prop := ChannelStateWords ∧ BindingWords ∧ MessagesArrive

end

/-! ## Tasks -/

namespace Sys2Proof.Certificates
open Sys2Proof Sys2Proof.Machine

/-- What becomes of a word that reads a structure of `n` bytes whole, where it cannot be read: the access is refused, waits for a walk or
for the slot's own stores, or finds poison (R20, R180, R181). -/
def StructFails (s : State) (core slot : Nat) (i : Instr) (addr : Word) (align n : Nat) : Prop :=
  let r := checkAddr s core slot addr align .read
  let fails := fun (cause : Nat) => exec i s =
    .next (stepEnd s (raiseC core slot { cause := cause, value := addr, write := false }))
  (∀ cause, r = .fault cause → fails cause) ∧
  (∀ va, r = .miss va → exec i s = .next (walking s core slot va .read addr)) ∧
  (∀ t, r = .ok t →
    ((slotAt s core slot).sb.any (fun e => e.touches (keyOf t) n) = true →
      exec i s = .next (retrying s core slot (.drained t n) none)) ∧
    ((slotAt s core slot).sb.any (fun e => e.touches (keyOf t) n) = false →
      badBytes s (slotAt s core slot).ctx t n = true → fails 0x0A))

/-- What R22 says of a packet's words on a core: a reserved domain, bits [63:56] of the control word or a misaligned format block is
illegal; a parison address of the format block or frame is an address fault that names it; else addresses below 256 KiB take their
global form. -/
def PacketChecked (core : Nat) (w : Vector Word 8) (r : Except (Nat × Option Word) (Vector Word 8)) : Prop :=
  let ctl := w.get 7
  let fmt := w.get 6
  let frame := ctl.toNat / 256 % 2 ^ 48 * 256
  let illegal := 5 ≤ ctl.toNat / 4 % 8 ∨ 2 ^ 56 ≤ ctl.toNat ∨ fmt.toNat % 32 ≠ 0
  let inParison := fun (a : Nat) => 0x40000 ≤ a ∧ a < 0x60000
  let global := fun (a : Nat) => if 0 < a ∧ a < 0x40000 then 0x00F0000000000000 + core * 0x100000 + a else a
  (illegal → r = .error (0x04, none)) ∧
  (¬illegal → inParison fmt.toNat → r = .error (0x06, some fmt)) ∧
  (¬illegal → ¬inParison fmt.toNat → inParison frame → r = .error (0x06, some (word frame))) ∧
  (¬illegal → ¬inParison fmt.toNat → ¬inParison frame →
    r = .ok ((w.set 6 (word (global fmt.toNat))).set 7 (word (ctl.toNat % 256 + global frame))))

/-- A packet placed at the bottom of a context's deque on a core (R24, R25): it is the newest; the oldest of a full deque has moved to the
newest end of the spill area. -/
def Placed (s t : State) (core ctx : Nat) (p : Packet) : Prop :=
  ∀ r, residentOf (coreAt s core) ctx = some r → ∃ r', residentOf (coreAt t core) ctx = some r' ∧
    (r.deque.length < 64 → r'.deque = p :: r.deque ∧ r'.spilled = r.spilled) ∧
    (64 ≤ r.deque.length → ∀ a old, spillOf s r = some a → r.deque.getLast? = some old → a.slotAddr a.tail + 64 ≤ a.header →
      r'.deque = p :: r.deque.dropLast ∧ r'.spilled = r.spilled ++ [old.note] ∧
      memNat t (a.header + 0x14) 4 = (a.tail + 1) % 2 ^ 32 ∧
      (∀ k (h : k < 8), memNat t (a.slotAddr a.tail + 8 * k) 8 = (old.words.get ⟨k, h⟩).toNat))

/-- SPAWN and SPAWNAT at issue (R22, R31, R98, R104, R180, R199): the packet is read and checked, and the slot waits. A SPAWNAT's packet
leaves once nothing is buffered that it must follow: no fence, no store to the target's scratchpad and none at all before a frame's
update, nor anything on its way that the update must follow; it carries what the thread's REL fences release. A target outside the span is
the model's log entry 9, and its check before the packet's is log entry 102. -/
def SpawnWords : Prop :=
  (∀ core w, PacketChecked core w (checkPacket core w)) ∧
  ∀ (s : State) (core slot : Nat) (iss : Issue) (o : Option AOut), Issues s core slot iss o → ∀ (p : Fin 8) (a b : Fin 32),
    let sl := slotAt s core slot
    let addr := gRead sl a
    let target := (gRead sl b).toNat
    let fails := fun (i : Instr) (cause : Nat) (value : Word) => exec i s =
      .next (stepEnd s (raiseC core slot { cause := cause, value := value, write := false }))
    let illegal := fun (i : Instr) => fails i 0x04 (iss.word0.zeroExtend 64)
    let away := 2304 ≤ target ∨ ¬SpanHas s core (partOf (coreAt s core) slot) sl.ctx target
    StructFails s core slot (.spawn p a) addr 64 64 ∧
    (away → illegal (.spawnat p a b)) ∧ (¬away → StructFails s core slot (.spawnat p a b) addr 64 64) ∧
    (∀ t bs us, ReadsStruct s core slot addr 64 64 t bs us →
      let u := applyAll s us
      let check := checkPacket core (packetWords bs)
      let fails := fun (i : Instr) (cause : Nat) (value : Word) => exec i s =
        .next (stepEnd u (raiseC core slot { cause := cause, value := value, write := false }))
      (∀ c, check = .error (c, none) → fails (.spawn p a) c (iss.word0.zeroExtend 64) ∧
        (¬away → fails (.spawnat p a b) c (iss.word0.zeroExtend 64))) ∧
      (∀ c v, check = .error (c, some v) → fails (.spawn p a) c v ∧ (¬away → fails (.spawnat p a b) c v)) ∧
      (∀ w, check = .ok w →
        exec (.spawn p a) s = .next (waiting u core slot o sl (.spawn p addr)) ∧
        let frame := word ((w.get 7).toNat / 256 % 2 ^ 48 * 256)
        let k := threadKnows u core slot
        (¬away → packetClear s core slot target frame = false →
          exec (.spawnat p a b) s = .next (retrying u core slot (.packetWay target frame) none)) ∧
        (¬away → packetClear s core slot target frame = true →
          exec (.spawnat p a b) s = .next { waiting u core slot o sl (.spawnAt p addr target 0) with
            reqs := u.reqs ++ [{
              id := u.tick, core := core, ctx := sl.ctx, home := homeOf (.pad target 0),
              kind := .packet target slot w k.fences (some (slotParty s core slot, k.wrote, target)) (frameHome s core slot frame)
              tgt := .pad target 0
              bytes := [], who := whoOf s core slot, by_ := slotWriter u core slot k.clock none false }]
            tick := u.tick + 1 })))

/-- The notes of a context's spill area after they are brought up to what lies there (R23): packets that Calben placed take the next ids of
the core's spawn count, those of threads keep theirs. -/
def SpillNamed (s t : State) (core ctx : Nat) : Prop :=
  { t with cores := s.cores } = s ∧
  ∀ r, residentOf (coreAt s core) ctx = some r →
    let n := ((spillOf s r).map (fun a => a.count)).getD 0
    let had := r.spilled.length
    ∃ x, residentOf (coreAt t core) ctx = some { r with spilled := x, spawns := r.spawns + (n - had) } ∧
      x.take had = r.spilled.take n ∧ x.length = n ∧
      ∀ k y, had ≤ k → x[k]? = some y → y.id = BitVec.ofNat 32 (core % 4096 * 2 ^ 20 + (r.spawns + (k - had)) % 2 ^ 20)

/-- The ends of SPAWN and SPAWNAT (R23 to R25, R31, R199): with room and a frame whose count can rise, the count rises by one, the packet is
placed and counted, and the predicate is true; without, nothing is placed and it is false. What a spilled packet is named is the model's
log entry 28. -/
def SpawnsEnd : Prop :=
  (∀ (s : State) (core ctx : Nat), SpillNamed s (after (syncSpill core ctx) s) core ctx) ∧
  (∀ (s : State) (core slot : Nat) (iss : Issue) (o : Option AOut), Waits s core slot iss o → coreUp s core = true → slot < 16 →
    s.Canonical → ∀ (p : Fin 8) (addr : Word) (t : Target) (x : Found) (w : Vector Word 8) (r : Resident),
    let sl := slotAt s core slot
    let event := exec (.spawnComplete core slot) s
    let frame := word ((w.get 7).toNat / 256 % 2 ^ 48 * 256)
    let scope := (w.get 7).toNat / 4 % 8 + 2
    sl.wait = .spawn p addr → checkAddr s core slot addr 64 .read = .ok t → badBytes s sl.ctx t 64 = false →
    routedRead s (slotReader s core slot) core sl.ctx t 64 = some x → checkPacket core (packetWords x.bytes) = .ok w →
    sl.sb = [] → releasable s core scope = true →
    let z := after (syncSpill core sl.ctx) (after (readBy core slot addr t 64 x) s)
    residentOf (coreAt z core) sl.ctx = some r →
    let packet : Packet := { words := w, note := { id := BitVec.ofNat 32 (core % 4096 * 2 ^ 20 + r.spawns % 2 ^ 20)
                                                   heads := [releaseHead z core slot scope], pad := none } }
    let raised := raisePending z z.reqs core slot frame
    let tokens := placeCost z core sl.ctx
    (hasRoom z r = false ∨ raised = .full → event = .next (closed z core slot o (pWrite sl p false) iss.after)) ∧
    (hasRoom z r = true → raised = .later ∨ (tokens = none ∧ ∃ f, raised = .done f) → event = .next z) ∧
    (hasRoom z r = true → ∀ c, raised = .fault c → event = .next (after (raiseC core slot
      { cause := c, value := frame, write := true }) z)) ∧
    (hasRoom z r = true → ∀ f us, raised = .done f → tokens = some us → ∃ u,
      event = .next (closed u core slot o (pWrite sl p true) iss.after) ∧ Placed (after f (applyAll z us)) u core sl.ctx packet ∧
        u.slots = s.slots ∧ (residentOf (coreAt u core) sl.ctx).map (fun x => x.spawns) = some (r.spawns + 1)) ∧
    (frame = 0 → ∃ f, raised = .done f ∧ ∀ u, after f u = u)) ∧
  (∀ (s : State) (qs : List Req) (core slot : Nat) (frame : Word) (t : Target) (f : Micro), frame ≠ 0 →
    let ctx := (slotAt s core slot).ctx
    let count := memNat s (keyOf t) 4
    reachFrame s core slot frame = .ok (t, f) → homeClear qs core ctx t 4 = true → routeOf s ctx t = .bank →
    (∀ pa dev, t = .phys pa dev → mailboxOffset pa = none) →
    (count = 0xFFFFFFFF → raisePending s qs core slot frame = .full) ∧
    (count < 0xFFFFFFFF → WayOut s core ctx t → ∃ g, raisePending s qs core slot frame = .done g ∧
      (s.Canonical → Stored (after f s) (after g s) (keyOf t) (leBytes 4 (count + 1))))) ∧
  (∀ (s : State) (r : Req) (target slot : Nat) (w : Vector Word 8) (heads : List Head) (pad : Option (Nat × Nat × Nat))
      (home : Option Nat),
    s.reqs.find? (fun q => q.id == r.id) = some r →
    r.kind = .packet target slot w heads pad home → running s = true → packetMayArrive s r target = true → s.Canonical →
    ∀ (p : Fin 8) (addr : Word) (iss : Issue) (o : Option AOut), Waits s r.core slot iss o →
    (slotAt s r.core slot).wait = .spawnAt p addr target 0 →
    let event := exec (.spawnatPacketArrival r.id) s
    let z := after (syncSpill target r.ctx) (after (syncSpill r.core r.ctx) s)
    let frame := word ((w.get 7).toNat / 256 % 2 ^ 48 * 256)
    let raised := raisePending z (z.reqs.takeWhile (fun q => q.id != r.id)) r.core slot frame
    let tokens := placeCost z target r.ctx
    let stage := fun (u : State) (n : Nat) => { u with
      reqs := s.reqs.filter (fun q => q.id != r.id)
      slots := assign s.slots (r.core * 16 + slot) { slotAt s r.core slot with wait := .spawnAt p addr target n } }
    (residentOf (coreAt z target) r.ctx = none → event = .next (stage z 2)) ∧
    (∀ x, residentOf (coreAt z target) r.ctx = some x →
      (hasRoom z x = false ∨ raised = .full → event = .next (stage z 2)) ∧
      (hasRoom z x = true → raised = .later ∨ (tokens = none ∧ ∃ f, raised = .done f) → event = .next z) ∧
      (hasRoom z x = true → ∀ f us, raised = .done f → tokens = some us → ∃ u, event = .next (stage u 1) ∧
        Placed (after f (applyAll z us)) u target r.ctx { words := w, note := { id := nextId z r.core r.ctx, heads := heads, pad := pad } } ∧
        u.reqs = s.reqs ∧ u.slots = s.slots ∧ u.msgs = s.msgs))) ∧
  (∀ (s : State) (core slot : Nat) (iss : Issue) (o : Option AOut), Waits s core slot iss o → coreUp s core = true → slot < 16 →
    ∀ (p : Fin 8) (addr : Word) (target : Nat),
    let sl := slotAt s core slot
    (sl.wait = .spawnAt p addr target 0 → exec (.spawnatAck core slot) s = .next s) ∧
    (sl.wait = .spawnAt p addr target 1 →
      exec (.spawnatAck core slot) s = .next (closed s core slot o (pWrite sl p true) iss.after)) ∧
    (sl.wait = .spawnAt p addr target 2 →
      exec (.spawnatAck core slot) s = .next (closed s core slot o (pWrite sl p false) iss.after)))

/-- JOIN and its wake (R31, R200, Table 2.7): a frame whose pending count reads zero ends it, as an acquire at PKG, or, with an escalation
word, is cleared of that word and raises its cause with the frame's address; any other count makes it wait, and be counted toward a
stall report. -/
def JoinWords : Prop :=
  (∀ (s : State) (core slot : Nat) (iss : Issue) (o : Option AOut), Issues s core slot iss o → s.Canonical → ∀ (a : Fin 32),
    let sl := slotAt s core slot
    let addr := gRead sl a
    StructFails s core slot (.join a) addr 256 16 ∧
    (∀ t bs us, ReadsStruct s core slot addr 256 16 t bs us →
      let u := applyAll s us
      let woken := after (acquireAt core slot 6 t 4) u
      let pending := leNat (bs.take 4)
      let esc := leNat ((bs.drop 12).take 4)
      (pending = 0 → esc = 0 → exec (.join a) s = .next (ended woken core slot o sl iss.after)) ∧
      (pending ≠ 0 → exec (.join a) s = .next (withUnit u core slot o
        { sl with wait := .join addr, stall := some (counted s core slot 4) })) ∧
      (pending = 0 → esc ≠ 0 → ∀ t' f,
        reach u (slotWalker u core slot) core (partOf (coreAt s core) slot) sl.mode (addr + 8) 8 .write = .ok (t', f) →
        (∀ pa dev, t = .phys pa dev → mailboxOffset (pa + 12) = none) → routeOf s sl.ctx (targetPlus t 12) = .bank →
        WayOut u core sl.ctx t → sl.sb = [] → homeClear s.reqs core sl.ctx t 16 = true →
        ∃ v, exec (.join a) s = .next (stepEnd v (raiseC core slot { cause := esc, value := addr, write := false })) ∧
          Stored (after f woken) v (keyOf t + 12) [0, 0, 0, 0] ∧ v.slots = s.slots))) ∧
  (∀ (s : State) (core slot : Nat) (iss : Issue) (o : Option AOut), Waits s core slot iss o → coreUp s core = true → slot < 16 →
    ∀ (addr : Word) (t : Target),
    let sl := slotAt s core slot
    let event := exec (.joinWake core slot) s
    let bs := memBytes s (keyOf t) 16
    sl.wait = .join addr → checkAddr s core slot addr 256 .read = .ok t →
    (badBytes s sl.ctx t 16 = true →
      event = .next (after (raiseC core slot { cause := 0x0A, value := addr, write := false }) s)) ∧
    (badBytes s sl.ctx t 16 = false → dieBusy s (dieOf core) (locOf sl.ctx t) 16 = true → event = .next s) ∧
    (badBytes s sl.ctx t 16 = false → dieBusy s (dieOf core) (locOf sl.ctx t) 16 = false → routeOf s sl.ctx t = .bank →
      (leNat (bs.take 4) = 0 → leNat ((bs.drop 12).take 4) = 0 →
        event = .next (closed (after (acquireAt core slot 6 t 4) s) core slot o sl iss.after)) ∧
      (leNat (bs.take 4) ≠ 0 → event = .next s)))

/-- RETIRE, its frame update and the freeing of its slot (R31, R201): RETIRE only begins to retire, as failed if TSTATE.FAIL says so in S
mode; the update takes one from the frame's pending count, adds one to its failures if the task failed, and puts an escalated cause
in an empty escalation word; with it the thread has left its endpoints, watch, handler and pending interrupts; the slot is empty
once its stores and reads have gone. -/
def RetireWords : Prop :=
  (∀ (s : State) (core slot : Nat) (iss : Issue), Issues s core slot iss none →
    let sl := slotAt s core slot
    exec .retire s = .next (withSlot s core slot { sl with
      wait := .retiring (decide (sl.mode = .supervisor) && sl.trap.tstate.getLsbD 3) 0 false })) ∧
  (∀ (s : State) (core slot : Nat), coreUp s core = true → slot < 16 → s.Canonical → ∀ (failed : Bool) (esc : Nat),
    let sl := slotAt s core slot
    let event := exec (.retireFrameUpdate core slot) s
    let left := fun (v : Slot) => v.wait = .leaving ∧ v.issue = none ∧ v.handler = .none ∧ v.ccq = [] ∧ v.ctl.uipend = 0 ∧
      v.pfbuf = 0 ∧ v.pair = .unpaired ∧ (∀ q, v.q.get q = none) ∧ v.occupied = sl.occupied ∧ v.task = sl.task ∧
      v.sb = sl.sb
    sl.wait = .retiring failed esc false →
    (sl.task.frame = 0 → ∃ t, event = .next t ∧ left (slotAt t core slot) ∧ SameMemory s t ∧
      (coreAt t core).watches = (coreAt s core).watches.filter (fun w => w.slot != slot)) ∧
    (∀ t f, sl.task.frame ≠ 0 → sl.sb = [] →
      let scope := scopeOf core (sl.task.task.toNat / 2 ^ 20 % 2 ^ 12)
      releasable s core scope = true → reachFrame s core slot sl.task.frame = .ok (t, f) →
      homeClear s.reqs core sl.ctx t 16 = true → routeOf s sl.ctx t = .bank → routeOf s sl.ctx (targetPlus t 12) = .bank →
      WayOut s core sl.ctx t →
      (∀ pa dev, t = .phys pa dev → mailboxOffset pa = none ∧ mailboxOffset (pa + 12) = none) →
      let bs := memBytes s (keyOf t) 16
      let pending := leNat (bs.take 4)
      let fails := leNat ((bs.drop 4).take 4)
      let word3 := leNat ((bs.drop 12).take 4)
      let counts := leBytes 4 (pending - 1) ++ leBytes 4 (if failed then min (fails + 1) 0xFFFFFFFF else fails)
      ∃ u, event = .next u ∧ left (slotAt u core slot) ∧
        (esc = 0 ∨ word3 ≠ 0 → Stored (after f s) u (keyOf t) counts) ∧
        (esc ≠ 0 → word3 = 0 → ∃ v, Stored (after f s) v (keyOf t) counts ∧ Stored v u (keyOf t + 12) (leBytes 4 esc)) ∧
        -- a release at the smallest scope of the two cores
        ∃ w h, u.order.writes.head? = some w ∧ h ∈ w.heads ∧ h.scope = scope ∧ h.place = .slot core slot)) ∧
  (∀ (s : State) (core slot : Nat), coreUp s core = true → slot < 16 →
    let sl := slotAt s core slot
    sl.wait = .leaving →
    let freed := { Slot.reset with
      regs := { Regs.reset with sh := sl.regs.sh }
      trap := sl.trap, sbIn := sl.sbIn, sbOut := sl.sbOut
      engineFaults := sl.engineFaults, asyncEvents := sl.asyncEvents }
    (sl.sb = [] → portClear s core slot = true → sl.pair = .unpaired →
      exec (.retireSlotFree core slot) s = .next (putSlot s core slot freed)) ∧
    -- a pair that stands until then is dissolved (R42)
    (sl.sb = [] → portClear s core slot = true → sl.pair ≠ .unpaired → exec (.retireSlotFree core slot) s =
      .next (putSlot (putSlot s core slot freed) core ((slot + 8) % 16)
        { slotAt s core ((slot + 8) % 16) with pair := .unpaired })) ∧
    (sl.sb ≠ [] ∨ portClear s core slot = false → exec (.retireSlotFree core slot) s = .next s))

/-- TASK_DISPATCH (R26 to R28). The lowest free slot of a partition takes a packet of one of its resident contexts: of the highest priority on
offer, a context's own newest before a thief's oldest; the packet is taken away, and the slot is set up from it: U mode at the
entry, arguments in g1 to g5, the task id in g6, every other register zero and every control register at its reset value. A spilled packet
waits for its tokens (R333); what it is named is the model's log entry 28. -/
def DispatchSetsUp : Prop :=
  ∀ (s : State) (core slot : Nat), coreUp s core = true → slot < 16 →
    let event := exec (.taskDispatch core slot) s
    let part := partOf (coreAt s core) slot
    let prio := fun (w : Vector Word 8) => (w.get 7).toNat / 32 % 8
    (firstFree s core slot = false ∨ offers s core part = [] → event = .next s) ∧
    (∀ x, x ∈ offers s core part → ∃ r ∈ (coreAt s core).residents, r.ctx = x.1 ∧ r.part = part ∧
      absent (coreAt s core) x.1 = false ∧ (∀ p rest, r.deque = p :: rest → x.2 = (p.words, .newest, core))) ∧
    (firstFree s core slot = true → offers s core part ≠ [] → ∃ ctx w src victim,
      (ctx, w, src, victim) ∈ offers s core part ∧ (∀ x ∈ offers s core part, prio x.2.1 ≤ prio w) ∧
      let named := after (syncSpill victim ctx) s
      let tokens := takeCost named core victim ctx src
      (tokens = none → event = .next named) ∧ (src = .newest ∨ src = .oldest → tokens = some []) ∧
      ∀ us, tokens = some us → ∃ t, event = .next t ∧
      SameSlots s t core slot ∧
      (∀ r, residentOf (coreAt s victim) ctx = some r → ∃ r', residentOf (coreAt t victim) ctx = some r' ∧
        (src = .newest → r'.deque = r.deque.tail) ∧ (src = .oldest → r'.deque = r.deque.dropLast)) ∧
      let v := slotAt t core slot
      ∃ id : W32, v.occupied = true ∧ v.ctx = ctx ∧ v.mode = .user ∧ v.handler = .none ∧ v.wait = .none ∧ v.issue = none ∧
        v.regs.pc = w.get 0 ∧ (∀ k (h : k < 5), v.regs.g.get (Fin.ofNat 32 (k + 1)) = w.get ⟨k + 1, by omega⟩) ∧
        v.regs.g.get 6 = id.zeroExtend 64 ∧ (∀ k : Fin 32, 6 < k.val → v.regs.g.get k = 0) ∧
        (∀ k, v.regs.p.get k = false) ∧ (∀ k, v.regs.b.get k = 0) ∧ (∀ q, v.q.get q = none) ∧
        v.ctl = { UserCtl.reset with rseed := if id = 0 then 1 else id.zeroExtend 64 } ∧ v.altLast = 7 ∧ v.task.faultWord = 0 ∧
        v.task.entry = w.get 0 ∧ v.task.fmtBlock = w.get 6 ∧
        v.task.frame = word ((w.get 7).toNat / 256 % 2 ^ 48 * 256) ∧
        v.task.task = word ((prio w) * 2 ^ 37 + (w.get 7).toNat / 4 % 8 * 2 ^ 34 + (w.get 7).toNat % 4 * 2 ^ 32 + id.toNat) ∧
        (src = .newest → ∀ r p rest, residentOf (coreAt s victim) ctx = some r → r.deque = p :: rest → id = p.note.id) ∧
        -- a spilled packet has the id that its note holds, once the notes are brought up to what lies there
        (∀ r a, residentOf (coreAt (after (syncSpill victim ctx) s) victim) ctx = some r → spillOf s r = some a →
          (src = .newestSpilled → id = ((r.spilled.getLast?).map (fun x => x.id)).getD 0) ∧
          (src = .oldestSpilled → id = ((r.spilled.head?).map (fun x => x.id)).getD 0)))

/-- BAR and its wake (R189, R203): a count of zero, a reserved scope or bit is illegal; else the arrival is an atomic of acquire and release
at the scope; a waiting thread goes on when it reads a generation other than the one it arrived in, and its wake acquires at the scope. -/
def BarWords : Prop :=
  (∀ (s : State) (core slot : Nat) (iss : Issue) (o : Option AOut), Issues s core slot iss o → ∀ (a b : Fin 32),
    let sl := slotAt s core slot
    let addr := gRead sl a
    let v := (gRead sl b).toNat
    let scope := v / 2 ^ 32 % 16
    let bad := v % 2 ^ 32 = 0 ∨ 2 ^ 36 ≤ v ∨ 12 ≤ scope
    let r := checkAtomic s core slot addr 8 false
    (bad → exec (.bar a b) s = .next (stepEnd s (raiseC core slot
      { cause := 0x04, value := iss.word0.zeroExtend 64, write := false }))) ∧
    (¬bad → ChecksFirst s core slot iss (.bar a b) none addr (.atomic false) r) ∧
    (¬bad → ∀ t, r = .ok t → ∃ u, exec (.bar a b) s = .next u ∧ ButForFlocks u (waiting s core slot o sl (.atomic
      { addr := addr, tgt := t, size := 8, op := .arrive (v % 2 ^ 32), operand := 0, d := 0, signed := false,
        scope := scope, acq := true, rel := true, queued := false })))) ∧
  (∀ (s : State) (core slot : Nat), coreUp s core = true → slot < 16 → ∀ (addr gen : Word) (scope : Nat) (t : Target) (f : Micro),
    let sl := slotAt s core slot
    let event := exec (.barWake core slot) s
    sl.wait = .bar addr gen scope →
    reach s (slotWalker s core slot) core (partOf (coreAt s core) slot) sl.mode addr 8 .read = .ok (t, f) →
    let u := after (acquireAt core slot scope t 8) (after f s)
    let now := memNat s (keyOf t + 4) 4
    (dieBusy s (dieOf core) (locOf sl.ctx t) 8 = true → event = .next s) ∧
    (dieBusy s (dieOf core) (locOf sl.ctx t) 8 = false → routeOf s sl.ctx t = .bank →
      (now = gen.toNat → event = .next s) ∧
      (now ≠ gen.toNat →
        (∀ iss o, Waits s core slot iss o → event = .next (closed u core slot o sl iss.after)) ∧
        (sl.issue = none → event = .next (putSlot u core slot { sl with wait := .none, stall := none })))))

end Sys2Proof.Certificates

section
open Sys2Proof Sys2Proof.Machine Sys2Proof.Certificates

/-- SPAWN and SPAWNAT: at issue, when the packet is placed or refused, and when the answer returns. A target outside the span is the
model's log entry 9, a spilled packet's name its log entry 28, and the target's check before the packet's its log entry 102. -/
def Obligations.Spawns : Prop := SpawnWords ∧ SpawnsEnd

/-- Dispatch, JOIN, RETIRE and BAR. What a spilled packet is named is the model's log entry 28. -/
def Obligations.TasksRunAndEnd : Prop := DispatchSetsUp ∧ JoinWords ∧ RetireWords ∧ BarWords

end

/-! ## Watches, interrupts, jobs by their handles, and the entries that come before a bundle -/

namespace Sys2Proof.Certificates
open Sys2Proof Sys2Proof.Machine

/-- A state with a core's watches replaced. -/
def withWatches (s : State) (core : Nat) (ws : List Watch) : State :=
  { s with cores := assign s.cores core { coreAt s core with watches := ws } }

/-- The watches of the other slots of a core. -/
def otherWatches (s : State) (core slot : Nat) : List Watch := (coreAt s core).watches.filter (fun w => w.slot != slot)

/-- The lowest code among the events that a slot's watches have met (R206). -/
def LowestEvent (s : State) (core slot k : Nat) : Prop :=
  (∃ w ∈ (coreAt s core).watches, w.slot = slot ∧ w.event = some k) ∧
  ∀ w ∈ (coreAt s core).watches, w.slot = slot → ∀ j, w.event = some j → k ≤ j

/-- MWARM, MWAIT and MWDIS (R205 to R207). MWARM arms the slot's one watch, of the core's eight; a ninth takes the oldest of another slot,
which keeps the news that it was taken (log entry 16). MWAIT without a watch is illegal; with an event it ends at once with the lowest code, its
watch disarmed; else it waits and is counted. MWDIS disarms the slot's watch on the word, by either of its names. Regions that may not be watched are
permission faults. -/
def WatchWords : Prop :=
  ∀ (s : State) (core slot : Nat) (iss : Issue) (o : Option AOut), Issues s core slot iss o → ∀ (d a : Fin 32),
    let sl := slotAt s core slot
    let addr := gRead sl a
    let region := regionOf addr.toNat
    let ws := (coreAt s core).watches
    let fails := fun (i : Instr) (cause : Nat) (value : Word) => exec i s =
      .next (stepEnd s (raiseC core slot { cause := cause, value := value, write := false }))
    let r := checkAddr s core slot addr 8 .read
    let barred := region ∈ [.aperture, .expert, .parison] ∧ addr.toNat % 8 = 0 ∧ ¬(sl.pair = .execute ∧ region ≠ .expert)
    (barred → fails (.mwarm a) 0x08 addr) ∧
    (¬barred → ChecksFirst s core slot iss (.mwarm a) none addr .read r ∧
      (∀ pa, r = .ok (.phys pa true) → fails (.mwarm a) 0x08 addr) ∧
      (∀ t, r = .ok t → (∀ pa, t ≠ .phys pa true) → (∀ c b n, t ≠ .parison c b n) →
        let others := ws.filter (fun w => w.slot != slot || w.stolen)
        let live := others.filter (fun w => !w.stolen)
        let new : Watch := { slot := slot, tgt := t, event := none, stolen := false }
        let armed := fun (l : List Watch) => exec (.mwarm a) s =
          .next (ended (withWatches s core (l ++ [new])) core slot o sl iss.after)
        (live.length < 8 → armed others) ∧
        (∀ x rest, live = x :: rest → 8 ≤ live.length →
          armed (others.map (fun w => if w = x then { w with stolen := true, event := some 2 } else w))))) ∧
    ((∀ w ∈ ws, w.slot ≠ slot) → fails (.mwait d a) 0x04 (iss.word0.zeroExtend 64)) ∧
    (∀ k, LowestEvent s core slot k → exec (.mwait d a) s = .next (ended (withWatches s core (otherWatches s core slot))
      core slot o (gWrite sl d (BitVec.ofNat 64 k)) iss.after)) ∧
    ((∃ w ∈ ws, w.slot = slot) → (∀ w ∈ ws, w.slot = slot → w.event = none) →
      exec (.mwait d a) s = .next (withUnit s core slot o
        { sl with wait := .mwait d addr.toNat (coreAt s core).cycle, stall := some (counted s core slot 6) })) ∧
    (region = .reserved → fails (.mwdis a) 0x06 addr) ∧
    (region ≠ .reserved → addr.toNat % 8 ≠ 0 → fails (.mwdis a) 0x05 addr) ∧
    (region ≠ .reserved → addr.toNat % 8 = 0 →
      (∀ t, watchedPlace s core slot addr.toNat = some t → exec (.mwdis a) s = .next (ended (withWatches s core
        (ws.filter (fun w => !(w.slot == slot && !w.stolen && keyOf w.tgt == keyOf t)))) core slot o sl iss.after)) ∧
      (watchedPlace s core slot addr.toNat = none →
        exec (.mwdis a) s = .next (ended s core slot o sl iss.after)) ∧
      -- a scratchpad word has two names (R74)
      (region = .pad → watchedPlace s core slot addr.toNat = some (.pad core addr.toNat)) ∧
      (region = .aperture → (addr.toNat - 0x00F0000000000000) % 0x100000 < 0x40000 → watchedPlace s core slot addr.toNat =
        some (.pad ((addr.toNat - 0x00F0000000000000) / 0x100000) ((addr.toNat - 0x00F0000000000000) % 0x100000))))

/-- MWAIT_WAKE and MWAIT_TIMEOUT (R206): an event ends a waiting MWAIT with its code in d and its watch disarmed; a timeout that is not zero
ends it, when that many cycles have passed, with 1, or with 0 if its word was written too. -/
def WatchesEnd : Prop :=
  ∀ (s : State) (core slot : Nat) (iss : Issue) (o : Option AOut), Waits s core slot iss o → coreUp s core = true → slot < 16 →
    ∀ (d : Fin 32) (limit start : Nat),
    let sl := slotAt s core slot
    let ends := fun (i : Instr) (k : Nat) => exec i s = .next (closed (withWatches s core (otherWatches s core slot))
      core slot o (gWrite sl d (BitVec.ofNat 64 k)) iss.after)
    let due := limit ≠ 0 ∧ start + limit ≤ (coreAt s core).cycle
    sl.wait = .mwait d limit start →
    (∀ k, LowestEvent s core slot k → ends (.mwaitWake core slot) k ∧
      (due → ends (.mwaitTimeout core slot) (min 1 k))) ∧
    ((∀ w ∈ (coreAt s core).watches, w.slot = slot → w.event = none) →
      exec (.mwaitWake core slot) s = .next s ∧ (due → ends (.mwaitTimeout core slot) 1)) ∧
    (¬due → exec (.mwaitTimeout core slot) s = .next s)

/-- UISEND and its arrival (R208). A malformed target or vector, or a target outside the span, which is the model's log entry 9, is illegal;
another context is a permission fault, whose value the spec does not give (log entry 5), and which comes second (log entry 102); else the vector goes on its way, and its arrival sets its bit of UIPEND if a thread of the context runs
in the slot. STALL_REPORT (R305) posts one report of a counted wait whose limit has passed; its value is free (log entry 5). -/
def InterruptsAndStalls : Prop :=
  (∀ (s : State) (core slot : Nat) (iss : Issue) (o : Option AOut), Issues s core slot iss o → ∀ (a b : Fin 32),
    let sl := slotAt s core slot
    let t := (gRead sl a).toNat
    let v := (gRead sl b).toNat
    let target := t % 4096
    let ctx := t / 2 ^ 32 % 2 ^ 16
    let bad := 2 ^ 48 ≤ t ∨ t / 2 ^ 16 % 2 ^ 16 ≠ 0 ∨ 8 ≤ v ∨ 2304 ≤ target ∨
      ¬SpanHas s core (partOf (coreAt s core) slot) sl.ctx target
    (bad → exec (.uisend a b) s = .next (stepEnd s (raiseC core slot
      { cause := 0x04, value := iss.word0.zeroExtend 64, write := false }))) ∧
    (¬bad → ctx ≠ sl.ctx → exec (.uisend a b) s = .next (stepEnd { s with tick := s.tick + 1 } (raiseC core slot
      { cause := 0x08, value := Config.freeWord s.tick, write := false }))) ∧
    (¬bad → ctx = sl.ctx → exec (.uisend a b) s = .next (ended (withMsg s
      { id := 0, fromCore := core, fromPort := 0, core := target, port := t / 4096 % 16, ctx := ctx, slot := slot, mark := 0,
        kind := .interrupt v }) core slot o sl iss.after))) ∧
  (∀ (s : State) (m : Msg) (v : Nat), s.msgs.find? (fun x => x.id == m.id) = some m → m.kind = .interrupt v →
    coreUp s m.core = true → absentEntry (coreAt s m.core) m.ctx = none →
    let sl := slotAt s m.core m.port
    let rest := s.msgs.filter (fun x => x.id != m.id)
    (sl.occupied = true → sl.ctx = m.ctx → exec (.uisendArrival m.id) s = .next { s with
      msgs := rest
      slots := assign s.slots (m.core * 16 + m.port)
        { sl with ctl := { sl.ctl with uipend := sl.ctl.uipend ||| BitVec.ofNat 64 (2 ^ v) } } }) ∧
    ((sl.occupied = false ∨ sl.ctx ≠ m.ctx) → parkedAt (coreAt s m.core) m.port m.ctx = none →
      exec (.uisendArrival m.id) s = .next { s with msgs := rest })) ∧
  (∀ (s : State) (core slot : Nat) (x : Stall), coreUp s core = true → slot < 16 → (slotAt s core slot).stall = some x →
    let due := x.posted = false ∧ x.limit ≠ 0 ∧ x.start + x.limit ≤ (coreAt s core).cycle
    (due → exec (.stallReport core slot) s = .next { s with
      records := s.records ++ [{ cause := 0x12, flags := 0, wait := x.code, handle := 0, value := Config.freeWord s.tick,
                                 pc := 0, who := whoOf s core slot }]
      slots := assign s.slots (core * 16 + slot) { slotAt s core slot with stall := some { x with posted := true } }
      tick := s.tick + 1 }) ∧
    (¬due → exec (.stallReport core slot) s = .next s))

/-- JPOLL and JWAIT (R211, R212, Tables 9.8 and 10.5). A handle's reserved bits, a kind that is none, or a sequence that no job has had is
illegal. The handle names the newest job of its sequence, whatever kind it gives (log entry 104); a job whose record is no longer kept is
complete. JPOLL writes whether it is complete; JWAIT writes its status, or bit 8 for a record not kept, or waits. Either acquires the
writes of a job that is complete. -/
def HandleWords : Prop :=
  ∀ (s : State) (core slot : Nat) (iss : Issue) (o : Option AOut), Issues s core slot iss o → ∀ (p : Fin 8) (d a : Fin 32),
    let sl := slotAt s core slot
    let h := (gRead sl a).toNat
    let started := startedJobs s core sl.ctx
    let illegal := fun (i : Instr) => exec i s = .next (stepEnd s (raiseC core slot
      { cause := 0x04, value := iss.word0.zeroExtend 64, write := false }))
    let bad := 2 ^ 20 ≤ h ∨ h / 65536 % 16 = 0 ∨ 5 < h / 65536 % 16 ∨ started ≤ h % 65536
    (bad → illegal (.jpoll p a) ∧ illegal (.jwait d a)) ∧
    (¬bad → ∀ n, n < started → n % 65536 = h % 65536 → started ≤ n + 65536 →
      let record := (s.jobs.filter (fun j => j.kind != 0 && j.core == core && j.ctx == sl.ctx)).find? (fun j => j.n == n)
      (record = none →
        let u := after (acquireClock core slot
          (((s.order.ended.find? (fun e => e.1 == (core, sl.ctx, n))).map (fun e => e.2)).getD [])) s
        exec (.jpoll p a) s = .next (ended u core slot o (pWrite sl p true) iss.after) ∧
        exec (.jwait d a) s = .next (ended u core slot o (gWrite sl d 256) iss.after)) ∧
      (∀ j, record = some j → j.state = .done →
        -- the thread acquires the job's writes (R101)
        let u := after (acquireClock core slot (jobClock s j.order)) s
        exec (.jpoll p a) s = .next (ended u core slot o (pWrite sl p true) iss.after) ∧
        exec (.jwait d a) s = .next (ended u core slot o (gWrite sl d (BitVec.ofNat 64 (
          (if 3 ≤ j.kind then j.info % 65536 * 2 ^ 18 else 0) + j.cause % 256 * 2 ^ 10 +
          (if j.faulted then 2 ^ 9 else 0) + j.status % 256))) iss.after)) ∧
      (∀ j, record = some j → j.state ≠ .done →
        exec (.jpoll p a) s = .next (ended s core slot o (pWrite sl p false) iss.after) ∧
        exec (.jwait d a) s = .next (retrying s core slot (.jobDone (h % 65536)) none)))

/-- The slot as an entry finds it: it has taken the core's cycle and left its wait. -/
def entering (s : State) (core slot : Nat) : Slot :=
  { slotAt s core slot with last := some (coreAt s core).cycle, issue := none, wait := .none }

/-- What a slot's issue takes before its bundle, in this order: a job's fault (R243), an asynchronous-fault event (R299, R329), a copy
completion (R239), a user interrupt (R210). That an entry takes an issue cycle of its slot, one of its own by R17 and
R18, is the model's reading (log entry 19): in any other cycle it changes nothing. -/
def EntriesComeFirst : Prop :=
  (∀ (s : State) (core slot : Nat), (coreAt s core).spent = true ∨ chosenSlot s core ≠ some slot →
    ∀ i ∈ [Instr.engineFaultDelivery core slot, .trapEntry core slot, .copyCompletionEntry core slot,
      .userInterruptEntry core slot], exec i s = .next s) ∧
  ∀ (s : State) (core slot : Nat), coreUp s core = true → slot < 16 → (coreAt s core).spent = false →
    chosenSlot s core = some slot →
    let sl := slotAt s core slot
    let v := entering s core slot
    let taking := fun (u : State) (w : Slot) => { u with
      slots := assign s.slots (core * 16 + slot) w, cores := assign s.cores core { coreAt s core with spent := true } }
    let next := fun (i : Instr) (w : Slot) => exec i s = .next (taking s w)
    sl.fmtPending = false → sl.dispatchFault = none → (∀ h a b p w, sl.wait ≠ .exchange h a b p w) → sl.mode = .user →
    let fault := sl.engineFaults.find? (fun f => f.ctx == sl.ctx)
    let event := sl.asyncEvents.find? (fun e => e.1 == sl.ctx)
    let free := sl.handler = .none
    let completion := free ∧ sl.ctl.uimaskv.getLsbD 7 = true ∧ sl.ccq ≠ []
    (∀ f, fault = some f → exec (.engineFaultDelivery core slot) s = .next (after (raiseAt core slot sl.regs.pc
      { cause := f.cause, value := f.value, write := f.write, async := true, engine := some f.handle } Machine.skip)
      (taking s { v with engineFaults := v.engineFaults.erase f }))) ∧
    (fault = none → exec (.engineFaultDelivery core slot) s = .next s) ∧
    (fault = none → ∀ e, event = some e → tvecOf (coreAt s core) slot ≠ 0 →
      next (.trapEntry core slot) (inSMode { v with asyncEvents := v.asyncEvents.erase e } (tvecOf (coreAt s core) slot)
        sl.regs.pc 0x10 true false e.2)) ∧
    (fault.isSome = true ∨ event = none → exec (.trapEntry core slot) s = .next s) ∧
    (fault = none → event = none → ∀ e rest, sl.ccq = e :: rest → completion →
      -- the entry acquires the copy's writes (R101)
      exec (.copyCompletionEntry core slot) s = .next (taking (after (acquireClock core slot e.clock) s) { v with
        ccq := rest, handler := .user, stall := none
        ctl := { v.ctl with ulink := sl.regs.pc, xfrid := e.xfrid.zeroExtend 64 }
        regs := { v.regs with pc := e.handler } })) ∧
    (fault.isSome = true ∨ event.isSome = true ∨ ¬completion → exec (.copyCompletionEntry core slot) s = .next s) ∧
    (fault = none → event = none → ¬completion → free → ∀ n, n < 8 →
      (sl.ctl.uipend &&& sl.ctl.uimaskv).getLsbD n = true →
      (∀ m, m < n → (sl.ctl.uipend &&& sl.ctl.uimaskv).getLsbD m = false) →
      let addr := sl.ctl.uivec + BitVec.ofNat 64 (8 * n)
      ∀ t f, checkAddr s core slot addr 8 .read = .ok t →
        coverOf sl.sb (keyOf t) 8 = .none → badBytes s sl.ctx t 8 = false →
        routedRead s (slotReader s core slot) core sl.ctx t 8 = some f →
        exec (.userInterruptEntry core slot) s = .next (taking (after (readBy core slot addr t 8 f) s) { v with
          handler := .user, stall := none
          ctl := { v.ctl with ulink := sl.regs.pc, uipend := sl.ctl.uipend &&& ~~~(BitVec.ofNat 64 (2 ^ n)) }
          regs := { v.regs with pc := BitVec.ofNat 64 (leNat f.bytes) } })) ∧
    (fault.isSome = true ∨ event.isSome = true ∨ completion ∨ ¬free ∨ sl.ctl.uipend &&& sl.ctl.uimaskv &&& 0xFF = 0 →
      exec (.userInterruptEntry core slot) s = .next s)

/-- SWITCH_REQUEST_TAKEN (R298, Table 16.11): at the slot's home cycle a posted request enters S mode with cause 0x11; a wait that can be
suspended is kept, its bundle ended where Table 16.11 says so; any other that is given up is issued again after TRET. An access that is
held up is awaited, which is the model's reading (log entry 15), and at any other cycle nothing happens. -/
def SwitchRequestsAreTaken : Prop :=
  ∀ (s : State) (core slot : Nat), coreUp s core = true → slot < 16 →
    let sl := slotAt s core slot
    let tvec := tvecOf (coreAt s core) slot
    let event := exec (.switchRequestTaken core slot) s
    let keeps := fun (v : Slot) (x : Suspended) => event = .next
      { s with
        cores := assign s.cores core { coreAt s core with
          longQ := (coreAt s core).longQ.filter (fun k => k != slot), spent := true }
        slots := assign s.slots (core * 16 + slot) (inSMode
          { v with susp := x, switchReq := false, last := some (coreAt s core).cycle } tvec v.regs.pc 0x11 true false 0) }
    let gives := fun (x : Suspended) (left : Option (Word × Nat)) => event = .next { s with
      cores := assign s.cores core { coreAt s core with spent := true }
      slots := assign s.slots (core * 16 + slot) (inSMode
        { sl with susp := x, switchReq := false, last := some (coreAt s core).cycle, stv := left }
        tvec sl.regs.pc 0x11 true false 0) }
    ((coreAt s core).spent = true ∨ (coreAt s core).cycle % 16 ≠ slot ∨ switchable s core slot = false → event = .next s) ∧
    (sl.fmtPending = false → (∃ c, sl.wait = .cond c ∧ (c = .tablesClear ∨ (∃ t n, c = .drained t n) ∨ (∃ t f, c = .packetWay t f) ∨
      (∃ b a, c = .landed b a))) → event = .next s) ∧
    ((coreAt s core).spent = false → (coreAt s core).cycle % 16 = slot → switchable s core slot = true → sl.await = .none → tvec ≠ 0 →
      (sl.issue = none →
        (sl.wait = .none ∨ sl.wait = .fetch ∨ (∃ va r g, sl.wait = .walk va .fetch r g) → keeps sl .none) ∧
        (sl.wait = .halt → keeps sl .halt) ∧ (sl.wait = .replay → keeps sl .replay) ∧
        (∀ f e, sl.wait = .retiring f e true → keeps sl (.retire f e)) ∧
        (∀ a g c, sl.wait = .bar a g c → keeps sl (.bar g a c)) ∧ (∀ n, sl.wait = .job n → keeps sl (.mxmab n))) ∧
      (∀ iss, sl.issue = some iss → companion core sl iss = .ok none →
        (sl.wait = .replay → gives .replay sl.stv) ∧ (∀ c, sl.wait = .cond c → gives .none sl.stv) ∧
        (∀ a, sl.wait = .join a → gives .none sl.stv) ∧ (∀ f e, sl.wait = .retiring f e true → gives (.retire f e) sl.stv) ∧
        -- an STV keeps how many of its registers have still to enter the buffer
        (∀ rest, sl.wait = .storing rest → gives .none (some (iss.pc, rest.length))) ∧
        (∀ a g c, sl.wait = .bar a g c → keeps (sl.doneAt iss.after) (.bar g a c)) ∧
        (∀ n, sl.wait = .job n → keeps (sl.doneAt iss.after) (.mxmab n)) ∧
        (∀ d n m, sl.wait = .mwait d n m → keeps (sl.doneAt iss.after) (.mwait d))))

end Sys2Proof.Certificates

section
open Sys2Proof Sys2Proof.Machine Sys2Proof.Certificates

/-- Watches, user interrupts, stall reports, and JPOLL and JWAIT. The span of UISEND's target is the model's log entry 9, a robbed watch kept
as news its log entry 16, the free values log entry 5, the order of UISEND's two faults log entry 102, and a handle's KIND log entry 104. -/
def Obligations.WatchesInterruptsAndHandles : Prop := WatchWords ∧ WatchesEnd ∧ InterruptsAndStalls ∧ HandleWords

/-- The entries that come before a bundle, and switch requests. That each entry takes an issue cycle of its own is the model's log entry 19;
which waits hold a switch request off is its log entry 15. -/
def Obligations.EntriesAndSwitchRequests : Prop := EntriesComeFirst ∧ SwitchRequestsAreTaken

end

/-! ## Engines: their accesses, rings, and the matrix engine -/

namespace Sys2Proof.Certificates
open Sys2Proof Sys2Proof.Machine

/-- A job started by a slot's thread: it is the newest of its context on its core; the context has started one more; records of jobs
more than 1,024 starts ago are no longer kept (R211). -/
def started (s : State) (core slot kind : Nat) (b : JobBody) : State :=
  let ctx := (slotAt s core slot).ctx
  let n := startedJobs s core ctx
  { s with
    jobs := (s.jobs ++ [newJob s core slot kind n b]).filter (fun j =>
      !(j.core == core && j.ctx == ctx && j.state == .done && (j.kind == 0 || decide (j.n + 1024 < n + 1))))
    -- what a job wrote whose record goes can still be acquired
    order := { s.order with ended := (s.jobs.filter (fun j =>
      j.core == core && j.ctx == ctx && j.state == .done && j.kind != 0 && decide (j.n + 1024 < n + 1))).map (fun j =>
        ((j.core, j.ctx, j.n), jobClock s j.order)) ++ s.order.ended }
    cores := assign s.cores core { coreAt s core with residents := (coreAt s core).residents.map (fun r =>
      if r.ctx = ctx then { r with jobs := r.jobs + 1 } else r) }
    tick := s.tick + 1 }

/-- The jobs when `j` has ended: records that are no longer kept are gone (R211). -/
def closedJobs (s : State) (j : Job) : List Job :=
  (s.jobs.map (fun x => if x.order = j.order then { x with state := .done, paid := [] } else x)).filter
    (fun x => !(x.core == j.core && x.ctx == j.ctx && x.dropped (startedJobs s j.core j.ctx)))

/-- The state in which `j` has ended: what those of its context wrote whose records go can still be acquired. -/
def endedJob (s : State) (j : Job) : State :=
  { s with
    jobs := closedJobs s j
    order := { s.order with ended := ((s.jobs.map (fun x => if x.order = j.order then { x with state := .done, paid := [] } else x)).filter
      (fun x => x.core == j.core && x.ctx == j.ctx && x.dropped (startedJobs s j.core j.ctx) && x.kind != 0)).map (fun x =>
        ((x.core, x.ctx, x.n), jobClock s x.order)) ++ s.order.ended } }

/-- A ring of a context on a core replaced. -/
def withRing (s : State) (core ctx n : Nat) (v : Ring) : State :=
  { s with cores := assign s.cores core { coreAt s core with residents := (coreAt s core).residents.map (fun r =>
      if r.ctx = ctx then (if h : n < 16 then { r with rings := r.rings.set n (some v) h } else r) else r) } }

/-- A word that raises a fault. -/
def Fails (s : State) (core slot : Nat) (i : Instr) (cause : Nat) (value : Word) : Prop :=
  exec i s = .next (stepEnd s (raiseC core slot { cause := cause, value := value, write := false }))

/-- A word that has read a structure, by updates after which the state is `u`, raises a fault. -/
def FailsAfter (s u : State) (core slot : Nat) (i : Instr) (cause : Nat) (value : Word) : Prop :=
  exec i s = .next (stepEnd u (raiseC core slot { cause := cause, value := value, write := false }))

/-- A step of a job can be made whole: its lines' tokens are paid, and then its work ends with `u` (R333). -/
def Whole {α : Type} (s : State) (j : Job) (spans : List Span) (f : Eng α) (v : α) (u : State) : Prop :=
  ∃ p us vs, payLines j.party (spans.flatMap (fun x => (piecesOf x.addr x.len).map (fun q => (q.1, q.2, x.kind)))) j.paid s =
      (true, p, us) ∧ f (applyAll s us) = .done v vs ∧ u = applyAll (applyAll s us) vs

/-- One access of an engine, inside one line (R180, R221, R236, R373): the faults of its address, then poison; a read gives the bytes as
the party may see them; a write changes exactly its bytes, and waits for a store of its die on the way to them. An address whose walk
cannot be made yet waits (R345). -/
def EngineAccesses : Prop :=
  ∀ (s : State) (w : Party) (addr : Word) (n : Nat) (bs : List Byte),
    let reached := fun (k : Access) => w.reach s addr k
    (reached .read = .error 0 → ∀ r, eReadLine w r addr n s = .later) ∧ (reached .write = .error 0 → eWriteLine w addr bs s = .later) ∧
    (∀ c, c ≠ 0 → reached .read = .error c → ∀ r, eReadLine w r addr n s = .fault c addr false []) ∧
    (∀ t f, reached .read = .ok (t, f) → ∀ r : State → Reader,
      (badBytes s w.ctx t n = true → eReadLine w r addr n s = .fault 0x0A addr false []) ∧
      (badBytes s w.ctx t n = false → routedRead s (r s) w.core w.ctx t n = none → eReadLine w r addr n s = .later) ∧
      (badBytes s w.ctx t n = false → ∀ x, routedRead s (r s) w.core w.ctx t n = some x →
        ∃ us, eReadLine w r addr n s = .done x.bytes us ∧
          (∀ k, w.who = .slot k → applyAll s us = after (readBy w.core k addr t n x) (after f s)) ∧
          ((∀ k, w.who ≠ .slot k) → applyAll s us = after (useSlice w.ctx addr.toNat) (after f s)) ∧
          (applyAll s us).slots = s.slots ∧ (applyAll s us).jobs = s.jobs ∧ (applyAll s us).reqs = s.reqs)) ∧
    (∀ c, c ≠ 0 → reached .write = .error c → eWriteLine w addr bs s = .fault c addr true []) ∧
    (∀ t f, reached .write = .ok (t, f) →
      (unreachable s t = true → ∀ j clock, w.who = .job j.order clock → jobAt s j.order = some j →
        ∃ us r, eWriteLine w addr bs s = .done () us ∧ applyAll s us = { after f s with records := s.records ++ [r] } ∧
          r.cause = 0x0A ∧ r.value = addr ∧ r.handle = j.handle ∧ r.who = j.who) ∧
      (unreachable s t = false → dieBusy s (dieOf w.core) (locOf w.ctx t) bs.length = true →
        eWriteLine w addr bs s = .later) ∧
      (unreachable s t = false → dieBusy s (dieOf w.core) (locOf w.ctx t) bs.length = false → routeOf s w.ctx t = .bank →
        (∀ pa dev, t = .phys pa dev → ∀ k, k < bs.length → mailboxOffset (pa + k) = none) → s.Canonical →
        ∃ us, eWriteLine w addr bs s = .done () us ∧ Stored (after f s) (applyAll s us) (keyOf t) bs ∧
          Watched (after f s) (applyAll s us) (fun _ => true) (keyOf t) bs.length ∧ (applyAll s us).slots = s.slots ∧
          ∃ x, (applyAll s us).order.writes = x :: (after f s).order.writes ∧ x.key = locOf w.ctx t ∧ x.by_ = w.writer s))

/-- RINGSET, RINGADV and RINGQ (R76, R77, R222, R230 to R232). A record is loaded whole, its ring empty of marks; a ring that an unfinished job
names is waited for. An advance moves the tail, then the head, modulo twice the count; each tile pushed keeps what its push releases (log
entry 82). -/
def RingWords : Prop :=
  (∀ (c : Core) (part : Nat) (bs : List Byte), bs.length = 16 →
    let u := fun (off n : Nat) => leNat ((bs.drop off).take n)
    let good := u 0 4 % 256 = 0 ∧ u 4 4 % 256 = 0 ∧ 256 ≤ u 4 4 ∧ u 4 4 ≤ 0x10000 ∧
      (∃ k, k ≤ 6 ∧ u 8 2 = 2 ^ k) ∧ u 10 2 < 2 * u 8 2 ∧ u 12 2 < 2 * u 8 2 ∧ u 14 2 = 0 ∧
      u 0 4 + u 4 4 * u 8 2 ≤ 0x40000 ∧
      (∀ a, u 0 4 ≤ a → a < u 0 4 + u 4 4 * u 8 2 → bankPart c (a / 0x4000) = part)
    (good → ringOf c part bs = some
      { base := u 0 4, size := u 4 4, count := u 8 2, head := u 10 2, tail := u 12 2, marks := [] }) ∧
    (¬good → ringOf c part bs = none)) ∧
  ∀ (s : State) (core slot : Nat) (iss : Issue) (o : Option AOut), Issues s core slot iss o → ∀ (d a n : Fin 32),
    let sl := slotAt s core slot
    let addr := gRead sl a
    let illegal := fun (i : Instr) => Fails s core slot i 0x04 (iss.word0.zeroExtend 64)
    (16 ≤ n.val → illegal (.ringset a n) ∧ illegal (.ringadv a n) ∧ illegal (.ringq d n)) ∧
    (n.val < 16 →
      StructFails s core slot (.ringset a n) addr 16 16 ∧
      (∀ t bs us, ReadsStruct s core slot addr 16 16 t bs us →
        let u := applyAll s us
        let rec_ := ringOf (coreAt s core) (partOf (coreAt s core) slot) bs
        (rec_ = none → FailsAfter s u core slot (.ringset a n) 0x04 (iss.word0.zeroExtend 64)) ∧
        (∀ r, rec_ = some r → ringBusy s core sl.ctx n.val = true →
          exec (.ringset a n) s = .next (retrying u core slot (.ringFree n.val) none)) ∧
        (∀ r, rec_ = some r → ringBusy s core sl.ctx n.val = false →
          exec (.ringset a n) s = .next (ended (withRing u core sl.ctx n.val r) core slot o sl iss.after))) ∧
      let v := (gRead sl a).toNat
      let push := v % 256
      let pop := v / 256 % 256
      (ringAt s core sl.ctx n.val = none → illegal (.ringadv a n) ∧
        exec (.ringq d n) s = .next (ended s core slot o (gWrite sl d 0) iss.after)) ∧
      (∀ r, ringAt s core sl.ctx n.val = some r →
        let occ := (r.tail + 2 * r.count - r.head) % (2 * r.count)
        let bad := 2 ^ 16 ≤ v ∨ r.count < occ + push ∨ occ + push < pop ∨
          feedInUse s core sl.ctx (fun f => f == .fed n.val) = true
        (bad → illegal (.ringadv a n)) ∧
        let tail := (r.tail + push) % (2 * r.count)
        let head := (r.head + pop) % (2 * r.count)
        let marks := r.marks ++ List.replicate push (slot, sl.sbIn, releaseClock s core slot)
        (¬bad → exec (.ringadv a n) s = .next (ended (withRing s core sl.ctx n.val { r with
            tail := tail
            head := head
            marks := marks.drop (marks.length - (tail + 2 * r.count - head) % (2 * r.count)) }) core slot o sl iss.after)) ∧
        exec (.ringq d n) s = .next (ended s core slot o (gWrite sl d (BitVec.ofNat 64 (r.head + r.tail * 2 ^ 16 +
          r.count * 2 ^ 32 + occ % 128 * 2 ^ 48 + (if ringBusy s core sl.ctx n.val then 2 ^ 55 else 0)))) iss.after)))

/-- MXMA, MXMAB, MXLD, MXST, MXZERO and MXQ at issue (R217, R219, R220, R226 to R229). The record is read and checked in the order of R220;
a full job table or queue is waited for; else the job is queued, MXMA writes its handle and MXMAB waits for it. In mode RSR the job
takes the slot's random state, which moves on by one draw; the A word's own advance is lost (log entry 60). A queue holds queued jobs only
(log entry 74). MXQ's OLDEST is the number of the oldest unfinished job. -/
def MatrixWords : Prop :=
  ∀ (s : State) (core slot : Nat) (iss : Issue) (o : Option AOut), Issues s core slot iss o → ∀ (d a n : Fin 32),
    let sl := slotAt s core slot
    let record := gRead sl a
    let part := partOf (coreAt s core) slot
    let word0 := iss.word0.zeroExtend 64
    let open_ := (s.jobs.filter (fun j => j.kind != 0 && j.core == core && j.ctx == sl.ctx && j.state != .done)).length
    let queue := s.jobs.filter (fun j => flockOf j.core == flockOf core && (engineAcc j.body).isSome && j.state == .queued)
    let again := fun (i : Instr) (c : Cond) => exec i s = .next (retrying s core slot c none)
    let seq := startedJobs s core sl.ctx % 65536
    (∀ i ∈ ([.mxma d a, .mxmab a] : List Instr), StructFails s core slot i record 64 64 ∧
      ∀ t bs us, ReadsStruct s core slot record 64 64 t bs us →
      let z := applyAll s us
      let again := fun (i : Instr) (c : Cond) => exec i s = .next (retrying z core slot c none)
      let h := shapeOf record bs
      let fdA := descriptorAt sl 0
      let fdB := descriptorAt sl 1
      (matFormats fdA fdB = none → FailsAfter s z core slot i 0x04 word0) ∧
      (∀ fa fb acc k, matFormats fdA fdB = some (fa, fb, acc, k) →
        (h.cFormat ∈ [12, 13, 14, 15] → FailsAfter s z core slot i 0x04 word0) ∧
        (h.cFormat ∉ [12, 13, 14, 15] → shapeBad s core sl.ctx part h bs fa fb = true →
          FailsAfter s z core slot i 0x0C record) ∧
        (h.cFormat ∉ [12, 13, 14, 15] → shapeBad s core sl.ctx part h bs fa fb = false →
          (1024 ≤ open_ → again i (.jobRoom)) ∧ (open_ < 1024 → 32 ≤ queue.length → again i (.engineRoom)) ∧
          (open_ < 1024 → queue.length < 32 →
            let job : MatJob := {
              shape := h, fdA := fdA, fdB := fdB, mode := modeOf sl, step := 0, fedA := 0, fedB := 0,
              rowsA := 0, rowsB := 0, opened := false, rseed := sl.ctl.rseed, failed := false, rows := 0 }
            let body : JobBody := .matrix job
            let u := started z core slot 1 body
            let v := if modeOf sl = 5
              then { sl with ctl := { sl.ctl with rseed := word (draw (sl.ctl.rseed.toNat % 2 ^ 32)).2 } } else sl
            let o' := if modeOf sl = 5 then o.map (fun x => { x with eff := { x.eff with rseed := none } }) else o
            (i = .mxma d a → exec i s = .next (ended u core slot o' (gWrite v d (BitVec.ofNat 64 (65536 + seq))) iss.after)) ∧
            (i = .mxmab a → modeOf sl ≠ 5 → exec i s = .next (waiting u core slot o sl (.job seq))) ∧
            (i = .mxmab a → ∃ t, exec i s = .next t ∧ t.jobs = u.jobs ∧ (slotAt t core slot).wait = .job seq ∧
              (slotAt t core slot).ctl = v.ctl))))) ∧
    (4 ≤ n.val → Fails s core slot (.mxld a n) 0x04 word0 ∧ Fails s core slot (.mxst a n) 0x04 word0 ∧
      Fails s core slot (.mxzero n) 0x04 word0) ∧
    -- an MXLD's or MXST's address: its region comes before its alignment (Table 9.1)
    let region := regionOf record.toNat
    let barred := region = .reserved ∨ (sl.pair = .execute ∧ region ∈ [.pad, .parison, .aperture])
    (n.val < 4 → barred → Fails s core slot (.mxld a n) 0x06 record ∧ Fails s core slot (.mxst a n) 0x06 record) ∧
    (n.val < 4 → ¬barred → record.toNat % 256 ≠ 0 →
      Fails s core slot (.mxld a n) 0x05 record ∧ Fails s core slot (.mxst a n) 0x05 record) ∧
    (n.val < 4 → ¬barred → record.toNat % 256 = 0 →
      (32 ≤ queue.length → again (.mxld a n) .engineRoom ∧ again (.mxst a n) .engineRoom) ∧
      (queue.length < 32 →
        let moved := fun (b : JobBody) => { s with jobs := s.jobs ++ [newJob s core slot 0 s.tick b], tick := s.tick + 1 }
        exec (.mxld a n) s = .next (waiting (moved (.accLoad n.val record ((descriptorAt sl 0).toNat / 16 % 16))) core slot o
          sl (.transfer s.tick)) ∧
        exec (.mxst a n) s = .next (waiting (moved (.accStore n.val record)) core slot o sl (.transfer s.tick)))) ∧
    (n.val < 4 →
      (1024 ≤ open_ → again (.mxzero n) .jobRoom) ∧
      (open_ < 1024 → 32 ≤ queue.length → again (.mxzero n) .engineRoom) ∧
      (open_ < 1024 → queue.length < 32 → exec (.mxzero n) s = .next (ended (started s core slot 1
        (.accZero n.val ((descriptorAt sl 0).toNat / 16 % 16))) core slot o sl iss.after))) ∧
    (∃ oldest, exec (.mxq d) s = .next (ended s core slot o (gWrite sl d (BitVec.ofNat 64 (
        (32 - queue.length) + min 32 (queue.filter (fun j => j.core == core)).length * 2 ^ 8 + min 1024 open_ * 2 ^ 16 +
        oldest % 65536 * 2 ^ 32))) iss.after) ∧
      (∀ j ∈ s.jobs, j.kind ≠ 0 → j.core = core → j.ctx = sl.ctx → j.state ≠ .done → oldest ≤ j.n) ∧
      (open_ ≠ 0 → ∃ j ∈ s.jobs, j.kind ≠ 0 ∧ j.core = core ∧ j.ctx = sl.ctx ∧ j.state ≠ .done ∧ oldest = j.n) ∧
      (open_ = 0 → oldest = startedJobs s core sl.ctx))

/-- The engine takes a job (R100, R217, R218, R223): the cores in turn after the one served last, and of a core its oldest queued job that
no earlier job of its accumulator, and no job that is using its ring, holds up, having been set aside; it is taken once its thread's
stores have left, and no other is taken in its place (log entry 91). A matrix job that does not accumulate, or whose accumulator another context owns, starts from zeros
of its own format; one whose accumulator has another format fails; one that starts again after a fault has its accumulator already, unless
another context's job has taken it meanwhile.
An MXST of another context's accumulator starts from zeros of its tag's format. -/
def MatrixJobsStart : Prop :=
  ∀ (s : State) (flock : Nat), flockUp s flock = true →
    let event := exec (.matrixJobStart flock) s
    let mine := engineJobs s flock
    let turn := fun (j : Job) => (j.core % 8 + 15 - (flockAt s flock).mxLast % 8) % 8
    let rest := mine.filter (fun j => j.state != .running)
    let first := fun (j : Job) => j ∈ mine ∧ j.state = .queued ∧ heldBehind rest j = false ∧
      ∀ k ∈ mine, k.state = .queued → heldBehind rest k = false → turn j ≤ turn k ∧ (k.core = j.core → j.order ≤ k.order)
    (runningJob s flock ≠ none ∨ nextEngineJob s flock = none → event = .next s) ∧
    (∀ j, nextEngineJob s flock = some j → first j ∧ j.mark ≤ (slotAt s j.core j.slot).sbOut) ∧
    (∀ j, first j → (∀ k ∈ mine, k.order = j.order → k = j) → (slotAt s j.core j.slot).sbOut < j.mark →
      nextEngineJob s flock = none) ∧
    (∀ j, runningJob s flock = none → nextEngineJob s flock = some j →
      let run := fun (f : JobBody → JobBody) => { s with
        jobs := s.jobs.map (fun x => if x.order = j.order then { x with state := .running, body := f x.body } else x)
        flocks := assign s.flocks flock { flockAt s flock with mxLast := j.core % 8 } }
      let taken := run id
      let opened := run (fun b => match b with
        | .matrix m => .matrix { m with opened := true }
        | b => b)
      (∀ m, j.body = .matrix m →
        let acc := jobAccum s j m.shape.acc
        let code := m.fdA.toNat / 16 % 16
        let tag : AccFormat := if code = 4 then .fp64 else if code = 2 then .int32 else .fp32
        let fresh := acc.owner ≠ some j.ctx ∨ m.shape.flags.getLsbD 0 = false
        let kept := m.opened = true ∧ acc.owner = some j.ctx
        (kept → event = .next taken) ∧
        (¬kept → fresh → ∃ t, event = .next t ∧ { t with flocks := opened.flocks } = opened ∧
          jobAccum t j m.shape.acc = { vals := [], tag := tag, owner := some j.ctx }) ∧
        (m.opened = false → ¬fresh → acc.tag = tag → event = .next opened) ∧
        (m.opened = false → ¬fresh → acc.tag ≠ tag →
          event = .next (after (jobFault j.order 0x04 m.shape.record false) opened))) ∧
      (∀ n addr, j.body = .accStore n addr →
        let acc := jobAccum s j n
        (acc.owner = some j.ctx → event = .next taken) ∧
        (acc.owner ≠ some j.ctx → ∃ t, event = .next t ∧ { t with flocks := taken.flocks } = taken ∧
          jobAccum t j n = { vals := [], tag := acc.tag, owner := some j.ctx })) ∧
      ((∀ m, j.body ≠ .matrix m) → (∀ n addr, j.body ≠ .accStore n addr) → event = .next taken))

/-- Panels and steps (R221 to R224, R236). The copy unit's turn for a panel moves up to 256 bytes of its rows into the tail tile of an
engine-fed ring with room, and the last of them push it; a step takes the panels of both operands,
puts Mvalid by Nvalid values into the accumulator, and pops its rings. A mismatch posts a rerun report; a second one the
unrecovered report, the values become NaNs, and the rest is popped without computing. An integer step adds the exact sums of products,
modulo 2^32. -/
def MatrixSteps : Prop :=
  (∀ (core : Nat) (m : MatJob) (acc : Accum) (a b : Panel) (fa fb : Elem) (n : Nat),
    matFormats m.fdA m.fdB = some (fa, fb, .int32, n) → m.fdA.getLsbD 9 = false →
    a.length = m.shape.m → b.length = m.shape.n →
    (stepTile core m acc a b).1 = (List.range m.shape.m).flatMap (fun i => (List.range m.shape.n).map (fun j =>
      ((elemInt .int32 (acc.at i j) + ((List.range 32).map (fun k =>
        elemInt fa ((a.getD i ([], 0)).1.getD k 0) * elemInt fb ((b.getD j ([], 0)).1.getD k 0))).sum) % 2 ^ 32).toNat))) ∧
  (∀ (s : State) (flock : Nat) (j : Job) (m : MatJob) (o : Operand) (k : Nat) (r : Ring), flockUp s flock = true →
    nextMover s flock = some (.panel j m o k r) → k < 16 → jobAt s j.order = some j → j.body = .matrix m →
    let size := panelRow o.fmt
    let had := if o.isA then m.rowsA else m.rowsB
    let rows := ((o.memRows (if o.isA then m.fedA else m.fedB)).drop had).take (256 / size)
    ∀ (l : List (List Byte)) (u w : State),
    Whole (after (tookTurn flock (.panel j m o k r)) s) j (rows.map (fun a => { addr := a, len := size, kind := .read }))
      (eEach (fun a => eRead j.party a size) rows) l u →
    (∃ vs, eWrite j.party (word (r.base + r.tail % r.count * r.size + had * size)) l.flatten u = .done () vs ∧ w = applyAll u vs) →
    ∃ t, exec (.matrixPanelFetch flock) s = .next t ∧ SameMemory w t ∧
      let last := o.rows ≤ had + rows.length
      (last → ringAt t j.core j.ctx k = (ringAt w j.core j.ctx k).map (fun _ => r.advance 1 0 (0, 0, []))) ∧
      (¬last → ringAt t j.core j.ctx k = ringAt w j.core j.ctx k) ∧
      (jobAt t j.order).map (fun x => x.body) = some (.matrix (
        if o.isA then (if last then { m with rowsA := 0, fedA := m.fedA + 1 } else { m with rowsA := had + rows.length })
        else (if last then { m with rowsB := 0, fedB := m.fedB + 1 } else { m with rowsB := had + rows.length })))) ∧
  (∀ (s : State) (flock : Nat) (j : Job) (m : MatJob), flockUp s flock = true →
    runningJob s flock = some j → jobAt s j.order = some j → j.body = .matrix m → ∀ (oa ob : Operand), m.operands = [oa, ob] →
    (∀ (x y : Bool) (ra rb : List Word), m.step < m.shape.groups →
      oa.stepRows s j m.step = some ra → ob.stepRows s j m.step = some rb →
      let event := exec (.matrixStep flock x y) s
      let spans := fun (o : Operand) (rows : List Word) =>
        rows.map (fun a => ({ addr := a, len := panelRow o.fmt, kind := .read } : Span)) ++
          (o.scaleAddrs m.shape.groups m.step).map (fun a => { addr := a, len := 1, kind := .read })
      let popped := fun (u t : State) => ∀ o ∈ [oa, ob], ∀ k r, o.feed.ring = some k → (oa.feed.ring ≠ ob.feed.ring) →
        ringAt u j.core j.ctx k = some r → ringAt t j.core j.ctx k = some (r.advance 0 1 (0, 0, []))
      let body := fun (t : State) => (jobAt t j.order).map (fun z => z.body)
      -- the job reads its tiles as their pushes released them (R231)
      let j' := { j with clock := m.tileClock s j }
      (m.failed = true → ∃ t, event = .next t ∧ popped s t ∧ t.flocks = s.flocks ∧ SameMemory s t ∧
        body t = some (.matrix { m with step := m.step + 1 })) ∧
      (m.failed = false → ∀ (a b : Panel) (u : State),
        Whole s j (spans oa ra ++ spans ob rb) (eThen (readPanel j' oa m.shape.groups m.step ra) (fun a =>
          eThen (readPanel j' ob m.shape.groups m.step rb) (fun b => eGive (a, b)))) (a, b) u →
        let tile := stepTile j.core m (jobAccum u j m.shape.acc) a b
        let acc := jobAccum u j m.shape.acc
        let wrong := m.shape.flags.getLsbD 2 && x
        ∃ t, event = .next t ∧ popped u t ∧ SameMemory u t ∧ (jobAt t j.order).map (fun z => z.clock) = some j'.clock ∧
          let acc' := jobAccum t j m.shape.acc
          acc'.tag = acc.tag ∧ acc'.owner = acc.owner ∧
          (∀ i k, i < 64 → k < 64 → ¬(i < m.shape.m ∧ k < m.shape.n) → acc'.at i k = acc.at i k) ∧
          (wrong = false → t.records = u.records) ∧
          (wrong = true → ∃ q, t.records = u.records ++ q ∧
            q.map (fun z => z.cause) = (if y then [0x13, 0x14] else [0x13]) ∧ (∀ z ∈ q, z.handle = j.handle ∧
              z.value = m.shape.record)) ∧
          (wrong = false ∨ y = false → body t = some (.matrix { m with step := m.step + 1, rseed := word tile.2 }) ∧
            (∀ i k, i < m.shape.m → k < m.shape.n → m.shape.m ≤ 64 → m.shape.n ≤ 64 →
              acc'.at i k = tile.1.getD (i * m.shape.n + k) 0 % 2 ^ 64)) ∧
          (wrong = true → y = true → body t = some (.matrix { m with step := m.step + 1, failed := true }) ∧
            (jobAt t j.order).map (fun z => z.status) = some 7))))

/-- The ends of the engine's jobs (R211, R223, R226 to R228). A job of all its steps stores the valid part of C if it is to, and is complete;
MXLD's accumulator holds the block read, MXST's block the accumulator, and the slot of either goes on; MXZERO's
accumulator is zero in its format. -/
def MatrixJobsEnd : Prop :=
  ∀ (s : State) (flock : Nat) (j : Job), flockUp s flock = true → runningJob s flock = some j → jobAt s j.order = some j →
    (∀ a b, a ∈ s.jobs → b ∈ s.jobs → a.order = b.order → a = b) →
    let wakes := fun (u t : State) => ∀ iss o, Waits u j.core j.slot iss o → (slotAt u j.core j.slot).wait = .transfer j.n →
      t.slots = (closed u j.core j.slot o (slotAt u j.core j.slot) iss.after).slots
    -- the bundle that waits for the transfer has no A word that faults
    let sound := (slotAt s j.core j.slot).wait = .transfer j.n → companionFault j.core (slotAt s j.core j.slot) = none
    (∀ m, j.body = .matrix m →
      let event := exec (.matrixJobComplete flock) s
      (m.step ≠ m.shape.groups → event = .next s) ∧
      (m.step = m.shape.groups → m.shape.flags.getLsbD 1 = false → event = .next (endedJob s j)) ∧
      (m.step = m.shape.groups → m.shape.flags.getLsbD 1 = true → ∀ f, elemOf m.shape.cFormat = some f → m.rows < m.shape.m →
        ∀ u, Whole s j ((List.range m.shape.m).drop m.rows |>.map (fun i =>
            { addr := m.shape.c + word (i * m.shape.cStride), len := bytesFor f m.shape.n, kind := .write }))
          (eEach (fun i => storeRow m f i j) ((List.range m.shape.m).drop m.rows)) (List.replicate (m.shape.m - m.rows) ()) u →
        ∃ t, event = .next t ∧ SameMemory u t ∧ (∀ x ∈ t.jobs, x.order = j.order → x.state = .done ∧ x.faulted = j.faulted))) ∧
    (∀ n addr code, j.body = .accLoad n addr code →
      let tag := accTag code
      let size := if code = 4 then 8 else 4
      sound → ∀ bs u, Whole s j [{ addr := addr, len := 4096 * size, kind := .read }] (eRead j.party addr (4096 * size)) bs u →
      ∃ t, exec (.accumTransferComplete flock) s = .next t ∧
        jobAccum t j n = { vals := (chunks size bs).map (fun b => word (leNat b)), tag := tag, owner := some j.ctx } ∧
        (j.kind = 0 → ∀ x ∈ t.jobs, x.order ≠ j.order) ∧ wakes u t) ∧
    (∀ n addr, j.body = .accStore n addr →
      let acc := jobAccum s j n
      let size := if acc.tag = .fp64 then 8 else 4
      let v := fun (k : Nat) => (acc.vals.getD k 0).toNat
      sound → ∀ u, Whole s j [{ addr := addr, len := 4096 * size, kind := .write }]
        (eWrite j.party addr ((List.range 4096).flatMap (fun k => leBytes size (v k)))) () u →
      ∃ t, exec (.accumTransferComplete flock) s = .next t ∧ SameMemory u t ∧
        (j.kind = 0 → ∀ x ∈ t.jobs, x.order ≠ j.order) ∧ wakes u t) ∧
    (∀ n code, j.body = .accZero n code → ∃ t, exec (.mxzeroJob flock) s = .next t ∧ t.jobs = closedJobs s j ∧
      { t with jobs := s.jobs, flocks := s.flocks, order := (endedJob s j).order } = { s with order := (endedJob s j).order } ∧
      t.order = (endedJob s j).order ∧
      jobAccum t j n = { vals := [], tag := accTag code, owner := some j.ctx })

end Sys2Proof.Certificates

section
open Sys2Proof Sys2Proof.Machine Sys2Proof.Certificates

/-- The matrix engine and the rings: their words at issue, the engine at work, and the accesses that every engine makes for its jobs. The
model's readings are: the A word's lost advance of RSEED (log entry 60), a queue of queued jobs only (74), what a push releases (82), no
other job taken in place of the next (91), a C format past R45's codes as a bad record (105), and one ring fed to both operands (106). -/
def Obligations.MatrixEngine : Prop :=
  RingWords ∧ MatrixWords ∧ EngineAccesses ∧ MatrixJobsStart ∧ MatrixSteps ∧ MatrixJobsEnd

end

/-! ## Copies -/

namespace Sys2Proof.Certificates
open Sys2Proof Sys2Proof.Machine

/-- The slot after a job that took its random state: in RSR, RSEED has moved on by one draw of 16 steps (R61, R235). -/
def afterDraw (sl : Slot) (mode : Nat) : Slot :=
  if mode = 5 then { sl with ctl := { sl.ctl with rseed := word (draw (sl.ctl.rseed.toNat % 2 ^ 32)).2 } } else sl

/-- The A word beside it, whose own advance of RSEED is lost (R156). -/
def besideDraw (o : Option AOut) (mode : Nat) : Option AOut :=
  if mode = 5 then o.map (fun x => { x with eff := { x.eff with rseed := none } }) else o

/-- What Table 10.4 and R234 ask of a block's fields, for a copy instruction of a kind, with element formats `sf` and `df`. -/
def GoodBlock (kind : CopyKind) (b : CopyBlock) (bs : List Byte) (sf df : Elem) : Prop :=
  let flags := leNat ((bs.drop 0x38).take 8)
  let scalable := fun (f : Elem) => f ∈ ([.bf16, .fp16, .e4m3, .e5m2, .lg6] : List Elem)
  let align := fun (f : Elem) => if f = .lg6 then 1 else laneBits f / 8
  1 ≤ b.rows ∧ b.rows ≤ 0x100000 ∧ 1 ≤ b.elems ∧ b.elems ≤ 0x100000 ∧ (sf = .lg6 ∨ df = .lg6 → b.elems % 4 = 0) ∧
  (b.rows = 1 ∨ (if df = .lg6 then b.elems * 3 / 4 else b.elems * (laneBits df / 8)) ≤ b.dStride) ∧
  b.mode ≤ 5 ∧ leNat ((bs.drop 0x22).take 1) < 16 ∧
  (kind = .stream → b.completion = 1 ∧ b.dst = 0) ∧ (kind ≠ .stream → b.completion = 0 ∨ b.completion = 2) ∧
  (b.completion = 2 → b.handler ≠ 0 ∧ b.handler.toNat % 4 = 0) ∧ (b.completion ≠ 2 → b.handler = 0) ∧
  flags < 1024 ∧ (kind ≠ .multicast → flags % 256 = 0) ∧ ¬(b.sScaled = true ∧ b.dScaled = true) ∧
  (b.sScaled = true → scalable sf) ∧ (b.dScaled = true → scalable df) ∧
  b.src.toNat % align sf = 0 ∧ b.dst.toNat % align df = 0

/-- CPY, CPYS and CPYM at issue (R233 to R240). The block is read and checked in the order of R234; CPYM reads its flocks from the context's
multicast table, where a poisoned entry is data poison at its physical address (log entry 23); CPYS needs an unbound endpoint and a free port, and binds the lowest. Then the copy is queued as a job of kind 2. A format code
past R45's is a bad block (log entry 105), and in RSR the C word's draw stands over the A word's (log entry 60). -/
def CopyWords : Prop :=
  (∀ kind b bs sf df, copyBad kind b bs sf df = false ↔ GoodBlock kind b bs sf df) ∧
  ∀ (s : State) (core slot : Nat) (iss : Issue) (o : Option AOut), Issues s core slot iss o →
    ∀ (d a : Fin 32) (q : Fin 8) (kind : CopyKind) (i : Instr),
    (kind, i) ∈ ([(.plain, .cpy d a), (.stream, .cpys a q), (.multicast, .cpym d a)] : List (CopyKind × Instr)) →
    let sl := slotAt s core slot
    let block := gRead sl a
    let word0 := iss.word0.zeroExtend 64
    StructFails s core slot i block 64 64 ∧
    ∀ t bs us, ReadsStruct s core slot block 64 64 t bs us →
    let z := applyAll s us
    let fails := FailsAfter s z core slot i
    let b := copyBlockOf block bs
    let reserved := b.sFormat ∈ [12, 13, 14, 15] ∨ b.dFormat ∈ [12, 13, 14, 15]
    (reserved → fails 0x04 word0) ∧
    (¬reserved → elemOf b.sFormat = none ∨ elemOf b.dFormat = none → fails 0x0C block) ∧
    ∀ sf df, elemOf b.sFormat = some sf → elemOf b.dFormat = some df →
    (¬GoodBlock kind b bs sf df → fails 0x0C block) ∧
    (GoodBlock kind b bs sf df →
      let full := 1024 ≤ (s.jobs.filter (fun j => j.kind != 0 && j.core == core && j.ctx == sl.ctx && j.state != .done)).length
      let seq := startedJobs s core sl.ctx
      let waits := exec i s = .next (retrying z core slot .jobRoom none)
      let copy := fun (flocks : Option (List Nat)) (port : Option Nat) =>
        let c : CopyJob := { blk := b, flocks := flocks, port := port, row := 0, elem := 0, rseed := sl.ctl.rseed }
        started z core slot 2 (.copy c)
      let begins := fun (u : State) => exec i s = .next (ended u core slot (besideDraw o b.mode)
        (gWrite (afterDraw sl b.mode) d (BitVec.ofNat 64 (2 * 65536 + seq % 65536))) iss.after)
      (kind = .plain → (full → waits) ∧ (¬full → begins (copy none none))) ∧
      (kind = .multicast →
        let base := (ctxAt s sl.ctx).mcbase.toNat
        let entry := base + 64 * (leNat ((bs.drop 0x38).take 8) % 256)
        let out := base = 0 ∨ siloEnd ≤ entry ∨ b.dst.toNat < 0x00F0000000000000 ∨ 0x00F0000090000000 ≤ b.dst.toNat
        let e := dieBytes s (dieOf core) entry 64
        let named := fun (f : Nat) => (e.getD (f / 8) 0).getLsbD (f % 8) = true
        let valid := e.getD 0x24 0 = 1 ∧ (∀ k, 0x25 ≤ k → k < 0x40 → e.getD k 0 = 0) ∧ ∃ f, f < 288 ∧ named f
        (out → fails 0x0C block) ∧
        (¬out → poisonedIn s entry 64 = true → fails 0x0A (word entry)) ∧
        (¬out → poisonedIn s entry 64 = false → ¬valid → fails 0x0C block) ∧
        (¬out → poisonedIn s entry 64 = false → valid → (full → waits) ∧
          (¬full → ∃ l, begins (copy (some l) none) ∧ ∀ f, f ∈ l ↔ f < 288 ∧ named f))) ∧
      (kind = .stream →
        (sl.q.get q ≠ none ∨ (∀ n : Fin 32, (portAt s core n.val).owner ≠ none) → fails 0x04 word0) ∧
        (∀ n : Fin 32, sl.q.get q = none → (portAt s core n.val).owner = none →
          (∀ m : Fin 32, m < n → (portAt s core m.val).owner ≠ none) → (full → waits) ∧
          (¬full → exec i s = .next (ended (withPort (copy none (some n.val)) core n { Port.reset with
              owner := some { ctx := sl.ctx, slot := slot, ep := q }
              recv := true
              stream := some seq }) core slot (besideDraw o b.mode)
            { afterDraw sl b.mode with q := sl.q.set q.val (some n.val) q.isLt } iss.after)))))

/-- CPYQ (R211, R212, R241): whether the copy is complete, and the rows written so far. Of a copy whose record is no longer kept it is complete,
and the rows are a free value (log entry 5). -/
def CopyQuery : Prop :=
  ∀ (s : State) (core slot : Nat) (iss : Issue) (o : Option AOut), Issues s core slot iss o → ∀ (d a : Fin 32),
    let sl := slotAt s core slot
    let h := (gRead sl a).toNat
    let n := startedJobs s core sl.ctx
    let illegal := Fails s core slot (.cpyq d a) 0x04 (iss.word0.zeroExtend 64)
    (2 ^ 20 ≤ h ∨ h / 65536 % 16 ≠ 2 ∨ n ≤ h % 65536 → illegal) ∧
    (h < 2 ^ 20 → h / 65536 = 2 → ∀ k, k < n → k % 65536 = h % 65536 → n ≤ k + 65536 →
      let record := s.jobs.find? (fun j => j.kind != 0 && j.core == core && j.ctx == sl.ctx && j.n == k)
      (record = none → exec (.cpyq d a) s = .next (ended { s with tick := s.tick + 1 } core slot o
        (gWrite sl d (BitVec.ofNat 64 (2 ^ 32 + (Config.freeWord s.tick).toNat % 2 ^ 32))) iss.after)) ∧
      (∀ j c, record = some j → j.body = .copy c → exec (.cpyq d a) s = .next (ended s core slot o
        (gWrite sl d (BitVec.ofNat 64 ((if j.state = .done then 2 ^ 32 else 0) + min c.row 0xFFFFFFFF))) iss.after)) ∧
      (∀ j, record = some j → (∀ c, j.body ≠ .copy c) → illegal))

/-- A turn of the copy unit (R235, R236, R240, R325, R328): of the cores in turn, and of a core's copies and panels in turn, one that has
more to move. It reads the elements of whole groups that hold its own, and their scales, converts, and writes each destination, or
places a stream's elements in its port's queue, or in the image that holds the port, as it has room; up to 256 bytes on either side.
Elements whose format does not change are moved unchanged. -/
def CopyTurns : Prop :=
  (∀ (s : State) (core : Nat) (c : CopyJob) (sf df : Elem), c.elem < c.blk.elems → c.elem % 4 = 0 ∨ (sf ≠ .lg6 ∧ df ≠ .lg6) →
    let t := turnOf s core c sf df
    t.e0 = c.elem ∧ t.e1 ≤ c.blk.elems ∧ t.g0 ≤ t.e0 ∧ t.e1 ≤ t.g1 ∧ (c.port = none → t.e0 < t.e1) ∧
    bytesFor sf (t.e1 - t.e0) ≤ 256 ∧ bytesFor df (t.e1 - t.e0) ≤ 256 ∧ (t.e1 < c.blk.elems → c.port = none →
      t.e0 % 32 = 0 → t.e1 % 32 = 0)) ∧
  (∀ (j : Job) (c : CopyJob) (sf df : Elem) (t : Turn) (codes scales : List Nat), t.g0 ≤ t.e0 → t.e1 ≤ t.g0 + codes.length →
    c.blk.sScaled = false → c.blk.dScaled = false →
    let moved := (List.range (t.e1 - t.e0)).map (fun k => codes.getD (t.e0 - t.g0 + k) 0)
    let seed := c.rseed.toNat % 2 ^ 32
    (sf = df → turnElems j c sf df t codes scales = (moved, [], seed)) ∧
    (sf ≠ df → c.blk.mode ≠ 5 → turnElems j c sf df t codes scales =
      (moved.map (fun v => (convert sf df c.blk.sat c.blk.mode 0 127 (scaledVal sf j.core 0 127 v)).bits), [], seed))) ∧
  (∀ (s : State) (flock : Nat), flockUp s flock = true →
    let event := exec (.copyTurn flock) s
    let turn := fun (j : Job) => (j.core % 8 + 15 - (flockAt s flock).cpLast % 8) % 8
    (nextMover s flock = none → event = .next s) ∧
    (∀ j m o n r, nextMover s flock = some (.panel j m o n r) → event = .next s) ∧
    (∀ j c, nextMover s flock = some (.copy j c) → j ∈ s.jobs ∧ j.body = .copy c ∧ j.state = .running ∧ c.row < c.blk.rows ∧
      (∀ k e, k ∈ s.jobs → k.kind = 2 → k.body = .copy e → flockOf k.core = flock → mayTurn s k e = true →
        turn j ≤ turn k ∧ (k.core = j.core → (coreAt s j.core).copyLast < 2 * k.order + 1 →
          (coreAt s j.core).copyLast < 2 * j.order + 1 ∧ j.order ≤ k.order))) ∧
    (∀ j c sf df, nextMover s flock = some (.copy j c) → jobAt s j.order = some j →
      elemOf c.blk.sFormat = some sf → elemOf c.blk.dFormat = some df →
      let v := { s with
        flocks := assign s.flocks flock { flockAt s flock with cpLast := j.core % 8 }
        cores := assign s.cores j.core { coreAt s j.core with copyLast := 2 * j.order + 1 } }
      let t := turnOf v j.core c sf df
      let src := c.blk.src + word (c.row * c.blk.sStride) + word (bytesFor sf t.g0)
      let scale := fun (g : Nat) => c.blk.table + word (c.row * ((c.blk.elems + 31) / 32) + g)
      let dests := copyDests v j c df t.e0
      let read := if c.blk.sScaled then t.groups else []
      let made := if c.blk.dScaled then t.groups else []
      ∀ (bs : List Byte) (sc : List Nat) (u w : State) (l₁ l₂ : List Unit) (us vs : List Upd),
      Whole v j ([{ addr := src, len := bytesFor sf (t.g1 - t.g0), kind := .read }] ++
          read.map (fun g => { addr := scale g, len := 1, kind := .read }) ++
          dests.map (fun a => { addr := a, len := bytesFor df (t.e1 - t.e0), kind := .write }) ++
          made.map (fun g => { addr := scale g, len := 1, kind := .write }))
        (eThen (eRead j.party src (bytesFor sf (t.g1 - t.g0))) (fun bs =>
          eThen (eEach (fun g => eNat j.party (scale g) 1) read) (fun sc => eGive (bs, sc)))) (bs, sc) u →
      let out := turnElems j c sf df t ((elemsOf sf bs).take (t.g1 - t.g0)) sc
      eEach (fun a => eWrite j.party a (bytesOf df out.1)) dests u = .done l₁ us →
      eEach (fun (x : Nat × Nat) => eWrite j.party (scale x.1) [BitVec.ofNat 8 x.2]) (t.groups.zip out.2.1) (applyAll u us) =
        .done l₂ vs → w = applyAll (applyAll u us) vs →
      ∃ z, event = .next z ∧ SameMemory w z ∧
        (jobAt z j.order).map (fun x => x.body) = some (.copy (if t.e1 = c.blk.elems
          then { c with row := c.row + 1, elem := 0, rseed := word out.2.2 } else { c with elem := t.e1, rseed := word out.2.2 })) ∧
        (∀ p : Fin 32, c.port = some p.val → (portAt w j.core p.val).saved = false →
          (portAt z j.core p.val).queue = (portAt w j.core p.val).queue ++
            out.1.map (fun x => { data := word x, ctl := false, poison := false, clock := [] })) ∧
        (∀ p : Fin 32, c.port = some p.val → (portAt w j.core p.val).saved = true →
          ∀ d, (portAt w j.core p.val).owner.bind (fun x => absentEntry (coreAt w j.core) x.ctx) = some d →
          z.cores = (after (forAll (out.1.map (fun x => ({ data := word x, ctl := false, poison := false, clock := [] } : ChWord)))
            (imageWordIn j.core p.val d)) w).cores) ∧
        (c.port = none → z.cores = w.cores)))

/-- COPY_START and COPY_COMPLETE (R100, R211, R236, R237, R239, R330). A queued copy may be taken once the stores its thread made before it
have left. A copy of all its rows is complete; with completion 2 its thread's slot first gets a completion, if its queue has room,
or, where its context is absent, a pending vector 7 in the lehr image; a retired thread gets none. -/
def CopiesStartAndEnd : Prop :=
  ∀ (s : State) (core ctx n : Nat), coreUp s core = true →
    let job := s.jobs.find? (fun j => j.kind == 2 && j.core == core && j.ctx == ctx && j.n == n)
    let starts := exec (.copyStart core ctx n) s
    let ends := exec (.copyComplete core ctx n) s
    (job = none → starts = .next s ∧ ends = .next s) ∧
    (∀ j, job = some j →
      (j.state = .queued → j.mark ≤ (slotAt s core j.slot).sbOut → starts = .next { s with
        jobs := s.jobs.map (fun x => if x.order = j.order then { x with state := .running } else x) }) ∧
      (j.state ≠ .queued ∨ (slotAt s core j.slot).sbOut < j.mark → starts = .next s)) ∧
    (∀ j c, job = some j → j.body = .copy c →
      let over_ := endedJob s j
      (j.state ≠ .running ∨ c.row < c.blk.rows → ends = .next s) ∧
      (j.state = .running → c.blk.rows ≤ c.row →
        (c.blk.completion ≠ 2 ∨ threadPlace s core j.serial = .gone → ends = .next over_) ∧
        (∀ k, c.blk.completion = 2 → threadPlace s core j.serial = .slot k →
          (absentEntry (coreAt s core) ctx = none → 16 ≤ (slotAt s core k).ccq.length → ends = .next s) ∧
          (absentEntry (coreAt s core) ctx = none → (slotAt s core k).ccq.length < 16 → ends = .next { over_ with
            slots := assign s.slots (core * 16 + k) { slotAt s core k with
              ccq := (slotAt s core k).ccq ++
                [{ handler := c.blk.handler, xfrid := c.blk.xfrid, clock := jobClock s j.order }] } }) ∧
          (∀ d, absentEntry (coreAt s core) ctx = some d →
            ends = .next { after (lehrPend core k 7 d) s with jobs := over_.jobs, order := over_.order }))))

end Sys2Proof.Certificates

section
open Sys2Proof Sys2Proof.Machine Sys2Proof.Certificates

/-- The copy unit: its words, its turns, and the starts and ends of copies. The model's readings are: a poisoned multicast entry (log entry
23), the C word's draw over the A word's (60), the turns' order (75), a format code past R45's (105), and free rows of a record not kept (5). -/
def Obligations.Copies : Prop := CopyWords ∧ CopyQuery ∧ CopyTurns ∧ CopiesStartAndEnd

end

/-! ## The predictor and the parison buffers -/

namespace Sys2Proof.Certificates
open Sys2Proof Sys2Proof.Machine

/-- A state with an entry of a core's predictor and one of its parison buffers replaced. -/
def withPrediction (s : State) (core : Nat) (e : Fin 64) (x : PredEntry) (buf : Fin 8) (p : Parison) : State :=
  { s with cores := assign s.cores core { coreAt s core with
      predictor := (coreAt s core).predictor.set e.val x e.isLt
      parison := (coreAt s core).parison.set buf.val p buf.isLt } }

/-- PFETCH (R244, R245, R247): the descriptor is checked; the lowest free buffer of the context is taken, or −1 written. The key's entry is
reallocated if it is another context's or key's; if it is valid and confident enough the buffer is to be fetched at the predicted index,
else it is unpredicted. -/
def PfetchWords : Prop :=
  ∀ (s : State) (core slot : Nat) (iss : Issue) (o : Option AOut), Issues s core slot iss o → ∀ (d a b : Fin 32),
    let sl := slotAt s core slot
    let addr := gRead sl b
    let key := gRead sl a
    let i : Instr := .pfetch d a b
    StructFails s core slot i addr 32 32 ∧
    ∀ t bs us, ReadsStruct s core slot addr 32 32 t bs us →
      let z := applyAll s us
      let u := fun (off n : Nat) => leNat ((bs.drop off).take n)
      let good := 0 < u 0x10 4 ∧ u 0x10 4 ≤ 0x4000 ∧ u 0x10 4 % 8 = 0 ∧ u 0x16 2 = 0 ∧ u 0x18 8 = 0
      let mine := fun (k : Fin 8) => (∃ r, residentOf (coreAt s core) sl.ctx = some r ∧ r.bufmask.getLsbD k.val = true) ∧
        (bufferAt s core k.val).state = .free
      (¬good → FailsAfter s z core slot i 0x0C addr) ∧
      (good → (∀ k, ¬mine k) → exec i s = .next (ended z core slot o (gWrite sl d (-1)) iss.after)) ∧
      (good → ∀ k, mine k → (∀ m, m < k → ¬mine m) →
        let e := Fin.ofNat 64 (u 0x14 2 + key.toNat % 64)
        let old := (coreAt s core).predictor.get e
        let tag : BitVec 16 := key.setWidth 16
        let x : PredEntry := if old.owner = some sl.ctx ∧ old.tag = tag then old
          else { owner := some sl.ctx, valid := false, conf := 0, tag := tag, pred := 0 }
        let thr := ((residentOf (coreAt s core) sl.ctx).map (fun r => r.pfthr.toNat)).getD 2
        let go := x.valid = true ∧ thr ≤ x.conf
        exec i s = .next (ended (withPrediction z core e x k { Parison.reset with
            state := if go then .predicted else .unpredicted
            ctx := sl.ctx
            key := tag
            entry := e.val
            desc := { base := word (u 0 8), stride := word (u 8 8), count := u 0x10 4, site := u 0x14 2 }
            index := if go then x.pred else 0
            slot := slot
            part := partOf (coreAt s core) slot
            mode := sl.mode
            mark := sl.sbIn
            clock := releaseClock s core slot }) core slot o
          (gWrite { sl with pfbuf := sl.pfbuf ||| BitVec.ofNat 8 (2 ^ k.val) } d (BitVec.ofNat 64 k.val)) iss.after))

/-- PCONF (R248, R252): a buffer that is not quarantined, or not the context's, or an index above 16 bits, is illegal. A hit exposes what has
been fetched, and sets the accessed bits that an ordinary read of its pages sets; else the buffer is fetched anew at the true index. The
entry learns as R248 says, if it still stands for the context and the key. Where the index is the predicted one and a page has first
to be walked, or walked again, PCONF waits. [log entry 76] -/
def PconfWords : Prop :=
  ∀ (s : State) (core slot : Nat) (iss : Issue) (o : Option AOut), Issues s core slot iss o → s.Canonical → ∀ (a b : Fin 32),
    let sl := slotAt s core slot
    let v := (gRead sl b).toNat
    let i : Instr := .pconf a b
    let illegal := Fails s core slot i 0x04 (iss.word0.zeroExtend 64)
    (8 ≤ (gRead sl a).toNat → illegal) ∧
    (∀ k : Fin 8, (gRead sl a).toNat = k.val →
      let p := (coreAt s core).parison.get k
      (p.ctx ≠ sl.ctx ∨ p.state ∉ ([.predicted, .unpredicted, .void] : List BufState) ∨ 0x10000 ≤ v → illegal) ∧
      (p.ctx = sl.ctx → p.state ∈ ([.predicted, .unpredicted, .void] : List BufState) → v < 0x10000 →
        ∀ e : Fin 64, p.entry = e.val →
        let index : BitVec 16 := BitVec.ofNat 16 v
        let x := (coreAt s core).predictor.get e
        let y : PredEntry :=
          if x.owner ≠ some sl.ctx ∨ x.tag ≠ p.key then x
          else if x.valid = false then { x with valid := true, pred := index, conf := 0 }
          else if x.pred = index then { x with conf := min (x.conf + 1) 7 }
          else if 0 < x.conf then { x with conf := x.conf - 1 }
          else { x with pred := index }
        -- as an ordinary read translates the page now, it has the frame it had, and no fewer permissions
        let stands := fun (page : Nat × Nat × Nat) => ∃ t f, pageNow s core slot page.1 = .ok (t, f) ∧
          t.phys page.1 = page.2.1 ∧ pageBits t &&& page.2.2 = page.2.2
        let same := p.state = .predicted ∧ p.index = index
        let walks := ∃ page ∈ p.pages, pageNow s core slot page.1 = .error 0
        let hit := same ∧ ∀ page ∈ p.pages, stands page
        (same → walks → exec i s = .next (retrying { s with tick := s.tick + 1 } core slot .tablesClear none)) ∧
        (hit → ∃ u, exec i s = .next u ∧
          let v := ended (withPrediction s core e y k
            { p with state := if p.arrived then .landed else .inFlight, hit := true }) core slot o sl iss.after
          (p.pages = [] → u = v) ∧
          { u with mem := s.mem, order := s.order, flocks := s.flocks, diesT := s.diesT, cores := v.cores } = v ∧
          (∀ c, { coreAt u c with tlb := [], watches := [] } = { coreAt v c with tlb := [], watches := [] }) ∧
          (∀ n, memRead u.mem n = memRead s.mem n ∨ memRead u.mem n = memRead s.mem n ||| 0x20) ∧
          ∀ page n, p.pages = [page] → memRead u.mem n ≠ memRead s.mem n → ∃ w,
            walkTables s (slotWalker s core slot) page.1 = .ok w ∧ ∃ x ∈ w.needs false, x.1.addr = n) ∧
        (¬hit → ¬(same ∧ walks) → exec i s = .next (ended (withPrediction s core e y k { p with
            state := .inFlight, index := index, hit := false, got := [], arrived := false, pages := []
            slot := slot, part := partOf (coreAt s core) slot, mode := sl.mode, mark := sl.sbIn
            clock := releaseClock s core slot, paid := [] }) core slot o sl iss.after))))

/-- PCANC (R249): a buffer of the context that is not free becomes free, and no thread holds it any longer; a load that waits for it, or
for its refetch, takes an address fault; the predictor is unchanged. PFSET,
PFGET and PFSTAT (R244, R250, Tables 10.6, 10.8 and 10.9): what another context owns reads as zero. PFCLR makes every entry invalid. -/
def PredictorWords : Prop :=
  ∀ (s : State) (core slot : Nat) (iss : Issue) (o : Option AOut), Issues s core slot iss o → ∀ (d a b : Fin 32),
    let sl := slotAt s core slot
    let n := (gRead sl a).toNat
    let v := gRead sl b
    let illegal := fun (i : Instr) => Fails s core slot i 0x04 (iss.word0.zeroExtend 64)
    let give := fun (i : Instr) (x : Nat) => exec i s = .next (ended s core slot o (gWrite sl d (BitVec.ofNat 64 x)) iss.after)
    (8 ≤ n → illegal (.pcanc a) ∧ illegal (.pfstat d a)) ∧
    (∀ k : Fin 8, n = k.val →
      let p := (coreAt s core).parison.get k
      (p.state = .free ∨ p.ctx ≠ sl.ctx → illegal (.pcanc a)) ∧
      let dropped := fun (x : Slot) => { x with pfbuf := x.pfbuf &&& ~~~(BitVec.ofNat 8 (2 ^ k.val)) }
      (p.state ≠ .free → p.ctx = sl.ctx → slot < 16 → ∀ m x, m < 16 → m ≠ slot → bufferLoad (slotAt s core m) k.val = some x →
        (∀ n, n < 16 → n ≠ m → bufferLoad (slotAt s core n) k.val = none) →
        let z := { s with cores := assign s.cores core { coreAt s core with
          parison := (coreAt s core).parison.set k.val Parison.reset k.isLt } }
        ∃ t, exec (.pcanc a) s = .next t ∧ (coreAt t core).parison.get k = Parison.reset ∧
          slotAt t core m = dropped (slotAt (after (raiseC core m { cause := 0x06, value := x, write := false }) z) core m)) ∧
      (p.state ≠ .free → p.ctx = sl.ctx → (∀ m, m < 16 → bufferLoad (slotAt s core m) k.val = none) →
        (coreAt s core).parked = [] → slot < 16 →
        let v := ended s core slot o (dropped sl) iss.after
        ∃ t, exec (.pcanc a) s = .next t ∧ SameMemory s t ∧
          coreAt t core = { coreAt v core with parison := (coreAt s core).parison.set k.val Parison.reset k.isLt } ∧
          slotAt t core slot = slotAt v core slot ∧
          ∀ m, m < 16 → m ≠ slot → slotAt t core m = dropped (slotAt s core m)) ∧
      (p.ctx ≠ sl.ctx → give (.pfstat d a) 0) ∧
      (p.ctx = sl.ctx → give (.pfstat d a) (
        (if p.state = .free ∨ p.state = .unpredicted then 0 else p.index.toNat) * 2 ^ 16 + (if p.hit then 2 ^ 8 else 0) +
        (match p.state with
         | .free => 0 | .predicted => 1 | .unpredicted => 2 | .void => 3 | .inFlight => 4 | .landed => 5 | .faulted => 6)))) ∧
    (64 ≤ n → illegal (.pfset a b) ∧ illegal (.pfget d a)) ∧
    (2 ^ 36 ≤ v.toNat → illegal (.pfset a b)) ∧
    (∀ e : Fin 64, n = e.val →
      let x := (coreAt s core).predictor.get e
      let new : PredEntry := {
        owner := some sl.ctx, valid := v.getLsbD 35, conf := v.toNat / 2 ^ 32 % 8, tag := (v >>> 16).setWidth 16,
        pred := v.setWidth 16 }
      (v.toNat < 2 ^ 36 → exec (.pfset a b) s = .next (ended { s with
          cores := assign s.cores core { coreAt s core with
            predictor := (coreAt s core).predictor.set e.val new e.isLt } } core slot o sl iss.after)) ∧
      (x.owner ≠ some sl.ctx → give (.pfget d a) 0) ∧
      (x.owner = some sl.ctx → x.conf < 8 → give (.pfget d a)
        ((if x.valid then 2 ^ 35 else 0) + x.conf * 2 ^ 32 + x.tag.toNat * 2 ^ 16 + x.pred.toNat))) ∧
    (sl.mode = .supervisor → exec .pfclr s = .next (ended { s with
      cores := assign s.cores core { coreAt s core with predictor := Vector.replicate 64 PredEntry.reset } }
      core slot o sl iss.after))

/-- A speculative fetch leaves no trace but in its own buffer, in the flock's L2 and buckets, and in the last-level TLB of its die (R251,
R352): no memory, poison, accessed bit, record, register, context or other buffer changes, wherever it ends. -/
def SpeculationLeavesNoTrace : Prop :=
  ∀ (s : State) (core buf : Nat), ∃ t, exec (.speculativeFetchLine core buf) s = .next t ∧
    { t with flocks := s.flocks, cores := s.cores, diesT := s.diesT } = s ∧
    (∀ die, { dieAt t die with tlb := [], upper := [], gone := [] } = { dieAt s die with tlb := [], upper := [], gone := [] }) ∧
    (∀ c, c ≠ core → coreAt t c = coreAt s c) ∧
    { coreAt t core with parison := (coreAt s core).parison } = coreAt s core ∧
    (∀ k : Fin 8, k.val ≠ buf → (coreAt t core).parison.get k = (coreAt s core).parison.get k)

/-- SPECULATIVE_FETCH_LINE (R251, R252, R334, R352). A predicted fetch reads line by line, each for a token of the speculation bucket unless
the flock holds it, and waits without one or out of its turn; an address that R251 forbids, or poison, makes the buffer void. A page
that no TLB holds is walked, each entry line that the flock does not hold for a token [log entry 93]; the die then holds its translation. -/
def SpeculativeLines : Prop :=
  ∀ (s : State) (core : Nat) (k : Fin 8), coreUp s core = true →
    let p := (coreAt s core).parison.get k
    let f := flockAt s (flockOf core)
    let line := exec (.speculativeFetchLine core k.val) s
    let put := fun (x : Parison) => { s with
      cores := assign s.cores core { coreAt s core with parison := (coreAt s core).parison.set k.val x k.isLt } }
    let voids := line = .next (put { p with state := .void, got := [], paid := [] })
    -- one token of a slice's speculation bucket is taken in this flock, and the state is otherwise `next`
    let pays := fun (slice : Nat) (next : State) =>
      ((bucketOf f p.ctx slice).spec = 0 ∨ portTurn f slice p.ctx true = false → line = .next s) ∧
      (1 ≤ (bucketOf f p.ctx slice).spec → portTurn f slice p.ctx true = true → ∃ u, line = .next u ∧ ButForFlocks u next ∧
        (bucketOf (flockAt u (flockOf core)) p.ctx slice).spec + 1 = (bucketOf f p.ctx slice).spec)
    let left := p.desc.count - p.got.length
    let addr := p.desc.base + p.index.zeroExtend 64 * p.desc.stride + word p.got.length
    let n := min left (128 - addr.toNat % 128)
    let released := p.mark ≤ (slotAt s core p.slot).sbOut
    (p.state ≠ .predicted ∨ ¬released ∨ left = 0 → line = .next s) ∧
    (p.state = .predicted → released → 0 < left →
      (specPlace s p.ctx addr.toNat = none ∨ (ctxAt s p.ctx).ptbase = 0 → voids) ∧
      (∀ v, specPlace s p.ctx addr.toNat = some v → regionOf addr.toNat ∈ ([.ordinary, .expert] : List Region)) ∧
      ∀ v, specPlace s p.ctx addr.toNat = some v → (ctxAt s p.ctx).ptbase ≠ 0 →
      (∀ page, tlbFind s core p.ctx v = some page →
        let t : Target := .phys (page.phys v) page.dev
        let good := page.spec = true ∧ page.dev = false ∧ refusal s page p.mode .read v = none ∧ badBytes s p.ctx t n = false
        (¬good → voids) ∧
        (good → routedBytes s p.reader core p.ctx t n = none → line = .next s) ∧
        (good → ∀ bs, routedBytes s p.reader core p.ctx t n = some bs →
          let next := put { p with got := p.got ++ bs, pages := notePage p.pages page v }
          (insideFlock s core p.ctx t = true → ∃ u, line = .next u ∧ ButForFlocks u next ∧
            (flockAt u (flockOf core)).buckets = f.buckets) ∧
          (insideFlock s core p.ctx t = false → pays (sliceOfLine (keyOf t / 128)) next))) ∧
      (tlbFind s core p.ctx v = none →
        let walk := walkTables s (partyWalker core p.ctx p.reader) v
        let room := walkRoom s (dieOf core) p.ctx v 48
        (room = false ∨ walk = .error 0 → line = .next s) ∧
        (room = true → ∀ c, c ≠ 0 → walk = .error c → voids) ∧
        (room = true → ∀ r, walk = .ok r →
          let free := fun (a : Nat) => a / 128 ∈ p.paid ∨ l2Holds f (a / 128) = true
          (∀ a rest done, r.reads = done ++ a :: rest → ¬free a → (∀ x ∈ done, free x) →
            pays (sliceOfLine (a / 128)) (put { p with paid := a / 128 :: p.paid })) ∧
          ((∀ a ∈ r.reads, free a) → (¬(r.entry.spec = true ∧ r.entry.permitsSome = true) → voids) ∧
            (r.entry.spec = true → r.entry.permitsSome = true → ∃ u, line = .next u ∧ { u with diesT := s.diesT } = put { p with paid := [] } ∧
              (dieAt u (dieOf core)).tlb.head? = some r.entry)))))

/-- PARISON_DATA_LAND (R75, R246, R248). A confirmed fetch reads under the ordinary bucket, and a fault leaves the buffer faulted, with the
address at which the fetch stopped [log entry 107]. What has all been read lands, and the buffer's other bytes read as zero. -/
def FetchesLand : Prop :=
  ∀ (s : State) (core : Nat) (k : Fin 8), coreUp s core = true → s.Canonical →
    let p := (coreAt s core).parison.get k
    let lands := exec (.parisonDataLand core k.val) s
    let put := fun (x : Parison) => { s with
      cores := assign s.cores core { coreAt s core with parison := (coreAt s core).parison.set k.val x k.isLt } }
    let key := keyOf (.parison core k.val 0)
    let left := p.desc.count - p.got.length
    let addr := p.desc.base + p.index.zeroExtend 64 * p.desc.stride + word p.got.length
    let n := min left (128 - addr.toNat % 128)
    let released := p.mark ≤ (slotAt s core p.slot).sbOut
    let w : Party := { core := core, ctx := p.ctx, part := p.part, mode := p.mode, who := .fetch p.clock }
    (left = 0 → p.state ∈ ([.predicted, .inFlight] : List BufState) → p.arrived = false →
      ∃ t, lands = .next t ∧ { t with mem := s.mem } =
        put { p with arrived := true, state := if p.state = .inFlight then .landed else p.state } ∧
        ∀ a, memRead t.mem a = if key ≤ a ∧ a < key + p.got.length then p.got.getD (a - key) 0
          else if key ≤ a ∧ a < key + 0x4000 then 0 else memRead s.mem a) ∧
    (left = 0 → p.state ∉ ([.predicted, .inFlight] : List BufState) ∨ p.arrived = true → lands = .next s) ∧
    (0 < left → p.state ≠ .inFlight ∨ ¬released → lands = .next s) ∧
    (0 < left → p.state = .inFlight → released →
      (w.reach s addr .read = .error 0 → lands = .next s) ∧
      (∀ c, c ≠ 0 → w.reach s addr .read = .error c →
        lands = .next (put { p with state := .faulted, fault := some (c, addr) })) ∧
      (∀ t f, w.reach s addr .read = .ok (t, f) →
        (payOut s core p.ctx t false = none → lands = .next s) ∧
        (∀ pay, payOut s core p.ctx t false = some pay →
          (eRead w addr n s = .later → lands = .next s) ∧
          (∀ c v x us, eRead w addr n s = .fault c v x us → ∃ u, lands = .next u ∧ u.slots = s.slots ∧
            (coreAt u core).parison.get k = { p with state := .faulted, fault := some (c, v) }) ∧
          (∀ bs us, eRead w addr n s = .done bs us → bs.length = n → ∃ u, lands = .next u ∧ u.slots = s.slots ∧
            (n < left → (coreAt u core).parison.get k = { p with got := p.got ++ bs }) ∧
            (n = left → (coreAt u core).parison.get k = { p with got := p.got ++ bs, arrived := true, state := .landed } ∧
              ∀ x, x < (p.got ++ bs).length → memRead u.mem (key + x) = (p.got ++ bs).getD x 0)))))

end Sys2Proof.Certificates

section
open Sys2Proof Sys2Proof.Machine Sys2Proof.Certificates

/-- The predictor, its words, and the fetches into parison buffers. -/
def Obligations.Prediction : Prop :=
  PfetchWords ∧ PconfWords ∧ PredictorWords ∧ SpeculationLeavesNoTrace ∧ SpeculativeLines ∧ FetchesLand

end

/-! ## The drover -/

namespace Sys2Proof.Certificates
open Sys2Proof Sys2Proof.Machine

/-- AEJOB, AERES and AEABORT (R257, R258, R262, R263, Table 11.2). A descriptor outside Table 11.2 is a bad-engine-descriptor fault; a full
queue, which counts queued jobs only [log entry 74], is waited for; else the job is queued with ε and the round limit as they stand. AERES reads the job's progress, DONE once its status word has been
written; AEABORT marks a job that is not complete. Both need a drover handle. -/
def DroverWords : Prop :=
  ∀ (s : State) (core slot : Nat) (iss : Issue) (o : Option AOut), Issues s core slot iss o → ∀ (d a : Fin 32),
    let sl := slotAt s core slot
    let addr := gRead sl a
    let seq := startedJobs s core sl.ctx
    let illegal := fun (i : Instr) => Fails s core slot i 0x04 (iss.word0.zeroExtend 64)
    StructFails s core slot (.aejob d a) addr 64 64 ∧
    (∀ t bs us, ReadsStruct s core slot addr 64 64 t bs us →
      let z := applyAll s us
      let again := fun (c : Cond) => exec (.aejob d a) s = .next (retrying z core slot c none)
      let u := fun (off n : Nat) => leNat ((bs.drop off).take n)
      let good := u 0 8 % 4 = 0 ∧ u 0x10 8 % 4 = 0 ∧ u 0x20 8 % 8 = 0 ∧ 1 ≤ u 0x28 2 ∧ u 0x28 2 ≤ 256 ∧ 1 ≤ u 0x2A 2 ∧
        u 0x2A 2 ≤ 64 ∧ u 0x2C 4 % 4 = 0 ∧ 4 * u 0x2A 2 ≤ u 0x2C 4 ∧ ∀ b ∈ bs.drop 0x30, b = 0
      let queue := (s.jobs.filter (fun j => bandOf j.core == bandOf core && j.drover.isSome && j.state == .queued)).length
      let open_ := (s.jobs.filter (fun j => j.kind != 0 && j.core == core && j.ctx == sl.ctx && j.state != .done)).length
      (¬good → FailsAfter s z core slot (.aejob d a) 0x0C addr) ∧
      (good → 16 ≤ queue → again .droverRoom) ∧ (good → queue < 16 → 1024 ≤ open_ → again .jobRoom) ∧
      (good → queue < 16 → open_ < 1024 →
        let desc : DroverDesc := {
          addr := addr, score := word (u 0 8), caps := word (u 8 8), prices := word (u 0x10 8), results := word (u 0x18 8),
          status := word (u 0x20 8), n := u 0x28 2, m := u 0x2A 2, stride := u 0x2C 4,
          eps := sl.ctl.aeeps.setWidth 32, maxr := sl.ctl.aemaxr.toNat % 2 ^ 16 }
        let job : DroverJob := {
          desc := desc, score := [], cap := [], price := [], held := List.replicate desc.n none, rounds := 0, abort := false,
          started := false, loaded := false, wrote := 0, refusal := none }
        exec (.aejob d a) s = .next (ended (started z core slot 3 (.drover job)) core slot o
          (gWrite sl d (BitVec.ofNat 64 (3 * 65536 + seq % 65536))) iss.after))) ∧
    (let h := addr.toNat
     (2 ^ 20 ≤ h ∨ h / 65536 % 16 ≠ 3 ∨ seq ≤ h % 65536 → illegal (.aeres d a) ∧ illegal (.aeabort a)) ∧
     (h < 2 ^ 20 → h / 65536 = 3 → ∀ k, k < seq → k % 65536 = h % 65536 → seq ≤ k + 65536 →
      let record := s.jobs.find? (fun j => j.kind != 0 && j.core == core && j.ctx == sl.ctx && j.n == k)
      (record = none →
        exec (.aeres d a) s = .next (ended s core slot o (gWrite sl d 0x700000000) iss.after) ∧
        exec (.aeabort a) s = .next (ended s core slot o sl iss.after)) ∧
      (∀ j x, record = some j → j.body = .drover x →
        exec (.aeres d a) s = .next (ended s core slot o (gWrite sl d (BitVec.ofNat 64 (
          (if x.started then 2 ^ 33 else 0) + (if j.state = .done ∧ j.faulted = false then 2 ^ 32 else 0) +
          (x.held.filter (fun y => y.isNone)).length % 512 * 2 ^ 16 + x.rounds % 2 ^ 16))) iss.after) ∧
        (j.state = .done → exec (.aeabort a) s = .next (ended s core slot o sl iss.after)) ∧
        (j.state ≠ .done → ∃ u, exec (.aeabort a) s = .next (ended u core slot o sl iss.after) ∧
          { u with jobs := s.jobs } = s ∧ u.jobs.length = s.jobs.length ∧
          (jobAt s j.order = some j → jobAt u j.order = some { j with body := .drover { x with abort := true } })))))

/-- Saturation to 32 bits (R259). -/
def Sat (x : Int) : Int := max (-2147483648) (min x 2147483647)

/-- One round of the auction (R259, R260). `bids` is what R260's first loop gives an unassigned row: the lowest column of the greatest value,
and a bid above its price by what it is worth more than the next one, and ε. Each column keeps the highest of its bids, equal bids to
the lower row, up to its capacity; a column that is full then asks its lowest bid, and any other keeps its price. -/
def DroverRounds : Prop :=
  (∀ b, floatVal .fp32 b = .inf false → toQ b = 2147483647) ∧ (∀ b, floatVal .fp32 b = .inf true → toQ b = -2147483648) ∧
  (∀ b neg q p, floatVal .fp32 b = .nan neg q p → toQ b = -2147483648) ∧
  (∀ b neg m (e : Nat), floatVal .fp32 b = .num neg m ((e : Int) - 16) → toQ b = Sat ((if neg then -1 else 1) * (m * 2 ^ e : Nat))) ∧
  (∀ b neg m (k : Nat), floatVal .fp32 b = .num neg m (-(k : Int) - 17) → -2147483648 < toQ b → toQ b < 2147483647 →
    let off := 2 * (toQ b * 2 ^ (k + 1) - (if neg then -1 else 1) * (m : Int)).natAbs
    off ≤ 2 ^ (k + 1) ∧ (off = 2 ^ (k + 1) → toQ b % 2 = 0)) ∧
  ∀ (x : DroverJob), x.desc.n ≤ 256 → x.held.length = x.desc.n →
    (∀ j b, some (j, b) ∈ x.held → j < x.desc.m ∧ x.cap.getD j 0 ≠ 0 ∧ Sat b = b) →
    let open_ := fun (j : Nat) => j < x.desc.m ∧ x.cap.getD j 0 ≠ 0
    let price := fun (j : Nat) => x.price.getD j 0
    let value := fun (i j : Nat) => Sat ((x.score.getD i []).getD j 0 - price j)
    let first := fun (i j : Nat) => open_ j ∧ ∀ k, open_ k → value i k ≤ value i j ∧ (k < j → value i k < value i j)
    let second := fun (i j : Nat) (w : Int) => ((∀ k, open_ k → k = j) → w = value i j) ∧
      ((∃ k, open_ k ∧ k ≠ j) → (∃ k, open_ k ∧ k ≠ j ∧ w = value i k) ∧ ∀ k, open_ k → k ≠ j → value i k ≤ w)
    let bids := fun (i j : Nat) (b : Int) => first i j ∧ ∃ w, second i j w ∧
      b = Sat (Sat (price j + Sat (value i j - w)) + x.desc.eps.toInt)
    let claims := fun (i j : Nat) (b : Int) => i < x.desc.n ∧
      (x.held.getD i none = some (j, b) ∨ (x.held.getD i none = none ∧ bids i j b))
    let y := x.round
    (∀ i j b, y.held.getD i none = some (j, b) ↔ claims i j b ∧ ∃ l : List Nat, l.length < x.cap.getD j 0 ∧
      ∀ i' b', claims i' j b' → b < b' ∨ (b' = b ∧ i' < i) → i' ∈ l) ∧
    (∀ j, j < x.desc.m →
      let mine := (List.range x.desc.n).filter (fun i => (y.held.getD i none).any (fun h => h.1 == j))
      (open_ j → mine.length = x.cap.getD j 0 → (∃ i b, y.held.getD i none = some (j, b) ∧ y.price.getD j 0 = b) ∧
        ∀ i b, y.held.getD i none = some (j, b) → y.price.getD j 0 ≤ b) ∧
      (¬open_ j ∨ mine.length ≠ x.cap.getD j 0 → y.price.getD j 0 = price j)) ∧
    y.held.length = x.desc.n ∧ y.rounds = x.rounds + 1 ∧ y.desc = x.desc ∧ y.cap = x.cap ∧ y.score = x.score ∧
    y.abort = x.abort ∧ y.loaded = x.loaded ∧ y.refusal = x.refusal

/-- The drover's steps (R243, R257 to R261, R263). It takes the cores' jobs in turn, refuses an ε that is not positive, then a capacity below
the rows, and else reads its vectors; runs rounds until no row is open, the limit is met or the job is aborted; and writes prices and
results, if it ran, and the status word, each once: a write that waits for its page is where a resumed job goes on. A job aborted in the
queue writes its status word only, once its thread's stores have left; one aborted while it runs has the status LIMIT [log entry 34]. -/
def DroverRuns : Prop :=
  ∀ (s : State) (band : Nat), coreUp s (band / 8 * 576) = true → band < 32 →
    (∀ a b, a ∈ s.jobs → b ∈ s.jobs → a.order = b.order → a = b) →
    let mine := s.jobs.filter (fun j => bandOf j.core == band && j.drover.isSome && j.state != .done)
    let index := fun (j : Job) => j.core % 576 % 72
    let turn := fun (j : Job) => (index j + 143 - (bandAt s band).last % 72) % 72
    let starts := exec (.droverJobStart band) s
    let ends := exec (.droverJobEnd band) s
    let now := fun (j : Job) (u : State) => jobAt u j.order
    (∀ j x, nextDrover s band = some (j, x) → j ∈ mine ∧ j.body = .drover x ∧ j.ready s = true ∧ ¬(x.abort = true ∧ x.started = false) ∧
      ∀ k y, k ∈ mine → k.body = .drover y → k.ready s = true → ¬(y.abort = true ∧ y.started = false) →
        turn j ≤ turn k ∧ (k.core = j.core → j.order ≤ k.order)) ∧
    (runningDrover s band = none → nextDrover s band = none → starts = .next s) ∧
    (∀ j x, runningDrover s band = none → nextDrover s band = some (j, x) → x.loaded = false → x.refusal = none →
      x.desc.eps.toInt ≤ 0 → ∃ t, starts = .next t ∧ SameMemory s t ∧ (bandAt t band).last = index j ∧
        now j t = some { j with state := .running, body := .drover { x with started := true, refusal := some 3 } }) ∧
    (∀ j x, runningDrover s band = some (j, x) →
      (x.loaded = true ∨ x.refusal ≠ none → starts = .next s) ∧
      (x.loaded = false → x.refusal = none → 0 < x.desc.eps.toInt → ∀ rows caps ps u,
        let d := x.desc
        Whole s j ((List.range d.n).map (fun i => { addr := d.score + word (i * d.stride), len := 4 * d.m, kind := .read }) ++
            [{ addr := d.caps, len := d.m, kind := .read }, { addr := d.prices, len := 4 * d.m, kind := .read }])
          (eThen (eEach (fun i => eRead j.party (d.score + word (i * d.stride)) (4 * d.m)) (List.range d.n)) (fun rows =>
            eThen (eRead j.party d.caps d.m) (fun caps => eThen (eRead j.party d.prices (4 * d.m)) (fun ps =>
              eGive (rows, caps, ps))))) (rows, caps, ps) u →
        ∃ t, starts = .next t ∧ SameMemory u t ∧
        ((caps.map (fun b => b.toNat)).sum < d.n → (now j t).map (fun z => z.body) = some (.drover { x with refusal := some 2 })) ∧
        (d.n ≤ (caps.map (fun b => b.toNat)).sum → (now j t).map (fun z => z.body) = some (.drover { x with
          loaded := true
          cap := caps.map (fun b => b.toNat)
          score := rows.map (fun r => (chunks 4 r).map (fun b => toQ (leNat b)))
          price := (chunks 4 ps).map (fun b => (BitVec.ofNat 32 (leNat b)).toInt) }))) ∧
      let finished := x.refusal ≠ none ∨ (∀ h ∈ x.held, h ≠ none) ∨ x.desc.maxr ≤ x.rounds ∨ x.abort = true
      (x.loaded = true → ¬finished → ∃ t, exec (.droverRound band) s = .next t ∧ { t with jobs := s.jobs } = s ∧
        now j t = some { j with body := .drover x.round, info := x.rounds + 1 }) ∧
      (x.loaded = false ∨ finished → exec (.droverRound band) s = .next s)) ∧
    (∀ j x, (runningDrover s band = some (j, x) ∧ (∀ k ∈ mine, ∀ y, k.body = .drover y → k.ready s = true →
          ¬(y.abort = true ∧ y.started = false)) ∧ x.started = true ∨
        (mine.find? (fun k => k.ready s && k.drover.any (fun y => y.abort && !y.started)) = some j ∧
          j.body = .drover x)) →
      let finished := x.refusal ≠ none ∨ (x.loaded = true ∧
        ((∀ h ∈ x.held, h ≠ none) ∨ x.desc.maxr ≤ x.rounds ∨ x.abort = true)) ∨ (x.abort = true ∧ x.started = false)
      let opens := (x.held.filter (fun y => y.isNone)).length
      let status := x.refusal.getD (if opens = 0 ∧ x.abort = false then 0 else 1)
      let writes : List (Word × List Byte) :=
        (if x.loaded then
          [(x.desc.prices, x.price.flatMap (fun (p : Int) => leBytes 4 (p % 2 ^ 32).toNat)),
           (x.desc.results, x.held.map (fun h => BitVec.ofNat 8 ((h.map (fun y => y.1)).getD 255)))] else []) ++
        [(x.desc.status, leBytes 8 (opens * 2 ^ 32 + x.rounds * 2 ^ 16 + (if x.abort then 2 ^ 8 else 0) + status))]
      -- cut where 64-byte lines end, and without those that are written already
      let left := (writes.flatMap (fun w => (piecesOf w.1 w.2.length).map (fun q =>
        (q.1, (w.2.drop (q.1 - w.1).toNat).take q.2)))).drop x.wrote
      let spans : List Span := left.map (fun w => { addr := w.1, len := w.2.length, kind := .write })
      (¬finished → ends = .next s) ∧
      (finished → ∀ l u, Whole s j spans (eEach (fun w => eWrite j.party w.1 w.2) left) l u →
        ∃ t, ends = .next t ∧ SameMemory u t ∧ ∀ z ∈ t.jobs, z.order = j.order →
          z.state = .done ∧ z.status = status ∧ z.info = x.rounds ∧ z.faulted = j.faulted) ∧
      (finished → j.kind ≠ 0 → ∀ w before rest l u v b us, left = before ++ w :: rest →
        Whole s j spans (eEach (fun w => eWrite j.party w.1 w.2) before) l u → eWrite j.party w.1 w.2 u = .fault 0x07 v b us →
        ∃ t, ends = .next t ∧ SameMemory (applyAll u us) t ∧ ∃ z, now j t = some z ∧ z.state = .aside ∧
          z.body = .drover { x with wrote := x.wrote + before.length }))

end Sys2Proof.Certificates

section
open Sys2Proof Sys2Proof.Machine Sys2Proof.Certificates

/-- The drover: its words, its auction, and its steps. -/
def Obligations.Drover : Prop := DroverWords ∧ DroverRounds ∧ DroverRuns

end

/-! ## Expert slices, the KV tables, and tile pages -/

namespace Sys2Proof.Certificates
open Sys2Proof Sys2Proof.Machine

/-- Nothing but slices, jobs and the count of jobs has changed beside what the word's end changes. -/
def OnlySlices (s u t : State) : Prop :=
  t.slots = u.slots ∧ t.cores = u.cores ∧ SameMemory s t ∧ t.records = s.records ∧ t.issuing = none

/-- The slices of a context but one are as before. -/
def OtherSlices (s t : State) (ctx : Nat) (tags : List Nat) : Prop :=
  (∀ tag, tag ∉ tags → sliceAt t ctx tag = sliceAt s ctx tag) ∧ ∀ c, c ≠ ctx → ctxAt t c = ctxAt s c

/-- The victim of a fill (R266): resident, unpinned, with the lowest counter, and of equal ones the least recently used. -/
def VictimChosen (s : State) (core ctx : Nat) (v : Option Nat) : Prop :=
  let may := fun (x : Slice) => x ∈ (ctxAt s ctx).slices ∧ x.state = .resident ∧ x.pins = 0
  let count := fun (x : Slice) => counterNow s core ctx (tagCounter (ctxAt s ctx).escbase x.tag)
  (v = none → ∀ x, ¬may x) ∧
  (∀ tag, v = some tag → ∃ x, may x ∧ x.tag = tag ∧
    ∀ y, may y → count x < count y ∨ (count x = count y ∧ x.used ≤ y.used))

/-- What comes of a request for an absent slice, in a state `s` (R265 to R268): with room within the quota it fills; with a full quota it fills
in place of a victim, which is evicted; with no quota, or no victim, it is refused, and the pins that it was to earn are dropped. A pin's
fill is a job of kind 4 with a number of its own [log entry 37]. -/
def RoomSought (s t : State) (core ctx tag order pins : Nat) : Prop :=
  let quota := ((s.pkg.quotas.find? (fun q => q.1 == ctx)).map (fun q => q.2)).getD 0
  let held := ((ctxAt s ctx).slices.filter (fun x => x.state == .resident || x.state == .evicting ||
    (x.state == .filling && x.victim.isNone))).length
  let x := sliceAt t ctx tag
  let refused := x.state = .absent ∧ x.pins = pins ∧ OtherSlices s t ctx [tag] ∧
    (jobAt t order).map (fun j => (j.state, j.status)) = some (.done, 5)
  let fills := fun (victim : Option Nat) => x.state = .filling ∧ x.victim = victim ∧
    (jobAt t order).map (fun j => j.state) = some .queued
  (held < quota → fills none ∧ OtherSlices s t ctx [tag]) ∧
  (quota = 0 ∨ quota < held → refused) ∧
  (0 < quota → quota = held → ∃ v, VictimChosen s core ctx v ∧ (v = none → refused) ∧
    (∀ k, v = some k → fills (some k) ∧ (sliceAt t ctx k).state = .evicting ∧ OtherSlices s t ctx [tag, k]))

/-- ESCREQ, ESCPIN, ESCUNPIN, ESCHIST and ESCQ at issue (R265, R267 to R271, Table 11.6). With ESCBASE zero each is a permission fault, whose
value the spec does not give (log entry 5). A request or pin of an evicting slice makes it resident again; a request of a resident one
is complete at once. -/
def SliceWords : Prop :=
  ∀ (s : State) (core slot : Nat) (iss : Issue) (o : Option AOut), Issues s core slot iss o →
    (∀ j ∈ s.jobs, j.order < s.tick) → OneRowATag s (slotAt s core slot).ctx → ∀ (d a b n : Fin 32),
    let sl := slotAt s core slot
    let ctx := sl.ctx
    let base := (ctxAt s ctx).escbase
    let v := gRead sl a
    let tag := v.toNat
    let x := sliceAt s ctx tag
    let asks := fun (j : Job) => j.ctx = ctx ∧ j.state ≠ .done ∧ ∃ pin line, j.body = .slice tag pin line
    let word0 := iss.word0.zeroExtend 64
    let words : List Instr := [.escreq d a, .escpin a, .escunpin a, .eschist a b n, .escq d a]
    let open_ := (s.jobs.filter (fun j => j.kind != 0 && j.core == core && j.ctx == ctx && j.state != .done)).length
    (base = 0 → ∀ i ∈ words, exec i s = .next (stepEnd { s with tick := s.tick + 1 } (raiseC core slot
      { cause := 0x08, value := Config.freeWord s.tick, write := false }))) ∧
    (base ≠ 0 →
      (2 ^ 26 ≤ tag → ∀ i ∈ ([.escreq d a, .escpin a, .escunpin a] : List Instr), Fails s core slot i 0x04 word0) ∧
      (tag < 2 ^ 26 →
        (1024 ≤ open_ → exec (.escreq d a) s = .next (retrying s core slot .jobRoom none)) ∧
        (open_ < 1024 →
          let u := ended (started s core slot 4 (.slice tag false 0)) core slot o
            (gWrite sl d (BitVec.ofNat 64 (4 * 65536 + startedJobs s core ctx % 65536))) iss.after
          ∃ t, exec (.escreq d a) s = .next t ∧ OnlySlices s u t ∧
          (x.state = .resident → t.ctxs = s.ctxs ∧ (jobAt t s.tick).map (fun j => (j.state, j.status)) = some (.done, 0)) ∧
          (x.state = .filling → t.ctxs = s.ctxs ∧ (jobAt t s.tick).map (fun j => j.state) = some .queued) ∧
          (x.state = .evicting → (sliceAt t ctx tag).state = .resident ∧ (sliceAt t ctx tag).pins = x.pins ∧
            (jobAt t s.tick).map (fun j => (j.state, j.status)) = some (.done, 0)) ∧
          -- a fill's choice of its victim follows the thread's earlier stores
          (x.state = .absent → (∀ j ∈ s.jobs, ¬asks j) → x.pinned = 0 → sl.sbIn ≤ sl.sbOut →
            RoomSought (started s core slot 4 (.slice tag false 0)) t core ctx tag s.tick x.pins) ∧
          (x.state = .absent → (∀ j ∈ s.jobs, ¬asks j) → sl.sbOut < sl.sbIn → t.ctxs = s.ctxs ∧
            (jobAt t s.tick).map (fun j => j.state) = some .queued)) ∧
        (65535 ≤ x.pins → Fails s core slot (.escpin a) 0x04 word0) ∧
        (x.pins < 65535 →
          (x.state ≠ .absent → ∃ t, exec (.escpin a) s = .next t ∧ OnlySlices s (ended s core slot o sl iss.after) t ∧
            (sliceAt t ctx tag).pins = x.pins + 1 ∧
            (sliceAt t ctx tag).state = (if x.state = .evicting then .resident else x.state) ∧
            (x.state ≠ .evicting → OtherSlices s t ctx [tag])) ∧
          (x.state = .absent → (∃ j ∈ s.jobs, asks j) → ∃ t, exec (.escpin a) s = .next t ∧
            OnlySlices s (ended s core slot o sl iss.after) t ∧ (sliceAt t ctx tag).pins = x.pins + 1 ∧
            -- the pin goes with the others if that fill fails
            (sliceAt t ctx tag).pinned = x.pinned + 1 ∧ (sliceAt t ctx tag).state = .absent ∧ OtherSlices s t ctx [tag]) ∧
          (x.state = .absent → (∀ j ∈ s.jobs, ¬asks j) → ∃ t,
            exec (.escpin a) s = .next t ∧
            OnlySlices s (ended (started s core slot 4 (.slice tag true 0)) core slot o sl iss.after) t ∧
            (sl.sbIn ≤ sl.sbOut → RoomSought (started s core slot 4 (.slice tag true 0)) t core ctx tag s.tick (x.pins - x.pinned) ∧
              ((sliceAt t ctx tag).state = .filling → (sliceAt t ctx tag).pins = x.pins + 1)) ∧
            (sl.sbOut < sl.sbIn → (sliceAt t ctx tag).state = .absent ∧ (sliceAt t ctx tag).pins = x.pins + 1 ∧
              (jobAt t s.tick).map (fun j => j.state) = some .queued))) ∧
        (∃ t, exec (.escunpin a) s = .next t ∧ OnlySlices s (ended s core slot o sl iss.after) t ∧
          (sliceAt t ctx tag).pins = x.pins - 1 ∧ (sliceAt t ctx tag).state = x.state ∧ OtherSlices s t ctx [tag])) ∧
      (let w := (gRead sl b).toNat
       let count := w / 2 ^ 16 % 2 ^ 11
       let bad := 2 ^ 27 ≤ w ∨ w / 2 ^ 10 % 2 ^ 6 ≠ 0 ∨ count = 0 ∨ 1024 < count ∨ 2 ≤ n.val
       (bad → Fails s core slot (.eschist a b n) 0x04 word0) ∧
       (¬bad → ∀ ts, checkPieces s core slot v 2 .read count = .ok ts → exec (.eschist a b n) s =
          .next (waiting s core slot o sl (.eschist v (w % 2 ^ 10) count (n.val == 1) [])))) ∧
      (let l := (ctxAt s ctx).slices
       v = 0x100000000 → exec (.escq d a) s = .next (ended s core slot o (gWrite sl d (BitVec.ofNat 64 (
          (l.filter (fun y => y.pins != 0)).length % 65536 * 2 ^ 32 +
          (l.filter (fun y => y.state == .resident)).length % 65536 * 2 ^ 16 +
          ((s.pkg.quotas.find? (fun q => q.1 == ctx)).map (fun q => q.2)).getD 0 % 65536))) iss.after)) ∧
      (2 ^ 26 ≤ tag → v ≠ 0x100000000 → Fails s core slot (.escq d a) 0x04 word0) ∧
      (tag < 2 ^ 26 →
        let addr := base - 0x200000 + BitVec.ofNat 64 (2048 * (tag / 2 ^ 16) + 2 * (tag / 2 ^ 6 % 2 ^ 10))
        StructFails s core slot (.escq d a) addr 2 2 ∧
        (∀ t bs us, ReadsStruct s core slot addr 2 2 t bs us → exec (.escq d a) s = .next (ended (applyAll s us) core slot o (gWrite sl d
          (BitVec.ofNat 64 (leNat bs * 2 ^ 32 + x.pins * 2 ^ 16 + (match x.state with
            | .absent => 0 | .filling => 1 | .resident => 2 | .evicting => 3)))) iss.after))))

/-- The end of an ESCHIST, of a fill, and of an eviction (R100, R266, R267, R269, R271). How a fill reads its lines, and which reads hold an
eviction up, is log entry 35. An ESCHIST's counters are those at their home. Each is halved if asked, then raised by its
count, up to 0xFFFF. A fill that has waited for its thread's stores seeks room; one whose lines are all read makes its slice resident
and its requests complete. A victim goes once no load that began before its eviction has still to read a byte of it, and the fill that
waits for its room goes on. -/
def SlicesRun : Prop :=
  (∀ (s : State) (core slot : Nat) (iss : Issue) (o : Option AOut), Waits s core slot iss o → coreUp s core = true → slot < 16 →
    ∀ (addr : Word) (layer count : Nat) (halve : Bool),
    let sl := slotAt s core slot
    let w := slotAgent s core slot
    let table := (ctxAt s sl.ctx).escbase - 0x200000 + BitVec.ofNat 64 (2048 * layer)
    let n := if halve then 1024 else count
    let event := exec (.loadDataReturn core slot) s
    ∀ paid, sl.wait = .eschist addr layer count halve paid →
    (sl.sb ≠ [] ∨ releasable s core 6 = false → event = .next s) ∧
    (sl.sb = [] → releasable s core 6 = true → ∀ p us vs cs xs ys zs u,
      payLines w ((piecesOf addr (2 * count)).map (fun q => (q.1, q.2, .read)) ++
        (piecesOf table (2 * n)).map (fun q => (q.1, q.2, .write))) paid s = (true, p, us) →
      eRead w addr (2 * count) (applyAll s us) = .done vs xs →
      eReadAs w w.homeReader table (2 * n) (applyAll (applyAll s us) xs) = .done cs ys →
      let old := fun (e : Nat) => leNat ((cs.drop (2 * e)).take 2)
      let add := fun (e : Nat) => if e < count then leNat ((vs.drop (2 * e)).take 2) else 0
      eWrite w table ((List.range n).flatMap (fun e => leBytes 2 (min ((if halve then old e / 2 else old e) + add e) 0xFFFF)))
        (applyAll (applyAll (applyAll s us) xs) ys) = .done () zs →
      u = applyAll (applyAll (applyAll (applyAll s us) xs) ys) zs →
      (∀ iss' o', Waits u core slot iss' o' → event = .next (closed u core slot o' (slotAt u core slot) iss'.after)))) ∧
  (∀ (s : State) (ctx tag : Nat), running s = true → OneRowATag s ctx →
    let x := sliceAt s ctx tag
    let waiting_ := s.jobs.filter (fun j => j.ctx == ctx && j.state != .done && (match j.body with
      | .slice t _ _ => t == tag
      | _ => false))
    let fill := exec (.sliceFillComplete ctx tag) s
    let goes := exec (.sliceEvictionComplete ctx tag) s
    (x.state ∉ ([.absent, .filling] : List SliceState) ∨ (x.state = .filling ∧ x.victim ≠ none) ∨ waiting_ = [] → fill = .next s) ∧
    (x.state = .absent → ∀ j line, fillJob s ctx tag = some (j, line) →
      (j.released s = false → fill = .next s) ∧
      (j.released s = true → j.state = .queued → startedJobs s j.core j.ctx ≤ j.n + 1024 →
        (∀ a b, a ∈ s.jobs → b ∈ s.jobs → a.order = b.order → a = b) →
        ∃ t, fill = .next t ∧ SameMemory s t ∧ RoomSought s t j.core ctx tag j.order (x.pins - x.pinned))) ∧
    (x.state = .filling → x.victim = none → ∀ j line, fillJob s ctx tag = some (j, line) →
      j ∈ waiting_ ∧ (∀ k ∈ waiting_, j.order ≤ k.order) ∧
      (j.state = .aside → fill = .next s) ∧
      (j.state ≠ .aside → coreUp s j.core = true → j.released s = true →
        let r := readSlice j tag 16384 line s
        r.fault = none → ∃ t, fill = .next t ∧ SameMemory (applyAll s r.us) t ∧
        (16384 ≤ r.line → (sliceAt t ctx tag).state = .resident ∧ (sliceAt t ctx tag).pins = x.pins ∧
          OtherSlices s t ctx [tag] ∧ ∀ z ∈ t.jobs, (∃ k ∈ waiting_, k.order = z.order) → z.state = .done ∧ z.status = 0) ∧
        (r.line < 16384 → sliceAt t ctx tag = x))) ∧
    (x.state ≠ .evicting ∨ sliceRead s ctx tag = true → goes = .next s) ∧
    (x.state = .evicting → sliceRead s ctx tag = false → ∃ t, goes = .next t ∧ { t with ctxs := s.ctxs } = s ∧
      (sliceAt t ctx tag).state = .absent ∧ (sliceAt t ctx tag).pins = x.pins ∧
      ∀ k, k ≠ tag → sliceAt t ctx k = (if (sliceAt s ctx k).victim = some tag
        then { sliceAt s ctx k with victim := none } else sliceAt s ctx k)))

/-- KVXL, KVINS, KVDEL, KVEXP and KVIMP at issue (R273 to R278). -/
def KvWords : Prop :=
  ∀ (s : State) (core slot : Nat) (iss : Issue) (o : Option AOut), Issues s core slot iss o → ∀ (d a b : Fin 32),
    let sl := slotAt s core slot
    let x := gRead sl a
    let y := gRead sl b
    let word0 := iss.word0.zeroExtend 64
    let open_ := (s.jobs.filter (fun j => j.kind != 0 && j.core == core && j.ctx == sl.ctx && j.state != .done)).length
    let starts := fun (i : Instr) (body : JobBody) =>
      (1024 ≤ open_ → exec i s = .next (retrying s core slot .jobRoom none)) ∧
      (open_ < 1024 → exec i s = .next (ended (started s core slot 5 body) core slot o
        (gWrite sl d (BitVec.ofNat 64 (5 * 65536 + startedJobs s core sl.ctx % 65536))) iss.after))
    (∀ p ∈ ([(.kvxl d a b, 0), (.kvins d a b, 1), (.kvdel d a b, 2)] : List (Instr × Nat)),
      (2 ^ 32 ≤ x.toNat ∨ 2 ^ 32 ≤ y.toNat → Fails s core slot p.1 0x04 word0) ∧
      (x.toNat < 2 ^ 32 → y.toNat < 2 ^ 32 → exec p.1 s = .next (waiting s core slot o sl
        (.kv p.2 d (x.setWidth 32) (y.setWidth 32) [])))) ∧
    (let n := y.toNat / 2 ^ 32
     (n = 0 ∨ 4096 < n → Fails s core slot (.kvexp d a b) 0x04 word0) ∧
     (0 < n → n ≤ 4096 → x.toNat % 64 ≠ 0 → Fails s core slot (.kvexp d a b) 0x05 x) ∧
     (0 < n → n ≤ 4096 → x.toNat % 64 = 0 → starts (.kvexp d a b) (.kvExport x (y.setWidth 32) n s.pkg.key))) ∧
    (x.toNat % 64 ≠ 0 → Fails s core slot (.kvimp d a) 0x05 x) ∧
    (x.toNat % 64 = 0 → starts (.kvimp d a) (.kvImport x s.pkg.key))

/-- A state with the fields that an operation of the table writes. -/
def withFields (s : State) (l : KvWrites) : State := { s with mem := memWriteAll s.mem (l.flatMap (fun x => cellsAt x.1 x.2)) }

/-- The table's operations (R272 to R276, R278). Where the table lies is a physical address [log entry 41]. A search takes the bucket's eight probes and then its chain, and finds the first entry that maps
the block for the tenant. KVXL writes nothing and gives its index or −1. KVINS adds a use to what KVXL finds, or fills the first free
probe; KVXL then finds that entry. KVDEL takes a use away. Each is one step once the thread's stores are visible. -/
def KvTables : Prop :=
  (∀ (s : State) (ctx seq block : Nat), s.Canonical → seq < 2 ^ 32 → block < 2 ^ 32 →
    ∀ t f, (kvHeader s ctx).result = .ok t → (kvSearch s t seq block).result = .ok f →
    let found := fun (p : Nat × KvEntry) => p.2.count ≠ 0 ∧ p.2.seq = seq ∧ p.2.block = block ∧ p.2.tenant = t.tenant
    let op := fun (u : State) (n : Nat) => (kvOperation u ctx n seq block).result
    let stored := withFields s
    f.home = (seq * 2 ^ 32 + block) * 0x9E3779B97F4A7C15 % 2 ^ 64 / 2 ^ 32 % t.home ∧
    f.probes.map (fun p => p.1) = (List.range 8).map (fun k => (f.home + k) % t.home) ∧
    (f.hit = none → (∀ p ∈ f.probes ++ f.chain, ¬found p) ∧ op s 0 = .ok (-1, []) ∧ op s 2 = .ok (-1, [])) ∧
    (∀ p, f.hit = some p → found p ∧ p ∈ f.probes ++ f.chain ∧ op s 0 = .ok ((p.1 : Int), []) ∧
      (p.2.count = 0xFFFF → op s 1 = .ok (-2, [])) ∧
      (p.2.count < 0xFFFF → ∃ cells, op s 1 = .ok (((p.1 + (p.2.count + 1) * 2 ^ 32 : Nat) : Int), cells) ∧
        op (stored cells) 0 = .ok ((p.1 : Int), [])) ∧
      (∃ cells, op s 2 = .ok (((p.1 + (p.2.count - 1) * 2 ^ 32 : Nat) : Int), cells) ∧
        (1 < p.2.count → op (stored cells) 0 = .ok ((p.1 : Int), [])))) ∧
    (f.hit = none → ∀ p, f.probes.find? (fun p => p.2.count == 0) = some p → ∃ cells,
      op s 1 = .ok (((p.1 + 2 ^ 32 : Nat) : Int), cells) ∧ op (stored cells) 0 = .ok ((p.1 : Int), [])) ∧
    (f.hit = none → (∀ p ∈ f.probes, p.2.count ≠ 0) → t.free = 0xFFFFFFFF → op s 1 = .ok (-1, [])) ∧
    (f.hit = none → (∀ p ∈ f.probes, p.2.count ≠ 0) → t.free ≠ 0xFFFFFFFF → ∀ e, (kvEntry s t t.free).result = .ok e →
      ∃ cells, op s 1 = .ok (((t.free + 2 ^ 32 : Nat) : Int), cells))) ∧
  (∀ (s : State) (ctx op seq block : Nat), (ctxAt s ctx).kvtable = 0 → (kvOperation s ctx op seq block).result = .error (0x0C, 0)) ∧
  (∀ (s : State) (core slot : Nat) (iss : Issue) (o : Option AOut), Waits s core slot iss o → coreUp s core = true → slot < 16 →
    let sl := slotAt s core slot
    let event := exec (.kvTranslatorOp core slot) s
    ∀ op d seq block paid, sl.wait = .kv op d seq block paid →
    (sl.sb ≠ [] ∨ dieSettled s (dieOf core) = false → event = .next s) ∧
    (sl.sb = [] → dieSettled s (dieOf core) = true →
      let r := kvOperation s sl.ctx op seq.toNat block.toNat
      ∀ p us, payKeys (flockOf core) sl.ctx r.lines paid s = (true, p, us) →
      let u := applyAll s us
      (∀ c x, r.result = .error (c, x) → event = .next (after (raiseC core slot
        { cause := c, value := word x, write := false }) u)) ∧
      (∀ v cells, r.result = .ok (v, cells) → ∃ t, event = .next t ∧ t.mem = (withFields s cells).mem ∧
        t.slots = (closed s core slot o (gWrite sl d (BitVec.ofInt 64 v)) iss.after).slots)))

/-- The ends of KVEXP and KVIMP (R277, R278, R369). Without a session key either is refused; the key is the one that the job keeps, and its
bytes stand as log entry 39 says. An export writes its record, with a MAC only if every block was found, and one that a fault ends has in INFO
the blocks that it wrote; an import that does not hold in every point of R278 is refused and changes nothing, and else adds a use to each entry. -/
def PrefixRecords : Prop :=
  (∀ (s : State) (core ctx n : Nat) (j : Job), coreUp s core = true → kvJob s core ctx n = some j → jobAt s j.order = some j →
    (∀ a b, a ∈ s.jobs → b ∈ s.jobs → a.order = b.order → a = b) →
    let ends := fun (t : State) (status info : Nat) => ∀ z ∈ t.jobs, z.order = j.order →
      z.state = .done ∧ z.status = status ∧ z.info = info
    (∀ addr seq count, j.body = .kvExport addr seq count none → ∃ t, exec (.kvExportJob core ctx n) s = .next t ∧
      { t with jobs := s.jobs } = s ∧ ends t 5 j.info) ∧
    (∀ addr seq count key, j.body = .kvExport addr seq count (some key) →
      let look := exportBlocks s j.ctx seq.toNat count
      (∀ l ∈ look.lines, l ∈ j.paid) → ∀ blocks, look.result = .ok blocks →
      let body := recordBytes (ctxAt s j.ctx) seq.toNat blocks
      let whole := 0xFFFFFFFF ∉ blocks
      let bytes := body ++ (if whole then hmac (keyBytes key) body else List.replicate 32 0)
      (∀ p us, payLines j.party ((piecesOf addr (recordSize count + 32)).map (fun q => (q.1, q.2, .write))) j.paid s =
        (true, p, us) → (exportBlocks (applyAll s us) j.ctx seq.toNat count).result = .ok blocks) →
      (∀ u, Whole s j [{ addr := addr, len := recordSize count + 32, kind := .write }] (writeRecord j addr count bytes) () u →
        ∃ t, exec (.kvExportJob core ctx n) s = .next t ∧ SameMemory u t ∧ ends t (if whole then 0 else 4) count) ∧
      (∀ p us, payLines j.party ((piecesOf addr (recordSize count + 32)).map (fun q => (q.1, q.2, .write))) j.paid s = (true, p, us) →
        ∀ c v b vs, c ≠ 0x07 → writeRecord j addr count bytes (applyAll s us) = .fault c v b vs →
        ∃ t, exec (.kvExportJob core ctx n) s = .next t ∧ ∀ z ∈ t.jobs, z.order = j.order → z.state = .done ∧ z.faulted = true ∧
          z.info = (if v = addr then j.info else min count (((v - addr).toNat - 0x40) / 4)))) ∧
    (∀ addr key, j.body = .kvImport addr key → (∀ l ∈ importLines s j addr key, l ∈ j.paid) → ∀ head hs,
      eRead j.party addr 0x40 s = .done head hs →
      ∀ r u, Whole s j [{ addr := addr, len := recordSize (min (leNat ((head.drop 0x2C).take 4)) 4096) + 32, kind := .read }]
        (eRecord j addr) r u →
      (key = none → ∃ t, exec (.kvImportJob core ctx n) s = .next t ∧ SameMemory u t ∧ ends t 5 j.info) ∧
      (∀ k, key = some k →
        let w := (importWrites u j.ctx k r.1 r.2).result
        (w = .ok none → ∃ t, exec (.kvImportJob core ctx n) s = .next t ∧ SameMemory u t ∧ ends t 5 j.info) ∧
        (∀ cells, w = .ok (some cells) → ∃ t, exec (.kvImportJob core ctx n) s = .next t ∧
          t.mem = (withFields u cells).mem ∧ ends t 0 (leNat ((r.1.drop 0x2C).take 4)))))) ∧
  (∀ (s : State) (ctx : Nat) (key : Vector Word 4) (body mac : List Byte),
    let refused := (importWrites s ctx key body mac).result = .ok none
    let c := ctxAt s ctx
    (body.take 0x2A ≠ leBytes 8 c.sessModel.toNat ++ c.sessDigest.toList.flatMap (fun w => leBytes 8 w.toNat) ++
      leBytes 2 (c.sessTenant.toNat % 2 ^ 16) → refused) ∧
    ((∀ b ∈ mac, b = 0) → refused) ∧ (hmac (keyBytes key) body ≠ mac → refused) ∧
    (∀ t f x, (kvHeader s ctx).result = .ok t → (kvEntry s t x).result = .ok f → x < t.home + t.beyond →
      leNat ((body.drop 0x40).take 4) = x → 0 < leNat ((body.drop 0x2C).take 4) →
      f.count = 0 ∨ f.seq ≠ leNat ((body.drop 0x30).take 4) ∨ f.block ≠ 0 ∨ f.tenant ≠ t.tenant ∨ f.count = 0xFFFF → refused))

/-- PCOMMIT, PDECOMMIT and PPROBE at issue (R213 to R215, R350, Table 9.9). The address is checked, and its page must be a tile page. PCOMMIT waits
for its end; PDECOMMIT of a committed page unmaps it: V, A and D are clear and FREEING is set in its sixteen leaves, and one more frame
is pending; PPROBE reads the page's state and the pool's frames, in the one order of its page's commits (R216). -/
def TileWords : Prop :=
  ∀ (s : State) (core slot : Nat) (iss : Issue) (o : Option AOut), Issues s core slot iss o → ∀ (d a : Fin 32),
    let sl := slotAt s core slot
    let ctx := sl.ctx
    let addr := gRead sl a
    let va := addr.toNat
    let region := regionOf va
    let words : List Instr := [.pcommit d a, .pdecommit d a, .pprobe d a]
    let all := fun (cause : Nat) => ∀ i ∈ words, Fails s core slot i cause addr
    let barred := region = .reserved ∨ (sl.pair = .execute ∧ region ∈ ([.pad, .parison, .aperture] : List Region))
    (barred → all 0x06) ∧ (¬barred → va % 65536 ≠ 0 → all 0x05) ∧
    (¬barred → va % 65536 = 0 → region ≠ .ordinary → all 0x06) ∧
    (va % 65536 = 0 → region = .ordinary →
      let leaves := tileLeaves s (slotWalker s core slot) va
      (leaves = .error 0 → ∀ i ∈ words, exec i s = .next (retrying s core slot .tablesClear none)) ∧
      (∀ c, c ≠ 0 → leaves = .error c → all c) ∧
      (∀ t, leaves = .ok t →
        let pool := poolOf s sl.ctx
        exec (.pcommit d a) s = .next (waiting s core slot o sl (.pcommit d addr [])) ∧
        -- PDECOMMIT and PPROBE act on the leaves as they stand at their home, after its die's own stores to them
        let clear := dieBusy s (dieOf core) t.addr 128 = false
        let home := fun (k : Nat) => memNat s (t.addr + 8 * k) 8
        (¬clear → exec (.pdecommit d a) s = .next (retrying s core slot .tablesClear none)) ∧
        (clear → ¬(home 0).testBit 0 → exec (.pdecommit d a) s = .next (ended s core slot o (gWrite sl d 1) iss.after)) ∧
        (clear → (home 0).testBit 0 = true → s.Canonical →
          (∀ p, pool = some p → p.header + 64 ≤ t.addr ∨ t.addr + 128 ≤ p.header) →
          ∃ u clock, exec (.pdecommit d a) s = .next u ∧ u.slots = (ended s core slot o (gWrite sl d 0) iss.after).slots ∧
          (∀ k, k < 16 → BitVec.ofNat 64 (memNat u (t.addr + 8 * k) 8) =
            (BitVec.ofNat 64 (home k) &&& ~~~0x861) ||| 0x800) ∧
          (∀ p, pool = some p → memNat u (p.header + 0x10) 4 = (p.pending + 1) % 2 ^ 32) ∧
          (ctxAt u ctx).freeing = (ctxAt s ctx).freeing ++ [{ page := va, core := core, slot := slot, mark := sl.sbIn, clock := clock }] ∧
          (∀ n, ¬(t.addr ≤ n ∧ n < t.addr + 128) → (∀ p, pool = some p → ¬(p.header + 0x10 ≤ n ∧ n < p.header + 0x14)) →
            memRead u.mem n = memRead s.mem n)) ∧
        (¬clear → exec (.pprobe d a) s = .next (retrying s core slot .tablesClear none)) ∧
        (clear → let bit := fun (k : Nat) => (home 0).testBit k = true
        exec (.pprobe d a) s = .next (ended s core slot o (gWrite sl d (BitVec.ofNat 64 (
          min ((pool.map (fun p => p.top)).getD 0) 0xFFFF * 2 ^ 32 + (if bit 0 ∧ bit 6 then 8 else 0) +
          (if bit 0 ∧ bit 5 then 4 else 0) + (if bit 0 then 1 else if bit 11 then 2 else 0)))) iss.after))))

/-- The end of a commit, and of a decommit (R213, R214, R349 to R351). A page that awaits invalidation is waited for; one that is present gives 1,
an empty pool 2; else a frame is popped, zeroed and mapped, and gives 0. Once no access uses a freed page's translations, those of any of its
sixteen pages, they are gone from every core, flock and die with what was fetched through them [log entry 33], and its frame is pushed if the pool
has room. A header or frame outside silo memory is 0x0C at the header [log entry 40]. -/
def TilePagesRun : Prop :=
  (∀ (s : State) (core slot : Nat) (iss : Issue) (o : Option AOut), Waits s core slot iss o → coreUp s core = true → slot < 16 →
    s.Canonical → ∀ (d : Fin 32) (addr : Word) (paid : List Nat) (t : TileLeaves),
    let sl := slotAt s core slot
    let event := exec (.pcommitComplete core slot) s
    let home := fun (k : Nat) => memNat s (t.addr + 8 * k) 8
    let bit := fun (k : Nat) => (home 0).testBit k = true
    let answers := fun (v : Word) => event = .next (closed s core slot o (gWrite sl d v) iss.after)
    sl.wait = .pcommit d addr paid → tileLeaves s (slotWalker s core slot) addr.toNat = .ok t →
    (bit 11 ∨ sl.sb ≠ [] ∨ dieSettled s (dieOf core) = false → event = .next s) ∧
    (sl.sb = [] → dieSettled s (dieOf core) = true →
    (¬bit 11 → bit 0 → answers 1) ∧
    (¬bit 11 → ¬bit 0 → poolOf s sl.ctx = none → answers 2) ∧
    (¬bit 11 → ¬bit 0 → ∀ p, poolOf s sl.ctx = some p →
      let raises := fun (c : Nat) => event = .next (after (raiseC core slot
        { cause := c, value := word p.header, write := false }) s)
      let frame := memNat s (p.stack + 8 * (p.top - 1)) 8
      (siloEnd ≤ p.header → raises 0x0C) ∧
      (p.header < siloEnd → poisonedIn s p.header 64 = true → raises 0x0A) ∧
      (p.header < siloEnd → poisonedIn s p.header 64 = false →
        (p.top = 0 → answers 2) ∧
        (0 < p.top → frame % 65536 ≠ 0 ∨ siloEnd ≤ frame + 65535 → raises 0x0C) ∧
        (0 < p.top → frame % 65536 = 0 → frame + 65535 < siloEnd → ∀ q us,
          payKeys (flockOf core) sl.ctx ((List.range 512).map (fun k => frame / 128 + k)) paid s = (true, q, us) →
          (frame + 65536 ≤ t.addr ∨ t.addr + 128 ≤ frame) → (frame + 65536 ≤ p.header ∨ p.header + 64 ≤ frame) →
          (p.header + 64 ≤ t.addr ∨ t.addr + 128 ≤ p.header) →
          ∃ u, event = .next u ∧ u.slots = (closed s core slot o (gWrite sl d 0) iss.after).slots ∧
            (∀ n, frame ≤ n → n < frame + 65536 → memRead u.mem n = 0) ∧ memNat u p.header 4 = p.top - 1 ∧
            (∀ k, k < 16 → BitVec.ofNat 64 (memNat u (t.addr + 8 * k) 8) =
              (BitVec.ofNat 64 (home k) &&& ~~~0x000FFFFFFFFFF861) ||| BitVec.ofNat 64 (frame + 4096 * k) ||| 1)))))) ∧
  (∀ (s : State) (ctx page : Nat), running s = true → s.Canonical →
    let event := exec (.pdecommitInvalidationDone ctx page) s
    let covers := fun (t : TlbEntry) => t.ctx = ctx ∧ t.va < page + 65536 ∧ page < t.va + t.size
    let gone := heldGone s (List.range 4) ctx (.range page 65536)
    let row := (ctxAt s ctx).freeing.find? (fun f => f.page == page)
    (row = none ∨ stillUsed s ctx gone = true → event = .next s) ∧
    (∀ f, row = some f → stillUsed s ctx gone = false → ∃ u, event = .next u ∧
      (∀ k, k < 4 → ∀ t ∈ (dieAt u k).tlb, ¬covers t) ∧
      (∀ c, dieOf c < 4 → (∀ t ∈ (coreAt u c).tlb, ¬covers t) ∧ ∀ x ∈ (coreAt u c).code, ¬(x.ctx = ctx ∧ page ≤ x.va ∧
        x.va < page + 65536)) ∧
      (∀ f, dieOf (f * 8) < 4 → ∀ t ∈ (flockAt u f).tlb, ¬covers t) ∧
      ∀ t p, tileLeaves s (homeWalker s ctx) page = .ok t → poolOf s ctx = some p → (t.bits.headD 0).testBit 11 = true →
        -- the push follows what its PDECOMMIT followed (R349)
        (p.cap ≤ p.top ∨ f.released s = false → SameMemory s u ∧ (ctxAt u ctx).freeing = (ctxAt s ctx).freeing) ∧
        (p.top < p.cap → f.released s = true → p.header < siloEnd → poisonedIn s p.header 64 = false → t.bits.length = 16 →
          (∀ b ∈ t.bits, b < 2 ^ 64) →
          let place := p.stack + 8 * p.top
          (place + 8 ≤ p.header ∨ p.header + 64 ≤ place) → (place + 8 ≤ t.addr ∨ t.addr + 128 ≤ place) →
          (p.header + 64 ≤ t.addr ∨ t.addr + 128 ≤ p.header) →
          (ctxAt u ctx).freeing = (ctxAt s ctx).freeing.erase f ∧
          memNat u place 8 = t.bits.headD 0 / 2 ^ 12 % 2 ^ 40 * 2 ^ 12 ∧ memNat u p.header 4 = (p.top + 1) % 2 ^ 32 ∧
          memNat u (p.header + 0x10) 4 = p.pending - 1 ∧
          (∀ k, k < 16 → BitVec.ofNat 64 (memNat u (t.addr + 8 * k) 8) =
            BitVec.ofNat 64 (t.bits.getD k 0) &&& ~~~0x000FFFFFFFFFF800))))

end Sys2Proof.Certificates

section
open Sys2Proof Sys2Proof.Machine Sys2Proof.Certificates

/-- Expert slices: their words, fills and evictions. -/
def Obligations.ExpertSlices : Prop := SliceWords ∧ SlicesRun

/-- The KV block translator and its prefix records. -/
def Obligations.KvTranslator : Prop := KvWords ∧ KvTables ∧ PrefixRecords

/-- Tile pages: PCOMMIT, PDECOMMIT and PPROBE, and what follows them. -/
def Obligations.TilePages : Prop := TileWords ∧ TilePagesRun

end

/-! ## Exchanges of threads, diversion, and the removal of translations -/

namespace Sys2Proof.Certificates
open Sys2Proof Sys2Proof.Machine

/-- A state with one diversion entry of a core replaced. -/
def withDivert (s : State) (core : Nat) (e : Fin 8) (d : Divert) : State :=
  { s with cores := assign s.cores core { coreAt s core with divert := (coreAt s core).divert.set e.val d e.isLt } }

/-- SWAPCTX, SLOTHAND, DIVSET, DIVCLR, TLBINV and TLBINVC in S mode (R307 to R310): operands outside their fields are illegal; SWAPCTX and SLOTHAND
check their image's address [log entry 89 for what an image may hold] and wait for the exchange; DIVSET begins a save or restore where R308 allows it, and waits for it; DIVCLR turns a
diverted entry off; TLBINV and TLBINVC wait for the removal. -/
def PrivilegedWords : Prop :=
  ∀ (s : State) (core slot : Nat) (iss : Issue) (o : Option AOut), Issues s core slot iss o →
    (slotAt s core slot).mode = .supervisor → ∀ (a b : Fin 32),
    let sl := slotAt s core slot
    let x := gRead sl a
    let y := gRead sl b
    let illegal := fun (i : Instr) => Fails s core slot i 0x04 (iss.word0.zeroExtend 64)
    (∀ p ∈ ([(.swapctx a, false), (.slothand a, true)] : List (Instr × Bool)),
      let bad := 2 ^ 56 ≤ x.toNat ∨ x.toNat / 2 % 2 ^ 10 ≠ 0
      let addr : Word := BitVec.ofNat 64 (x.toNat / 2048 * 2048)
      (bad → illegal p.1) ∧ (¬bad → ChecksFirst s core slot iss p.1 none addr .update (checkAddr s core slot addr 2048 .update)) ∧
      (¬bad → ∀ t, checkAddr s core slot addr 2048 .update = .ok t →
        exec p.1 s = .next (waiting s core slot o sl (.exchange p.2 addr (x.getLsbD 0) [] [])))) ∧
    (∀ e : Fin 8, x.toNat % 8 = e.val →
      let old := (coreAt s core).divert.get e
      let op := x.toNat / 8 % 4
      let ctx := y.toNat / 2 ^ 32 % 2 ^ 16
      let mask : BitVec 16 := y.setWidth 16
      let base : Word := BitVec.ofNat 64 (x.toNat % 2 ^ 56 / 2 ^ 16 * 2 ^ 16)
      let fields := x.toNat / 2 ^ 5 % 2 ^ 11 ≠ 0 ∨ 2 ^ 56 ≤ x.toNat ∨ y.toNat / 2 ^ 16 % 2 ^ 16 ≠ 0 ∨ 2 ^ 48 ≤ y.toNat
      let others := ∃ k : Fin 8, let d := (coreAt s core).divert.get k
        d.state ≠ .off ∧ d.ctx = ctx ∧ d.mask &&& mask ≠ 0
      let bad := fields ∨ (op ≠ 1 ∧ op ≠ 2) ∨ mask = 0 ∨
        (∃ k, k < 16 ∧ mask.getLsbD k = true ∧ bankPart (coreAt s core) k ≠ partOf (coreAt s core) slot) ∨
        (op = 1 ∧ (old.state ≠ .off ∨ others)) ∨
        (op = 2 ∧ (old.state ≠ .diverted ∨ old.ctx ≠ ctx ∨ old.mask ≠ mask ∨ old.base ≠ base))
      (bad → illegal (.divset a b)) ∧
      (¬bad → exec (.divset a b) s = .next (withDivert (waiting s core slot o sl (.divert e.val)) core e
        { ctx := ctx, mask := mask, base := base, state := if op = 1 then .saving else .restoring
          banks := Vector.replicate 16 { cursor := 0, done := false, pending := [] }, port := 0, turn := 15 }))) ∧
    (8 ≤ x.toNat → illegal (.divclr a)) ∧
    (∀ e : Fin 8, x.toNat = e.val →
      let old := (coreAt s core).divert.get e
      (old.state = .saving ∨ old.state = .restoring → illegal (.divclr a)) ∧
      (old.state = .off → exec (.divclr a) s = .next (ended s core slot o sl iss.after)) ∧
      (old.state = .diverted → ∃ u, exec (.divclr a) s = .next u ∧
        coreAt u core = coreAt (ended (withDivert s core e { old with state := .off }) core slot o sl iss.after) core ∧
        SameMemory s u ∧ (old.ctx ≠ sl.ctx → slotAt u core slot = slotAt (ended s core slot o sl iss.after) core slot) ∧
        ∀ k, k < 16 → k ≠ slot → slotAt u core k = slotAt s core k ∨ ((slotAt s core k).ctx = old.ctx ∧
          slotAt u core k = { slotAt s core k with last := none }))) ∧
    (let bad := 2 ^ 56 ≤ x.toNat ∨ 2 ^ 48 ≤ y.toNat ∨ y.toNat / 2 % 2 ^ 31 ≠ 0
     (bad → illegal (.tlbinv a b)) ∧
     (¬bad → exec (.tlbinv a b) s = .next (waiting s core slot o sl
        (.tlbinv (y.toNat / 2 ^ 32) (some (x.toNat / 4096 * 4096)) (y.getLsbD 0))))) ∧
    (let bad := 2 ^ 48 ≤ x.toNat ∨ x.toNat % 2 ^ 32 ≠ 0
     (bad → illegal (.tlbinvc a)) ∧
     (¬bad → exec (.tlbinvc a) s = .next (waiting s core slot o sl (.tlbinv (x.toNat / 2 ^ 32) none false))))

/-- A thread's image keeps its thread (R298, R306, Tables 16.10 and 16.12): what is loaded from the image of a slot, with what the core
keeps of its thread beside it [log entry 90], has every register, control register, trap register and task field of the slot, its handler, mode and
context, what it still has to do before its first bundle, and its wait; and R307 refuses it only for what the thread's own registers
hold. -/
def ImagesKeepThreads : Prop :=
  ∀ (s : State) (core slot addr : Nat) (sl old : Slot) (pc : Word) (cycle : Nat),
    sl.ctx < 2 ^ 16 → core < 2 ^ 12 → sl.ccq.length ≤ 16 →
    let img := imageOf s core sl pc
    let v := loadedSlot img (parkedOf addr slot sl) cycle old
    img.length = 256 ∧
    ((∀ d n m, sl.wait ≠ .mwait d n m) → (∀ k : Fin 32, k ≠ 0 → v.regs.g.get k = sl.regs.g.get k) ∧ v.regs.sh = sl.regs.sh) ∧
    (∀ k : Fin 8, k ≠ 0 → v.regs.p.get k = sl.regs.p.get k) ∧ v.regs.b = sl.regs.b ∧ v.regs.pc = pc ∧
    v.ctl = sl.ctl ∧ v.trap = sl.trap ∧ v.task.task = sl.task.task ∧ v.task.faultWord = sl.task.faultWord ∧
    v.task.frame = sl.task.frame ∧ v.task.entry = sl.task.entry ∧ v.task.fmtBlock = sl.task.fmtBlock ∧
    v.task.args = sl.task.args ∧ v.task.serial = sl.task.serial ∧ v.mode = sl.mode ∧ v.handler = sl.handler ∧ v.ctx = sl.ctx ∧
    v.pfbuf = sl.pfbuf ∧ v.ccq = sl.ccq ∧ v.occupied = true ∧ v.altLast = sl.altLast ∧
    v.fmtPending = sl.fmtPending ∧ v.dispatchFault = sl.dispatchFault ∧ v.stv = sl.stv ∧ v.replayValue = sl.replayValue ∧
    (∀ addr gen scope, sl.wait = .bar addr gen scope → gen.toNat < 2 ^ 32 → scope < 16 → v.wait = sl.wait) ∧
    (sl.wait = .halt ∨ sl.wait = .replay → v.wait = sl.wait) ∧ (∀ n, sl.wait = .job n → n < 2 ^ 16 → v.wait = sl.wait) ∧
    (∀ failed esc, sl.wait = .retiring failed esc true → v.wait = sl.wait) ∧
    ((imageWord img 0x1C0).toNat / 16 % 16 < 6 → (imageWord img 0x1C0).toNat / 2 % 4 ≠ 3 → imageZeros img = true →
      ∀ c, imageBad c core (some sl.ctx) 0 img = false ∧
      ((∃ r ∈ c.residents, r.ctx = sl.ctx ∧ r.part = partOf c 0) → imageBad c core none (partOf c 0) img = false))

/-- CONTEXT_EXCHANGE and TLBINV_COMPLETE (R17, R306, R307, R310, R333). What an exchange reads of a cached image is the cached words, or,
where memory has been written meanwhile, either word [log entry 83]. An exchange waits for the slot's stores, reads and units, and for the cycle of
Table 16.13, which it takes, and for the tokens of the lines that it reads and of those that it writes back [log entry 95]; then an image that R307 refuses [log entry 89], or a poisoned one, is a fault, and else the slot's thread, continuing
after its bundle, takes the image's place in the core's cache, and the image's thread the slot, or the slot is empty. An invalidation is
over when the thread's stores are visible and no access uses a removed translation, also one that a TLB has let go of; in the one step that
ends it [log entry 32] none is held by a core, flock or die of the span [log entry 9], nor what was fetched through it. -/
def ExchangesAndInvalidations : Prop :=
  (∀ (s : State) (r : Reader) (core ctx : Nat) (t : Target) (i : CachedImage), i.words.length = 256 →
    (coreAt s core).images.find? (fun x => x.addr == keyOf t) = some i → ∃ l, imageWords s r core ctx t = some l ∧ l.length = 256 ∧
      ∀ k, k < 256 → ((memoryWords s i.addr).getD k 0 = i.under.getD k 0 → l.getD k 0 = i.words.getD k 0) ∧
        l.getD k 0 ∈ [i.words.getD k 0, (memoryWords s i.addr).getD k 0]) ∧
  (∀ (s : State) (core slot : Nat) (iss : Issue), coreUp s core = true → slot < 16 → (slotAt s core slot).issue = some iss →
    (slotAt s core slot).occupied = true → ∀ (hand : Bool) (addr : Word) (back : Bool) (paid wrote : List Nat),
    let sl := slotAt s core slot
    let event := exec (.contextExchange core slot) s
    let ready := sl.sb = [] ∧ portClear s core slot = true ∧ sl.await = .none
    let due := (coreAt s core).spent = false ∧ (if hand then (coreAt s core).cycle % 16 = slot else chosenSlot s core = some slot)
    -- the core's cycle is the exchange's
    let y := { s with cores := assign s.cores core { coreAt s core with spent := true } }
    let raises := fun (u : State) (cause : Nat) (w : Bool) =>
      event = .next (after (raiseC core slot { cause := cause, value := addr, write := w }) u)
    sl.wait = .exchange hand addr back paid wrote →
    (¬(ready ∧ due) → event = .next s) ∧
    (ready → due → ∀ c, checkAddr s core slot addr 2048 .update = .fault c → raises y c true) ∧
    (ready → due → ∀ t, checkAddr s core slot addr 2048 .update = .ok t →
      let cached := ∃ i ∈ (coreAt s core).images, i.addr = keyOf t
      (¬cached → badBytes s sl.ctx t 2048 = true → raises y 0x0A false) ∧
      -- the lines that it reads are paid for, and then those that it writes back
      let reads := fun (ok : Bool) (p : List Nat) (us : List Upd) => (cached ∧ ok = true ∧ p = paid ∧ us = []) ∨
        (¬cached ∧ badBytes s sl.ctx t 2048 = false ∧
          payLines (slotAgent y core slot) ((List.range 16).map (fun k => (addr + word (128 * k), 128, .read))) paid y = (ok, p, us))
      let backs := fun (us : List Upd) => payBack core sl.ctx (backLines (coreAt s core) (keyOf t) back) wrote (applyAll y us)
      let waits := fun (u : State) (p w : List Nat) => event = .next { u with
        slots := assign u.slots (core * 16 + slot) { slotAt u core slot with wait := .exchange hand addr back p w } }
      (∀ p us, reads false p us → waits (applyAll y us) p wrote) ∧
      (∀ p us w vs, reads true p us → backs us = (false, w, vs) → waits (applyAll (applyAll y us) vs) p w) ∧
      ∀ z img, (∃ p us w vs, reads true p us ∧ backs us = (true, w, vs) ∧ z = applyAll (applyAll y us) vs) →
        imageWords z (slotReader z core slot) core sl.ctx t = some img →
      let bad := imageBad (coreAt s core) core (if hand then none else some sl.ctx) (partOf (coreAt s core) slot) img = true
      (bad → raises z 0x04 false) ∧
      (¬bad → ∃ u, event = .next u ∧ (coreAt u core).spent = true ∧
        -- a pair that the slot is in is dissolved
        (sl.pair = .unpaired → SameSlots s u core slot) ∧
        (sl.pair ≠ .unpaired → let other := (slot + 8) % 16
          slotAt u core other = { slotAt s core other with pair := .unpaired } ∧
          ∀ k, k ≠ core * 16 + slot → k ≠ core * 16 + other → lookup Slot.reset u.slots k = lookup Slot.reset s.slots k) ∧
        (back = false → (coreAt u core).images.head? = some {
          addr := keyOf t, words := imageOf z core sl (iss.pc + 4), under := memoryWords z (keyOf t) }) ∧
        (back = true → ∀ i ∈ (coreAt u core).images, i.addr ≠ keyOf t) ∧
        (∀ w ∈ (coreAt u core).watches, w.slot ≠ slot) ∧
        let v := slotAt u core slot
        let st := (imageWord img 0x128).toNat
        (st % 2 = 0 → v.occupied = false) ∧
        (st % 2 = 1 → v.occupied = true ∧ v.ctx = st / 2 ^ 48 ∧ v.ctl = loadedCtl img ∧ v.regs.pc = imageWord img 0x120 ∧
          v.regs.p = (loadedRegs img).p ∧ v.regs.b = (loadedRegs img).b ∧ v.last = some (coreAt s core).cycle ∧
          v.mode = (if st / 4 % 2 = 1 then .supervisor else .user) ∧ v.issue = none ∧ v.sb = [] ∧
          ∀ k, (coreAt s core).parked.find? (fun x => x.addr == keyOf t) = some k →
            v.task.args = k.args ∧ v.task.serial = k.serial ∧ v.altLast = k.altLast ∧ v.fmtPending = k.fmtPending ∧
            v.dispatchFault = k.dispatchFault)))) ∧
  (∀ (s : State) (core slot : Nat) (iss : Issue) (o : Option AOut), Waits s core slot iss o → coreUp s core = true → slot < 16 →
    ∀ (ctx : Nat) (page : Option Nat) (guest : Bool),
    let sl := slotAt s core slot
    let event := exec (.tlbinvComplete core slot) s
    let part := partOf (coreAt s core) slot
    let dies := (List.range 4).filter (fun d => d == dieOf core ||
      s.cores.any (fun x => dieOf x.1 == d && inSpan s core part sl.ctx x.1) ||
      (dieRepairable s.pkg.repairMap d && ((spanOf s core part).getD []).any (fun n => dieOf n == d)))
    let gone := fun (t : TlbEntry) => t.ctx = ctx ∧ (∀ va, page = some va → guest = true ∨ (t.va < va + 4096 ∧ va < t.va + t.size))
    let x := removalOf page guest
    let hit := heldGone s dies ctx x
    sl.wait = .tlbinv ctx page guest →
    (sl.sb ≠ [] ∨ dieSettled s (dieOf core) = false ∨ stillUsed s ctx hit = true → event = .next s) ∧
    (∀ t, removes ctx x t = true ↔ gone t) ∧
    (sl.sb = [] → dieSettled s (dieOf core) = true → stillUsed s ctx hit = false → ∃ u, event = .next u ∧
      u.slots = (closed s core slot o sl iss.after).slots ∧ SameMemory s u ∧
      (∀ d ∈ dies, (dieAt u d).tlb = (dieAt s d).tlb.filter (fun t => !removes ctx x t) ∧
        (dieAt u d).gone = (dieAt s d).gone.filter (fun t => !removes ctx x t)) ∧
      (∀ c, dieOf c ∈ dies → (coreAt u c).tlb = (coreAt s c).tlb.filter (fun t => !removes ctx x t) ∧
        ∀ w ∈ (coreAt u c).code, w ∈ (coreAt s c).code ∧ (w.ctx = ctx → ∀ va, page = some va → guest = false →
          ¬(w.va < va + 4096 ∧ va < w.va + 8))) ∧
      (∀ f, dieOf (f * 8) ∈ dies → (flockAt u f).tlb = (flockAt s f).tlb.filter (fun t => !removes ctx x t)) ∧
      (∀ d, d ∉ dies → dieAt u d = dieAt s d)))

/-- The steps of a save (R319, R322, R325): ports first, each with its words and its state written toward the lehr image; then a line of the next
masked bank that is not done, copied along the core's route, and poison with it [log entry 31]; the entry is diverted when every bank is done.
ALLOW holds what a receiver has granted and no word has used [log entry 26]. -/
def SaveSteps : Prop :=
  (∀ (s : State) (core port : Nat), let p := portAt s core port
    portBytes s core port = leBytes 4 p.far.toNat ++
      [BitVec.ofNat 8 (1 + (if p.recv then 2 else 0) + (if p.auto then 4 else 0)), 0, BitVec.ofNat 8 p.queue.length,
       BitVec.ofNat 8 (if p.recv then p.granted else p.allow)] ++ leBytes 2 (tagBits p.queue) ++
      [BitVec.ofNat 8 ((p.owner.map (fun o => o.slot + 16 * o.ep.val)).getD 0), 0, 0, 0, 0, 0]) ∧
  ∀ (s : State) (core : Nat) (e : Fin 8), coreUp s core = true →
    let d := (coreAt s core).divert.get e
    let base := d.base.toNat
    let saves := exec (.portSaveStep core e.val) s
    let copies := exec (.saveStep core e.val) s
    let held := fun (p : Nat) => d.port ≤ p ∧ p < 32 ∧ (portAt s core p).saved = false ∧
      ∃ o, (portAt s core p).owner = some o ∧ o.ctx = d.ctx
    (d.state ≠ .saving → saves = .next s ∧ copies = .next s) ∧
    ((∀ p, ¬held p) → saves = .next s) ∧
    (∀ p : Fin 32, d.state = .saving → held p.val → (∀ q, q < p.val → ¬held q) → copies = .next s ∧
      ∃ t, saves = .next t ∧ { t with cores := s.cores, poison := s.poison, order := s.order } = s ∧
        let old := portAt s core p.val
        let at_ := fun (n : Nat) => poisonUnit (base + 0x40000 + 128 * p.val + 8 * (n % 16))
        -- poison follows the words
        (∀ u, u ∈ t.poison ↔ u ∈ s.poison ∨ ∃ n w, old.queue[n]? = some w ∧ w.poison = true ∧ u = at_ n) ∧
        -- and so does what each word's send releases (R108)
        { t.order with words := s.order.words } = s.order ∧
        (old.queue.length ≤ 16 → ∀ n w, old.queue[n]? = some w →
          lookup [] t.order.words (base + 0x40000 + 128 * p.val + 8 * n) = w.clock) ∧
        portAt t core p.val = { old with queue := [], saved := true } ∧
        (coreAt t core).lehrQ = (coreAt s core).lehrQ ++
          [.write (cellsAt (base + 0x40000 + 128 * p.val) (old.queue.flatMap (fun w => leBytes 8 w.data.toNat))) none,
           .write (cellsAt (base + 0x41000 + 16 * p.val) (portBytes s core p.val)) none] ∧
        (coreAt t core).divert.get e = { d with port := p.val + 1 }) ∧
    (d.state = .saving → (∀ p, ¬held p) →
      let turn := fun (k : Fin 16) => (k.val + 31 - d.turn % 16) % 16
      let open_ := fun (k : Fin 16) => d.mask.getLsbD k.val = true ∧ (d.banks.get k).done = false
      ((∀ k, ¬open_ k) → copies = .next s) ∧
      (∀ k, open_ k → (∀ j, open_ j → turn k ≤ turn j) →
        let b := d.banks.get k
        let key := 0x00F0000000000000 + core * 0x100000 + k.val * 0x4000 + b.cursor * 64
        let b' := { b with cursor := (b.cursor + 1) % 256, done := decide (b.cursor = 255) }
        let last := b.cursor = 255 ∧ ∀ j, open_ j → j = k
        ∃ t, copies = .next t ∧ t.mem = s.mem ∧
          (coreAt t core).lehrQ = (coreAt s core).lehrQ ++
            [.write (cellsAt (base + k.val * 0x4000 + b.cursor * 64) (memBytes s key 64)) none] ∧
          (∀ u ∈ s.poison, u ∈ t.poison) ∧ (poisonedIn s key 64 = false → t.poison = s.poison) ∧
          (¬last → t.slots = s.slots ∧ (coreAt t core).divert.get e = { d with
            banks := d.banks.set k.val b' k.isLt
            turn := k.val }) ∧
          (last → (coreAt t core).divert.get e = { d with
            banks := d.banks.set k.val b' k.isLt
            turn := k.val, state := .diverted } ∧
            ∀ slot iss o, slot < 16 → Waits s core slot iss o → (slotAt s core slot).wait = .divert e.val →
              (∀ n, n < 16 → n ≠ slot → (slotAt s core n).wait ≠ .divert e.val) →
              slotAt t core slot = slotAt (closed s core slot o (slotAt s core slot) iss.after) core slot)))

/-- The steps of a restore (R321, R323, R325). Reads of lehr lines leave in turn, up to eight of a bank and 64 of the core, never ahead of another
context's save; a line whose data has returned is written into its bank; when the lines are done the ports that the core counts as
saved [log entry 94] are loaded, and then the entry turns OFF [log entry 30] and a thread that waits for it goes on. -/
def RestoreSteps : Prop :=
  ∀ (s : State) (core : Nat) (e : Fin 8), coreUp s core = true → s.Canonical →
    let d := (coreAt s core).divert.get e
    let base := d.base.toNat
    let pending := ((coreAt s core).divert.toList.map (fun x => (x.banks.toList.map (fun b => b.pending.length)).sum)).sum
    let reads := exec (.restoreReadIssue core e.val) s
    (d.state ≠ .restoring ∨ 64 ≤ pending → reads = .next s) ∧
    (d.state = .restoring → pending < 64 →
      let turn := fun (k : Fin 16) => (k.val + 31 - d.turn % 16) % 16
      let next := fun (k : Fin 16) => (d.banks.get k).cursor + (d.banks.get k).pending.length
      let may := fun (k : Fin 16) => d.mask.getLsbD k.val = true ∧ (d.banks.get k).done = false ∧ next k ≤ 255 ∧
        (d.banks.get k).pending.length < 8 ∧
        ¬∃ j : Fin 8, let x := (coreAt s core).divert.get j
          x.state = .saving ∧ x.ctx ≠ d.ctx ∧ x.mask.getLsbD k.val = true ∧ (x.banks.get k).done = false ∧
            (x.banks.get k).cursor ≤ next k
      ((∀ k, ¬may k) → reads = .next s) ∧
      (∀ k, may k → (∀ j, may j → turn k ≤ turn j) → ∃ t, reads = .next t ∧ { t with cores := s.cores } = s ∧
        (coreAt t core).lehrQ = (coreAt s core).lehrQ ++ [.restore e.val k.val (next k)] ∧
        (coreAt t core).divert.get e = { d with
          banks := d.banks.set k.val { d.banks.get k with pending := (d.banks.get k).pending ++ [(next k, none)] } k.isLt
          turn := k.val })) ∧
    (∀ k : Fin 16, let b := d.banks.get k
      let writes := exec (.restoreLineWrite core e.val k.val) s
      let key := 0x00F0000000000000 + core * 0x100000 + k.val * 0x4000
      (d.state ≠ .restoring ∨ d.mask.getLsbD k.val = false ∨ b.pending = [] → writes = .next s) ∧
      (∀ line more, b.pending = (line, none) :: more → writes = .next s) ∧
      (∀ line data more, d.state = .restoring → d.mask.getLsbD k.val = true → b.pending = (line, some data) :: more →
        b.done = false → b.cursor < 255 ∨ (b.cursor = 255 ∧ ∃ j, d.mask.getLsbD j.val = true ∧ (d.banks.get j).done = false ∧ j ≠ k) →
        ∃ t, writes = .next t ∧ Stored s t (key + line * 64) data ∧ t.slots = s.slots ∧
          (coreAt t core).divert.get e = { d with
            banks := d.banks.set k.val { b with
              cursor := (b.cursor + 1) % 256, done := decide (b.cursor = 255), pending := more } k.isLt })) ∧
    (∀ p : Fin 32, d.state = .restoring → (∀ k : Fin 16, d.mask.getLsbD k.val = true → (d.banks.get k).done = true) →
      let image := fun (off n : Nat) => lehrNat s core (base + 0x41000 + 16 * p.val + off) n
      let wants := fun (q : Nat) => d.port ≤ q ∧ q < 32 ∧ (portAt s core q).saved = true ∧
        ∃ o, (portAt s core q).owner = some o ∧ o.ctx = d.ctx
      let loads := exec (.portRestoreStep core e.val) s
      ((∀ q, ¬wants q) → ∃ t, loads = .next t ∧ SameMemory s t ∧ (coreAt t core).divert.get e = { d with state := .off } ∧
        ∀ slot iss o, slot < 16 → Waits s core slot iss o → (slotAt s core slot).wait = .divert e.val →
          (slotAt t core slot).wait = .none ∧ (slotAt t core slot).issue = none ∧ (slotAt t core slot).regs.pc = iss.after) ∧
      (wants p.val → (∀ q, q < p.val → ¬wants q) → ∃ t, loads = .next t ∧
        (image 4 1 % 2 = 0 → portAt t core p.val = Port.reset) ∧
        (image 4 1 % 2 = 1 →
          let v := portAt t core p.val
          v.far.toNat = image 0 4 ∧ (v.recv = true ↔ image 4 1 / 2 % 2 = 1) ∧ (v.auto = true ↔ image 4 1 / 4 % 2 = 1) ∧
          v.saved = false ∧ v.queue.length = min (image 6 1) 16 ∧ v.owner.map (fun o => o.ctx) = some d.ctx ∧
          (∀ i w, v.queue[i]? = some w → w.data.toNat = lehrNat s core (base + 0x40000 + 128 * p.val + 8 * ((image 5 1 + i) % 16)) 8 ∧
            (w.ctl = true ↔ image 8 2 / 2 ^ ((image 5 1 + i) % 16) % 2 = 1) ∧
            w.clock = lookup [] s.order.words (base + 0x40000 + 128 * p.val + 8 * ((image 5 1 + i) % 16)) ∧
            (w.poison = true ↔ poisonedIn s (base + 0x40000 + 128 * p.val + 8 * ((image 5 1 + i) % 16)) 8 = true)) ∧
          (v.recv = true → v.granted = image 7 1) ∧ (v.recv = false → v.allow = image 7 1))))

/-- LEHR_ACCESS, LEHR_CHANNEL_WRITE and QUANTUM_END (R317, R321, R326). Accesses of a core's route to lehr images are performed one by one, in
order; a diverted write has its place in the order of the location that it addresses (R106). A word or grant for a saved port goes into
its image, as one step at the image's home, where a word uses up one of ALLOW [log entry 26]. The end of a quantum posts a switch request to every occupied slot of the
partition over its span. -/
def RouteSteps : Prop :=
  (∀ (s : State) (core : Nat), coreUp s core = true →
    let event := exec (.lehrAccess core) s
    let rest := fun (l : List LehrOp) => { s with cores := assign s.cores core { coreAt s core with lehrQ := l } }
    ((coreAt s core).lehrQ = [] → event = .next s) ∧
    (∀ cells of_ l, (coreAt s core).lehrQ = .write cells of_ :: l → ∃ t, event = .next t ∧
      { t with cores := (rest l).cores, order := s.order } = { rest l with mem := memWriteAll s.mem cells } ∧
      -- watches of the lehr lines see it
      (∀ c, coreAt t c = { coreAt (rest l) c with
        watches := (coreAt s c).watches.map (fun w => cells.foldl (fun v x => watchTouched x.1 1 v) w) }) ∧
      (of_ = none → t.order = s.order) ∧
      (∀ loc w, of_ = some (loc, w) →
        t.order = (after (noteWrite w loc (cells.map (fun x => memRead s.mem x.1))) s).order)) ∧
    (∀ (e : Fin 8) (k : Fin 16) line l, (coreAt s core).lehrQ = .restore e.val k.val line :: l →
      let d := (coreAt s core).divert.get e
      let b := d.banks.get k
      let data := memBytes s (d.base.toNat + k.val * 0x4000 + line * 64) 64
      event = .next (withDivert (rest l) core e { d with
        banks := d.banks.set k.val { b with
          pending := b.pending.map (fun p => if p.1 = line then (p.1, some data) else p) } k.isLt })) ∧
    -- a diverted load sees the line as its home holds it, and what of its die is on the way there
    (∀ c slot pa n l r p more, (coreAt s core).lehrQ = .load c slot pa n :: l → (slotAt s c slot).wait = .load r →
      r.queued = true → r.pieces = p :: more →
      let now := memBytes s pa n
      let z := rest l
      let loc := locOf (slotAt s c slot).ctx p.tgt
      let f := lookAt z (slotReader z c slot) (dieOf c) loc now (keyOf p.tgt)
      ∃ t, event = .next t ∧ { t with slots := s.slots, order := s.order, tick := s.tick } = z ∧ t.tick = s.tick + 1 ∧
        t.order = (after (sawFound c slot loc p.size f) z).order ∧
        t.slots = assign s.slots (c * 16 + slot) { slotAt s c slot with wait := .load { r with
          queued := false
          pieces := more
          got := r.got ++ f.bytes
          bad := r.bad || poisonedIn s pa n
          met := r.met ++ f.heads } }) ∧
    (∀ c slot places l a, (coreAt s core).lehrQ = .atomic c slot places :: l → (slotAt s c slot).wait = .atomic a →
      a.queued = true → event = .next (after (performAtomic c slot a places) (rest l)))) ∧
  (∀ (s : State) (m : Msg) (d : Divert) (p : Fin 32), s.msgs.find? (fun x => x.id == m.id) = some m → m.port = p.val →
    (portAt s m.core p.val).saved = true →
    (∃ o, (portAt s m.core p.val).owner = some o ∧ (coreAt s m.core).divert.toList.find? (fun x =>
      x.state != .off && x.ctx == o.ctx) = some d) →
    let event := exec (.lehrChannelWrite m.id) s
    let image := fun (off n : Nat) => lehrNat s m.core (d.base.toNat + 0x41000 + 16 * p.val + off) n
    let sent := fun (l : List LehrOp) => .next { s with
      msgs := s.msgs.filter (fun x => x.id != m.id)
      cores := assign s.cores m.core { coreAt s m.core with lehrQ := (coreAt s m.core).lehrQ ++ l } }
    let at_ := d.base.toNat + 0x41000 + 16 * p.val
    (mayLand s m = false → event = .next s) ∧
    (∀ w, mayLand s m = true → m.kind = .word w →
      let place := (image 5 1 + image 6 1) % 16
      let tags := image 8 2
      let unit := d.base.toNat + 0x40000 + 128 * p.val + 8 * place
      ∃ t, event = .next t ∧ .next { t with poison := s.poison, order := s.order } = sent [.write (cellsAt unit (leBytes 8 w.data.toNat) ++
          cellsAt (at_ + 6) (leBytes 1 (image 6 1 + 1) ++ leBytes 1 (image 7 1 - 1) ++
            leBytes 2 (tags - tags / 2 ^ place % 2 * 2 ^ place + (if w.ctl then 2 ^ place else 0)))) none] ∧
        lookup [] t.order.words unit = w.clock ∧ { t.order with words := s.order.words } = s.order ∧
        (w.poison = false → t.poison = s.poison) ∧ (w.poison = true → poisonUnit unit ∈ t.poison)) ∧
    (∀ n, mayLand s m = true → m.kind = .grant n →
      event = sent [.write (cellsAt (at_ + 7) (leBytes 1 (image 7 1 + n))) none])) ∧
  (∀ (s : State) (core part : Nat), s.pkg.powered = true → s.pkg.started = true →
    let event := exec (.quantumEnd core part) s
    (s.pkg.stage ≠ .service → event = .next s) ∧
    (s.pkg.stage = .service → ∃ t, event = .next t ∧ t.pkg = { s.pkg with events := s.pkg.events ++ [.quantum core part] } ∧
      { t with pkg := s.pkg, slots := s.slots } = s ∧
      ∀ c k, k < 16 → slotAt t c k =
        (if c ∈ partitionSpan s core part ∧ partOf (coreAt s c) k = part
         then { slotAt s c k with switchReq := (slotAt s c k).occupied } else slotAt s c k)) ∧
    (∀ cores, s.pkg.spans.find? (fun x => x.1 == part && x.2.contains core) = some (part, cores) → partitionSpan s core part = cores))

end Sys2Proof.Certificates

section
open Sys2Proof Sys2Proof.Machine Sys2Proof.Certificates

/-- The privileged words of major 0x30, the exchange of threads, and the removal of translations. -/
def Obligations.ThreadExchange : Prop := PrivilegedWords ∧ ImagesKeepThreads ∧ ExchangesAndInvalidations

/-- Diversion: saves, restores, and what travels toward lehr images. -/
def Obligations.Diversion : Prop := SaveSteps ∧ RestoreSteps ∧ RouteSteps

end

/-! ## The package: its start, scrub, the host, the links, power, and the hearth windows -/

namespace Sys2Proof.Certificates
open Sys2Proof Sys2Proof.Machine

/-- The package's registers have become `q`; a change of STATUS is signalled to the host (R368). -/
def said (p q : Pkg) : Pkg := if statusWord q ≠ statusWord p then { q with events := q.events ++ [.statusChange] } else q

/-- A state with the package's registers replaced. -/
def withPkg (s : State) (p : Pkg) : State := { s with pkg := p }

/-- The boot core works: the supply is good and the Safe stage has been entered. -/
def Booted (s : State) : Prop := s.pkg.powered = true ∧ s.pkg.started = true

/-- A stage has failed (R358): ERROR names a failure other than that of the repair record's signature, with which start goes on (R360). -/
def Stopped (p : Pkg) : Prop := p.error ≠ 0 ∧ p.error ≠ 7

/-- The units of a repair map (R359, R360): a band keeps nine of its ten flocks, a flock eight of its nine cores, a silo 128 of its 136
channels; a die needs them all, and a drover, in each of its bands. (The numbers of units are the model's own: log entry 61.) -/
def Kept (map : List Nat) (units : List Nat) (n : Nat) : Prop := n ≤ (units.filter (fun u => !map.contains u)).length

/-- A die of a repair map can be repaired (R359). -/
def Repairable (map : List Nat) (die : Nat) : Prop :=
  ∀ band, band < 8 → droverUnit die band ∉ map ∧ ∃ flocks : List Nat, flocks.Nodup ∧ flocks.length = 9 ∧
    ∀ f ∈ flocks, f < 10 ∧ Kept map ((List.range 9).map (coreUnit die band f)) 8

/-- Stages and failures of start (R3, R358 to R361, R363, Tables 20.1 and 20.3). (What a loss of power clears, what a new supply finds, and how
start goes on after a failure, is log entry 61.) -/
def StagesOfStart : Prop :=
  ∀ s : State,
    let p := s.pkg
    let gives := fun (i : Instr) (q : Pkg) => exec i s = .next (withPkg s (said p q))
    let off := fun (u : Nat) => 0x4000000000000 ≤ u ∧ u < 0x10000000000000
    -- a supply that comes back finds every table, every memory of the package and every register at reset; flash keeps its two records
    let cleared := fun (i : Instr) (on : Bool) => s.Canonical → ∃ t, exec i s = .next t ∧
      t.pkg = { Pkg.reset with powered := on, repairRecord := p.repairRecord, signed := p.signed, flashOk := p.flashOk } ∧
      (∀ core slot, slotAt t core slot = Slot.reset) ∧ (∀ core, coreAt t core = Core.reset) ∧
      (∀ n, flockAt t n = Flock.reset) ∧ (∀ n, bandAt t n = Band.reset) ∧ (∀ n, dieAt t n = Die.reset) ∧
      (∀ n, ctxAt t n = Ctx.reset) ∧ t.jobs = [] ∧ t.reqs = [] ∧ t.msgs = [] ∧ t.records = [] ∧ t.order = Order.reset ∧
      (∀ a, memRead t.mem a = if off a then memRead s.mem a else 0) ∧ (∀ u, u ∈ t.poison ↔ u ∈ s.poison ∧ off u)
    (p.powered = true → exec .powerGood s = .next s) ∧ (p.powered = false → cleared .powerGood true) ∧
    (p.powered = false → exec .powerLoss s = .next s) ∧ (p.powered = true → cleared .powerLoss false) ∧
    (∀ flash sig : Bool,
      (p.powered = false ∨ p.started = true ∨ Stopped p → exec (.safeStageEntry flash sig) s = .next s) ∧
      (p.powered = true → p.started = false → ¬Stopped p →
        gives (.safeStageEntry false sig) { p with error := 2 } ∧ gives (.safeStageEntry true false) { p with error := 1 } ∧
        gives (.safeStageEntry true true) { p with started := true })) ∧
    (∀ (fresh : List Nat) (working : Nat) (sig : Bool),
      (¬Booted s ∨ p.stage ≠ .safe ∨ Stopped p → exec (.inventoryStageEntry fresh working sig) s = .next s) ∧
      (Booted s → p.stage = .safe → ¬Stopped p → p.flashOk = false →
        gives (.inventoryStageEntry fresh working sig) { p with stage := .inventory, error := 2 }) ∧
      (Booted s → p.stage = .safe → ¬Stopped p → p.flashOk = true → ∃ (map : List Nat) (changed : Bool) (error : Nat),
        (∀ u, u ∈ map ↔ u ∈ fresh ∨ (sig = true ∧ u ∈ p.repairRecord)) ∧
        (changed = true ↔ sig = false ∨ ∃ u ∈ fresh, u ∉ p.repairRecord) ∧
        let trained := 128 ≤ working ∧ ∀ silo, silo < 12 → Kept map ((List.range 136).map (channelUnit silo)) 128
        (¬trained → error = 3) ∧ (trained → error = if sig then p.error else 7) ∧
        gives (.inventoryStageEntry fresh working sig) { p with
          stage := .inventory, repairMap := map, repairChg := changed, error := error })) ∧
    -- the selected units take the numbers of R3 in ascending order, and none of them is disabled
    (∀ (map : List Nat) (a b u v : Nat), builtCore map a = some u → builtCore map b = some v → b < 2304 →
      u ∉ map ∧ v < 2880 ∧ (a < b → u < v)) ∧
    (∀ (map : List Nat) (a : Nat), a < 2304 → Repairable map (dieOf a) → builtCore map a ≠ none) ∧
    (∀ found0 sig0 found1 sig1 : Bool,
      (¬Booted s ∨ p.stage ≠ .inventory ∨ Stopped p → exec (.kernelStageEntry found0 sig0 found1 sig1) s = .next s) ∧
      (Booted s → p.stage = .inventory → ¬Stopped p → gives (.kernelStageEntry found0 sig0 found1 sig1) { p with
        stage := .kernel
        error := if found0 = true ∧ sig0 = true ∨ found1 = true ∧ sig1 = true then p.error
          else if found0 = true ∨ found1 = true then 5 else 4 })) ∧
    (∀ (die : Nat) (repairable : Bool),
      let may := Booted s ∧ (p.stage = .kernel ∨ p.stage = .service) ∧ ¬Stopped p ∧ repairable = true ∧ die < 4 ∧ Repairable p.repairMap die
      (¬may → exec (.dieEntersService die repairable) s = .next s) ∧
      (may → gives (.dieEntersService die repairable) { p with stage := .service, dies := p.dies ||| BitVec.ofNat 4 (2 ^ die) })) ∧
    (∀ q : Pkg, q.error < 256 → (statusWord q).toNat =
      (if q.retires ≠ [] then 2 ^ 23 else 0) + (if q.trip then 2 ^ 22 else 0) + (if q.capped then 2 ^ 21 else 0) +
      (if q.repairChg then 2 ^ 20 else 0) + q.dies.toNat * 2 ^ 16 + q.error * 2 ^ 8 +
      (match q.stage with | .safe => 0 | .inventory => 1 | .kernel => 2 | .service => 3))

/-- Scrub, doorbells and the host's posted writes (R110, R358, R362, R368, R374). A corrected error is counted in the scrub cycle, which
begins with the first line; a count past the threshold posts a retire request, once, which the host's answer takes back, and for a silo
row with its remap; an uncorrectable unit is poisoned and posted with its address. The host endpoint also works where a stage has failed.
(Which units make a row, the threshold and the request's word are constants of the package: log entries 7 and 64; so is the name of an SRAM
word in a record: log entry 10. What a host's write reaches, and from when its functions answer, is log entry 65.) -/
def ScrubAndHost : Prop :=
  ∀ s : State, s.pkg.powered = true →
    let p := s.pkg
    let usable := fun (fn : Nat) => (p.started = true ∨ Stopped p) ∧ (fn = 0 ∨ (fn ≤ 32 ∧ (p.stage = .kernel ∨ p.stage = .service)))
    (p.started = true ∨ Stopped p → ∀ row silo, p.retires.find? (fun x => x.1 == row) = some (row, silo) →
      runMove (.answerRetire row) s = .next (withPkg s (said p { p with
        retires := p.retires.erase (row, silo)
        corrected := if silo then p.corrected.filter (fun c => c.1 != row) else p.corrected
        remapped := if silo then p.remapped ++ [row] else p.remapped }))) ∧
    (∀ unit : Nat, p.started = true →
      let u := poisonUnit unit
      let old := if u = 0 then [] else p.corrected
      let row := Config.rowOf u
      let n := lookup 0 old row + 1
      let counted : Pkg := { p with corrected := assign old row n }
      exec (.scrubRead unit false false) s = .next (withPkg s { p with corrected := old }) ∧
      let asked := ∃ x ∈ p.retires, x.1 = row
      (n ≤ Config.scrubThreshold ∨ asked → exec (.scrubRead unit true false) s = .next (withPkg s counted)) ∧
      (Config.scrubThreshold < n → ¬asked → s.Canonical →
        let q := said p { counted with retires := p.retires ++ [(row, inSilo u)] }
        ∃ t, exec (.scrubRead unit true false) s = .next t ∧ t.pkg = { q with events := q.events ++ [.retireRequest row] } ∧
          Stored s t 0x1000020002000 (leBytes 8 (Config.freeWord s.tick).toNat) ∧ t.slots = s.slots ∧ t.cores = s.cores ∧
          t.poison = s.poison ∧ t.records = s.records) ∧
      (∀ c t, exec (.scrubRead unit c false) s = .next t →
        let name := if u < 0x00F0000000000000 then u else Config.wordOf u % 2 ^ 32 * 2 ^ 16 + Config.arrayOf u % 2 ^ 16
        let holder := if u < 0x00F0000000000000 then 0 else (u - 0x00F0000000000000) / 0x100000 % 0x1000
        let posted := s.records ++ [{
          cause := 0x0A, flags := 0, wait := 0, handle := 0, value := BitVec.ofNat 64 name, pc := 0, who := BitVec.ofNat 64 holder }]
        (channelWord u = none → exec (.scrubRead unit c true) s = .next { t with
          poison := if u ∈ s.poison then s.poison else s.poison ++ [u]
          records := posted }) ∧
        (∀ core (port : Fin 32) k, channelWord u = some (core, port.val, k) → exec (.scrubRead unit c true) s =
          .next { withPort t core port { portAt t core port with
            queue := (portAt t core port).queue.modify k (fun w => { w with poison := true }) } with records := posted }))) ∧
    (∀ fn value : Nat,
      (¬usable fn → exec (.doorbell fn value) s = .next s) ∧
      (usable fn → exec (.doorbell fn value) s =
        .next (withPkg s { p with events := p.events ++ [.doorbell fn (BitVec.ofNat 64 value)] }))) ∧
    (∀ fn off size value : Nat, off < 65536 →
      let place := 0x10000 * fn + off
      let key := 0x1000020000000 + place
      let event := exec (.hostPostedWrite place size value) s
      let mailbox := 0x1000 ≤ off ∧ off + size ≤ 0x3000
      (¬usable fn ∨ ¬(mailbox ∨ (off = 8 ∧ size = 8)) → event = .next s) ∧
      (usable fn → off = 8 → size = 8 → ∃ t, event = .next t ∧ SameMemory s t ∧ t.slots = s.slots ∧
        t.pkg = { p with events := p.events ++ [.doorbell fn (BitVec.ofNat 64 value)] } ∧ Watched s t (fun _ => true) key 8) ∧
      (usable fn → mailbox → s.Canonical → ∃ t, event = .next t ∧ Stored s t key (leBytes size value) ∧ t.slots = s.slots ∧
        t.pkg = p ∧ Watched s t (fun _ => true) key size))

/-- Links (R371 to R373, Table 20.9). A flit that fails its check is sent again sixteen times, and then its link may retrain; counters stop at
their greatest value; ENABLE holds a link down, and RETRAIN then does nothing, and RETRIES counts at the receiver [log entry 66]; the loss of the
last path to a package ends what is on its way there, and is told once [log entry 67]. -/
def Links : Prop :=
  ∀ s : State, Booted s →
    let p := s.pkg
    let top := fun (n : Nat) => min n (2 ^ 64 - 1)
    (∀ link : Fin 16,
      let l := p.links.get link
      let sets := fun (i : Instr) (v : Link) => exec i s = .next (withPkg s { p with links := p.links.set link.val v link.isLt })
      let again : Link := { l with
        up := false, down := false, training := true, tries := 0, retrains := top (l.retrains + 1) }
      (∀ corrected uncorrected : Nat,
        let k : Link := { l with feccorr := top (l.feccorr + corrected), fecuncorr := top (l.fecuncorr + uncorrected) }
        let receive := fun (ok : Bool) => Instr.linkFlitReceive link.val ok corrected uncorrected
        (p.trip = true ∨ l.up = false ∨ 16 < l.tries → ∀ ok, exec (receive ok) s = .next s) ∧
        (p.trip = false → l.up = true → l.tries ≤ 16 → sets (receive true) { k with tries := 0 } ∧
          sets (receive false) { k with
            crcfail := top (l.crcfail + 1)
            retries := if l.tries < 16 then top (l.retries + 1) else l.retries
            tries := l.tries + 1 })) ∧
      (p.trip = false → l.up = true → 16 < l.tries → sets (.linkRetrain link.val) again) ∧
      (p.trip = true ∨ l.up = false ∨ l.tries ≤ 16 → exec (.linkRetrain link.val) s = .next s) ∧
      (l.enabled = true → sets (.linkRetrainCmd link.val) again) ∧
      (l.enabled = false → exec (.linkRetrainCmd link.val) s = .next s) ∧
      sets (.linkEnable link.val false) { l with
        enabled := false, up := false, training := false, down := false, tries := 0 } ∧
      sets (.linkEnable link.val true) (if l.enabled then l else { l with enabled := true, training := true }) ∧
      (∀ peer peerLink : Nat,
        let may := p.trip = false ∧ l.enabled = true ∧ l.up = false ∧ (l.training = true ∨ l.down = false)
        (¬may → ∀ up, exec (.linkTrainingDone link.val up peer peerLink) s = .next s) ∧
        (may → sets (.linkTrainingDone link.val false peer peerLink) { l with training := false, down := true } ∧
          exec (.linkTrainingDone link.val true peer peerLink) s = .next (withPkg s { p with
            links := p.links.set link.val { l with
              up := true, training := false, down := false, tries := 0, peer := peer % 1024, peerLink := peerLink % 16 } link.isLt
            lost := p.lost.filter (fun q => q != peer % 1024) })))) ∧
    (∀ peer : Nat,
      let event := exec (.peerLost peer) s
      let lost := peer < 1024 ∧ peer ≠ p.pkgnum ∧ peer ∉ p.lost ∧ ∀ l ∈ p.links.toList, ¬(l.up = true ∧ l.enabled = true ∧ l.peer = peer)
      let gone := s.reqs.filter (fun r => unreachable s r.tgt)
      let told := fun (u : State) => withPkg u { u.pkg with
        lost := u.pkg.lost ++ [peer], events := u.pkg.events ++ [.peerLost peer] }
      (¬lost → event = .next s) ∧
      (lost → (∀ x ∈ s.slots, lostAccess s x.2 = none) → (s.reqs.map (fun r => r.id)).Nodup → event = .next (told { s with
        reqs := s.reqs.filter (fun r => !unreachable s r.tgt)
        records := s.records ++ gone.map (fun r =>
          { cause := 0x0A, flags := 16, wait := 0, handle := 0, value := BitVec.ofNat 64 (keyOf r.tgt), pc := 0, who := r.who }) })) ∧
      (lost → gone = [] → (s.slots.map (fun x => x.1)).Nodup → ∀ core slot, slot < 16 → (slotAt s core slot).occupied = true →
        (∀ x ∈ s.slots, x.1 ≠ core * 16 + slot → lostAccess s x.2 = none) →
        let faults := fun (a : Word) => event = .next (told (after (raiseC core slot { cause := 0x0A, value := a, write := false }) s))
        (∀ a, (slotAt s core slot).wait = .atomic a → unreachable s a.tgt = true → faults a.addr) ∧
        (∀ l x, (slotAt s core slot).wait = .load l → x ∈ l.pieces → unreachable s x.tgt = true → faults l.addr)))

/-- Power, clocks, cooling, and the package's registers with a step of their own (R365 to R369, R375). (CAPPED while some clock stands below 2.25
GHz is the model's reading: log entry 62.) -/
def PowerAndRegisters : Prop :=
  ∀ s : State, Booted s →
    let p := s.pkg
    let gives := fun (i : Instr) (q : Pkg) => exec i s = .next (withPkg s (said p q))
    let sets := fun (i : Instr) (q : Pkg) => exec i s = .next (withPkg s q)
    gives .thermalTrip { p with trip := true, error := if p.stage = .service ∨ (p.error ≠ 0 ∧ p.error ≠ 7) then p.error else 6 } ∧
    gives .thermalResume { p with trip := false } ∧
    (p.trip = true → ∀ core, coreUp s core = false) ∧
    (∀ flock clock : Nat, flock < 288 → 1200 ≤ clock → clock ≤ 2600 →
      let fs := assign s.flocks flock { flockAt s flock with clock := clock }
      let slowed : State := { s with
        flocks := fs
        pkg := said p { p with capped := fs.any (fun x => decide (x.2.clock < 2250)) } }
      exec (.clockChange flock clock) s = .next slowed ∧
      (clock < (flockAt s flock).clock → exec (.junctionThrottle flock clock) s = .next slowed) ∧
      ((flockAt s flock).clock ≤ clock → exec (.junctionThrottle flock clock) s = .next s)) ∧
    (∀ v : Nat,
      let limit := v % 65536
      sets (.pwrcap v) { p with pwrcap := if limit < 600 then 600 else if 2400 < limit then 2400 else limit }) ∧
    (∀ (k : Fin 4) (v : Nat),
      let words := p.keyWords.set k.val (BitVec.ofNat 64 v) k.isLt
      sets (.sesskey k.val v) { p with keyWords := words, key := if k.val = 3 then some words else p.key }) ∧
    (∀ hearth v : Nat,
      let busy := ∃ x ∈ s.ctxs, ∃ y ∈ x.2.slices, y.state ≠ .absent
      (hearth ≠ 0 ∨ busy → exec (.escways hearth v) s = .next s) ∧
      (hearth = 0 → ¬busy → sets (.escways hearth v) { p with escways := min v 8 })) ∧
    (∀ v : Nat,
      let w : Word := BitVec.ofNat 64 v
      let writes := fun (offset : Nat) => Instr.deviceRegisterWrite offset v
      (∀ offset, offset % 8 ≠ 0 ∨ (0x09040000 ≤ offset ∧ offset < 0x10000000) → exec (writes offset) s = .next s) ∧
      (∀ core, core < 2304 →
        let put := fun (x : Window) => { s with cores := assign s.cores core { coreAt s core with window := x } }
        let x := (coreAt s core).window
        exec (writes (core * 65536)) s = .next (put (if x.cmd = 0 then
          { x with cmd := w, begun := none, result := if w = 0 then 0 else x.result } else x)) ∧
        exec (writes (core * 65536 + 0x10)) s = .next (put { x with op0 := w }) ∧
        exec (writes (core * 65536 + 0x18)) s = .next (put { x with op1 := w })) ∧
      (∀ h : Fin 4,
        let put := fun (x : Hearth) => withPkg s { p with hearths := p.hearths.set h.val x h.isLt }
        let at_ := fun (k : Nat) => writes (0x09000000 + h.val * 65536 + k)
        let x := p.hearths.get h
        exec (at_ 0) s = .next (put (if x.cmd = 0 then { x with cmd := w, result := if w = 0 then 0 else x.result } else x)) ∧
        exec (at_ 0x10) s = .next (put { x with addr := w }) ∧ exec (at_ 0x18) s = .next (put { x with arg := w }) ∧
        (∀ k : Fin 8, exec (at_ (0x40 + 8 * k.val)) s = .next (put { x with data := x.data.set k.val w k.isLt }))) ∧
      sets (writes 0x10000010) { p with grpbase := w &&& 0x00FFFFFFFF800000 } ∧
      sets (writes 0x10000018) { p with pkgnum := w.toNat % 1024 } ∧
      (∀ link : Fin 16,
        let l := p.links.get link
        let put := fun (k : Nat) (x : Link) => sets (writes (0x30000000 + link.val * 4096 + k))
          { p with links := p.links.set link.val x link.isLt }
        put 0x10 { l with crcfail := w.toNat } ∧ put 0x18 { l with retries := w.toNat } ∧ put 0x20 { l with retrains := w.toNat } ∧
        put 0x28 { l with feccorr := w.toNat } ∧ put 0x30 { l with fecuncorr := w.toNat }) ∧
      (∀ offset, 0x20000000 ≤ offset → offset < 0x20210000 → offset % 8 = 0 → 0x1000 ≤ offset % 65536 → offset % 65536 < 0x3000 →
        s.Canonical → ∃ t, exec (writes offset) s = .next t ∧ Stored s t (0x1000000000000 + offset) (leBytes 8 w.toNat) ∧
          t.slots = s.slots ∧ t.pkg = p ∧ Watched s t (fun _ => true) (0x1000000000000 + offset) 8))

/-- The commands of a hearth's window (R366, R374, Table 20.6): an idle one is done, a reserved one refused; a scrub write stores its whole line or
word and clears its poison, a word under the name that its error record carried [log entry 10]; a quota is set where the table and the capacity
allow, an ARG above 256 is refused [log entry 68], and slices above it are evicted. -/
def HearthCommands : Prop :=
  ∀ s : State, Booted s → ∀ h : Fin 4,
    let p := s.pkg
    let w := p.hearths.get h
    let code := w.cmd.toNat % 256
    let done := fun (q : Pkg) (r : Word) => { q with
      hearths := q.hearths.set h.val { q.hearths.get h with cmd := 0, result := r } h.isLt }
    let ends := fun (i : Instr) (r : Word) => exec i s = .next (withPkg s (done p r))
    let words : List Instr := [.hearthCmdIdle h.val, .hearthCmdReserved h.val, .hearthScrubLine h.val, .hearthScrubWord h.val,
      .hearthSliceQuota h.val]
    (w.cmd = 0 → ∀ i ∈ words, exec i s = .next s) ∧
    (w.cmd ≠ 0 →
      (code = 0 → ends (.hearthCmdIdle h.val) 0) ∧
      (code ≠ 0 → code ≠ 6 → code ≠ 7 → code ≠ 8 → ends (.hearthCmdReserved h.val) 1) ∧
      (code = 6 →
        let a := w.addr.toNat
        let bad := a % 64 ≠ 0 ∨ siloEnd ≤ a ∨ a / 256 % 12 / 3 ≠ h.val
        (bad → ends (.hearthScrubLine h.val) 1) ∧
        (¬bad → s.Canonical → ∃ t, exec (.hearthScrubLine h.val) s = .next t ∧
          Stored s t a (w.data.toList.flatMap (fun x => leBytes 8 x.toNat)) ∧ (∀ u, u ∈ t.poison ↔ u ∈ s.poison ∧ u ≠ a) ∧
          t.pkg = done p 0 ∧ t.slots = s.slots ∧ Watched s t (fun _ => true) a 64)) ∧
      (code = 7 →
        let place := scrubbedWord s h.val w.addr
        let mine := fun (u : Nat) => 0x00F0000000000000 ≤ u ∧ dieOf ((u - 0x00F0000000000000) / 0x100000) = h.val ∧
          Config.wordOf u % 2 ^ 32 * 2 ^ 16 + Config.arrayOf u % 2 ^ 16 = w.addr.toNat % 2 ^ 48
        (∀ u, place = some (some u) → mine u) ∧ (∀ u ∈ s.poison, mine u → ∃ v, place = some (some v) ∧ v ∈ poisonedWords s) ∧
        (place = none → ends (.hearthScrubWord h.val) 1) ∧ (place = some none → ends (.hearthScrubWord h.val) 0) ∧
        (∀ u, place = some (some u) → s.Canonical →
          (∀ core (port : Fin 32) k, channelWord u = some (core, port.val, k) → exec (.hearthScrubWord h.val) s =
            .next (withPkg (withPort s core port { portAt s core port with queue := (portAt s core port).queue.modify k (fun x =>
              { x with data := w.data.get 0, poison := false }) }) (done p 0))) ∧
          (u % 8 = 0 → channelWord u = none → ∃ t, exec (.hearthScrubWord h.val) s = .next t ∧ Stored s t u (leBytes 8 (w.data.get 0).toNat) ∧
            (∀ x, x ∈ t.poison ↔ x ∈ s.poison ∧ x ≠ u) ∧ t.pkg = done p 0 ∧ t.slots = s.slots))) ∧
      (code = 8 →
        let ctx := w.addr.toNat % 65536
        let quota := w.arg.toNat
        let table := p.quotas.filter (fun x => x.1 != ctx) ++ (if quota = 0 then [] else [(ctx, quota)])
        let bad := h ≠ 0 ∨ 256 < quota ∨ 64 < table.length ∨ 32 * p.escways < (table.map (fun x => x.2)).sum
        let resident := ((ctxAt s ctx).slices.filter (fun x => x.state == .resident)).length
        (bad → ends (.hearthSliceQuota h.val) 1) ∧
        (¬bad → resident ≤ quota → exec (.hearthSliceQuota h.val) s = .next (withPkg s (done { p with quotas := table } 0))) ∧
        (¬bad → quota < resident → OneRowATag s ctx → ∃ t, exec (.hearthSliceQuota h.val) s = .next t ∧
          t.pkg = done { p with quotas := table } 0 ∧ SameMemory s t ∧ t.slots = s.slots ∧ t.cores = s.cores ∧ t.jobs = s.jobs ∧
          (∀ c, c ≠ ctx → ctxAt t c = ctxAt s c) ∧
          (∀ tag, (sliceAt s ctx tag).state ≠ .resident ∨ (sliceAt s ctx tag).pins ≠ 0 → sliceAt t ctx tag = sliceAt s ctx tag) ∧
          ((ctxAt t ctx).slices.filter (fun x => x.state == .resident)).length =
            max quota ((ctxAt s ctx).slices.filter (fun x => x.state == .resident && x.pins != 0)).length)))

/-- What the machine level reads in the device register space (R364 to R369, R372, Tables 20.4, 20.6 to 20.9): what is no aligned word of
a region is refused; a window's registers, its diversion entries, resident contexts, images of slots as a suspension would make them,
and rings; ESCWAYS, ESCCAP and the
quotas, the same in all four hearths; the package's registers, of which a SESSKEY word reads 0; and a link's status, control and
counters. (What an offset that no table names reads is the model's choice: log entry 68.) -/
def RegisterReads : Prop :=
  ∀ s : State,
    let p := s.pkg
    let reads := fun (off : Nat) (v : Word) => registerRead s off = some v
    let at_ := fun (n sh : Nat) => n * 2 ^ sh
    (∀ off, off % 8 ≠ 0 ∨ (0x09040000 ≤ off ∧ off < 0x10000000) ∨ (0x10001000 ≤ off ∧ off < 0x20000000) ∨
      (0x20210000 ≤ off ∧ off < 0x30000000) ∨ 0x30010000 ≤ off → registerRead s off = none) ∧
    (∀ core, core < 2304 →
      let c := coreAt s core
      let w := fun (off : Nat) (v : Word) => reads (core * 65536 + off) v
      w 0 c.window.cmd ∧ w 8 c.window.result ∧ w 0x10 c.window.op0 ∧ w 0x18 c.window.op1 ∧ w 0x20 c.window.value ∧
      (∀ e : Fin 8, let d := c.divert.get e
        let entry := 0x100 + 64 * e.val
        w entry (BitVec.ofNat 64 (d.ctx % 65536 + at_ d.mask.toNat 16 + at_ (match d.state with
          | .off => 0 | .saving => 1 | .diverted => 2 | .restoring => 3) 32)) ∧
        w (entry + 8) d.base ∧
        (∃ lo hi, w (entry + 0x10) lo ∧ w (entry + 0x18) hi ∧ ∀ k : Fin 16,
          ((if k.val < 8 then lo else hi).toNat / 2 ^ (8 * (k.val % 8))) % 256 = (d.banks.get k).cursor % 256) ∧
        ∃ v, w (entry + 0x20) v ∧ v.toNat < 2 ^ 16 ∧ ∀ k : Fin 16, v.getLsbD k.val = (d.banks.get k).done) ∧
      (∀ n r, n < 16 → c.residents[n]? = some r →
        w (0x400 + 16 * n) (BitVec.ofNat 64 (r.ctx % 65536 + at_ (r.part % 4) 16 + at_ r.bufmask.toNat 24)) ∧
        w (0x400 + 16 * n + 8) r.spill ∧
        ∀ k : Fin 16, (r.rings.get k = none → w (0x9000 + 256 * n + 16 * k.val) 0 ∧ w (0x9000 + 256 * n + 16 * k.val + 8) 0) ∧
          ∀ x, r.rings.get k = some x → x.base < 2 ^ 32 → x.size < 2 ^ 32 → x.count < 2 ^ 16 → x.head < 2 ^ 16 → x.tail < 2 ^ 16 →
            w (0x9000 + 256 * n + 16 * k.val) (BitVec.ofNat 64 (x.base + at_ x.size 32)) ∧
            w (0x9000 + 256 * n + 16 * k.val + 8) (BitVec.ofNat 64 (x.count + at_ x.head 16 + at_ x.tail 32))) ∧
      (∀ slot k, slot < 16 → k < 256 → let sl := slotAt s core slot
        let shown := w (0x800 + 2048 * slot + 8 * k)
        (sl.issue = none ∨ endsBundle sl.wait = false → shown (if sl.occupied then (imageOf s core sl sl.regs.pc).getD k 0 else 0)) ∧
        -- a wait that ends its bundle continues after it (Table 16.11)
        (endsBundle sl.wait = true → coreUp s core = true → ∀ iss o, Waits s core slot iss o →
          let t := closed s core slot o sl iss.after
          shown ((imageOf t core { slotAt t core slot with wait := sl.wait } iss.after).getD k 0)))) ∧
    (∀ h : Fin 4,
      let x := p.hearths.get h
      let w := fun (off : Nat) (v : Word) => reads (0x09000000 + h.val * 65536 + off) v
      w 0 x.cmd ∧ w 8 x.result ∧ w 0x10 x.addr ∧ w 0x18 x.arg ∧ (∀ k : Fin 8, w (0x40 + 8 * k.val) (x.data.get k)) ∧
      w 0x100 (BitVec.ofNat 64 p.escways) ∧ w 0x108 (BitVec.ofNat 64 (32 * p.escways)) ∧
      (∀ k ctx quota, k < 64 → p.quotas[k]? = some (ctx, quota) → w (0x200 + 8 * k) (BitVec.ofNat 64 (ctx % 65536 + at_ quota 16 +
        at_ ((ctxAt s ctx).slices.filter (fun y => y.state == .resident)).length 32)))) ∧
    reads 0x10000000 (statusWord p) ∧ reads 0x10000008 (BitVec.ofNat 64 p.pwrcap) ∧ reads 0x10000010 p.grpbase ∧
    reads 0x10000018 (BitVec.ofNat 64 p.pkgnum) ∧ (∀ k, k < 4 → reads (0x10000040 + 8 * k) 0) ∧
    (∀ link : Fin 16,
      let l := p.links.get link
      let w := fun (off : Nat) (v : Nat) => reads (0x30000000 + link.val * 4096 + off) (BitVec.ofNat 64 v)
      let bit := fun (x : Bool) (k : Nat) => if x then 2 ^ k else 0
      w 0 (bit l.up 0 + bit l.training 1 + bit l.down 2 + at_ (l.peerLink % 16) 28 + at_ (l.peer % 1024) 32) ∧
      w 8 (bit l.enabled 0) ∧ w 0x10 l.crcfail ∧ w 0x18 l.retries ∧ w 0x20 l.retrains ∧ w 0x28 l.feccorr ∧ w 0x30 l.fecuncorr)

end Sys2Proof.Certificates

section
open Sys2Proof Sys2Proof.Machine Sys2Proof.Certificates

/-- The package as a whole: its start, scrub and the host, the links, power and registers, and the hearth windows. -/
def Obligations.Package : Prop :=
  StagesOfStart ∧ ScrubAndHost ∧ Links ∧ PowerAndRegisters ∧ HearthCommands ∧ RegisterReads

end

/-! ## The commands of a core's window -/

namespace Sys2Proof.Certificates
open Sys2Proof Sys2Proof.Machine

/-- The window of a core holds a command with this code, and the core works. -/
def Commanded (s : State) (core code : Nat) : Prop :=
  coreUp s core = true ∧ (coreAt s core).window.cmd ≠ 0 ∧ (coreAt s core).window.cmd.toNat % 256 = code

/-- A state with a command of a core's window ended: CMD reads 0, and RESULT the result (R365). -/
def cmdEnded (u : State) (core : Nat) (r : Word) : State :=
  { u with cores := assign u.cores core { coreAt u core with
      window := { (coreAt u core).window with cmd := 0, result := r, begun := none } } }

/-- A command performed, with what it changes made in `u`. -/
def Performs (s : State) (core : Nat) (i : Instr) (u : State) : Prop := exec i s = .next (cmdEnded u core 0)

/-- A command refused: it changes nothing else. -/
def Refuses (s : State) (core : Nat) (i : Instr) : Prop := exec i s = .next (cmdEnded s core 1)

/-- A state with one core replaced. -/
def putCore (s : State) (core : Nat) (v : Core) : State := { s with cores := assign s.cores core v }

/-- A slot out of its bundle and its wait. -/
def letGo (sl : Slot) : Slot := { sl with issue := none, wait := .none, await := .none, stall := none, passed := none }

/-- A command performed that lets a thread of a slot go on: it acquires what Calben has done before (R347). -/
def LetsGo (s : State) (core slot : Nat) (i : Instr) (u : State) : Prop :=
  Performs s core i (after (acquireClock core slot (calbenClock s)) u)

/-- Commands 0, 1, 2, 10 and the reserved ones (R300 to R303, R355, R365, Table 20.5). A held thread goes on at an address, or its bundle is
fetched and decoded afresh, so that what is held of it is dropped [log entry 73], or takes a cause in place of its replay; a thread retires as
failed; a switch request is posted. (Which operands command 1 refuses beside those of Table 20.5, and what command 2 does to a thread that
already leaves, is the model's choice: log entry 63.) -/
def ThreadCommands : Prop :=
  ∀ (s : State) (core : Nat),
    let c := coreAt s core
    let w := c.window
    let slot := w.cmd.toNat / 2 ^ 8 % 16
    let sl := slotAt s core slot
    let codes : List (Instr × Nat) := [(.coreCmdIdle core, 0), (.coreCmdResume core, 1), (.coreCmdRetireAsFailed core, 2),
      (.coreCmdMakeResident core, 3), (.coreCmdRemove core, 4), (.coreCmdWriteMasks core, 5), (.coreCmdDivert core, 6),
      (.coreCmdClearEntry core, 7), (.coreCmdInstallEntry core, 8), (.coreCmdHandOver core, 9), (.coreCmdSwitchRequest core, 10),
      (.coreCmdWriteRegister core, 11), (.coreCmdReadRegister core, 12), (.coreCmdSpillDeque core, 13), (.coreCmdReleaseJob core, 14)]
    (∀ x ∈ codes, ¬Commanded s core x.2 → exec x.1 s = .next s) ∧
    (∀ k, 15 ≤ k → Commanded s core k → Refuses s core (.coreCmdReserved core)) ∧
    (Commanded s core 0 → Performs s core (.coreCmdIdle core) s) ∧
    (Commanded s core 10 →
      Performs s core (.coreCmdSwitchRequest core) (putSlot s core slot { sl with switchReq := sl.occupied })) ∧
    (Commanded s core 1 →
      let i := Instr.coreCmdResume core
      let held := sl.wait = .replay ∨ sl.wait = .held ∨ ∃ f e, sl.wait = .retiring f e true
      let causes : List Word := [0x06, 0x08, 0x0A]
      let anew : State := putCore s core { c with
        code := c.code.filter (fun u => !(u.ctx == sl.ctx && u.va == sl.regs.pc.toNat / 8 * 8)) }
      (sl.occupied = false ∨ ¬held → Refuses s core i) ∧
      (w.op1 ≠ 0 → w.op1 ∉ causes ∨ sl.wait = .held → Refuses s core i) ∧
      (sl.occupied = true → held → w.op1 = 0 → w.op0 ≠ 0 → LetsGo s core slot i
        (putSlot s core slot { letGo sl with regs := { sl.regs with pc := w.op0 } })) ∧
      (sl.occupied = true → w.op1 = 0 → w.op0 = 0 →
        (sl.wait = .replay ∨ sl.wait = .held →
          LetsGo s core slot i (putSlot anew core slot { letGo sl with replaceCause := none })) ∧
        (∀ f e, sl.wait = .retiring f e true → LetsGo s core slot i (putSlot s core slot { sl with wait := .retiring f e false }))) ∧
      (sl.occupied = true → w.op1 ∈ causes →
        (sl.wait = .replay → Performs s core i
          (putSlot anew core slot { letGo sl with replaceCause := some (w.op1.toNat, sl.replayValue) })) ∧
        (∀ f e, sl.wait = .retiring f e true → Performs s core i (after (leave core slot) { s with
          records := s.records ++ [{ cause := w.op1.toNat, flags := if sl.mode = .supervisor then 21 else 17, wait := 0, handle := 0
                                     value := sl.task.frame, pc := sl.regs.pc, who := whoOf s core slot }] })))) ∧
    (Commanded s core 2 →
      let i := Instr.coreCmdRetireAsFailed core
      (sl.occupied = false → Refuses s core i) ∧
      (sl.occupied = true →
        (sl.wait = .leaving → Performs s core i s) ∧
        (∀ f e h, sl.wait = .retiring f e h → Performs s core i (putSlot s core slot { sl with wait := .retiring true e false })) ∧
        (sl.wait ≠ .leaving → (∀ f e h, sl.wait ≠ .retiring f e h) →
          Performs s core i (putSlot s core slot { letGo sl with wait := .retiring true 0 false }))))

/-- Commands 3, 4 and 5 (R25, R314, R315): a context becomes resident, with an empty deque, no rings, PFTHR 2 and its flock's buckets at
reset, and the packets in its spill area named [log entry 28]; one that holds nothing on the core is removed; the masks move only what no thread,
image, diversion or ring holds. (What commands 4 and 5 refuse beside Table 20.5 is the model's choice: log entry 63.) -/
def ResidencyCommands : Prop :=
  ∀ (s : State) (core : Nat),
    let c := coreAt s core
    let w := c.window
    let ctx := w.cmd.toNat / 2 ^ 32 % 2 ^ 16
    (∀ h : Word,
      let a := h.toNat
      let cap := memNat s (a + 8) 4
      let packets := memNat s a 8
      spillOk s h = true ↔ a = 0 ∨ (a % 64 = 0 ∧ a + 63 < siloEnd ∧ memNat s (a + 0xC) 4 = 0 ∧ memNat s (a + 0x18) 0x28 = 0 ∧
        (cap = 0 ∨ ((∃ k, k ≤ 20 ∧ cap = 2 ^ k) ∧ packets % 64 = 0 ∧ packets + 64 * cap ≤ siloEnd ∧
          (memNat s (a + 0x14) 4 + 2 ^ 32 - memNat s (a + 0x10) 4) % 2 ^ 32 ≤ cap)))) ∧
    (Commanded s core 3 →
      let i := Instr.coreCmdMakeResident core
      let here := flockContexts s (core / 8)
      let mask : BitVec 8 := BitVec.ofNat 8 (w.op0.toNat / 2 ^ 8)
      let bad := residentOf c ctx ≠ none ∨ w.op0 &&& ~~~0xFF03 ≠ 0 ∨ 16 ≤ c.residents.length ∨ (ctx ∉ here ∧ 32 ≤ here.length) ∨
        (∃ r ∈ c.residents, r.bufmask &&& mask ≠ 0) ∨ spillOk s w.op1 = false
      let new : Resident := {
        ctx := ctx, part := w.op0.toNat % 4, bufmask := mask, spill := w.op1, deque := [], spilled := []
        rings := Vector.replicate 16 none, pfthr := 2, spawns := 0, jobs := 0 }
      let f := flockAt s (core / 8)
      (bad → Refuses s core i) ∧
      let named := fun (u : State) => Performs s core i (after (syncSpill core ctx) u)
      (¬bad → ctx ∈ here → named (putCore s core { c with residents := c.residents ++ [new] })) ∧
      (¬bad → ctx ∉ here → named
        { putCore s core { c with residents := c.residents ++ [new] } with
          flocks := assign s.flocks (core / 8) { f with buckets := f.buckets.filter (fun b => b.ctx != ctx) } })) ∧
    (Commanded s core 4 →
      let i := Instr.coreCmdRemove core
      let holds := (∃ k, k < 16 ∧ (slotAt s core k).occupied = true ∧ (slotAt s core k).ctx = ctx) ∨
        (∃ p ∈ c.parked, p.ctx = ctx) ∨ (∃ d ∈ c.divert.toList, d.state ≠ .off ∧ d.ctx = ctx) ∨
        (∃ j ∈ s.jobs, j.core = core ∧ j.ctx = ctx ∧ j.state ≠ .done) ∨ (∃ p ∈ c.ports.toList, ∃ o, p.owner = some o ∧ o.ctx = ctx) ∨
        (∃ p ∈ c.parison.toList, p.state ≠ .free ∧ p.ctx = ctx) ∨
        (∃ r, residentOf c ctx = some r ∧ (r.deque ≠ [] ∨ ∃ a, spillOf s r = some a ∧ a.count ≠ 0))
      (holds → Refuses s core i) ∧
      (¬holds → Performs s core i
        { putCore s core { c with residents := c.residents.filter (fun r => r.ctx != ctx) } with
          jobs := s.jobs.filter (fun j => !(j.core == core && j.ctx == ctx)) })) ∧
    (Commanded s core 5 →
      let i := Instr.coreCmdWriteMasks core
      let sm : Word := w.op0 &&& 0xFFFFFFFF
      let bm : Word := w.op1 &&& 0xFFFFFFFF
      let two := fun (m : Word) (k : Nat) => m.toNat / 2 ^ (2 * k) % 4
      let bad := (∃ k, k < 16 ∧ two sm k ≠ two c.slotmask k ∧ ((slotAt s core k).occupied = true ∨
          ∃ p ∈ c.parked, p.slot = k ∧ residentOf c p.ctx ≠ none)) ∨
        (∃ k, k < 16 ∧ two bm k ≠ two c.bankmask k ∧ ((∃ d ∈ c.divert.toList, d.state ≠ .off ∧ d.mask.getLsbD k = true) ∨
          ∃ r ∈ c.residents, ∃ x y, x ∈ r.rings.toList ∧ x = some y ∧ y.base < k * 0x4000 + 0x4000 ∧ k * 0x4000 < y.base + y.size * y.count))
      (bad → Refuses s core i) ∧
      (¬bad → Performs s core i (putCore s core { c with
        slotmask := sm
        bankmask := bm })))

/-- Commands 6 to 9 (R307 to R309, R316, R325): a save or restore is begun, and the command ends when that has; an entry is turned off, or
installed over an image as it stands, whose ports the core then counts as saved [log entry 94]; a slot is handed the thread of an image, in its home
cycle, which that takes, and a pair that it is in is dissolved. (What command 9 refuses beside Table 20.5 is the model's choice: log entry
63.) -/
def DiversionCommands : Prop :=
  ∀ (s : State) (core : Nat),
    let c := coreAt s core
    let w := c.window
    let x := w.op0.toNat
    let y := w.op1.toNat
    (∀ e : Fin 8, x % 8 = e.val →
      let old := c.divert.get e
      let op := x / 8 % 4
      let ctx := y / 2 ^ 32 % 2 ^ 16
      let mask : BitVec 16 := w.op1.setWidth 16
      let base : Word := BitVec.ofNat 64 (x % 2 ^ 56 / 2 ^ 16 * 2 ^ 16)
      let bad := x / 2 ^ 5 % 2 ^ 11 ≠ 0 ∨ 2 ^ 56 ≤ x ∨ y / 2 ^ 16 % 2 ^ 16 ≠ 0 ∨ 2 ^ 48 ≤ y ∨ (op ≠ 1 ∧ op ≠ 2) ∨ mask = 0 ∨
        residentOf c ctx = none ∨ (∃ r k, residentOf c ctx = some r ∧ k < 16 ∧ mask.getLsbD k = true ∧ bankPart c k ≠ r.part) ∨
        (op = 1 ∧ (old.state ≠ .off ∨ ∃ k : Fin 8, let d := c.divert.get k
          d.state ≠ .off ∧ d.ctx = ctx ∧ d.mask &&& mask ≠ 0)) ∨
        (op = 2 ∧ (old.state ≠ .diverted ∨ old.ctx ≠ ctx ∨ old.mask ≠ mask ∨ old.base ≠ base))
      (Commanded s core 6 → w.begun = none →
        (bad → Refuses s core (.coreCmdDivert core)) ∧
        (¬bad → exec (.coreCmdDivert core) s = .next (putCore s core { c with
          divert := c.divert.set e.val
            { ctx := ctx, mask := mask, base := base, state := if op = 1 then .saving else .restoring
              banks := Vector.replicate 16 { cursor := 0, done := false, pending := [] }, port := 0, turn := 15 } e.isLt
          window := { w with begun := some e.val } }))) ∧
      (Commanded s core 8 →
        (bad ∨ op ≠ 1 → Refuses s core (.coreCmdInstallEntry core)) ∧
        (¬bad → op = 1 →
          let u := withDivert s core e { ctx := ctx, mask := mask, base := base, state := .diverted
                                         banks := Vector.ofFn (fun k => { cursor := 0, done := mask.getLsbD k.val, pending := [] })
                                         port := 0, turn := 15 }
          ∃ t, exec (.coreCmdInstallEntry core) s = .next t ∧ { t with cores := s.cores } = s ∧
            { coreAt t core with ports := c.ports, window := w } = coreAt u core ∧
            (coreAt t core).window = { w with cmd := 0, result := 0, begun := none } ∧
            ∀ n : Fin 32,
              let image := fun (off len : Nat) => memNat s (base.toNat + 0x41000 + 16 * n.val + off) len
              let old := portAt s core n.val
              (image 4 1 % 2 = 0 ∨ (∃ o, old.owner = some o ∧ o.ctx ≠ ctx) → portAt t core n.val = old) ∧
              (image 4 1 % 2 = 1 → (∃ o, old.owner = some o ∧ o.ctx = ctx) → portAt t core n.val = { old with saved := true }) ∧
              (image 4 1 % 2 = 1 → old.owner = none → portAt t core n.val = { Port.reset with
                owner := some { ctx := ctx, slot := image 10 1 % 16, ep := Fin.ofNat 8 (image 10 1 / 16) }
                far := BitVec.ofNat 32 (image 0 4), recv := image 4 1 / 2 % 2 == 1, auto := image 4 1 / 4 % 2 == 1, saved := true }))) ∧
      (Commanded s core 7 →
        (8 ≤ x ∨ old.state = .saving ∨ old.state = .restoring → Refuses s core (.coreCmdClearEntry core)) ∧
        (x < 8 → old.state = .off → Performs s core (.coreCmdClearEntry core) s) ∧
        (x < 8 → old.state = .diverted →
          Performs s core (.coreCmdClearEntry core) (after (entryOff core e.val) s) ∧
          coreAt (after (entryOff core e.val) s) core = coreAt (withDivert s core e { old with state := .off }) core))) ∧
    (∀ e : Fin 8, Commanded s core 6 → w.begun = some e.val →
      let st := (c.divert.get e).state
      (st = .saving ∨ st = .restoring → exec (.coreCmdDivert core) s = .next s) ∧
      (st = .off ∨ st = .diverted → Performs s core (.coreCmdDivert core) s)) ∧
    (Commanded s core 9 →
      let i := Instr.coreCmdHandOver core
      let slot := w.cmd.toNat / 2 ^ 8 % 16
      let sl := slotAt s core slot
      let held := sl.wait = .replay ∨ sl.wait = .held ∨ ∃ f e, sl.wait = .retiring f e true
      let addr := x / 2048 * 2048
      let busy := sl.occupied = true ∧ ¬held
      let bad := 2 ^ 56 ≤ x ∨ x / 2 % 2 ^ 10 ≠ 0 ∨ siloEnd ≤ addr + 2047
      (busy ∨ bad → Refuses s core i) ∧
      (¬busy → ¬bad → imageWords s (plainReader s) core 0 (.phys addr false) = none → exec i s = .next s) ∧
      (¬busy → ¬bad → ∀ img, imageWords s (plainReader s) core 0 (.phys addr false) = some img →
        let cached := ∃ k ∈ c.images, k.addr = addr
        let wrong := imageBad c core none (partOf c slot) img = true ∨ (¬cached ∧ poisonedIn s addr 2048 = true)
        (wrong → Refuses s core i) ∧
        (¬wrong → c.spent = true ∨ c.cycle % 16 ≠ slot → exec i s = .next s) ∧
        (¬wrong → c.spent = false → c.cycle % 16 = slot → ∃ u, exec i s = .next u ∧
          (sl.pair = .unpaired → SameSlots s u core slot) ∧
          (sl.pair ≠ .unpaired → let other := (slot + 8) % 16
            slotAt u core other = { slotAt s core other with pair := .unpaired } ∧
            ∀ k, k ≠ core * 16 + slot → k ≠ core * 16 + other → lookup Slot.reset u.slots k = lookup Slot.reset s.slots k) ∧
          (coreAt u core).spent = true ∧
          (coreAt u core).window = { w with cmd := 0, result := 0, begun := none } ∧
          (w.op0.getLsbD 0 = false → (coreAt u core).images.head? = some {
            addr := addr
            words := if sl.occupied then imageOf s core (if sl.wait = .held then sl else { sl with wait := .replay }) sl.regs.pc
              else List.replicate 256 0
            under := memoryWords s addr }) ∧
          (w.op0.getLsbD 0 = true → ∀ k ∈ (coreAt u core).images, k.addr ≠ addr) ∧
          let v := slotAt u core slot
          let st := (imageWord img 0x128).toNat
          (st % 2 = 0 → v.occupied = false) ∧
          (st % 2 = 1 → v.occupied = true ∧ v.ctx = st / 2 ^ 48 ∧ v.ctl = loadedCtl img ∧ v.regs.pc = imageWord img 0x120 ∧
            v.regs.p = (loadedRegs img).p ∧ v.regs.b = (loadedRegs img).b ∧ v.last = some c.cycle ∧
            v.mode = (if st / 4 % 2 = 1 then .supervisor else .user) ∧ v.issue = none))))

/-- Commands 11 to 14 (R24, R25, R243, R293, R365): a privileged register written with the rights of the machine level, or read; a deque moved
into its spill area; a job that was set aside resumed, after what Calben has done, or ended with a cause. (Only numbers from 0x2000 up, and masks that R314 lets
move, are written: log entry 63.) -/
def RegisterAndJobCommands : Prop :=
  ∀ (s : State) (core : Nat),
    let c := coreAt s core
    let w := c.window
    let slot := w.cmd.toNat / 2 ^ 8 % 16
    let ctx := w.cmd.toNat / 2 ^ 32 % 2 ^ 16
    let sl := slotAt s core slot
    let x := ctxAt s ctx
    let n := w.op0.toNat % 2 ^ 14
    let v := w.op1
    (Commanded s core 11 →
      let i := Instr.coreCmdWriteRegister core
      let writes := fun (k : Nat) (ok : Prop) (u : State) => n = k → (ok → Performs s core i u) ∧ (¬ok → Refuses s core i)
      let slots := fun (k : Nat) (ok : Prop) (t : TrapRegs) => writes k ok (putSlot s core slot { sl with trap := t })
      let ctxs := fun (k : Nat) (ok : Prop) (y : Ctx) => writes k ok { s with ctxs := assign s.ctxs ctx y }
      (n < 0x2000 ∨ assigned n = false ∨ n = 0x2021 → Refuses s core i) ∧
      -- a wait that TSTATE says is suspended can only be kept, or dropped
      (let kind := v.toNat / 2 ^ 4 % 2 ^ 4
       writes 0x2004 (v.toNat < 2 ^ 8 ∧ (kind = 0 ∨ kind = sl.trap.tstate.toNat / 2 ^ 4 % 2 ^ 4) ∧ v.toNat / 2 % 4 ≠ 3)
        (putSlot s core slot { sl with trap := { sl.trap with tstate := v }, susp := if kind = 0 then .none else sl.susp })) ∧
      slots 0x2001 (v &&& ~~~0xC0FF = 0) { sl.trap with tcause := v } ∧ slots 0x2002 True { sl.trap with tval := v } ∧
      slots 0x2003 (v &&& ~~~0x00FFFFFFFFFFFFFC = 0) { sl.trap with tpc := v } ∧
      ctxs 0x2040 (v &&& ~~~0x00FFFFFFFFFFF000 = 0) { x with ptbase := v } ∧
      ctxs 0x2041 (v &&& ~~~0x00FFFFFFFFFFF000 = 0) { x with gptbase := v } ∧
      ctxs 0x2042 (v &&& ~~~0x00FFFFFFFFFFFFC0 = 0) { x with poolbase := v } ∧
      (∀ k : Fin 4, ctxs (0x2051 + k.val) True { x with sessDigest := x.sessDigest.set k.val v k.isLt }) ∧
      -- the buckets of the context in the core's flock, one for each of its slices
      (let f := flockAt s (core / 8)
       let buckets := fun (k : Nat) (ok : Prop) (g : Bucket → Bucket) => writes k ok { s with
         flocks := assign s.flocks (core / 8) { f with
           buckets := f.buckets.filter (fun b => b.ctx != ctx) ++ (List.range 8).map (fun m => g (bucketOf f ctx m)) } }
       buckets 0x2020 (v.toNat < 2 ^ 16) (fun b => { b with waymask := v.setWidth 16 }) ∧
       buckets 0x2030 (v.toNat < 2 ^ 8) (fun b => { b with rate := v.toNat }) ∧
       (let d := v.toNat % 2 ^ 8
        buckets 0x2031 (v &&& ~~~0xFFFF00FF = 0) (fun b => { b with
          depth := d, count := max (-((d / 2 : Nat) : Int)) (min b.count d) })) ∧
       (let d := v.toNat / 2 ^ 8 % 2 ^ 8
        buckets 0x2032 (v.toNat < 2 ^ 32) (fun b => { b with spRate := v.toNat % 2 ^ 8, spDepth := d, spec := min b.spec d }))) ∧
      ctxs 0x2050 True { x with sessModel := v } ∧ ctxs 0x2055 True { x with sessTenant := v } ∧
      ctxs 0x2060 (v &&& ~~~0x00FFFFFFFFFFFFC0 = 0) { x with kvtable := v } ∧
      ctxs 0x2061 (v.toNat % 0x200000 = 0 ∧ (v = 0 ∨ 0x400000 ≤ v.toNat)) { x with escbase := v } ∧
      ctxs 0x2062 (v &&& ~~~0x00FFFFFFFFFFC000 = 0) { x with mcbase := v } ∧
      writes 0x2010 (v.toNat < 2 ^ 32 ∧ slotmaskBad s core v = false) (putCore s core { c with slotmask := v }) ∧
      writes 0x2011 (v.toNat < 2 ^ 32 ∧ bankmaskBad s core v = false) (putCore s core { c with bankmask := v }) ∧
      (∀ h : partOf c slot < 4, writes 0x2000 (v &&& ~~~0x00FFFFFFFFFFFFFC = 0)
        (putCore s core { c with tvec := c.tvec.set (partOf c slot) v h }))) ∧
    (Commanded s core 12 →
      let i := Instr.coreCmdReadRegister core
      let f := flockAt s (core / 8)
      let b := bucketOf f ctx (core % 8)
      (n < 0x2000 ∨ assigned n = false → Refuses s core i) ∧
      (∀ y ∈ ([(0x2000, tvecOf c slot), (0x2001, sl.trap.tcause), (0x2002, sl.trap.tval), (0x2003, sl.trap.tpc),
          (0x2004, sl.trap.tstate), (0x2010, c.slotmask), (0x2011, c.bankmask), (0x2020, b.waymask.zeroExtend 64),
          (0x2021, word ((f.l2.filter (fun l => l.owner == ctx)).length * 65536 +
            (f.l2.filter (fun l => l.owner == ctx && l.slice == core % 8)).length)),
          (0x2030, word b.rate), (0x2031, word ((b.count % 65536).toNat * 65536 + b.depth)),
          (0x2032, word (b.spec * 65536 + b.spDepth * 256 + b.spRate)), (0x2040, x.ptbase), (0x2041, x.gptbase),
          (0x2042, x.poolbase), (0x2050, x.sessModel), (0x2051, x.sessDigest.get 0), (0x2052, x.sessDigest.get 1),
          (0x2053, x.sessDigest.get 2), (0x2054, x.sessDigest.get 3), (0x2055, x.sessTenant), (0x2060, x.kvtable),
          (0x2061, x.escbase), (0x2062, x.mcbase)] : List (Nat × Word)),
        n = y.1 → Performs s core i (putCore s core { c with window := { w with value := y.2 } }))) ∧
    (Commanded s core 13 →
      let i := Instr.coreCmdSpillDeque core
      (residentOf c ctx = none → Refuses s core i) ∧
      (∀ r, residentOf c ctx = some r →
        (spillOf s r = none → Refuses s core i) ∧
        (∀ a, spillOf s r = some a →
          let k := r.deque.length
          (a.cap < a.count + k → Refuses s core i) ∧
          (a.count + k ≤ a.cap → s.Canonical → (∃ m, m ≤ 20 ∧ a.cap = 2 ^ m) →
            (a.header + 64 ≤ a.array ∨ a.array + 64 * a.cap ≤ a.header) → ∃ t, exec i s = .next t ∧ t.slots = s.slots ∧
            (coreAt t core).window = { w with cmd := 0, result := 0, begun := none } ∧
            residentOf (coreAt t core) ctx = some { r with
              deque := [], spilled := r.spilled ++ r.deque.reverse.map (fun p => p.note) } ∧
            memNat t (a.header + 0x14) 4 = (a.tail + k) % 2 ^ 32 ∧
            (∀ j p, r.deque.reverse[j]? = some p →
              memBytes t (a.array + 64 * ((a.tail + j) % a.cap)) 64 = p.words.toList.flatMap (fun z => leBytes 8 z.toNat)) ∧
            (∀ q, ¬(a.array ≤ q ∧ q < a.array + 64 * a.cap) → ¬(a.header + 0x14 ≤ q ∧ q < a.header + 0x18) →
              memRead t.mem q = memRead s.mem q))))) ∧
    (Commanded s core 14 →
      let i := Instr.coreCmdReleaseJob core
      let named := s.jobs.find? (fun j => j.kind != 0 && j.core == core && j.ctx == ctx && j.state == .aside && w.op0 == word j.handle)
      (named = none → Refuses s core i) ∧
      (∀ j, named = some j →
        (v = 0 → Performs s core i { s with
          jobs := s.jobs.map (fun z => if z.order = j.order
            then { z with state := .queued, clock := Clock.join z.clock (calbenClock s) } else z) }) ∧
        (v ≠ 0 → v ∉ ([0x06, 0x08, 0x0A] : List Word) → Refuses s core i) ∧
        (v ∈ ([0x06, 0x08, 0x0A] : List Word) → ∃ t, exec i s = .next t ∧
          (coreAt t core).window = { w with cmd := 0, result := 0, begun := none } ∧
          ∀ z ∈ t.jobs, z.order = j.order → z.state = .done ∧ z.faulted = true ∧ z.cause = v.toNat ∧ z.value = j.value)))

end Sys2Proof.Certificates

section
open Sys2Proof Sys2Proof.Machine Sys2Proof.Certificates

/-- The commands by which Calben acts on a core through its control window. -/
def Obligations.CoreWindow : Prop := ThreadCommands ∧ ResidencyCommands ∧ DiversionCommands ∧ RegisterAndJobCommands

end
end

