-- ==== Sys2Proof/Laws/State.lean ====
section
/-! SUPPORT. What each update does to each field of the state, so that no later proof unfolds a record update. -/

namespace Sys2Proof.Machine

variable (s : State)

/-! ## The update mem -/

@[simp] theorem applyUpd_mem_mem (cells : List Host.Cell) : (applyUpd s (.mem cells)).mem = memWriteAll s.mem cells := rfl
@[simp] theorem applyUpd_mem_poison (cells : List Host.Cell) : (applyUpd s (.mem cells)).poison = s.poison := rfl
@[simp] theorem applyUpd_mem_slots (cells : List Host.Cell) : (applyUpd s (.mem cells)).slots = s.slots := rfl
@[simp] theorem applyUpd_mem_cores (cells : List Host.Cell) : (applyUpd s (.mem cells)).cores = s.cores := rfl
@[simp] theorem applyUpd_mem_flocks (cells : List Host.Cell) : (applyUpd s (.mem cells)).flocks = s.flocks := rfl
@[simp] theorem applyUpd_mem_bands (cells : List Host.Cell) : (applyUpd s (.mem cells)).bands = s.bands := rfl
@[simp] theorem applyUpd_mem_diesT (cells : List Host.Cell) : (applyUpd s (.mem cells)).diesT = s.diesT := rfl
@[simp] theorem applyUpd_mem_ctxs (cells : List Host.Cell) : (applyUpd s (.mem cells)).ctxs = s.ctxs := rfl
@[simp] theorem applyUpd_mem_jobs (cells : List Host.Cell) : (applyUpd s (.mem cells)).jobs = s.jobs := rfl
@[simp] theorem applyUpd_mem_reqs (cells : List Host.Cell) : (applyUpd s (.mem cells)).reqs = s.reqs := rfl
@[simp] theorem applyUpd_mem_msgs (cells : List Host.Cell) : (applyUpd s (.mem cells)).msgs = s.msgs := rfl
@[simp] theorem applyUpd_mem_records (cells : List Host.Cell) : (applyUpd s (.mem cells)).records = s.records := rfl
@[simp] theorem applyUpd_mem_pkg (cells : List Host.Cell) : (applyUpd s (.mem cells)).pkg = s.pkg := rfl
@[simp] theorem applyUpd_mem_order (cells : List Host.Cell) : (applyUpd s (.mem cells)).order = s.order := rfl
@[simp] theorem applyUpd_mem_issuing (cells : List Host.Cell) : (applyUpd s (.mem cells)).issuing = s.issuing := rfl
@[simp] theorem applyUpd_mem_agenda (cells : List Host.Cell) : (applyUpd s (.mem cells)).agenda = s.agenda := rfl
@[simp] theorem applyUpd_mem_tick (cells : List Host.Cell) : (applyUpd s (.mem cells)).tick = s.tick := rfl

/-! ## The update poison -/

@[simp] theorem applyUpd_poison_mem (v : List Nat) : (applyUpd s (.poison v)).mem = s.mem := rfl
@[simp] theorem applyUpd_poison_poison (v : List Nat) : (applyUpd s (.poison v)).poison = v := rfl
@[simp] theorem applyUpd_poison_slots (v : List Nat) : (applyUpd s (.poison v)).slots = s.slots := rfl
@[simp] theorem applyUpd_poison_cores (v : List Nat) : (applyUpd s (.poison v)).cores = s.cores := rfl
@[simp] theorem applyUpd_poison_flocks (v : List Nat) : (applyUpd s (.poison v)).flocks = s.flocks := rfl
@[simp] theorem applyUpd_poison_bands (v : List Nat) : (applyUpd s (.poison v)).bands = s.bands := rfl
@[simp] theorem applyUpd_poison_diesT (v : List Nat) : (applyUpd s (.poison v)).diesT = s.diesT := rfl
@[simp] theorem applyUpd_poison_ctxs (v : List Nat) : (applyUpd s (.poison v)).ctxs = s.ctxs := rfl
@[simp] theorem applyUpd_poison_jobs (v : List Nat) : (applyUpd s (.poison v)).jobs = s.jobs := rfl
@[simp] theorem applyUpd_poison_reqs (v : List Nat) : (applyUpd s (.poison v)).reqs = s.reqs := rfl
@[simp] theorem applyUpd_poison_msgs (v : List Nat) : (applyUpd s (.poison v)).msgs = s.msgs := rfl
@[simp] theorem applyUpd_poison_records (v : List Nat) : (applyUpd s (.poison v)).records = s.records := rfl
@[simp] theorem applyUpd_poison_pkg (v : List Nat) : (applyUpd s (.poison v)).pkg = s.pkg := rfl
@[simp] theorem applyUpd_poison_order (v : List Nat) : (applyUpd s (.poison v)).order = s.order := rfl
@[simp] theorem applyUpd_poison_issuing (v : List Nat) : (applyUpd s (.poison v)).issuing = s.issuing := rfl
@[simp] theorem applyUpd_poison_agenda (v : List Nat) : (applyUpd s (.poison v)).agenda = s.agenda := rfl
@[simp] theorem applyUpd_poison_tick (v : List Nat) : (applyUpd s (.poison v)).tick = s.tick := rfl

/-! ## The update slot -/

@[simp] theorem applyUpd_slot_mem (core slot : Nat) (v : Slot) : (applyUpd s (.slot core slot v)).mem = s.mem := rfl
@[simp] theorem applyUpd_slot_poison (core slot : Nat) (v : Slot) : (applyUpd s (.slot core slot v)).poison = s.poison := rfl
@[simp] theorem applyUpd_slot_slots (core slot : Nat) (v : Slot) : (applyUpd s (.slot core slot v)).slots = assign s.slots (core * 16 + slot) v := rfl
@[simp] theorem applyUpd_slot_cores (core slot : Nat) (v : Slot) : (applyUpd s (.slot core slot v)).cores = s.cores := rfl
@[simp] theorem applyUpd_slot_flocks (core slot : Nat) (v : Slot) : (applyUpd s (.slot core slot v)).flocks = s.flocks := rfl
@[simp] theorem applyUpd_slot_bands (core slot : Nat) (v : Slot) : (applyUpd s (.slot core slot v)).bands = s.bands := rfl
@[simp] theorem applyUpd_slot_diesT (core slot : Nat) (v : Slot) : (applyUpd s (.slot core slot v)).diesT = s.diesT := rfl
@[simp] theorem applyUpd_slot_ctxs (core slot : Nat) (v : Slot) : (applyUpd s (.slot core slot v)).ctxs = s.ctxs := rfl
@[simp] theorem applyUpd_slot_jobs (core slot : Nat) (v : Slot) : (applyUpd s (.slot core slot v)).jobs = s.jobs := rfl
@[simp] theorem applyUpd_slot_reqs (core slot : Nat) (v : Slot) : (applyUpd s (.slot core slot v)).reqs = s.reqs := rfl
@[simp] theorem applyUpd_slot_msgs (core slot : Nat) (v : Slot) : (applyUpd s (.slot core slot v)).msgs = s.msgs := rfl
@[simp] theorem applyUpd_slot_records (core slot : Nat) (v : Slot) : (applyUpd s (.slot core slot v)).records = s.records := rfl
@[simp] theorem applyUpd_slot_pkg (core slot : Nat) (v : Slot) : (applyUpd s (.slot core slot v)).pkg = s.pkg := rfl
@[simp] theorem applyUpd_slot_order (core slot : Nat) (v : Slot) : (applyUpd s (.slot core slot v)).order = s.order := rfl
@[simp] theorem applyUpd_slot_issuing (core slot : Nat) (v : Slot) : (applyUpd s (.slot core slot v)).issuing = s.issuing := rfl
@[simp] theorem applyUpd_slot_agenda (core slot : Nat) (v : Slot) : (applyUpd s (.slot core slot v)).agenda = s.agenda := rfl
@[simp] theorem applyUpd_slot_tick (core slot : Nat) (v : Slot) : (applyUpd s (.slot core slot v)).tick = s.tick := rfl

/-! ## The update core -/

@[simp] theorem applyUpd_core_mem (core : Nat) (v : Core) : (applyUpd s (.core core v)).mem = s.mem := rfl
@[simp] theorem applyUpd_core_poison (core : Nat) (v : Core) : (applyUpd s (.core core v)).poison = s.poison := rfl
@[simp] theorem applyUpd_core_slots (core : Nat) (v : Core) : (applyUpd s (.core core v)).slots = s.slots := rfl
@[simp] theorem applyUpd_core_cores (core : Nat) (v : Core) : (applyUpd s (.core core v)).cores = assign s.cores core v := rfl
@[simp] theorem applyUpd_core_flocks (core : Nat) (v : Core) : (applyUpd s (.core core v)).flocks = s.flocks := rfl
@[simp] theorem applyUpd_core_bands (core : Nat) (v : Core) : (applyUpd s (.core core v)).bands = s.bands := rfl
@[simp] theorem applyUpd_core_diesT (core : Nat) (v : Core) : (applyUpd s (.core core v)).diesT = s.diesT := rfl
@[simp] theorem applyUpd_core_ctxs (core : Nat) (v : Core) : (applyUpd s (.core core v)).ctxs = s.ctxs := rfl
@[simp] theorem applyUpd_core_jobs (core : Nat) (v : Core) : (applyUpd s (.core core v)).jobs = s.jobs := rfl
@[simp] theorem applyUpd_core_reqs (core : Nat) (v : Core) : (applyUpd s (.core core v)).reqs = s.reqs := rfl
@[simp] theorem applyUpd_core_msgs (core : Nat) (v : Core) : (applyUpd s (.core core v)).msgs = s.msgs := rfl
@[simp] theorem applyUpd_core_records (core : Nat) (v : Core) : (applyUpd s (.core core v)).records = s.records := rfl
@[simp] theorem applyUpd_core_pkg (core : Nat) (v : Core) : (applyUpd s (.core core v)).pkg = s.pkg := rfl
@[simp] theorem applyUpd_core_order (core : Nat) (v : Core) : (applyUpd s (.core core v)).order = s.order := rfl
@[simp] theorem applyUpd_core_issuing (core : Nat) (v : Core) : (applyUpd s (.core core v)).issuing = s.issuing := rfl
@[simp] theorem applyUpd_core_agenda (core : Nat) (v : Core) : (applyUpd s (.core core v)).agenda = s.agenda := rfl
@[simp] theorem applyUpd_core_tick (core : Nat) (v : Core) : (applyUpd s (.core core v)).tick = s.tick := rfl

/-! ## The update flock -/

@[simp] theorem applyUpd_flock_mem (k : Nat) (v : Flock) : (applyUpd s (.flock k v)).mem = s.mem := rfl
@[simp] theorem applyUpd_flock_poison (k : Nat) (v : Flock) : (applyUpd s (.flock k v)).poison = s.poison := rfl
@[simp] theorem applyUpd_flock_slots (k : Nat) (v : Flock) : (applyUpd s (.flock k v)).slots = s.slots := rfl
@[simp] theorem applyUpd_flock_cores (k : Nat) (v : Flock) : (applyUpd s (.flock k v)).cores = s.cores := rfl
@[simp] theorem applyUpd_flock_flocks (k : Nat) (v : Flock) : (applyUpd s (.flock k v)).flocks = assign s.flocks k v := rfl
@[simp] theorem applyUpd_flock_bands (k : Nat) (v : Flock) : (applyUpd s (.flock k v)).bands = s.bands := rfl
@[simp] theorem applyUpd_flock_diesT (k : Nat) (v : Flock) : (applyUpd s (.flock k v)).diesT = s.diesT := rfl
@[simp] theorem applyUpd_flock_ctxs (k : Nat) (v : Flock) : (applyUpd s (.flock k v)).ctxs = s.ctxs := rfl
@[simp] theorem applyUpd_flock_jobs (k : Nat) (v : Flock) : (applyUpd s (.flock k v)).jobs = s.jobs := rfl
@[simp] theorem applyUpd_flock_reqs (k : Nat) (v : Flock) : (applyUpd s (.flock k v)).reqs = s.reqs := rfl
@[simp] theorem applyUpd_flock_msgs (k : Nat) (v : Flock) : (applyUpd s (.flock k v)).msgs = s.msgs := rfl
@[simp] theorem applyUpd_flock_records (k : Nat) (v : Flock) : (applyUpd s (.flock k v)).records = s.records := rfl
@[simp] theorem applyUpd_flock_pkg (k : Nat) (v : Flock) : (applyUpd s (.flock k v)).pkg = s.pkg := rfl
@[simp] theorem applyUpd_flock_order (k : Nat) (v : Flock) : (applyUpd s (.flock k v)).order = s.order := rfl
@[simp] theorem applyUpd_flock_issuing (k : Nat) (v : Flock) : (applyUpd s (.flock k v)).issuing = s.issuing := rfl
@[simp] theorem applyUpd_flock_agenda (k : Nat) (v : Flock) : (applyUpd s (.flock k v)).agenda = s.agenda := rfl
@[simp] theorem applyUpd_flock_tick (k : Nat) (v : Flock) : (applyUpd s (.flock k v)).tick = s.tick := rfl

/-! ## The update band -/

@[simp] theorem applyUpd_band_mem (k : Nat) (v : Band) : (applyUpd s (.band k v)).mem = s.mem := rfl
@[simp] theorem applyUpd_band_poison (k : Nat) (v : Band) : (applyUpd s (.band k v)).poison = s.poison := rfl
@[simp] theorem applyUpd_band_slots (k : Nat) (v : Band) : (applyUpd s (.band k v)).slots = s.slots := rfl
@[simp] theorem applyUpd_band_cores (k : Nat) (v : Band) : (applyUpd s (.band k v)).cores = s.cores := rfl
@[simp] theorem applyUpd_band_flocks (k : Nat) (v : Band) : (applyUpd s (.band k v)).flocks = s.flocks := rfl
@[simp] theorem applyUpd_band_bands (k : Nat) (v : Band) : (applyUpd s (.band k v)).bands = assign s.bands k v := rfl
@[simp] theorem applyUpd_band_diesT (k : Nat) (v : Band) : (applyUpd s (.band k v)).diesT = s.diesT := rfl
@[simp] theorem applyUpd_band_ctxs (k : Nat) (v : Band) : (applyUpd s (.band k v)).ctxs = s.ctxs := rfl
@[simp] theorem applyUpd_band_jobs (k : Nat) (v : Band) : (applyUpd s (.band k v)).jobs = s.jobs := rfl
@[simp] theorem applyUpd_band_reqs (k : Nat) (v : Band) : (applyUpd s (.band k v)).reqs = s.reqs := rfl
@[simp] theorem applyUpd_band_msgs (k : Nat) (v : Band) : (applyUpd s (.band k v)).msgs = s.msgs := rfl
@[simp] theorem applyUpd_band_records (k : Nat) (v : Band) : (applyUpd s (.band k v)).records = s.records := rfl
@[simp] theorem applyUpd_band_pkg (k : Nat) (v : Band) : (applyUpd s (.band k v)).pkg = s.pkg := rfl
@[simp] theorem applyUpd_band_order (k : Nat) (v : Band) : (applyUpd s (.band k v)).order = s.order := rfl
@[simp] theorem applyUpd_band_issuing (k : Nat) (v : Band) : (applyUpd s (.band k v)).issuing = s.issuing := rfl
@[simp] theorem applyUpd_band_agenda (k : Nat) (v : Band) : (applyUpd s (.band k v)).agenda = s.agenda := rfl
@[simp] theorem applyUpd_band_tick (k : Nat) (v : Band) : (applyUpd s (.band k v)).tick = s.tick := rfl

/-! ## The update die -/

@[simp] theorem applyUpd_die_mem (k : Nat) (v : Die) : (applyUpd s (.die k v)).mem = s.mem := rfl
@[simp] theorem applyUpd_die_poison (k : Nat) (v : Die) : (applyUpd s (.die k v)).poison = s.poison := rfl
@[simp] theorem applyUpd_die_slots (k : Nat) (v : Die) : (applyUpd s (.die k v)).slots = s.slots := rfl
@[simp] theorem applyUpd_die_cores (k : Nat) (v : Die) : (applyUpd s (.die k v)).cores = s.cores := rfl
@[simp] theorem applyUpd_die_flocks (k : Nat) (v : Die) : (applyUpd s (.die k v)).flocks = s.flocks := rfl
@[simp] theorem applyUpd_die_bands (k : Nat) (v : Die) : (applyUpd s (.die k v)).bands = s.bands := rfl
@[simp] theorem applyUpd_die_diesT (k : Nat) (v : Die) : (applyUpd s (.die k v)).diesT = assign s.diesT k v := rfl
@[simp] theorem applyUpd_die_ctxs (k : Nat) (v : Die) : (applyUpd s (.die k v)).ctxs = s.ctxs := rfl
@[simp] theorem applyUpd_die_jobs (k : Nat) (v : Die) : (applyUpd s (.die k v)).jobs = s.jobs := rfl
@[simp] theorem applyUpd_die_reqs (k : Nat) (v : Die) : (applyUpd s (.die k v)).reqs = s.reqs := rfl
@[simp] theorem applyUpd_die_msgs (k : Nat) (v : Die) : (applyUpd s (.die k v)).msgs = s.msgs := rfl
@[simp] theorem applyUpd_die_records (k : Nat) (v : Die) : (applyUpd s (.die k v)).records = s.records := rfl
@[simp] theorem applyUpd_die_pkg (k : Nat) (v : Die) : (applyUpd s (.die k v)).pkg = s.pkg := rfl
@[simp] theorem applyUpd_die_order (k : Nat) (v : Die) : (applyUpd s (.die k v)).order = s.order := rfl
@[simp] theorem applyUpd_die_issuing (k : Nat) (v : Die) : (applyUpd s (.die k v)).issuing = s.issuing := rfl
@[simp] theorem applyUpd_die_agenda (k : Nat) (v : Die) : (applyUpd s (.die k v)).agenda = s.agenda := rfl
@[simp] theorem applyUpd_die_tick (k : Nat) (v : Die) : (applyUpd s (.die k v)).tick = s.tick := rfl

/-! ## The update ctx -/

@[simp] theorem applyUpd_ctx_mem (k : Nat) (v : Ctx) : (applyUpd s (.ctx k v)).mem = s.mem := rfl
@[simp] theorem applyUpd_ctx_poison (k : Nat) (v : Ctx) : (applyUpd s (.ctx k v)).poison = s.poison := rfl
@[simp] theorem applyUpd_ctx_slots (k : Nat) (v : Ctx) : (applyUpd s (.ctx k v)).slots = s.slots := rfl
@[simp] theorem applyUpd_ctx_cores (k : Nat) (v : Ctx) : (applyUpd s (.ctx k v)).cores = s.cores := rfl
@[simp] theorem applyUpd_ctx_flocks (k : Nat) (v : Ctx) : (applyUpd s (.ctx k v)).flocks = s.flocks := rfl
@[simp] theorem applyUpd_ctx_bands (k : Nat) (v : Ctx) : (applyUpd s (.ctx k v)).bands = s.bands := rfl
@[simp] theorem applyUpd_ctx_diesT (k : Nat) (v : Ctx) : (applyUpd s (.ctx k v)).diesT = s.diesT := rfl
@[simp] theorem applyUpd_ctx_ctxs (k : Nat) (v : Ctx) : (applyUpd s (.ctx k v)).ctxs = assign s.ctxs k v := rfl
@[simp] theorem applyUpd_ctx_jobs (k : Nat) (v : Ctx) : (applyUpd s (.ctx k v)).jobs = s.jobs := rfl
@[simp] theorem applyUpd_ctx_reqs (k : Nat) (v : Ctx) : (applyUpd s (.ctx k v)).reqs = s.reqs := rfl
@[simp] theorem applyUpd_ctx_msgs (k : Nat) (v : Ctx) : (applyUpd s (.ctx k v)).msgs = s.msgs := rfl
@[simp] theorem applyUpd_ctx_records (k : Nat) (v : Ctx) : (applyUpd s (.ctx k v)).records = s.records := rfl
@[simp] theorem applyUpd_ctx_pkg (k : Nat) (v : Ctx) : (applyUpd s (.ctx k v)).pkg = s.pkg := rfl
@[simp] theorem applyUpd_ctx_order (k : Nat) (v : Ctx) : (applyUpd s (.ctx k v)).order = s.order := rfl
@[simp] theorem applyUpd_ctx_issuing (k : Nat) (v : Ctx) : (applyUpd s (.ctx k v)).issuing = s.issuing := rfl
@[simp] theorem applyUpd_ctx_agenda (k : Nat) (v : Ctx) : (applyUpd s (.ctx k v)).agenda = s.agenda := rfl
@[simp] theorem applyUpd_ctx_tick (k : Nat) (v : Ctx) : (applyUpd s (.ctx k v)).tick = s.tick := rfl

/-! ## The update jobs -/

@[simp] theorem applyUpd_jobs_mem (v : List Job) : (applyUpd s (.jobs v)).mem = s.mem := rfl
@[simp] theorem applyUpd_jobs_poison (v : List Job) : (applyUpd s (.jobs v)).poison = s.poison := rfl
@[simp] theorem applyUpd_jobs_slots (v : List Job) : (applyUpd s (.jobs v)).slots = s.slots := rfl
@[simp] theorem applyUpd_jobs_cores (v : List Job) : (applyUpd s (.jobs v)).cores = s.cores := rfl
@[simp] theorem applyUpd_jobs_flocks (v : List Job) : (applyUpd s (.jobs v)).flocks = s.flocks := rfl
@[simp] theorem applyUpd_jobs_bands (v : List Job) : (applyUpd s (.jobs v)).bands = s.bands := rfl
@[simp] theorem applyUpd_jobs_diesT (v : List Job) : (applyUpd s (.jobs v)).diesT = s.diesT := rfl
@[simp] theorem applyUpd_jobs_ctxs (v : List Job) : (applyUpd s (.jobs v)).ctxs = s.ctxs := rfl
@[simp] theorem applyUpd_jobs_jobs (v : List Job) : (applyUpd s (.jobs v)).jobs = v := rfl
@[simp] theorem applyUpd_jobs_reqs (v : List Job) : (applyUpd s (.jobs v)).reqs = s.reqs := rfl
@[simp] theorem applyUpd_jobs_msgs (v : List Job) : (applyUpd s (.jobs v)).msgs = s.msgs := rfl
@[simp] theorem applyUpd_jobs_records (v : List Job) : (applyUpd s (.jobs v)).records = s.records := rfl
@[simp] theorem applyUpd_jobs_pkg (v : List Job) : (applyUpd s (.jobs v)).pkg = s.pkg := rfl
@[simp] theorem applyUpd_jobs_order (v : List Job) : (applyUpd s (.jobs v)).order = s.order := rfl
@[simp] theorem applyUpd_jobs_issuing (v : List Job) : (applyUpd s (.jobs v)).issuing = s.issuing := rfl
@[simp] theorem applyUpd_jobs_agenda (v : List Job) : (applyUpd s (.jobs v)).agenda = s.agenda := rfl
@[simp] theorem applyUpd_jobs_tick (v : List Job) : (applyUpd s (.jobs v)).tick = s.tick := rfl

/-! ## The update reqs -/

@[simp] theorem applyUpd_reqs_mem (v : List Req) : (applyUpd s (.reqs v)).mem = s.mem := rfl
@[simp] theorem applyUpd_reqs_poison (v : List Req) : (applyUpd s (.reqs v)).poison = s.poison := rfl
@[simp] theorem applyUpd_reqs_slots (v : List Req) : (applyUpd s (.reqs v)).slots = s.slots := rfl
@[simp] theorem applyUpd_reqs_cores (v : List Req) : (applyUpd s (.reqs v)).cores = s.cores := rfl
@[simp] theorem applyUpd_reqs_flocks (v : List Req) : (applyUpd s (.reqs v)).flocks = s.flocks := rfl
@[simp] theorem applyUpd_reqs_bands (v : List Req) : (applyUpd s (.reqs v)).bands = s.bands := rfl
@[simp] theorem applyUpd_reqs_diesT (v : List Req) : (applyUpd s (.reqs v)).diesT = s.diesT := rfl
@[simp] theorem applyUpd_reqs_ctxs (v : List Req) : (applyUpd s (.reqs v)).ctxs = s.ctxs := rfl
@[simp] theorem applyUpd_reqs_jobs (v : List Req) : (applyUpd s (.reqs v)).jobs = s.jobs := rfl
@[simp] theorem applyUpd_reqs_reqs (v : List Req) : (applyUpd s (.reqs v)).reqs = v := rfl
@[simp] theorem applyUpd_reqs_msgs (v : List Req) : (applyUpd s (.reqs v)).msgs = s.msgs := rfl
@[simp] theorem applyUpd_reqs_records (v : List Req) : (applyUpd s (.reqs v)).records = s.records := rfl
@[simp] theorem applyUpd_reqs_pkg (v : List Req) : (applyUpd s (.reqs v)).pkg = s.pkg := rfl
@[simp] theorem applyUpd_reqs_order (v : List Req) : (applyUpd s (.reqs v)).order = s.order := rfl
@[simp] theorem applyUpd_reqs_issuing (v : List Req) : (applyUpd s (.reqs v)).issuing = s.issuing := rfl
@[simp] theorem applyUpd_reqs_agenda (v : List Req) : (applyUpd s (.reqs v)).agenda = s.agenda := rfl
@[simp] theorem applyUpd_reqs_tick (v : List Req) : (applyUpd s (.reqs v)).tick = s.tick := rfl

/-! ## The update msgs -/

@[simp] theorem applyUpd_msgs_mem (v : List Msg) : (applyUpd s (.msgs v)).mem = s.mem := rfl
@[simp] theorem applyUpd_msgs_poison (v : List Msg) : (applyUpd s (.msgs v)).poison = s.poison := rfl
@[simp] theorem applyUpd_msgs_slots (v : List Msg) : (applyUpd s (.msgs v)).slots = s.slots := rfl
@[simp] theorem applyUpd_msgs_cores (v : List Msg) : (applyUpd s (.msgs v)).cores = s.cores := rfl
@[simp] theorem applyUpd_msgs_flocks (v : List Msg) : (applyUpd s (.msgs v)).flocks = s.flocks := rfl
@[simp] theorem applyUpd_msgs_bands (v : List Msg) : (applyUpd s (.msgs v)).bands = s.bands := rfl
@[simp] theorem applyUpd_msgs_diesT (v : List Msg) : (applyUpd s (.msgs v)).diesT = s.diesT := rfl
@[simp] theorem applyUpd_msgs_ctxs (v : List Msg) : (applyUpd s (.msgs v)).ctxs = s.ctxs := rfl
@[simp] theorem applyUpd_msgs_jobs (v : List Msg) : (applyUpd s (.msgs v)).jobs = s.jobs := rfl
@[simp] theorem applyUpd_msgs_reqs (v : List Msg) : (applyUpd s (.msgs v)).reqs = s.reqs := rfl
@[simp] theorem applyUpd_msgs_msgs (v : List Msg) : (applyUpd s (.msgs v)).msgs = v := rfl
@[simp] theorem applyUpd_msgs_records (v : List Msg) : (applyUpd s (.msgs v)).records = s.records := rfl
@[simp] theorem applyUpd_msgs_pkg (v : List Msg) : (applyUpd s (.msgs v)).pkg = s.pkg := rfl
@[simp] theorem applyUpd_msgs_order (v : List Msg) : (applyUpd s (.msgs v)).order = s.order := rfl
@[simp] theorem applyUpd_msgs_issuing (v : List Msg) : (applyUpd s (.msgs v)).issuing = s.issuing := rfl
@[simp] theorem applyUpd_msgs_agenda (v : List Msg) : (applyUpd s (.msgs v)).agenda = s.agenda := rfl
@[simp] theorem applyUpd_msgs_tick (v : List Msg) : (applyUpd s (.msgs v)).tick = s.tick := rfl

/-! ## The update records -/

@[simp] theorem applyUpd_records_mem (v : List Record) : (applyUpd s (.records v)).mem = s.mem := rfl
@[simp] theorem applyUpd_records_poison (v : List Record) : (applyUpd s (.records v)).poison = s.poison := rfl
@[simp] theorem applyUpd_records_slots (v : List Record) : (applyUpd s (.records v)).slots = s.slots := rfl
@[simp] theorem applyUpd_records_cores (v : List Record) : (applyUpd s (.records v)).cores = s.cores := rfl
@[simp] theorem applyUpd_records_flocks (v : List Record) : (applyUpd s (.records v)).flocks = s.flocks := rfl
@[simp] theorem applyUpd_records_bands (v : List Record) : (applyUpd s (.records v)).bands = s.bands := rfl
@[simp] theorem applyUpd_records_diesT (v : List Record) : (applyUpd s (.records v)).diesT = s.diesT := rfl
@[simp] theorem applyUpd_records_ctxs (v : List Record) : (applyUpd s (.records v)).ctxs = s.ctxs := rfl
@[simp] theorem applyUpd_records_jobs (v : List Record) : (applyUpd s (.records v)).jobs = s.jobs := rfl
@[simp] theorem applyUpd_records_reqs (v : List Record) : (applyUpd s (.records v)).reqs = s.reqs := rfl
@[simp] theorem applyUpd_records_msgs (v : List Record) : (applyUpd s (.records v)).msgs = s.msgs := rfl
@[simp] theorem applyUpd_records_records (v : List Record) : (applyUpd s (.records v)).records = v := rfl
@[simp] theorem applyUpd_records_pkg (v : List Record) : (applyUpd s (.records v)).pkg = s.pkg := rfl
@[simp] theorem applyUpd_records_order (v : List Record) : (applyUpd s (.records v)).order = s.order := rfl
@[simp] theorem applyUpd_records_issuing (v : List Record) : (applyUpd s (.records v)).issuing = s.issuing := rfl
@[simp] theorem applyUpd_records_agenda (v : List Record) : (applyUpd s (.records v)).agenda = s.agenda := rfl
@[simp] theorem applyUpd_records_tick (v : List Record) : (applyUpd s (.records v)).tick = s.tick := rfl

/-! ## The update pkg -/

@[simp] theorem applyUpd_pkg_mem (v : Pkg) : (applyUpd s (.pkg v)).mem = s.mem := rfl
@[simp] theorem applyUpd_pkg_poison (v : Pkg) : (applyUpd s (.pkg v)).poison = s.poison := rfl
@[simp] theorem applyUpd_pkg_slots (v : Pkg) : (applyUpd s (.pkg v)).slots = s.slots := rfl
@[simp] theorem applyUpd_pkg_cores (v : Pkg) : (applyUpd s (.pkg v)).cores = s.cores := rfl
@[simp] theorem applyUpd_pkg_flocks (v : Pkg) : (applyUpd s (.pkg v)).flocks = s.flocks := rfl
@[simp] theorem applyUpd_pkg_bands (v : Pkg) : (applyUpd s (.pkg v)).bands = s.bands := rfl
@[simp] theorem applyUpd_pkg_diesT (v : Pkg) : (applyUpd s (.pkg v)).diesT = s.diesT := rfl
@[simp] theorem applyUpd_pkg_ctxs (v : Pkg) : (applyUpd s (.pkg v)).ctxs = s.ctxs := rfl
@[simp] theorem applyUpd_pkg_jobs (v : Pkg) : (applyUpd s (.pkg v)).jobs = s.jobs := rfl
@[simp] theorem applyUpd_pkg_reqs (v : Pkg) : (applyUpd s (.pkg v)).reqs = s.reqs := rfl
@[simp] theorem applyUpd_pkg_msgs (v : Pkg) : (applyUpd s (.pkg v)).msgs = s.msgs := rfl
@[simp] theorem applyUpd_pkg_records (v : Pkg) : (applyUpd s (.pkg v)).records = s.records := rfl
@[simp] theorem applyUpd_pkg_pkg (v : Pkg) : (applyUpd s (.pkg v)).pkg = v := rfl
@[simp] theorem applyUpd_pkg_order (v : Pkg) : (applyUpd s (.pkg v)).order = s.order := rfl
@[simp] theorem applyUpd_pkg_issuing (v : Pkg) : (applyUpd s (.pkg v)).issuing = s.issuing := rfl
@[simp] theorem applyUpd_pkg_agenda (v : Pkg) : (applyUpd s (.pkg v)).agenda = s.agenda := rfl
@[simp] theorem applyUpd_pkg_tick (v : Pkg) : (applyUpd s (.pkg v)).tick = s.tick := rfl

/-! ## The update order -/

@[simp] theorem applyUpd_order_mem (v : Order) : (applyUpd s (.order v)).mem = s.mem := rfl
@[simp] theorem applyUpd_order_poison (v : Order) : (applyUpd s (.order v)).poison = s.poison := rfl
@[simp] theorem applyUpd_order_slots (v : Order) : (applyUpd s (.order v)).slots = s.slots := rfl
@[simp] theorem applyUpd_order_cores (v : Order) : (applyUpd s (.order v)).cores = s.cores := rfl
@[simp] theorem applyUpd_order_flocks (v : Order) : (applyUpd s (.order v)).flocks = s.flocks := rfl
@[simp] theorem applyUpd_order_bands (v : Order) : (applyUpd s (.order v)).bands = s.bands := rfl
@[simp] theorem applyUpd_order_diesT (v : Order) : (applyUpd s (.order v)).diesT = s.diesT := rfl
@[simp] theorem applyUpd_order_ctxs (v : Order) : (applyUpd s (.order v)).ctxs = s.ctxs := rfl
@[simp] theorem applyUpd_order_jobs (v : Order) : (applyUpd s (.order v)).jobs = s.jobs := rfl
@[simp] theorem applyUpd_order_reqs (v : Order) : (applyUpd s (.order v)).reqs = s.reqs := rfl
@[simp] theorem applyUpd_order_msgs (v : Order) : (applyUpd s (.order v)).msgs = s.msgs := rfl
@[simp] theorem applyUpd_order_records (v : Order) : (applyUpd s (.order v)).records = s.records := rfl
@[simp] theorem applyUpd_order_pkg (v : Order) : (applyUpd s (.order v)).pkg = s.pkg := rfl
@[simp] theorem applyUpd_order_order (v : Order) : (applyUpd s (.order v)).order = v := rfl
@[simp] theorem applyUpd_order_issuing (v : Order) : (applyUpd s (.order v)).issuing = s.issuing := rfl
@[simp] theorem applyUpd_order_agenda (v : Order) : (applyUpd s (.order v)).agenda = s.agenda := rfl
@[simp] theorem applyUpd_order_tick (v : Order) : (applyUpd s (.order v)).tick = s.tick := rfl

/-! ## The update issuing -/

@[simp] theorem applyUpd_issuing_mem (v : Option (Nat × Nat)) : (applyUpd s (.issuing v)).mem = s.mem := rfl
@[simp] theorem applyUpd_issuing_poison (v : Option (Nat × Nat)) : (applyUpd s (.issuing v)).poison = s.poison := rfl
@[simp] theorem applyUpd_issuing_slots (v : Option (Nat × Nat)) : (applyUpd s (.issuing v)).slots = s.slots := rfl
@[simp] theorem applyUpd_issuing_cores (v : Option (Nat × Nat)) : (applyUpd s (.issuing v)).cores = s.cores := rfl
@[simp] theorem applyUpd_issuing_flocks (v : Option (Nat × Nat)) : (applyUpd s (.issuing v)).flocks = s.flocks := rfl
@[simp] theorem applyUpd_issuing_bands (v : Option (Nat × Nat)) : (applyUpd s (.issuing v)).bands = s.bands := rfl
@[simp] theorem applyUpd_issuing_diesT (v : Option (Nat × Nat)) : (applyUpd s (.issuing v)).diesT = s.diesT := rfl
@[simp] theorem applyUpd_issuing_ctxs (v : Option (Nat × Nat)) : (applyUpd s (.issuing v)).ctxs = s.ctxs := rfl
@[simp] theorem applyUpd_issuing_jobs (v : Option (Nat × Nat)) : (applyUpd s (.issuing v)).jobs = s.jobs := rfl
@[simp] theorem applyUpd_issuing_reqs (v : Option (Nat × Nat)) : (applyUpd s (.issuing v)).reqs = s.reqs := rfl
@[simp] theorem applyUpd_issuing_msgs (v : Option (Nat × Nat)) : (applyUpd s (.issuing v)).msgs = s.msgs := rfl
@[simp] theorem applyUpd_issuing_records (v : Option (Nat × Nat)) : (applyUpd s (.issuing v)).records = s.records := rfl
@[simp] theorem applyUpd_issuing_pkg (v : Option (Nat × Nat)) : (applyUpd s (.issuing v)).pkg = s.pkg := rfl
@[simp] theorem applyUpd_issuing_order (v : Option (Nat × Nat)) : (applyUpd s (.issuing v)).order = s.order := rfl
@[simp] theorem applyUpd_issuing_issuing (v : Option (Nat × Nat)) : (applyUpd s (.issuing v)).issuing = v := rfl
@[simp] theorem applyUpd_issuing_agenda (v : Option (Nat × Nat)) : (applyUpd s (.issuing v)).agenda = s.agenda := rfl
@[simp] theorem applyUpd_issuing_tick (v : Option (Nat × Nat)) : (applyUpd s (.issuing v)).tick = s.tick := rfl

/-! ## The update agenda -/

@[simp] theorem applyUpd_agenda_mem (v : List Move) : (applyUpd s (.agenda v)).mem = s.mem := rfl
@[simp] theorem applyUpd_agenda_poison (v : List Move) : (applyUpd s (.agenda v)).poison = s.poison := rfl
@[simp] theorem applyUpd_agenda_slots (v : List Move) : (applyUpd s (.agenda v)).slots = s.slots := rfl
@[simp] theorem applyUpd_agenda_cores (v : List Move) : (applyUpd s (.agenda v)).cores = s.cores := rfl
@[simp] theorem applyUpd_agenda_flocks (v : List Move) : (applyUpd s (.agenda v)).flocks = s.flocks := rfl
@[simp] theorem applyUpd_agenda_bands (v : List Move) : (applyUpd s (.agenda v)).bands = s.bands := rfl
@[simp] theorem applyUpd_agenda_diesT (v : List Move) : (applyUpd s (.agenda v)).diesT = s.diesT := rfl
@[simp] theorem applyUpd_agenda_ctxs (v : List Move) : (applyUpd s (.agenda v)).ctxs = s.ctxs := rfl
@[simp] theorem applyUpd_agenda_jobs (v : List Move) : (applyUpd s (.agenda v)).jobs = s.jobs := rfl
@[simp] theorem applyUpd_agenda_reqs (v : List Move) : (applyUpd s (.agenda v)).reqs = s.reqs := rfl
@[simp] theorem applyUpd_agenda_msgs (v : List Move) : (applyUpd s (.agenda v)).msgs = s.msgs := rfl
@[simp] theorem applyUpd_agenda_records (v : List Move) : (applyUpd s (.agenda v)).records = s.records := rfl
@[simp] theorem applyUpd_agenda_pkg (v : List Move) : (applyUpd s (.agenda v)).pkg = s.pkg := rfl
@[simp] theorem applyUpd_agenda_order (v : List Move) : (applyUpd s (.agenda v)).order = s.order := rfl
@[simp] theorem applyUpd_agenda_issuing (v : List Move) : (applyUpd s (.agenda v)).issuing = s.issuing := rfl
@[simp] theorem applyUpd_agenda_agenda (v : List Move) : (applyUpd s (.agenda v)).agenda = v := rfl
@[simp] theorem applyUpd_agenda_tick (v : List Move) : (applyUpd s (.agenda v)).tick = s.tick := rfl

/-! ## The update tick -/

@[simp] theorem applyUpd_tick_mem (v : Nat) : (applyUpd s (.tick v)).mem = s.mem := rfl
@[simp] theorem applyUpd_tick_poison (v : Nat) : (applyUpd s (.tick v)).poison = s.poison := rfl
@[simp] theorem applyUpd_tick_slots (v : Nat) : (applyUpd s (.tick v)).slots = s.slots := rfl
@[simp] theorem applyUpd_tick_cores (v : Nat) : (applyUpd s (.tick v)).cores = s.cores := rfl
@[simp] theorem applyUpd_tick_flocks (v : Nat) : (applyUpd s (.tick v)).flocks = s.flocks := rfl
@[simp] theorem applyUpd_tick_bands (v : Nat) : (applyUpd s (.tick v)).bands = s.bands := rfl
@[simp] theorem applyUpd_tick_diesT (v : Nat) : (applyUpd s (.tick v)).diesT = s.diesT := rfl
@[simp] theorem applyUpd_tick_ctxs (v : Nat) : (applyUpd s (.tick v)).ctxs = s.ctxs := rfl
@[simp] theorem applyUpd_tick_jobs (v : Nat) : (applyUpd s (.tick v)).jobs = s.jobs := rfl
@[simp] theorem applyUpd_tick_reqs (v : Nat) : (applyUpd s (.tick v)).reqs = s.reqs := rfl
@[simp] theorem applyUpd_tick_msgs (v : Nat) : (applyUpd s (.tick v)).msgs = s.msgs := rfl
@[simp] theorem applyUpd_tick_records (v : Nat) : (applyUpd s (.tick v)).records = s.records := rfl
@[simp] theorem applyUpd_tick_pkg (v : Nat) : (applyUpd s (.tick v)).pkg = s.pkg := rfl
@[simp] theorem applyUpd_tick_order (v : Nat) : (applyUpd s (.tick v)).order = s.order := rfl
@[simp] theorem applyUpd_tick_issuing (v : Nat) : (applyUpd s (.tick v)).issuing = s.issuing := rfl
@[simp] theorem applyUpd_tick_agenda (v : Nat) : (applyUpd s (.tick v)).agenda = s.agenda := rfl
@[simp] theorem applyUpd_tick_tick (v : Nat) : (applyUpd s (.tick v)).tick = v := rfl

end Sys2Proof.Machine
end

