-- ==== Sys2Proof/Laws/Tables.lean ====
section
/-! SUPPORT. Tables with a default row: what an assignment changes and what it keeps, and with that every row of the state after
every update. -/

namespace Sys2Proof.Machine

variable {α : Type}

/-- A row read where it was assigned. -/
@[simp] theorem lookup_assign_same (d : α) (t : List (Nat × α)) (k : Nat) (v : α) : lookup d (assign t k v) k = v := by
  induction t with
  | nil => simp [assign, lookup]
  | cons x t ih =>
    unfold assign
    split
    · simp_all [lookup]
    · simp_all [lookup]

/-- A row read elsewhere. -/
@[simp] theorem lookup_assign_other (d : α) (t : List (Nat × α)) {k j : Nat} (v : α) (h : j ≠ k) :
    lookup d (assign t k v) j = lookup d t j := by
  induction t with
  | nil => simp [assign, lookup, h]
  | cons x t ih =>
    unfold assign
    split
    · simp_all [lookup]
    · simp only [lookup, ih]

/-- A row read anywhere after an assignment. -/
theorem lookup_assign (d : α) (t : List (Nat × α)) (k j : Nat) (v : α) :
    lookup d (assign t k v) j = if j = k then v else lookup d t j := by
  split
  · simp_all
  · simp_all

/-- Of two assignments of one row the later stands. -/
@[simp] theorem assign_assign (t : List (Nat × α)) (k : Nat) (v w : α) : assign (assign t k v) k w = assign t k w := by
  induction t with
  | nil => simp [assign]
  | cons x t ih =>
    by_cases h : k = x.1
    · simp [assign, h]
    · simp [assign, h, ih]

/-- The keys of a table after an assignment. -/
theorem assign_keys (t : List (Nat × α)) (k : Nat) (v : α) :
    (assign t k v).map Prod.fst = t.map Prod.fst ∨ (assign t k v).map Prod.fst = t.map Prod.fst ++ [k] := by
  induction t with
  | nil => simp [assign]
  | cons x t ih =>
    by_cases h : k = x.1
    · simp [assign, h]
    · rcases ih with ih | ih <;> simp [assign, h, ih]

/-- An assigned row is listed. -/
theorem mem_assign (t : List (Nat × α)) (k : Nat) (v : α) : ∃ x ∈ assign t k v, x.1 = k ∧ x.2 = v := by
  induction t with
  | nil => simp [assign]
  | cons x t ih =>
    by_cases h : k = x.1
    · exact ⟨(x.1, v), by simp [assign, h], by simp [h]⟩
    · obtain ⟨y, hy, hk⟩ := ih
      exact ⟨y, by simp [assign, h, hy], hk⟩

variable (s : State)

/-! ## Rows of the state after each update -/

@[simp] theorem slotAt_slot_same (core slot : Nat) (v : Slot) : slotAt (applyUpd s (.slot core slot v)) core slot = v := by
  simp [slotAt]

@[simp] theorem slotAt_slot_other {core slot c k : Nat} (v : Slot) (h : c * 16 + k ≠ core * 16 + slot) :
    slotAt (applyUpd s (.slot core slot v)) c k = slotAt s c k := by simp [slotAt, h]

@[simp] theorem coreAt_core_same (core : Nat) (v : Core) : coreAt (applyUpd s (.core core v)) core = v := by simp [coreAt]

@[simp] theorem coreAt_core_other {core c : Nat} (v : Core) (h : c ≠ core) :
    coreAt (applyUpd s (.core core v)) c = coreAt s c := by simp [coreAt, h]

@[simp] theorem flockAt_flock_same (k : Nat) (v : Flock) : flockAt (applyUpd s (.flock k v)) k = v := by simp [flockAt]

@[simp] theorem ctxAt_ctx_same (k : Nat) (v : Ctx) : ctxAt (applyUpd s (.ctx k v)) k = v := by simp [ctxAt]

@[simp] theorem ctxAt_ctx_other {k j : Nat} (v : Ctx) (h : j ≠ k) : ctxAt (applyUpd s (.ctx k v)) j = ctxAt s j := by
  simp [ctxAt, h]

@[simp] theorem dieAt_die_same (k : Nat) (v : Die) : dieAt (applyUpd s (.die k v)) k = v := by simp [dieAt]

@[simp] theorem bandAt_band_same (k : Nat) (v : Band) : bandAt (applyUpd s (.band k v)) k = v := by simp [bandAt]

@[simp] theorem slotAt_core (k : Nat) (v : Core) (c j : Nat) : slotAt (applyUpd s (.core k v)) c j = slotAt s c j := rfl
@[simp] theorem slotAt_mem (l : List Host.Cell) (c j : Nat) : slotAt (applyUpd s (.mem l)) c j = slotAt s c j := rfl
@[simp] theorem slotAt_flock (k : Nat) (v : Flock) (c j : Nat) : slotAt (applyUpd s (.flock k v)) c j = slotAt s c j := rfl
@[simp] theorem slotAt_ctx (k : Nat) (v : Ctx) (c j : Nat) : slotAt (applyUpd s (.ctx k v)) c j = slotAt s c j := rfl
@[simp] theorem slotAt_die (k : Nat) (v : Die) (c j : Nat) : slotAt (applyUpd s (.die k v)) c j = slotAt s c j := rfl
@[simp] theorem slotAt_jobs (v : List Job) (c j : Nat) : slotAt (applyUpd s (.jobs v)) c j = slotAt s c j := rfl
@[simp] theorem slotAt_reqs (v : List Req) (c j : Nat) : slotAt (applyUpd s (.reqs v)) c j = slotAt s c j := rfl
@[simp] theorem slotAt_msgs (v : List Msg) (c j : Nat) : slotAt (applyUpd s (.msgs v)) c j = slotAt s c j := rfl
@[simp] theorem slotAt_records (v : List Record) (c j : Nat) : slotAt (applyUpd s (.records v)) c j = slotAt s c j := rfl
@[simp] theorem slotAt_pkg (v : Pkg) (c j : Nat) : slotAt (applyUpd s (.pkg v)) c j = slotAt s c j := rfl
@[simp] theorem slotAt_issuing (v : Option (Nat × Nat)) (c j : Nat) :
    slotAt (applyUpd s (.issuing v)) c j = slotAt s c j := rfl
@[simp] theorem slotAt_agenda (v : List Move) (c j : Nat) : slotAt (applyUpd s (.agenda v)) c j = slotAt s c j := rfl
@[simp] theorem slotAt_tick (v : Nat) (c j : Nat) : slotAt (applyUpd s (.tick v)) c j = slotAt s c j := rfl

@[simp] theorem coreAt_slot (core slot : Nat) (v : Slot) (c : Nat) :
    coreAt (applyUpd s (.slot core slot v)) c = coreAt s c := rfl
@[simp] theorem coreAt_mem (l : List Host.Cell) (c : Nat) : coreAt (applyUpd s (.mem l)) c = coreAt s c := rfl
@[simp] theorem coreAt_flock (k : Nat) (v : Flock) (c : Nat) : coreAt (applyUpd s (.flock k v)) c = coreAt s c := rfl
@[simp] theorem coreAt_ctx (k : Nat) (v : Ctx) (c : Nat) : coreAt (applyUpd s (.ctx k v)) c = coreAt s c := rfl
@[simp] theorem coreAt_die (k : Nat) (v : Die) (c : Nat) : coreAt (applyUpd s (.die k v)) c = coreAt s c := rfl
@[simp] theorem coreAt_jobs (v : List Job) (c : Nat) : coreAt (applyUpd s (.jobs v)) c = coreAt s c := rfl
@[simp] theorem coreAt_reqs (v : List Req) (c : Nat) : coreAt (applyUpd s (.reqs v)) c = coreAt s c := rfl
@[simp] theorem coreAt_msgs (v : List Msg) (c : Nat) : coreAt (applyUpd s (.msgs v)) c = coreAt s c := rfl
@[simp] theorem coreAt_records (v : List Record) (c : Nat) : coreAt (applyUpd s (.records v)) c = coreAt s c := rfl
@[simp] theorem coreAt_pkg (v : Pkg) (c : Nat) : coreAt (applyUpd s (.pkg v)) c = coreAt s c := rfl
@[simp] theorem coreAt_issuing (v : Option (Nat × Nat)) (c : Nat) : coreAt (applyUpd s (.issuing v)) c = coreAt s c := rfl
@[simp] theorem coreAt_agenda (v : List Move) (c : Nat) : coreAt (applyUpd s (.agenda v)) c = coreAt s c := rfl
@[simp] theorem coreAt_tick (v : Nat) (c : Nat) : coreAt (applyUpd s (.tick v)) c = coreAt s c := rfl

@[simp] theorem ctxAt_slot (core slot : Nat) (v : Slot) (k : Nat) : ctxAt (applyUpd s (.slot core slot v)) k = ctxAt s k := rfl
@[simp] theorem ctxAt_core (core : Nat) (v : Core) (k : Nat) : ctxAt (applyUpd s (.core core v)) k = ctxAt s k := rfl
@[simp] theorem flockAt_slot (core slot : Nat) (v : Slot) (k : Nat) :
    flockAt (applyUpd s (.slot core slot v)) k = flockAt s k := rfl
@[simp] theorem flockAt_core (core : Nat) (v : Core) (k : Nat) : flockAt (applyUpd s (.core core v)) k = flockAt s k := rfl
@[simp] theorem dieAt_slot (core slot : Nat) (v : Slot) (k : Nat) : dieAt (applyUpd s (.slot core slot v)) k = dieAt s k := rfl
@[simp] theorem dieAt_core (core : Nat) (v : Core) (k : Nat) : dieAt (applyUpd s (.core core v)) k = dieAt s k := rfl

/-! ## A row replaced twice -/

@[simp] theorem applyUpd_slot_slot (core slot : Nat) (v w : Slot) :
    applyUpd (applyUpd s (.slot core slot v)) (.slot core slot w) = applyUpd s (.slot core slot w) := by simp [applyUpd]

@[simp] theorem applyUpd_core_core (core : Nat) (v w : Core) :
    applyUpd (applyUpd s (.core core v)) (.core core w) = applyUpd s (.core core w) := by simp [applyUpd]

@[simp] theorem applyUpd_flock_flock (k : Nat) (v w : Flock) :
    applyUpd (applyUpd s (.flock k v)) (.flock k w) = applyUpd s (.flock k w) := by simp [applyUpd]

/-- A slot's row and a core's row are replaced in either order. -/
theorem applyUpd_core_slot (core c slot : Nat) (v : Core) (w : Slot) :
    applyUpd (applyUpd s (.core core v)) (.slot c slot w) = applyUpd (applyUpd s (.slot c slot w)) (.core core v) := rfl

end Sys2Proof.Machine
end

