-- ==== Sys2Proof/Laws/Memory.lean ====
section
/-! SUPPORT. Memory: a read after a write, and the canonical form, which every write keeps; with that every list of updates, and
so every step, keeps it. -/

namespace Sys2Proof.Machine

/-! ## Reading after writing -/

/-- Below the first listed address nothing is listed. -/
theorem memRead_below {m : List Host.Cell} (h : Memory.wf m = true) {a : Nat}
    (hlt : ∀ c ∈ m.head?, a < c.1) : memRead m a = 0 := by
  induction m with
  | nil => rfl
  | cons c t ih =>
    have hc : a < c.1 := hlt c (by simp)
    have hne : ¬ a = c.1 := by omega
    cases t with
    | nil => simp [memRead, hne]
    | cons d t =>
      simp only [Memory.wf, Bool.and_eq_true, decide_eq_true_eq] at h
      have := ih h.2 (by simp; omega)
      simp only [memRead, hne, if_false] at this ⊢
      exact this

/-- The tail of a canonical memory is canonical. -/
theorem wf_tail {c : Host.Cell} {t : List Host.Cell} (h : Memory.wf (c :: t) = true) : Memory.wf t = true := by
  cases t with
  | nil => rfl
  | cons d t => simp only [Memory.wf, Bool.and_eq_true] at h; exact h.2

/-- The first listed byte of a canonical memory is not zero. -/
theorem wf_head {c : Host.Cell} {t : List Host.Cell} (h : Memory.wf (c :: t) = true) : c.2 ≠ 0 := by
  cases t with
  | nil => simpa [Memory.wf] using h
  | cons d t => simp only [Memory.wf, Bool.and_eq_true, bne_iff_ne] at h; exact h.1.1

/-- The second listed address of a canonical memory is above the first. -/
theorem wf_rising {c : Host.Cell} {t : List Host.Cell} (h : Memory.wf (c :: t) = true) : ∀ d ∈ t.head?, c.1 < d.1 := by
  cases t with
  | nil => simp
  | cons d t => simp only [Memory.wf, Bool.and_eq_true, decide_eq_true_eq] at h; simpa using h.1.2

/-- A canonical memory put together. -/
theorem wf_cons {c : Host.Cell} {t : List Host.Cell} (ht : Memory.wf t = true) (hc : c.2 ≠ 0)
    (hr : ∀ d ∈ t.head?, c.1 < d.1) : Memory.wf (c :: t) = true := by
  cases t with
  | nil => simpa [Memory.wf] using hc
  | cons d t =>
    have : c.1 < d.1 := hr d (by simp)
    simpa [Memory.wf, this, ht] using hc

/-- Where the first listed address of a written memory lies. -/
theorem memWrite_head {m : List Host.Cell} {a b : Nat} {v : Byte} (h : ∀ d ∈ m.head?, b < d.1) (hab : b < a)
    (hw : Memory.wf m = true) : ∀ d ∈ (memWrite m a v).head?, b < d.1 := by
  cases m with
  | nil =>
    intro d hd
    unfold memWrite at hd
    split at hd
    · simp at hd
    · simp only [List.head?_cons, Option.mem_def, Option.some.injEq] at hd
      subst hd; exact hab
  | cons c t =>
    have hc : b < c.1 := h c (by simp)
    intro d hd
    unfold memWrite at hd
    split at hd
    · split at hd
      · simp only [List.head?_cons, Option.mem_def, Option.some.injEq] at hd; subst hd; exact hc
      · simp only [List.head?_cons, Option.mem_def, Option.some.injEq] at hd; subst hd; exact hab
    · split at hd
      · split at hd
        · have := wf_rising hw d hd; omega
        · simp only [List.head?_cons, Option.mem_def, Option.some.injEq] at hd; subst hd; exact hab
      · simp only [List.head?_cons, Option.mem_def, Option.some.injEq] at hd; subst hd; exact hc

/-- A write keeps the canonical form. -/
theorem memWrite_wf {m : List Host.Cell} (h : Memory.wf m = true) (a : Nat) (v : Byte) :
    Memory.wf (memWrite m a v) = true := by
  induction m with
  | nil =>
    by_cases hv : v = 0#8
    · simp [memWrite, hv, Memory.wf]
    · simp [memWrite, hv, Memory.wf]
  | cons c t ih =>
    unfold memWrite
    split
    · split
      · exact h
      · rename_i hv; exact wf_cons h hv (by intro d hd; simp at hd; subst hd; assumption)
    · split
      · split
        · exact wf_tail h
        · rename_i ha hv; exact wf_cons (wf_tail h) hv (by intro d hd; have := wf_rising h d hd; simp_all)
      · exact wf_cons (ih (wf_tail h)) (wf_head h) (memWrite_head (wf_rising h) (by simp_all; omega) (wf_tail h))

/-- A byte read where it was written. -/
theorem memRead_memWrite_same {m : List Host.Cell} (h : Memory.wf m = true) (a : Nat) (v : Byte) :
    memRead (memWrite m a v) a = v := by
  induction m with
  | nil => by_cases hv : v = 0#8 <;> simp [memWrite, hv, memRead]
  | cons c t ih =>
    unfold memWrite
    split
    · rename_i hlt
      split
      · rename_i hv
        rw [memRead_below h (by simpa using hlt), hv]
      · simp [memRead]
    · split
      · rename_i ha
        split
        · rename_i hv
          rw [memRead_below (wf_tail h) (by intro d hd; have := wf_rising h d hd; omega), hv]
        · simp [memRead]
      · rename_i hne
        simp only [memRead, hne, if_false]
        exact ih (wf_tail h)

/-- A byte read elsewhere. -/
theorem memRead_memWrite_other (m : List Host.Cell) {a b : Nat} (v : Byte) (hne : b ≠ a) :
    memRead (memWrite m a v) b = memRead m b := by
  induction m with
  | nil => by_cases hv : v = 0#8 <;> simp [memWrite, hv, memRead, hne]
  | cons c t ih =>
    unfold memWrite
    split
    · split
      · rfl
      · simp [memRead, hne]
    · split
      · rename_i ha
        split
        · simp [memRead, ← ha, hne]
        · simp [memRead, ← ha, hne]
      · simp only [memRead, ih]

/-! ## Several bytes -/

/-- Several writes keep the canonical form. -/
theorem memWriteAll_wf {m : List Host.Cell} (h : Memory.wf m = true) (cs : List Host.Cell) :
    Memory.wf (memWriteAll m cs) = true := by
  induction cs generalizing m with
  | nil => exact h
  | cons c t ih => exact ih (memWrite_wf h c.1 c.2)

/-- A byte that no cell names is as it was. -/
theorem memRead_memWriteAll_other (m : List Host.Cell) (cs : List Host.Cell) {b : Nat} (h : ∀ c ∈ cs, c.1 ≠ b) :
    memRead (memWriteAll m cs) b = memRead m b := by
  induction cs generalizing m with
  | nil => rfl
  | cons c t ih =>
    have := ih (m := memWrite m c.1 c.2) (fun x hx => h x (by simp [hx]))
    rw [memWriteAll, List.foldl_cons, ← memWriteAll, this]
    exact memRead_memWrite_other m c.2 (fun e => h c (by simp) e.symm)

/-- The addresses of a run of cells. -/
theorem cellsAt_mem {a : Nat} {bs : List Byte} {c : Host.Cell} (h : c ∈ cellsAt a bs) : a ≤ c.1 ∧ c.1 < a + bs.length := by
  induction bs generalizing a with
  | nil => simp [cellsAt] at h
  | cons b t ih =>
    simp only [cellsAt, List.mem_cons] at h
    rcases h with h | h
    · subst h; simp
    · have := ih h; simp only [List.length_cons]; omega

/-- A byte of a run that was written. -/
theorem memRead_cellsAt {m : List Host.Cell} (h : Memory.wf m = true) (a : Nat) (bs : List Byte) (k : Nat)
    (hk : k < bs.length) : memRead (memWriteAll m (cellsAt a bs)) (a + k) = bs[k] := by
  induction bs generalizing m a k with
  | nil => simp at hk
  | cons b t ih =>
    rw [cellsAt, memWriteAll, List.foldl_cons, ← memWriteAll]
    cases k with
    | zero =>
      rw [memRead_memWriteAll_other]
      · simpa using memRead_memWrite_same h a b
      · intro c hc; have := cellsAt_mem hc; omega
    | succ k =>
      have := ih (memWrite_wf h a b) (a + 1) k (by simpa using hk)
      simpa [Nat.add_assoc, Nat.add_comm 1 k] using this

/-! ## Steps -/

/-- An update keeps the canonical form. -/
theorem applyUpd_canonical {s : State} (h : s.Canonical) (u : Upd) : (applyUpd s u).Canonical := by
  cases u with
  | mem cells => exact memWriteAll_wf h cells
  | _ => exact h

/-- Updates keep the canonical form. -/
theorem applyAll_canonical {s : State} (h : s.Canonical) (us : List Upd) : (applyAll s us).Canonical := by
  induction us generalizing s with
  | nil => exact h
  | cons u t ih => exact ih (applyUpd_canonical h u)

end Sys2Proof.Machine
end

