-- ==== Sys2Proof/Laws/Micro.lean ====
section
/-! SUPPORT. Steps put together from pieces: what comes after each combinator, so that a step is run by rewriting. -/

namespace Sys2Proof.Machine

variable {s : State}

theorem applyAll_append (s : State) (us vs : List Upd) : applyAll s (us ++ vs) = applyAll (applyAll s us) vs := by
  simp [applyAll]

@[simp] theorem applyAll_nil (s : State) : applyAll s [] = s := rfl

@[simp] theorem applyAll_cons (s : State) (u : Upd) (us : List Upd) :
    applyAll s (u :: us) = applyAll (applyUpd s u) us := rfl

@[simp] theorem after_skip (s : State) : after skip s = s := rfl

@[simp] theorem after_andThen (f g : Micro) (s : State) : after (andThen f g) s = after g (after f s) := by
  simp [after, andThen, applyAll_append]

@[simp] theorem after_doAll_nil (s : State) : after (doAll []) s = s := rfl

@[simp] theorem after_doAll_cons (f : Micro) (t : List Micro) (s : State) :
    after (doAll (f :: t)) s = after (doAll t) (after f s) := by simp [doAll]

@[simp] theorem after_ask (k : State → Micro) (s : State) : after (ask k) s = after (k s) s := rfl

@[simp] theorem after_onlyIf_true (f : Micro) (s : State) : after (onlyIf true f) s = after f s := rfl

@[simp] theorem after_onlyIf_false (f : Micro) (s : State) : after (onlyIf false f) s = s := rfl

theorem after_onlyIf (c : Bool) (f : Micro) (s : State) : after (onlyIf c f) s = if c then after f s else s := by
  cases c <;> rfl

@[simp] theorem after_forAll_nil {α : Type} (f : α → Micro) (s : State) : after (forAll [] f) s = s := rfl

@[simp] theorem after_forAll_cons {α : Type} (x : α) (t : List α) (f : α → Micro) (s : State) :
    after (forAll (x :: t) f) s = after (forAll t f) (after (f x) s) := by simp [forAll]

@[simp] theorem after_const (us : List Upd) (s : State) : after (fun _ => us) s = applyAll s us := rfl

@[simp] theorem after_modSlot (core slot : Nat) (f : Slot → Slot) (s : State) :
    after (modSlot core slot f) s = applyUpd s (.slot core slot (f (slotAt s core slot))) := rfl

@[simp] theorem after_modCore (core : Nat) (f : Core → Core) (s : State) :
    after (modCore core f) s = applyUpd s (.core core (f (coreAt s core))) := rfl

@[simp] theorem after_modFlock (k : Nat) (f : Flock → Flock) (s : State) :
    after (modFlock k f) s = applyUpd s (.flock k (f (flockAt s k))) := rfl

@[simp] theorem after_modBand (k : Nat) (f : Band → Band) (s : State) :
    after (modBand k f) s = applyUpd s (.band k (f (bandAt s k))) := rfl

@[simp] theorem after_modDie (k : Nat) (f : Die → Die) (s : State) :
    after (modDie k f) s = applyUpd s (.die k (f (dieAt s k))) := rfl

@[simp] theorem after_modCtx (k : Nat) (f : Ctx → Ctx) (s : State) :
    after (modCtx k f) s = applyUpd s (.ctx k (f (ctxAt s k))) := rfl

@[simp] theorem after_modPkg (f : Pkg → Pkg) (s : State) : after (modPkg f) s = applyUpd s (.pkg (f s.pkg)) := rfl

@[simp] theorem after_modJobs (f : List Job → List Job) (s : State) :
    after (modJobs f) s = applyUpd s (.jobs (f s.jobs)) := rfl

@[simp] theorem after_putBytes (a : Nat) (bs : List Byte) (s : State) :
    after (putBytes a bs) s = applyUpd s (.mem (cellsAt a bs)) := rfl

@[simp] theorem after_postRecord (r : Record) (s : State) :
    after (postRecord r) s = applyUpd s (.records (s.records ++ [r])) := rfl

@[simp] theorem after_bump (s : State) : after bump s = applyUpd s (.tick (s.tick + 1)) := rfl

/-- A step that makes updates goes on. -/
theorem commit_eq (s : State) (f : Micro) : commit s f = .next (after f s) := rfl

/-- A piece keeps the canonical form of memory. -/
theorem after_canonical (h : s.Canonical) (f : Micro) : (after f s).Canonical := applyAll_canonical h (f s)

/-- A step made by a piece keeps the canonical form. -/
theorem commit_canonical (h : s.Canonical) (f : Micro) {t : State} (ht : commit s f = .next t) : t.Canonical := by
  cases ht; exact after_canonical h f

/-- A step of a core that works. -/
theorem coreStep_up {core : Nat} (f : Micro) (h : coreUp s core = true) : coreStep s core f = .next (after f s) := by
  simp [coreStep, commit_eq, h]

/-- A step of a slot of a core that works. -/
theorem slotStep_up {core slot : Nat} (f : Micro) (h : coreUp s core = true) (hs : slot < 16) :
    slotStep s core slot f = .next (after f s) := by simp [slotStep, commit_eq, h, hs]

/-- A step of a unit of a flock that works. -/
theorem flockStep_up {flock : Nat} (f : Micro) (h : flockUp s flock = true) : flockStep s flock f = .next (after f s) := by
  simp [flockStep, commit_eq, h]

end Sys2Proof.Machine
end

