-- ==== Sys2Proof/Laws/PerInstr.lean ====
section
/-! SUPPORT. One lemma per constructor of Instr: the word that encodes an instruction in a role has that role and decodes to the
instruction, with every operand at every value; no role encodes a step that no word stands for. -/

namespace Sys2Proof.Laws.WordOrStep

/-- Every word that encodes the instruction reads back as it. -/
def Statement (i : Instr) : Prop :=
  ∀ role w, encode role i = some w → w < 2 ^ 32 ∧ roleOf w = role ∧ (i.WellFormed = true → decodeWord w = .ok i)

/-! ## Fields -/

theorem fin_of {n : Nat} [NeZero n] {lo w : Nat} {x : Fin n} (h : w / 2 ^ lo % n = x.val) : fin n lo w = x :=
  Fin.ext (by simpa [fin, Fin.ofNat] using h)

theorem bits_of {n lo w : Nat} {x : BitVec n} (h : w / 2 ^ lo % 2 ^ n = x.toNat) : bits n lo w = x :=
  BitVec.eq_of_toNat_eq (by simpa [bits] using h)

theorem flag_of {lo w : Nat} {x : Bool} (h : w / 2 ^ lo % 2 = x.toNat) : flag lo w = x := by
  cases x <;> simp_all [flag]

theorem zero_zero (e : DecodeError) (r : Except DecodeError Instr) : zero e 0 r = r := rfl

theorem sound_of {i : Instr} (h : i.WellFormed = true) : sound i = .ok i := by
  simp only [Instr.WellFormed, Option.isNone_iff_eq_none] at h
  simp [sound, h]

/-! ## Roles -/

theorem role_of {v r : Nat} (hv : v < 2 ^ 30) (hr : r < 4) : fld (v + r * 2 ^ 30) 30 2 = r := by unfold fld; omega

/-- No role encodes the instruction. -/
theorem step {i : Instr} (h : ∀ role, encode role i = none) : Statement i := by
  intro role w hw; rw [h] at hw; cases hw

/-- An A word. -/
theorem wordA {i : Instr} {v : Nat} (he : ∀ role, encode role i = encode.aWord role v) (hv : v < 2 ^ 30)
    (hd : ∀ w r, w = v + r * 2 ^ 30 → i.WellFormed = true → decodeA w = .ok i) : Statement i := by
  intro role w hw
  rw [he] at hw
  cases role <;> simp only [encode.aWord, Option.some.injEq, reduceCtorEq] at hw
  have e : w = v + 2 * 2 ^ 30 := by omega
  have r : fld w 30 2 = 2 := by rw [e]; exact role_of hv (by omega)
  exact ⟨by omega, by simp [roleOf, r], fun h => by simpa [decodeWord, roleOf, r] using hd w 2 e h⟩

/-- A C word that may stand in a pair. -/
theorem wordC {i : Instr} {v : Nat} (he : ∀ role, encode role i = cWord role v) (hv : v < 2 ^ 30)
    (hd : ∀ w r, w = v + r * 2 ^ 30 → i.WellFormed = true → decodeC w = .ok i) : Statement i := by
  intro role w hw
  rw [he] at hw
  cases role <;> simp only [cWord, Option.some.injEq, reduceCtorEq] at hw
  · have e : w = v + 0 * 2 ^ 30 := by omega
    have r : fld w 30 2 = 0 := by rw [e]; exact role_of hv (by omega)
    exact ⟨by omega, by simp [roleOf, r], fun h => by simpa [decodeWord, roleOf, r] using hd w 0 e h⟩
  · have e : w = v + 1 * 2 ^ 30 := by omega
    have r : fld w 30 2 = 1 := by rw [e]; exact role_of hv (by omega)
    exact ⟨by omega, by simp [roleOf, r], fun h => by simpa [decodeWord, roleOf, r] using hd w 1 e h⟩

/-- A C word that stands alone. -/
theorem wordLone {i : Instr} {v : Nat} (he : ∀ role, encode role i = loneWord role v) (hv : v < 2 ^ 30)
    (hd : ∀ w r, w = v + r * 2 ^ 30 → i.WellFormed = true → decodeC w = .ok i) : Statement i := by
  intro role w hw
  rw [he] at hw
  cases role <;> simp only [loneWord, Option.some.injEq, reduceCtorEq] at hw
  have e : w = v + 1 * 2 ^ 30 := by omega
  have r : fld w 30 2 = 1 := by rw [e]; exact role_of hv (by omega)
  exact ⟨by omega, by simp [roleOf, r], fun h => by simpa [decodeWord, roleOf, r] using hd w 1 e h⟩

/-! ## The layouts of words -/

theorem layout_add {y r M F : Nat} (x0 : Fin 32) (x1 : Fin 32) (x2 : Fin 32) (x3 : Fin 8) (hM : M < 64) (hF : F < 64)
    (e : y = M * 0x1000000 + F * 8 + x0.val * 0x80000 + x1.val * 0x4000 + x2.val * 0x200 + x3.val + r * 2 ^ 30) :
    fld y 24 6 = M ∧ fld y 3 6 = F ∧ fin 32 19 y = x0 ∧ fin 32 14 y = x1 ∧ fin 32 9 y = x2 ∧ fin 8 0 y = x3 := by
  have := x0.isLt
  have := x1.isLt
  have := x2.isLt
  have := x3.isLt
  exact ⟨by unfold fld; omega, by unfold fld; omega, fin_of (by omega), fin_of (by omega), fin_of (by omega), fin_of (by omega)⟩

theorem layout_clz {y r M F : Nat} (x0 : Fin 32) (x1 : Fin 32) (x2 : Fin 8) (hM : M < 64) (hF : F < 64)
    (e : y = M * 0x1000000 + F * 8 + x0.val * 0x80000 + x1.val * 0x4000 + x2.val + r * 2 ^ 30) :
    fld y 24 6 = M ∧ fld y 3 6 = F ∧ fld y 9 5 = 0 ∧ fin 32 19 y = x0 ∧ fin 32 14 y = x1 ∧ fin 8 0 y = x2 := by
  have := x0.isLt
  have := x1.isLt
  have := x2.isLt
  exact ⟨by unfold fld; omega, by unfold fld; omega, by unfold fld; omega, fin_of (by omega), fin_of (by omega), fin_of (by omega)⟩

theorem layout_cmpeq {y r M F : Nat} (x0 : Fin 8) (x1 : Fin 32) (x2 : Fin 32) (x3 : Fin 8) (hM : M < 64) (hF : F < 64)
    (e : y = M * 0x1000000 + F * 8 + x0.val * 0x80000 + x1.val * 0x4000 + x2.val * 0x200 + x3.val + r * 2 ^ 30) :
    fld y 24 6 = M ∧ fld y 3 6 = F ∧ fld y 22 2 = 0 ∧ fin 8 19 y = x0 ∧ fin 32 14 y = x1 ∧ fin 32 9 y = x2 ∧ fin 8 0 y = x3 := by
  have := x0.isLt
  have := x1.isLt
  have := x2.isLt
  have := x3.isLt
  exact ⟨by unfold fld; omega, by unfold fld; omega, by unfold fld; omega, fin_of (by omega), fin_of (by omega), fin_of (by omega), fin_of (by omega)⟩

theorem layout_pand {y r M F : Nat} (x0 : Fin 8) (x1 : Fin 8) (x2 : Fin 8) (x3 : Fin 8) (hM : M < 64) (hF : F < 64)
    (e : y = M * 0x1000000 + F * 8 + x0.val * 0x80000 + x1.val * 0x4000 + x2.val * 0x200 + x3.val + r * 2 ^ 30) :
    fld y 24 6 = M ∧ fld y 3 6 = F ∧ fld y 22 2 = 0 ∧ fld y 17 2 = 0 ∧ fld y 12 2 = 0 ∧ fin 8 19 y = x0 ∧ fin 8 14 y = x1 ∧ fin 8 9 y = x2 ∧ fin 8 0 y = x3 := by
  have := x0.isLt
  have := x1.isLt
  have := x2.isLt
  have := x3.isLt
  exact ⟨by unfold fld; omega, by unfold fld; omega, by unfold fld; omega, by unfold fld; omega, by unfold fld; omega, fin_of (by omega), fin_of (by omega), fin_of (by omega), fin_of (by omega)⟩

theorem layout_addi {y r M : Nat} (x0 : Fin 32) (x1 : Fin 32) (x2 : BitVec 14) (hM : M < 64)
    (e : y = M * 0x1000000 + x0.val * 0x80000 + x1.val * 0x4000 + x2.toNat + r * 2 ^ 30) :
    fld y 24 6 = M ∧ fin 32 19 y = x0 ∧ fin 32 14 y = x1 ∧ bits 14 0 y = x2 := by
  have := x0.isLt
  have := x1.isLt
  have := x2.isLt
  exact ⟨by unfold fld; omega, fin_of (by omega), fin_of (by omega), bits_of (by omega)⟩

theorem layout_shli {y r M : Nat} (x0 : Fin 32) (x1 : Fin 32) (x2 : Fin 64) (hM : M < 64)
    (e : y = M * 0x1000000 + x0.val * 0x80000 + x1.val * 0x4000 + x2.val + r * 2 ^ 30) :
    fld y 24 6 = M ∧ fld y 6 8 = 0 ∧ fin 32 19 y = x0 ∧ fin 32 14 y = x1 ∧ fin 64 0 y = x2 := by
  have := x0.isLt
  have := x1.isLt
  have := x2.isLt
  exact ⟨by unfold fld; omega, by unfold fld; omega, fin_of (by omega), fin_of (by omega), fin_of (by omega)⟩

theorem layout_li {y r M : Nat} (x0 : Fin 32) (x1 : BitVec 14) (hM : M < 64)
    (e : y = M * 0x1000000 + x0.val * 0x80000 + x1.toNat + r * 2 ^ 30) :
    fld y 24 6 = M ∧ fld y 14 5 = 0 ∧ fin 32 19 y = x0 ∧ bits 14 0 y = x1 := by
  have := x0.isLt
  have := x1.isLt
  exact ⟨by unfold fld; omega, by unfold fld; omega, fin_of (by omega), bits_of (by omega)⟩

theorem layout_cmpeqi {y r M : Nat} (x0 : Fin 8) (x1 : Fin 32) (x2 : BitVec 14) (hM : M < 64)
    (e : y = M * 0x1000000 + x0.val * 0x80000 + x1.val * 0x4000 + x2.toNat + r * 2 ^ 30) :
    fld y 24 6 = M ∧ fld y 22 2 = 0 ∧ fin 8 19 y = x0 ∧ fin 32 14 y = x1 ∧ bits 14 0 y = x2 := by
  have := x0.isLt
  have := x1.isLt
  have := x2.isLt
  exact ⟨by unfold fld; omega, by unfold fld; omega, fin_of (by omega), fin_of (by omega), bits_of (by omega)⟩

theorem layout_bfx {y r M : Nat} (x0 : Fin 32) (x1 : Fin 32) (x2 : Fin 64) (x3 : Fin 64) (hM : M < 64)
    (e : y = M * 0x1000000 + x0.val * 0x80000 + x1.val * 0x4000 + x2.val * 0x40 + x3.val + r * 2 ^ 30) :
    fld y 24 6 = M ∧ fld y 12 2 = 0 ∧ fin 32 19 y = x0 ∧ fin 32 14 y = x1 ∧ fin 64 6 y = x2 ∧ fin 64 0 y = x3 := by
  have := x0.isLt
  have := x1.isLt
  have := x2.isLt
  have := x3.isLt
  exact ⟨by unfold fld; omega, by unfold fld; omega, fin_of (by omega), fin_of (by omega), fin_of (by omega), fin_of (by omega)⟩

theorem layout_fadd {y r M F : Nat} (x0 : Fin 32) (x1 : Fin 32) (x2 : Fin 32) (x3 : Bool) (x4 : Fin 8) (hM : M < 64) (hF : F < 32)
    (e : y = M * 0x1000000 + F * 8 + x0.val * 0x80000 + x1.val * 0x4000 + x2.val * 0x200 + x3.toNat * 0x100 + x4.val + r * 2 ^ 30) :
    fld y 24 6 = M ∧ fld y 3 5 = F ∧ fin 32 19 y = x0 ∧ fin 32 14 y = x1 ∧ fin 32 9 y = x2 ∧ flag 8 y = x3 ∧ fin 8 0 y = x4 := by
  have := x0.isLt
  have := x1.isLt
  have := x2.isLt
  have := x4.isLt
  have := x3.toNat_le
  exact ⟨by unfold fld; omega, by unfold fld; omega, fin_of (by omega), fin_of (by omega), fin_of (by omega), flag_of (by omega), fin_of (by omega)⟩

theorem layout_fsqrt {y r M F : Nat} (x0 : Fin 32) (x1 : Fin 32) (x2 : Bool) (x3 : Fin 8) (hM : M < 64) (hF : F < 32)
    (e : y = M * 0x1000000 + F * 8 + x0.val * 0x80000 + x1.val * 0x4000 + x2.toNat * 0x100 + x3.val + r * 2 ^ 30) :
    fld y 24 6 = M ∧ fld y 3 5 = F ∧ fld y 9 5 = 0 ∧ fin 32 19 y = x0 ∧ fin 32 14 y = x1 ∧ flag 8 y = x2 ∧ fin 8 0 y = x3 := by
  have := x0.isLt
  have := x1.isLt
  have := x3.isLt
  have := x2.toNat_le
  exact ⟨by unfold fld; omega, by unfold fld; omega, by unfold fld; omega, fin_of (by omega), fin_of (by omega), flag_of (by omega), fin_of (by omega)⟩

theorem layout_fcvti {y r M F : Nat} (x0 : Fin 32) (x1 : Fin 32) (x2 : Bool) (x3 : Bool) (x4 : Fin 8) (hM : M < 64) (hF : F < 32)
    (e : y = M * 0x1000000 + F * 8 + x0.val * 0x80000 + x1.val * 0x4000 + x2.toNat * 0x200 + x3.toNat * 0x100 + x4.val + r * 2 ^ 30) :
    fld y 24 6 = M ∧ fld y 3 5 = F ∧ fld y 10 4 = 0 ∧ fin 32 19 y = x0 ∧ fin 32 14 y = x1 ∧ flag 9 y = x2 ∧ flag 8 y = x3 ∧ fin 8 0 y = x4 := by
  have := x0.isLt
  have := x1.isLt
  have := x4.isLt
  have := x2.toNat_le
  have := x3.toNat_le
  exact ⟨by unfold fld; omega, by unfold fld; omega, by unfold fld; omega, fin_of (by omega), fin_of (by omega), flag_of (by omega), flag_of (by omega), fin_of (by omega)⟩

theorem layout_fcmpeq {y r M F : Nat} (x0 : Fin 8) (x1 : Fin 32) (x2 : Fin 32) (x3 : Bool) (x4 : Fin 8) (hM : M < 64) (hF : F < 32)
    (e : y = M * 0x1000000 + F * 8 + x0.val * 0x80000 + x1.val * 0x4000 + x2.val * 0x200 + x3.toNat * 0x100 + x4.val + r * 2 ^ 30) :
    fld y 24 6 = M ∧ fld y 3 5 = F ∧ fld y 22 2 = 0 ∧ fin 8 19 y = x0 ∧ fin 32 14 y = x1 ∧ fin 32 9 y = x2 ∧ flag 8 y = x3 ∧ fin 8 0 y = x4 := by
  have := x0.isLt
  have := x1.isLt
  have := x2.isLt
  have := x4.isLt
  have := x3.toNat_le
  exact ⟨by unfold fld; omega, by unfold fld; omega, by unfold fld; omega, fin_of (by omega), fin_of (by omega), fin_of (by omega), flag_of (by omega), fin_of (by omega)⟩

theorem layout_badd {y r M : Nat} (x0 : Fin 64) (x1 : Fin 64) (x2 : Fin 64) (x3 : Fin 4) (x4 : Fin 16) (hM : M < 64)
    (e : y = M * 0x1000000 + x0.val * 0x40000 + x1.val * 0x1000 + x2.val * 0x40 + x3.val * 0x10 + x4.val + r * 2 ^ 30) :
    fld y 24 6 = M ∧ fin 64 18 y = x0 ∧ fin 64 12 y = x1 ∧ fin 64 6 y = x2 ∧ fin 4 4 y = x3 ∧ fin 16 0 y = x4 := by
  have := x0.isLt
  have := x1.isLt
  have := x2.isLt
  have := x3.isLt
  have := x4.isLt
  exact ⟨by unfold fld; omega, fin_of (by omega), fin_of (by omega), fin_of (by omega), fin_of (by omega), fin_of (by omega)⟩

theorem layout_bmov {y r M : Nat} (x0 : Fin 64) (x1 : Fin 64) (x2 : Fin 4) (x3 : Fin 16) (hM : M < 64)
    (e : y = M * 0x1000000 + x0.val * 0x40000 + x1.val * 0x1000 + x2.val * 0x10 + x3.val + r * 2 ^ 30) :
    fld y 24 6 = M ∧ fld y 6 6 = 0 ∧ fin 64 18 y = x0 ∧ fin 64 12 y = x1 ∧ fin 4 4 y = x2 ∧ fin 16 0 y = x3 := by
  have := x0.isLt
  have := x1.isLt
  have := x2.isLt
  have := x3.isLt
  exact ⟨by unfold fld; omega, by unfold fld; omega, fin_of (by omega), fin_of (by omega), fin_of (by omega), fin_of (by omega)⟩

theorem layout_bneg {y r M F : Nat} (x0 : Fin 64) (x1 : Fin 64) (x2 : Fin 4) (x3 : Fin 16) (hM : M < 64) (hF : F < 64)
    (e : y = M * 0x1000000 + F * 64 + x0.val * 0x40000 + x1.val * 0x1000 + x2.val * 0x10 + x3.val + r * 2 ^ 30) :
    fld y 24 6 = M ∧ fld y 6 6 = F ∧ fin 64 18 y = x0 ∧ fin 64 12 y = x1 ∧ fin 4 4 y = x2 ∧ fin 16 0 y = x3 := by
  have := x0.isLt
  have := x1.isLt
  have := x2.isLt
  have := x3.isLt
  exact ⟨by unfold fld; omega, by unfold fld; omega, fin_of (by omega), fin_of (by omega), fin_of (by omega), fin_of (by omega)⟩

theorem layout_bcvt {y r M : Nat} (x0 : Fin 64) (x1 : Fin 64) (x2 : Fin 16) (x3 : Fin 4) (x4 : Fin 16) (hM : M < 64)
    (e : y = M * 0x1000000 + x0.val * 0x40000 + x1.val * 0x1000 + x2.val * 0x40 + x3.val * 0x10 + x4.val + r * 2 ^ 30) :
    fld y 24 6 = M ∧ fld y 10 2 = 0 ∧ fin 64 18 y = x0 ∧ fin 64 12 y = x1 ∧ fin 16 6 y = x2 ∧ fin 4 4 y = x3 ∧ fin 16 0 y = x4 := by
  have := x0.isLt
  have := x1.isLt
  have := x2.isLt
  have := x3.isLt
  have := x4.isLt
  exact ⟨by unfold fld; omega, by unfold fld; omega, fin_of (by omega), fin_of (by omega), fin_of (by omega), fin_of (by omega), fin_of (by omega)⟩

theorem layout_bscal {y r M : Nat} (x0 : Fin 64) (x1 : Fin 64) (x2 : Fin 32) (x3 : Fin 4) (x4 : Fin 16) (hM : M < 64)
    (e : y = M * 0x1000000 + x0.val * 0x40000 + x1.val * 0x1000 + x2.val * 0x80 + x3.val * 0x10 + x4.val + r * 2 ^ 30) :
    fld y 24 6 = M ∧ fld y 6 1 = 0 ∧ fin 64 18 y = x0 ∧ fin 64 12 y = x1 ∧ fin 32 7 y = x2 ∧ fin 4 4 y = x3 ∧ fin 16 0 y = x4 := by
  have := x0.isLt
  have := x1.isLt
  have := x2.isLt
  have := x3.isLt
  have := x4.isLt
  exact ⟨by unfold fld; omega, by unfold fld; omega, fin_of (by omega), fin_of (by omega), fin_of (by omega), fin_of (by omega), fin_of (by omega)⟩

theorem layout_bbcst {y r M : Nat} (x0 : Fin 64) (x1 : Fin 32) (x2 : Fin 4) (x3 : Fin 16) (hM : M < 64)
    (e : y = M * 0x1000000 + x0.val * 0x40000 + x1.val * 0x80 + x2.val * 0x10 + x3.val + r * 2 ^ 30) :
    fld y 24 6 = M ∧ fld y 12 6 = 0 ∧ fld y 6 1 = 0 ∧ fin 64 18 y = x0 ∧ fin 32 7 y = x1 ∧ fin 4 4 y = x2 ∧ fin 16 0 y = x3 := by
  have := x0.isLt
  have := x1.isLt
  have := x2.isLt
  have := x3.isLt
  exact ⟨by unfold fld; omega, by unfold fld; omega, by unfold fld; omega, fin_of (by omega), fin_of (by omega), fin_of (by omega), fin_of (by omega)⟩

theorem layout_nop {y r M F : Nat} (x0 : Fin 8) (hM : M < 64) (hF : F < 64)
    (e : y = M * 0x1000000 + F * 8 + x0.val + r * 2 ^ 30) :
    fld y 24 6 = M ∧ fld y 3 6 = F ∧ fld y 9 15 = 0 ∧ fin 8 0 y = x0 := by
  have := x0.isLt
  exact ⟨by unfold fld; omega, by unfold fld; omega, by unfold fld; omega, fin_of (by omega)⟩

theorem layout_br {y r M : Nat} (x0 : Fin 8) (x1 : Bool) (x2 : BitVec 20) (hM : M < 64)
    (e : y = M * 0x1000000 + x0.val * 0x200000 + x1.toNat * 0x100000 + x2.toNat + r * 2 ^ 30) :
    fld y 24 6 = M ∧ fin 8 21 y = x0 ∧ flag 20 y = x1 ∧ bits 20 0 y = x2 := by
  have := x0.isLt
  have := x2.isLt
  have := x1.toNat_le
  exact ⟨by unfold fld; omega, fin_of (by omega), flag_of (by omega), bits_of (by omega)⟩

theorem layout_jal {y r M : Nat} (x0 : Fin 32) (x1 : BitVec 19) (hM : M < 64)
    (e : y = M * 0x1000000 + x0.val * 0x80000 + x1.toNat + r * 2 ^ 30) :
    fld y 24 6 = M ∧ fin 32 19 y = x0 ∧ bits 19 0 y = x1 := by
  have := x0.isLt
  have := x1.isLt
  exact ⟨by unfold fld; omega, fin_of (by omega), bits_of (by omega)⟩

theorem layout_jalr {y r M : Nat} (x0 : Fin 32) (x1 : Fin 32) (x2 : Fin 32) (x3 : Fin 8) (hM : M < 64)
    (e : y = M * 0x1000000 + x0.val * 0x80000 + x1.val * 0x4000 + x2.val * 0x200 + x3.val + r * 2 ^ 30) :
    fld y 24 6 = M ∧ fld y 3 6 = 0 ∧ fin 32 19 y = x0 ∧ fin 32 14 y = x1 ∧ fin 32 9 y = x2 ∧ fin 8 0 y = x3 := by
  have := x0.isLt
  have := x1.isLt
  have := x2.isLt
  have := x3.isLt
  exact ⟨by unfold fld; omega, by unfold fld; omega, fin_of (by omega), fin_of (by omega), fin_of (by omega), fin_of (by omega)⟩

theorem layout_ld8 {y r M : Nat} (x0 : Fin 32) (x1 : Fin 32) (x2 : BitVec 8) (x3 : Fin 16) (x4 : Fin 4) (hM : M < 64)
    (e : y = M * 0x1000000 + x0.val * 0x80000 + x1.val * 0x4000 + x2.toNat * 0x40 + x3.val * 0x4 + x4.val + r * 2 ^ 30) :
    fld y 24 6 = M ∧ fin 32 19 y = x0 ∧ fin 32 14 y = x1 ∧ bits 8 6 y = x2 ∧ fin 16 2 y = x3 ∧ fin 4 0 y = x4 := by
  have := x0.isLt
  have := x1.isLt
  have := x2.isLt
  have := x3.isLt
  have := x4.isLt
  exact ⟨by unfold fld; omega, fin_of (by omega), fin_of (by omega), bits_of (by omega), fin_of (by omega), fin_of (by omega)⟩

theorem layout_ldv {y r M : Nat} (x0 : Fin 64) (x1 : Fin 32) (x2 : BitVec 5) (x3 : Fin 4) (x4 : Fin 16) (x5 : Fin 4) (hM : M < 64)
    (e : y = M * 0x1000000 + x0.val * 0x40000 + x1.val * 0x2000 + x2.toNat * 0x100 + x3.val * 0x40 + x4.val * 0x4 + x5.val + r * 2 ^ 30) :
    fld y 24 6 = M ∧ fin 64 18 y = x0 ∧ fin 32 13 y = x1 ∧ bits 5 8 y = x2 ∧ fin 4 6 y = x3 ∧ fin 16 2 y = x4 ∧ fin 4 0 y = x5 := by
  have := x0.isLt
  have := x1.isLt
  have := x2.isLt
  have := x3.isLt
  have := x4.isLt
  have := x5.isLt
  exact ⟨by unfold fld; omega, fin_of (by omega), fin_of (by omega), bits_of (by omega), fin_of (by omega), fin_of (by omega), fin_of (by omega)⟩

theorem layout_aadd {y r M : Nat} (x0 : Fin 32) (x1 : Fin 32) (x2 : Fin 32) (x3 : Fin 16) (x4 : Fin 4) (x5 : Bool) (hM : M < 64)
    (e : y = M * 0x1000000 + x0.val * 0x80000 + x1.val * 0x4000 + x2.val * 0x200 + x3.val * 0x20 + x4.val * 0x8 + x5.toNat * 0x4 + r * 2 ^ 30) :
    fld y 24 6 = M ∧ fld y 0 2 = 0 ∧ fin 32 19 y = x0 ∧ fin 32 14 y = x1 ∧ fin 32 9 y = x2 ∧ fin 16 5 y = x3 ∧ fin 4 3 y = x4 ∧ flag 2 y = x5 := by
  have := x0.isLt
  have := x1.isLt
  have := x2.isLt
  have := x3.isLt
  have := x4.isLt
  have := x5.toNat_le
  exact ⟨by unfold fld; omega, by unfold fld; omega, fin_of (by omega), fin_of (by omega), fin_of (by omega), fin_of (by omega), fin_of (by omega), flag_of (by omega)⟩

theorem layout_fence {y r M : Nat} (x0 : Fin 8) (x1 : Fin 16) (hM : M < 64)
    (e : y = M * 0x1000000 + x0.val * 0x200000 + x1.val * 0x20000 + r * 2 ^ 30) :
    fld y 24 6 = M ∧ fld y 0 17 = 0 ∧ fin 8 21 y = x0 ∧ fin 16 17 y = x1 := by
  have := x0.isLt
  have := x1.isLt
  exact ⟨by unfold fld; omega, by unfold fld; omega, fin_of (by omega), fin_of (by omega)⟩

theorem layout_pref {y r M : Nat} (x0 : Fin 4) (x1 : Fin 32) (x2 : BitVec 8) (hM : M < 64)
    (e : y = M * 0x1000000 + x0.val * 0x80000 + x1.val * 0x4000 + x2.toNat * 0x40 + r * 2 ^ 30) :
    fld y 24 6 = M ∧ fld y 21 3 = 0 ∧ fld y 0 6 = 0 ∧ fin 4 19 y = x0 ∧ fin 32 14 y = x1 ∧ bits 8 6 y = x2 := by
  have := x0.isLt
  have := x1.isLt
  have := x2.isLt
  exact ⟨by unfold fld; omega, by unfold fld; omega, by unfold fld; omega, fin_of (by omega), fin_of (by omega), bits_of (by omega)⟩

theorem layout_send {y r M F : Nat} (x0 : Fin 32) (x1 : Fin 8) (hM : M < 64) (hF : F < 16)
    (e : y = M * 0x1000000 + F * 1 + x0.val * 0x4000 + x1.val * 0x10 + r * 2 ^ 30) :
    fld y 24 6 = M ∧ fld y 0 4 = F ∧ fld y 19 5 = 0 ∧ fld y 9 5 = 0 ∧ fld y 7 2 = 0 ∧ fin 32 14 y = x0 ∧ fin 8 4 y = x1 := by
  have := x0.isLt
  have := x1.isLt
  exact ⟨by unfold fld; omega, by unfold fld; omega, by unfold fld; omega, by unfold fld; omega, by unfold fld; omega, fin_of (by omega), fin_of (by omega)⟩

theorem layout_sendt {y r M F : Nat} (x0 : Fin 8) (x1 : Fin 32) (x2 : Fin 8) (hM : M < 64) (hF : F < 16)
    (e : y = M * 0x1000000 + F * 1 + x0.val * 0x80000 + x1.val * 0x4000 + x2.val * 0x10 + r * 2 ^ 30) :
    fld y 24 6 = M ∧ fld y 0 4 = F ∧ fld y 22 2 = 0 ∧ fld y 9 5 = 0 ∧ fld y 7 2 = 0 ∧ fin 8 19 y = x0 ∧ fin 32 14 y = x1 ∧ fin 8 4 y = x2 := by
  have := x0.isLt
  have := x1.isLt
  have := x2.isLt
  exact ⟨by unfold fld; omega, by unfold fld; omega, by unfold fld; omega, by unfold fld; omega, by unfold fld; omega, fin_of (by omega), fin_of (by omega), fin_of (by omega)⟩

theorem layout_recv {y r M F : Nat} (x0 : Fin 32) (x1 : Fin 8) (hM : M < 64) (hF : F < 16)
    (e : y = M * 0x1000000 + F * 1 + x0.val * 0x80000 + x1.val * 0x10 + r * 2 ^ 30) :
    fld y 24 6 = M ∧ fld y 0 4 = F ∧ fld y 9 10 = 0 ∧ fld y 7 2 = 0 ∧ fin 32 19 y = x0 ∧ fin 8 4 y = x1 := by
  have := x0.isLt
  have := x1.isLt
  exact ⟨by unfold fld; omega, by unfold fld; omega, by unfold fld; omega, by unfold fld; omega, fin_of (by omega), fin_of (by omega)⟩

theorem layout_recvt {y r M F : Nat} (x0 : Fin 32) (x1 : Fin 8) (x2 : Fin 8) (hM : M < 64) (hF : F < 16)
    (e : y = M * 0x1000000 + F * 1 + x0.val * 0x80000 + x1.val * 0x200 + x2.val * 0x10 + r * 2 ^ 30) :
    fld y 24 6 = M ∧ fld y 0 4 = F ∧ fld y 14 5 = 0 ∧ fld y 12 2 = 0 ∧ fld y 7 2 = 0 ∧ fin 32 19 y = x0 ∧ fin 8 9 y = x1 ∧ fin 8 4 y = x2 := by
  have := x0.isLt
  have := x1.isLt
  have := x2.isLt
  exact ⟨by unfold fld; omega, by unfold fld; omega, by unfold fld; omega, by unfold fld; omega, by unfold fld; omega, fin_of (by omega), fin_of (by omega), fin_of (by omega)⟩

theorem layout_alt {y r M F : Nat} (x0 : Fin 32) (x1 : Fin 32) (hM : M < 64) (hF : F < 16)
    (e : y = M * 0x1000000 + F * 1 + x0.val * 0x80000 + x1.val * 0x4000 + r * 2 ^ 30) :
    fld y 24 6 = M ∧ fld y 0 4 = F ∧ fld y 4 10 = 0 ∧ fin 32 19 y = x0 ∧ fin 32 14 y = x1 := by
  have := x0.isLt
  have := x1.isLt
  exact ⟨by unfold fld; omega, by unfold fld; omega, by unfold fld; omega, fin_of (by omega), fin_of (by omega)⟩

theorem layout_chbind {y r M F : Nat} (x0 : Fin 32) (x1 : Fin 32) (x2 : Fin 8) (hM : M < 64) (hF : F < 16)
    (e : y = M * 0x1000000 + F * 1 + x0.val * 0x4000 + x1.val * 0x200 + x2.val * 0x10 + r * 2 ^ 30) :
    fld y 24 6 = M ∧ fld y 0 4 = F ∧ fld y 19 5 = 0 ∧ fld y 7 2 = 0 ∧ fin 32 14 y = x0 ∧ fin 32 9 y = x1 ∧ fin 8 4 y = x2 := by
  have := x0.isLt
  have := x1.isLt
  have := x2.isLt
  exact ⟨by unfold fld; omega, by unfold fld; omega, by unfold fld; omega, by unfold fld; omega, fin_of (by omega), fin_of (by omega), fin_of (by omega)⟩

theorem layout_chunbind {y r M F : Nat} (x0 : Fin 8) (hM : M < 64) (hF : F < 16)
    (e : y = M * 0x1000000 + F * 1 + x0.val * 0x10 + r * 2 ^ 30) :
    fld y 24 6 = M ∧ fld y 0 4 = F ∧ fld y 9 15 = 0 ∧ fld y 7 2 = 0 ∧ fin 8 4 y = x0 := by
  have := x0.isLt
  exact ⟨by unfold fld; omega, by unfold fld; omega, by unfold fld; omega, by unfold fld; omega, fin_of (by omega)⟩

theorem layout_spawn {y r M F : Nat} (x0 : Fin 8) (x1 : Fin 32) (hM : M < 64) (hF : F < 16)
    (e : y = M * 0x1000000 + F * 1 + x0.val * 0x80000 + x1.val * 0x4000 + r * 2 ^ 30) :
    fld y 24 6 = M ∧ fld y 0 4 = F ∧ fld y 22 2 = 0 ∧ fld y 4 10 = 0 ∧ fin 8 19 y = x0 ∧ fin 32 14 y = x1 := by
  have := x0.isLt
  have := x1.isLt
  exact ⟨by unfold fld; omega, by unfold fld; omega, by unfold fld; omega, by unfold fld; omega, fin_of (by omega), fin_of (by omega)⟩

theorem layout_spawnat {y r M F : Nat} (x0 : Fin 8) (x1 : Fin 32) (x2 : Fin 32) (hM : M < 64) (hF : F < 16)
    (e : y = M * 0x1000000 + F * 1 + x0.val * 0x80000 + x1.val * 0x4000 + x2.val * 0x200 + r * 2 ^ 30) :
    fld y 24 6 = M ∧ fld y 0 4 = F ∧ fld y 22 2 = 0 ∧ fld y 4 5 = 0 ∧ fin 8 19 y = x0 ∧ fin 32 14 y = x1 ∧ fin 32 9 y = x2 := by
  have := x0.isLt
  have := x1.isLt
  have := x2.isLt
  exact ⟨by unfold fld; omega, by unfold fld; omega, by unfold fld; omega, by unfold fld; omega, fin_of (by omega), fin_of (by omega), fin_of (by omega)⟩

theorem layout_join {y r M F : Nat} (x0 : Fin 32) (hM : M < 64) (hF : F < 16)
    (e : y = M * 0x1000000 + F * 1 + x0.val * 0x4000 + r * 2 ^ 30) :
    fld y 24 6 = M ∧ fld y 0 4 = F ∧ fld y 19 5 = 0 ∧ fld y 4 10 = 0 ∧ fin 32 14 y = x0 := by
  have := x0.isLt
  exact ⟨by unfold fld; omega, by unfold fld; omega, by unfold fld; omega, by unfold fld; omega, fin_of (by omega)⟩

theorem layout_retire {y r M F : Nat} (hM : M < 64) (hF : F < 16)
    (e : y = M * 0x1000000 + F * 1 + r * 2 ^ 30) :
    fld y 24 6 = M ∧ fld y 0 4 = F ∧ fld y 4 20 = 0 := by
  exact ⟨by unfold fld; omega, by unfold fld; omega, by unfold fld; omega⟩

theorem layout_bar {y r M F : Nat} (x0 : Fin 32) (x1 : Fin 32) (hM : M < 64) (hF : F < 16)
    (e : y = M * 0x1000000 + F * 1 + x0.val * 0x4000 + x1.val * 0x200 + r * 2 ^ 30) :
    fld y 24 6 = M ∧ fld y 0 4 = F ∧ fld y 19 5 = 0 ∧ fld y 4 5 = 0 ∧ fin 32 14 y = x0 ∧ fin 32 9 y = x1 := by
  have := x0.isLt
  have := x1.isLt
  exact ⟨by unfold fld; omega, by unfold fld; omega, by unfold fld; omega, by unfold fld; omega, fin_of (by omega), fin_of (by omega)⟩

theorem layout_fmtsel {y r M F : Nat} (x0 : Fin 32) (hM : M < 64) (hF : F < 16)
    (e : y = M * 0x1000000 + F * 1 + x0.val * 0x10 + r * 2 ^ 30) :
    fld y 24 6 = M ∧ fld y 0 4 = F ∧ fld y 9 15 = 0 ∧ fin 32 4 y = x0 := by
  have := x0.isLt
  exact ⟨by unfold fld; omega, by unfold fld; omega, by unfold fld; omega, fin_of (by omega)⟩

theorem layout_taskinfo {y r M F : Nat} (x0 : Fin 32) (x1 : Fin 32) (hM : M < 64) (hF : F < 16)
    (e : y = M * 0x1000000 + F * 1 + x0.val * 0x80000 + x1.val * 0x10 + r * 2 ^ 30) :
    fld y 24 6 = M ∧ fld y 0 4 = F ∧ fld y 9 10 = 0 ∧ fin 32 19 y = x0 ∧ fin 32 4 y = x1 := by
  have := x0.isLt
  have := x1.isLt
  exact ⟨by unfold fld; omega, by unfold fld; omega, by unfold fld; omega, fin_of (by omega), fin_of (by omega)⟩

theorem layout_wrc {y r M : Nat} (x0 : Fin 32) (x1 : BitVec 14) (hM : M < 64)
    (e : y = M * 0x1000000 + x0.val * 0x4000 + x1.toNat + r * 2 ^ 30) :
    fld y 24 6 = M ∧ fld y 19 5 = 0 ∧ fin 32 14 y = x0 ∧ bits 14 0 y = x1 := by
  have := x0.isLt
  have := x1.isLt
  exact ⟨by unfold fld; omega, by unfold fld; omega, fin_of (by omega), bits_of (by omega)⟩

theorem layout_hsift {y r M : Nat} (x0 : Fin 32) (x1 : Fin 32) (x2 : Fin 32) (x3 : Fin 16) (hM : M < 64)
    (e : y = M * 0x1000000 + x0.val * 0x4000 + x1.val * 0x200 + x2.val * 0x10 + x3.val + r * 2 ^ 30) :
    fld y 24 6 = M ∧ fld y 19 5 = 0 ∧ fin 32 14 y = x0 ∧ fin 32 9 y = x1 ∧ fin 32 4 y = x2 ∧ fin 16 0 y = x3 := by
  have := x0.isLt
  have := x1.isLt
  have := x2.isLt
  have := x3.isLt
  exact ⟨by unfold fld; omega, by unfold fld; omega, fin_of (by omega), fin_of (by omega), fin_of (by omega), fin_of (by omega)⟩

theorem layout_mxld {y r M F : Nat} (x0 : Fin 32) (x1 : Fin 32) (hM : M < 64) (hF : F < 16)
    (e : y = M * 0x1000000 + F * 1 + x0.val * 0x4000 + x1.val * 0x10 + r * 2 ^ 30) :
    fld y 24 6 = M ∧ fld y 0 4 = F ∧ fld y 19 5 = 0 ∧ fld y 9 5 = 0 ∧ fin 32 14 y = x0 ∧ fin 32 4 y = x1 := by
  have := x0.isLt
  have := x1.isLt
  exact ⟨by unfold fld; omega, by unfold fld; omega, by unfold fld; omega, by unfold fld; omega, fin_of (by omega), fin_of (by omega)⟩

theorem layout_mxq {y r M F : Nat} (x0 : Fin 32) (hM : M < 64) (hF : F < 16)
    (e : y = M * 0x1000000 + F * 1 + x0.val * 0x80000 + r * 2 ^ 30) :
    fld y 24 6 = M ∧ fld y 0 4 = F ∧ fld y 4 15 = 0 ∧ fin 32 19 y = x0 := by
  have := x0.isLt
  exact ⟨by unfold fld; omega, by unfold fld; omega, by unfold fld; omega, fin_of (by omega)⟩

theorem layout_pfetch {y r M F : Nat} (x0 : Fin 32) (x1 : Fin 32) (x2 : Fin 32) (hM : M < 64) (hF : F < 16)
    (e : y = M * 0x1000000 + F * 1 + x0.val * 0x80000 + x1.val * 0x4000 + x2.val * 0x200 + r * 2 ^ 30) :
    fld y 24 6 = M ∧ fld y 0 4 = F ∧ fld y 4 5 = 0 ∧ fin 32 19 y = x0 ∧ fin 32 14 y = x1 ∧ fin 32 9 y = x2 := by
  have := x0.isLt
  have := x1.isLt
  have := x2.isLt
  exact ⟨by unfold fld; omega, by unfold fld; omega, by unfold fld; omega, fin_of (by omega), fin_of (by omega), fin_of (by omega)⟩

theorem layout_eschist {y r M F : Nat} (x0 : Fin 32) (x1 : Fin 32) (x2 : Fin 32) (hM : M < 64) (hF : F < 16)
    (e : y = M * 0x1000000 + F * 1 + x0.val * 0x4000 + x1.val * 0x200 + x2.val * 0x10 + r * 2 ^ 30) :
    fld y 24 6 = M ∧ fld y 0 4 = F ∧ fld y 19 5 = 0 ∧ fin 32 14 y = x0 ∧ fin 32 9 y = x1 ∧ fin 32 4 y = x2 := by
  have := x0.isLt
  have := x1.isLt
  have := x2.isLt
  exact ⟨by unfold fld; omega, by unfold fld; omega, by unfold fld; omega, fin_of (by omega), fin_of (by omega), fin_of (by omega)⟩

/-! ## The constructors -/

theorem add (d a b : Fin 32) (gp : Fin 8) : Statement (.add d a b gp) :=
  wordA (v := 0x0 + d.val * 0x80000 + a.val * 0x4000 + b.val * 0x200 + gp.val) (fun _ => rfl)
    (by omega) (fun y r e _ => by
    obtain ⟨m, fc, a0, a1, a2, a3⟩ := layout_add (M := 0x00) (F := 0x00) d a b gp (by omega) (by omega) (by omega)
    simp only [decodeA, decodeInt, m, fc, a0, a1, a2, a3])

theorem sub (d a b : Fin 32) (gp : Fin 8) : Statement (.sub d a b gp) :=
  wordA (v := 0x8 + d.val * 0x80000 + a.val * 0x4000 + b.val * 0x200 + gp.val) (fun _ => rfl)
    (by omega) (fun y r e _ => by
    obtain ⟨m, fc, a0, a1, a2, a3⟩ := layout_add (M := 0x00) (F := 0x01) d a b gp (by omega) (by omega) (by omega)
    simp only [decodeA, decodeInt, m, fc, a0, a1, a2, a3])

theorem and_ (d a b : Fin 32) (gp : Fin 8) : Statement (.and_ d a b gp) :=
  wordA (v := 0x10 + d.val * 0x80000 + a.val * 0x4000 + b.val * 0x200 + gp.val) (fun _ => rfl)
    (by omega) (fun y r e _ => by
    obtain ⟨m, fc, a0, a1, a2, a3⟩ := layout_add (M := 0x00) (F := 0x02) d a b gp (by omega) (by omega) (by omega)
    simp only [decodeA, decodeInt, m, fc, a0, a1, a2, a3])

theorem or_ (d a b : Fin 32) (gp : Fin 8) : Statement (.or_ d a b gp) :=
  wordA (v := 0x18 + d.val * 0x80000 + a.val * 0x4000 + b.val * 0x200 + gp.val) (fun _ => rfl)
    (by omega) (fun y r e _ => by
    obtain ⟨m, fc, a0, a1, a2, a3⟩ := layout_add (M := 0x00) (F := 0x03) d a b gp (by omega) (by omega) (by omega)
    simp only [decodeA, decodeInt, m, fc, a0, a1, a2, a3])

theorem xor_ (d a b : Fin 32) (gp : Fin 8) : Statement (.xor_ d a b gp) :=
  wordA (v := 0x20 + d.val * 0x80000 + a.val * 0x4000 + b.val * 0x200 + gp.val) (fun _ => rfl)
    (by omega) (fun y r e _ => by
    obtain ⟨m, fc, a0, a1, a2, a3⟩ := layout_add (M := 0x00) (F := 0x04) d a b gp (by omega) (by omega) (by omega)
    simp only [decodeA, decodeInt, m, fc, a0, a1, a2, a3])

theorem andn (d a b : Fin 32) (gp : Fin 8) : Statement (.andn d a b gp) :=
  wordA (v := 0x28 + d.val * 0x80000 + a.val * 0x4000 + b.val * 0x200 + gp.val) (fun _ => rfl)
    (by omega) (fun y r e _ => by
    obtain ⟨m, fc, a0, a1, a2, a3⟩ := layout_add (M := 0x00) (F := 0x05) d a b gp (by omega) (by omega) (by omega)
    simp only [decodeA, decodeInt, m, fc, a0, a1, a2, a3])

theorem shl (d a b : Fin 32) (gp : Fin 8) : Statement (.shl d a b gp) :=
  wordA (v := 0x30 + d.val * 0x80000 + a.val * 0x4000 + b.val * 0x200 + gp.val) (fun _ => rfl)
    (by omega) (fun y r e _ => by
    obtain ⟨m, fc, a0, a1, a2, a3⟩ := layout_add (M := 0x00) (F := 0x06) d a b gp (by omega) (by omega) (by omega)
    simp only [decodeA, decodeInt, m, fc, a0, a1, a2, a3])

theorem shr (d a b : Fin 32) (gp : Fin 8) : Statement (.shr d a b gp) :=
  wordA (v := 0x38 + d.val * 0x80000 + a.val * 0x4000 + b.val * 0x200 + gp.val) (fun _ => rfl)
    (by omega) (fun y r e _ => by
    obtain ⟨m, fc, a0, a1, a2, a3⟩ := layout_add (M := 0x00) (F := 0x07) d a b gp (by omega) (by omega) (by omega)
    simp only [decodeA, decodeInt, m, fc, a0, a1, a2, a3])

theorem sar (d a b : Fin 32) (gp : Fin 8) : Statement (.sar d a b gp) :=
  wordA (v := 0x40 + d.val * 0x80000 + a.val * 0x4000 + b.val * 0x200 + gp.val) (fun _ => rfl)
    (by omega) (fun y r e _ => by
    obtain ⟨m, fc, a0, a1, a2, a3⟩ := layout_add (M := 0x00) (F := 0x08) d a b gp (by omega) (by omega) (by omega)
    simp only [decodeA, decodeInt, m, fc, a0, a1, a2, a3])

theorem mul (d a b : Fin 32) (gp : Fin 8) : Statement (.mul d a b gp) :=
  wordA (v := 0x48 + d.val * 0x80000 + a.val * 0x4000 + b.val * 0x200 + gp.val) (fun _ => rfl)
    (by omega) (fun y r e _ => by
    obtain ⟨m, fc, a0, a1, a2, a3⟩ := layout_add (M := 0x00) (F := 0x09) d a b gp (by omega) (by omega) (by omega)
    simp only [decodeA, decodeInt, m, fc, a0, a1, a2, a3])

theorem mulh (d a b : Fin 32) (gp : Fin 8) : Statement (.mulh d a b gp) :=
  wordA (v := 0x50 + d.val * 0x80000 + a.val * 0x4000 + b.val * 0x200 + gp.val) (fun _ => rfl)
    (by omega) (fun y r e _ => by
    obtain ⟨m, fc, a0, a1, a2, a3⟩ := layout_add (M := 0x00) (F := 0x0A) d a b gp (by omega) (by omega) (by omega)
    simp only [decodeA, decodeInt, m, fc, a0, a1, a2, a3])

theorem mulhu (d a b : Fin 32) (gp : Fin 8) : Statement (.mulhu d a b gp) :=
  wordA (v := 0x58 + d.val * 0x80000 + a.val * 0x4000 + b.val * 0x200 + gp.val) (fun _ => rfl)
    (by omega) (fun y r e _ => by
    obtain ⟨m, fc, a0, a1, a2, a3⟩ := layout_add (M := 0x00) (F := 0x0B) d a b gp (by omega) (by omega) (by omega)
    simp only [decodeA, decodeInt, m, fc, a0, a1, a2, a3])

theorem div (d a b : Fin 32) (gp : Fin 8) : Statement (.div d a b gp) :=
  wordA (v := 0x60 + d.val * 0x80000 + a.val * 0x4000 + b.val * 0x200 + gp.val) (fun _ => rfl)
    (by omega) (fun y r e _ => by
    obtain ⟨m, fc, a0, a1, a2, a3⟩ := layout_add (M := 0x00) (F := 0x0C) d a b gp (by omega) (by omega) (by omega)
    simp only [decodeA, decodeInt, m, fc, a0, a1, a2, a3])

theorem divu (d a b : Fin 32) (gp : Fin 8) : Statement (.divu d a b gp) :=
  wordA (v := 0x68 + d.val * 0x80000 + a.val * 0x4000 + b.val * 0x200 + gp.val) (fun _ => rfl)
    (by omega) (fun y r e _ => by
    obtain ⟨m, fc, a0, a1, a2, a3⟩ := layout_add (M := 0x00) (F := 0x0D) d a b gp (by omega) (by omega) (by omega)
    simp only [decodeA, decodeInt, m, fc, a0, a1, a2, a3])

theorem rem (d a b : Fin 32) (gp : Fin 8) : Statement (.rem d a b gp) :=
  wordA (v := 0x70 + d.val * 0x80000 + a.val * 0x4000 + b.val * 0x200 + gp.val) (fun _ => rfl)
    (by omega) (fun y r e _ => by
    obtain ⟨m, fc, a0, a1, a2, a3⟩ := layout_add (M := 0x00) (F := 0x0E) d a b gp (by omega) (by omega) (by omega)
    simp only [decodeA, decodeInt, m, fc, a0, a1, a2, a3])

theorem remu (d a b : Fin 32) (gp : Fin 8) : Statement (.remu d a b gp) :=
  wordA (v := 0x78 + d.val * 0x80000 + a.val * 0x4000 + b.val * 0x200 + gp.val) (fun _ => rfl)
    (by omega) (fun y r e _ => by
    obtain ⟨m, fc, a0, a1, a2, a3⟩ := layout_add (M := 0x00) (F := 0x0F) d a b gp (by omega) (by omega) (by omega)
    simp only [decodeA, decodeInt, m, fc, a0, a1, a2, a3])

theorem min (d a b : Fin 32) (gp : Fin 8) : Statement (.min d a b gp) :=
  wordA (v := 0x80 + d.val * 0x80000 + a.val * 0x4000 + b.val * 0x200 + gp.val) (fun _ => rfl)
    (by omega) (fun y r e _ => by
    obtain ⟨m, fc, a0, a1, a2, a3⟩ := layout_add (M := 0x00) (F := 0x10) d a b gp (by omega) (by omega) (by omega)
    simp only [decodeA, decodeInt, m, fc, a0, a1, a2, a3])

theorem max (d a b : Fin 32) (gp : Fin 8) : Statement (.max d a b gp) :=
  wordA (v := 0x88 + d.val * 0x80000 + a.val * 0x4000 + b.val * 0x200 + gp.val) (fun _ => rfl)
    (by omega) (fun y r e _ => by
    obtain ⟨m, fc, a0, a1, a2, a3⟩ := layout_add (M := 0x00) (F := 0x11) d a b gp (by omega) (by omega) (by omega)
    simp only [decodeA, decodeInt, m, fc, a0, a1, a2, a3])

theorem minu (d a b : Fin 32) (gp : Fin 8) : Statement (.minu d a b gp) :=
  wordA (v := 0x90 + d.val * 0x80000 + a.val * 0x4000 + b.val * 0x200 + gp.val) (fun _ => rfl)
    (by omega) (fun y r e _ => by
    obtain ⟨m, fc, a0, a1, a2, a3⟩ := layout_add (M := 0x00) (F := 0x12) d a b gp (by omega) (by omega) (by omega)
    simp only [decodeA, decodeInt, m, fc, a0, a1, a2, a3])

theorem maxu (d a b : Fin 32) (gp : Fin 8) : Statement (.maxu d a b gp) :=
  wordA (v := 0x98 + d.val * 0x80000 + a.val * 0x4000 + b.val * 0x200 + gp.val) (fun _ => rfl)
    (by omega) (fun y r e _ => by
    obtain ⟨m, fc, a0, a1, a2, a3⟩ := layout_add (M := 0x00) (F := 0x13) d a b gp (by omega) (by omega) (by omega)
    simp only [decodeA, decodeInt, m, fc, a0, a1, a2, a3])

theorem clz (d a : Fin 32) (gp : Fin 8) : Statement (.clz d a gp) :=
  wordA (v := 0xA0 + d.val * 0x80000 + a.val * 0x4000 + gp.val) (fun _ => rfl)
    (by omega) (fun y r e _ => by
    obtain ⟨m, fc, z0, a0, a1, a2⟩ := layout_clz (M := 0x00) (F := 0x14) d a gp (by omega) (by omega) (by omega)
    simp only [decodeA, decodeInt, m, fc, z0, a0, a1, a2, zero_zero])

theorem ctz (d a : Fin 32) (gp : Fin 8) : Statement (.ctz d a gp) :=
  wordA (v := 0xA8 + d.val * 0x80000 + a.val * 0x4000 + gp.val) (fun _ => rfl)
    (by omega) (fun y r e _ => by
    obtain ⟨m, fc, z0, a0, a1, a2⟩ := layout_clz (M := 0x00) (F := 0x15) d a gp (by omega) (by omega) (by omega)
    simp only [decodeA, decodeInt, m, fc, z0, a0, a1, a2, zero_zero])

theorem popc (d a : Fin 32) (gp : Fin 8) : Statement (.popc d a gp) :=
  wordA (v := 0xB0 + d.val * 0x80000 + a.val * 0x4000 + gp.val) (fun _ => rfl)
    (by omega) (fun y r e _ => by
    obtain ⟨m, fc, z0, a0, a1, a2⟩ := layout_clz (M := 0x00) (F := 0x16) d a gp (by omega) (by omega) (by omega)
    simp only [decodeA, decodeInt, m, fc, z0, a0, a1, a2, zero_zero])

theorem sel (d a b : Fin 32) (s : Fin 8) : Statement (.sel d a b s) :=
  wordA (v := 0xB8 + d.val * 0x80000 + a.val * 0x4000 + b.val * 0x200 + s.val) (fun _ => rfl)
    (by omega) (fun y r e _ => by
    obtain ⟨m, fc, a0, a1, a2, a3⟩ := layout_add (M := 0x00) (F := 0x17) d a b s (by omega) (by omega) (by omega)
    simp only [decodeA, decodeInt, m, fc, a0, a1, a2, a3])

theorem addsl1 (d a b : Fin 32) (gp : Fin 8) : Statement (.addsl1 d a b gp) :=
  wordA (v := 0xC0 + d.val * 0x80000 + a.val * 0x4000 + b.val * 0x200 + gp.val) (fun _ => rfl)
    (by omega) (fun y r e _ => by
    obtain ⟨m, fc, a0, a1, a2, a3⟩ := layout_add (M := 0x00) (F := 0x18) d a b gp (by omega) (by omega) (by omega)
    simp only [decodeA, decodeInt, m, fc, a0, a1, a2, a3])

theorem addsl2 (d a b : Fin 32) (gp : Fin 8) : Statement (.addsl2 d a b gp) :=
  wordA (v := 0xC8 + d.val * 0x80000 + a.val * 0x4000 + b.val * 0x200 + gp.val) (fun _ => rfl)
    (by omega) (fun y r e _ => by
    obtain ⟨m, fc, a0, a1, a2, a3⟩ := layout_add (M := 0x00) (F := 0x19) d a b gp (by omega) (by omega) (by omega)
    simp only [decodeA, decodeInt, m, fc, a0, a1, a2, a3])

theorem addsl3 (d a b : Fin 32) (gp : Fin 8) : Statement (.addsl3 d a b gp) :=
  wordA (v := 0xD0 + d.val * 0x80000 + a.val * 0x4000 + b.val * 0x200 + gp.val) (fun _ => rfl)
    (by omega) (fun y r e _ => by
    obtain ⟨m, fc, a0, a1, a2, a3⟩ := layout_add (M := 0x00) (F := 0x1A) d a b gp (by omega) (by omega) (by omega)
    simp only [decodeA, decodeInt, m, fc, a0, a1, a2, a3])

theorem addsl4 (d a b : Fin 32) (gp : Fin 8) : Statement (.addsl4 d a b gp) :=
  wordA (v := 0xD8 + d.val * 0x80000 + a.val * 0x4000 + b.val * 0x200 + gp.val) (fun _ => rfl)
    (by omega) (fun y r e _ => by
    obtain ⟨m, fc, a0, a1, a2, a3⟩ := layout_add (M := 0x00) (F := 0x1B) d a b gp (by omega) (by omega) (by omega)
    simp only [decodeA, decodeInt, m, fc, a0, a1, a2, a3])

theorem cmpeq (d : Fin 8) (a b : Fin 32) (gp : Fin 8) : Statement (.cmpeq d a b gp) :=
  wordA (v := 0x1000000 + d.val * 0x80000 + a.val * 0x4000 + b.val * 0x200 + gp.val) (fun _ => rfl)
    (by omega) (fun y r e _ => by
    obtain ⟨m, fc, z0, a0, a1, a2, a3⟩ := layout_cmpeq (M := 0x01) (F := 0x00) d a b gp (by omega) (by omega) (by omega)
    simp only [decodeA, decodeCompare, m, fc, z0, a0, a1, a2, a3, zero_zero])

theorem cmpne (d : Fin 8) (a b : Fin 32) (gp : Fin 8) : Statement (.cmpne d a b gp) :=
  wordA (v := 0x1000008 + d.val * 0x80000 + a.val * 0x4000 + b.val * 0x200 + gp.val) (fun _ => rfl)
    (by omega) (fun y r e _ => by
    obtain ⟨m, fc, z0, a0, a1, a2, a3⟩ := layout_cmpeq (M := 0x01) (F := 0x01) d a b gp (by omega) (by omega) (by omega)
    simp only [decodeA, decodeCompare, m, fc, z0, a0, a1, a2, a3, zero_zero])

theorem cmplt (d : Fin 8) (a b : Fin 32) (gp : Fin 8) : Statement (.cmplt d a b gp) :=
  wordA (v := 0x1000010 + d.val * 0x80000 + a.val * 0x4000 + b.val * 0x200 + gp.val) (fun _ => rfl)
    (by omega) (fun y r e _ => by
    obtain ⟨m, fc, z0, a0, a1, a2, a3⟩ := layout_cmpeq (M := 0x01) (F := 0x02) d a b gp (by omega) (by omega) (by omega)
    simp only [decodeA, decodeCompare, m, fc, z0, a0, a1, a2, a3, zero_zero])

theorem cmple (d : Fin 8) (a b : Fin 32) (gp : Fin 8) : Statement (.cmple d a b gp) :=
  wordA (v := 0x1000018 + d.val * 0x80000 + a.val * 0x4000 + b.val * 0x200 + gp.val) (fun _ => rfl)
    (by omega) (fun y r e _ => by
    obtain ⟨m, fc, z0, a0, a1, a2, a3⟩ := layout_cmpeq (M := 0x01) (F := 0x03) d a b gp (by omega) (by omega) (by omega)
    simp only [decodeA, decodeCompare, m, fc, z0, a0, a1, a2, a3, zero_zero])

theorem cmpltu (d : Fin 8) (a b : Fin 32) (gp : Fin 8) : Statement (.cmpltu d a b gp) :=
  wordA (v := 0x1000020 + d.val * 0x80000 + a.val * 0x4000 + b.val * 0x200 + gp.val) (fun _ => rfl)
    (by omega) (fun y r e _ => by
    obtain ⟨m, fc, z0, a0, a1, a2, a3⟩ := layout_cmpeq (M := 0x01) (F := 0x04) d a b gp (by omega) (by omega) (by omega)
    simp only [decodeA, decodeCompare, m, fc, z0, a0, a1, a2, a3, zero_zero])

theorem cmpleu (d : Fin 8) (a b : Fin 32) (gp : Fin 8) : Statement (.cmpleu d a b gp) :=
  wordA (v := 0x1000028 + d.val * 0x80000 + a.val * 0x4000 + b.val * 0x200 + gp.val) (fun _ => rfl)
    (by omega) (fun y r e _ => by
    obtain ⟨m, fc, z0, a0, a1, a2, a3⟩ := layout_cmpeq (M := 0x01) (F := 0x05) d a b gp (by omega) (by omega) (by omega)
    simp only [decodeA, decodeCompare, m, fc, z0, a0, a1, a2, a3, zero_zero])

theorem pand (d a b gp : Fin 8) : Statement (.pand d a b gp) :=
  wordA (v := 0x1000040 + d.val * 0x80000 + a.val * 0x4000 + b.val * 0x200 + gp.val) (fun _ => rfl)
    (by omega) (fun y r e _ => by
    obtain ⟨m, fc, z0, z1, z2, a0, a1, a2, a3⟩ := layout_pand (M := 0x01) (F := 0x08) d a b gp (by omega) (by omega) (by omega)
    simp only [decodeA, decodeCompare, m, fc, z0, z1, z2, a0, a1, a2, a3, zero_zero])

theorem por (d a b gp : Fin 8) : Statement (.por d a b gp) :=
  wordA (v := 0x1000048 + d.val * 0x80000 + a.val * 0x4000 + b.val * 0x200 + gp.val) (fun _ => rfl)
    (by omega) (fun y r e _ => by
    obtain ⟨m, fc, z0, z1, z2, a0, a1, a2, a3⟩ := layout_pand (M := 0x01) (F := 0x09) d a b gp (by omega) (by omega) (by omega)
    simp only [decodeA, decodeCompare, m, fc, z0, z1, z2, a0, a1, a2, a3, zero_zero])

theorem pxor (d a b gp : Fin 8) : Statement (.pxor d a b gp) :=
  wordA (v := 0x1000050 + d.val * 0x80000 + a.val * 0x4000 + b.val * 0x200 + gp.val) (fun _ => rfl)
    (by omega) (fun y r e _ => by
    obtain ⟨m, fc, z0, z1, z2, a0, a1, a2, a3⟩ := layout_pand (M := 0x01) (F := 0x0A) d a b gp (by omega) (by omega) (by omega)
    simp only [decodeA, decodeCompare, m, fc, z0, z1, z2, a0, a1, a2, a3, zero_zero])

theorem pandn (d a b gp : Fin 8) : Statement (.pandn d a b gp) :=
  wordA (v := 0x1000058 + d.val * 0x80000 + a.val * 0x4000 + b.val * 0x200 + gp.val) (fun _ => rfl)
    (by omega) (fun y r e _ => by
    obtain ⟨m, fc, z0, z1, z2, a0, a1, a2, a3⟩ := layout_pand (M := 0x01) (F := 0x0B) d a b gp (by omega) (by omega) (by omega)
    simp only [decodeA, decodeCompare, m, fc, z0, z1, z2, a0, a1, a2, a3, zero_zero])

theorem addi (d a : Fin 32) (i : BitVec 14) : Statement (.addi d a i) :=
  wordA (v := 0x2000000 + d.val * 0x80000 + a.val * 0x4000 + i.toNat) (fun _ => rfl)
    (by omega) (fun y r e _ => by
    obtain ⟨m, a0, a1, a2⟩ := layout_addi (M := 0x02) d a i (by omega) (by omega)
    simp only [decodeA, m, a0, a1, a2])

theorem andi (d a : Fin 32) (i : BitVec 14) : Statement (.andi d a i) :=
  wordA (v := 0x3000000 + d.val * 0x80000 + a.val * 0x4000 + i.toNat) (fun _ => rfl)
    (by omega) (fun y r e _ => by
    obtain ⟨m, a0, a1, a2⟩ := layout_addi (M := 0x03) d a i (by omega) (by omega)
    simp only [decodeA, m, a0, a1, a2])

theorem ori (d a : Fin 32) (i : BitVec 14) : Statement (.ori d a i) :=
  wordA (v := 0x4000000 + d.val * 0x80000 + a.val * 0x4000 + i.toNat) (fun _ => rfl)
    (by omega) (fun y r e _ => by
    obtain ⟨m, a0, a1, a2⟩ := layout_addi (M := 0x04) d a i (by omega) (by omega)
    simp only [decodeA, m, a0, a1, a2])

theorem xori (d a : Fin 32) (i : BitVec 14) : Statement (.xori d a i) :=
  wordA (v := 0x5000000 + d.val * 0x80000 + a.val * 0x4000 + i.toNat) (fun _ => rfl)
    (by omega) (fun y r e _ => by
    obtain ⟨m, a0, a1, a2⟩ := layout_addi (M := 0x05) d a i (by omega) (by omega)
    simp only [decodeA, m, a0, a1, a2])

theorem shli (d a : Fin 32) (i : Fin 64) : Statement (.shli d a i) :=
  wordA (v := 0x6000000 + d.val * 0x80000 + a.val * 0x4000 + i.val) (fun _ => rfl)
    (by omega) (fun y r e _ => by
    obtain ⟨m, z0, a0, a1, a2⟩ := layout_shli (M := 0x06) d a i (by omega) (by omega)
    simp only [decodeA, m, z0, a0, a1, a2, zero_zero])

theorem shri (d a : Fin 32) (i : Fin 64) : Statement (.shri d a i) :=
  wordA (v := 0x7000000 + d.val * 0x80000 + a.val * 0x4000 + i.val) (fun _ => rfl)
    (by omega) (fun y r e _ => by
    obtain ⟨m, z0, a0, a1, a2⟩ := layout_shli (M := 0x07) d a i (by omega) (by omega)
    simp only [decodeA, m, z0, a0, a1, a2, zero_zero])

theorem sari (d a : Fin 32) (i : Fin 64) : Statement (.sari d a i) :=
  wordA (v := 0x8000000 + d.val * 0x80000 + a.val * 0x4000 + i.val) (fun _ => rfl)
    (by omega) (fun y r e _ => by
    obtain ⟨m, z0, a0, a1, a2⟩ := layout_shli (M := 0x08) d a i (by omega) (by omega)
    simp only [decodeA, m, z0, a0, a1, a2, zero_zero])

theorem li (d : Fin 32) (i : BitVec 14) : Statement (.li d i) :=
  wordA (v := 0x9000000 + d.val * 0x80000 + i.toNat) (fun _ => rfl)
    (by omega) (fun y r e _ => by
    obtain ⟨m, z0, a0, a1⟩ := layout_li (M := 0x09) d i (by omega) (by omega)
    simp only [decodeA, m, z0, a0, a1, zero_zero])

theorem lis (d a : Fin 32) (i : BitVec 14) : Statement (.lis d a i) :=
  wordA (v := 0xA000000 + d.val * 0x80000 + a.val * 0x4000 + i.toNat) (fun _ => rfl)
    (by omega) (fun y r e _ => by
    obtain ⟨m, a0, a1, a2⟩ := layout_addi (M := 0x0A) d a i (by omega) (by omega)
    simp only [decodeA, m, a0, a1, a2])

theorem cmpeqi (d : Fin 8) (a : Fin 32) (i : BitVec 14) : Statement (.cmpeqi d a i) :=
  wordA (v := 0xB000000 + d.val * 0x80000 + a.val * 0x4000 + i.toNat) (fun _ => rfl)
    (by omega) (fun y r e _ => by
    obtain ⟨m, z0, a0, a1, a2⟩ := layout_cmpeqi (M := 0x0B) d a i (by omega) (by omega)
    simp only [decodeA, m, z0, a0, a1, a2, zero_zero])

theorem cmplti (d : Fin 8) (a : Fin 32) (i : BitVec 14) : Statement (.cmplti d a i) :=
  wordA (v := 0xC000000 + d.val * 0x80000 + a.val * 0x4000 + i.toNat) (fun _ => rfl)
    (by omega) (fun y r e _ => by
    obtain ⟨m, z0, a0, a1, a2⟩ := layout_cmpeqi (M := 0x0C) d a i (by omega) (by omega)
    simp only [decodeA, m, z0, a0, a1, a2, zero_zero])

theorem cmpltui (d : Fin 8) (a : Fin 32) (i : BitVec 14) : Statement (.cmpltui d a i) :=
  wordA (v := 0xD000000 + d.val * 0x80000 + a.val * 0x4000 + i.toNat) (fun _ => rfl)
    (by omega) (fun y r e _ => by
    obtain ⟨m, z0, a0, a1, a2⟩ := layout_cmpeqi (M := 0x0D) d a i (by omega) (by omega)
    simp only [decodeA, m, z0, a0, a1, a2, zero_zero])

theorem bfx (d a : Fin 32) (l p : Fin 64) : Statement (.bfx d a l p) :=
  wordA (v := 0xE000000 + d.val * 0x80000 + a.val * 0x4000 + l.val * 0x40 + p.val) (fun _ => rfl)
    (by omega) (fun y r e _ => by
    obtain ⟨m, z0, a0, a1, a2, a3⟩ := layout_bfx (M := 0x0E) d a l p (by omega) (by omega)
    simp only [decodeA, m, z0, a0, a1, a2, a3, zero_zero])

theorem bfi (d a : Fin 32) (l p : Fin 64) : Statement (.bfi d a l p) :=
  wordA (v := 0xF000000 + d.val * 0x80000 + a.val * 0x4000 + l.val * 0x40 + p.val) (fun _ => rfl)
    (by omega) (fun y r e _ => by
    obtain ⟨m, z0, a0, a1, a2, a3⟩ := layout_bfx (M := 0x0F) d a l p (by omega) (by omega)
    simp only [decodeA, m, z0, a0, a1, a2, a3, zero_zero])

theorem fadd (d a b : Fin 32) (z : Bool) (gp : Fin 8) : Statement (.fadd d a b z gp) :=
  wordA (v := 0x10000000 + d.val * 0x80000 + a.val * 0x4000 + b.val * 0x200 + z.toNat * 0x100 + gp.val) (fun _ => rfl)
    (by have := z.toNat_le; omega) (fun y r e _ => by
    obtain ⟨m, fc, a0, a1, a2, a3, a4⟩ := layout_fadd (M := 0x10) (F := 0x00) d a b z gp (by omega) (by omega) (by omega)
    simp only [decodeA, decodeFloat, m, fc, a0, a1, a2, a3, a4])

theorem fsub (d a b : Fin 32) (z : Bool) (gp : Fin 8) : Statement (.fsub d a b z gp) :=
  wordA (v := 0x10000008 + d.val * 0x80000 + a.val * 0x4000 + b.val * 0x200 + z.toNat * 0x100 + gp.val) (fun _ => rfl)
    (by have := z.toNat_le; omega) (fun y r e _ => by
    obtain ⟨m, fc, a0, a1, a2, a3, a4⟩ := layout_fadd (M := 0x10) (F := 0x01) d a b z gp (by omega) (by omega) (by omega)
    simp only [decodeA, decodeFloat, m, fc, a0, a1, a2, a3, a4])

theorem fmul (d a b : Fin 32) (z : Bool) (gp : Fin 8) : Statement (.fmul d a b z gp) :=
  wordA (v := 0x10000010 + d.val * 0x80000 + a.val * 0x4000 + b.val * 0x200 + z.toNat * 0x100 + gp.val) (fun _ => rfl)
    (by have := z.toNat_le; omega) (fun y r e _ => by
    obtain ⟨m, fc, a0, a1, a2, a3, a4⟩ := layout_fadd (M := 0x10) (F := 0x02) d a b z gp (by omega) (by omega) (by omega)
    simp only [decodeA, decodeFloat, m, fc, a0, a1, a2, a3, a4])

theorem fdiv (d a b : Fin 32) (z : Bool) (gp : Fin 8) : Statement (.fdiv d a b z gp) :=
  wordA (v := 0x10000018 + d.val * 0x80000 + a.val * 0x4000 + b.val * 0x200 + z.toNat * 0x100 + gp.val) (fun _ => rfl)
    (by have := z.toNat_le; omega) (fun y r e _ => by
    obtain ⟨m, fc, a0, a1, a2, a3, a4⟩ := layout_fadd (M := 0x10) (F := 0x03) d a b z gp (by omega) (by omega) (by omega)
    simp only [decodeA, decodeFloat, m, fc, a0, a1, a2, a3, a4])

theorem fsqrt (d a : Fin 32) (z : Bool) (gp : Fin 8) : Statement (.fsqrt d a z gp) :=
  wordA (v := 0x10000020 + d.val * 0x80000 + a.val * 0x4000 + z.toNat * 0x100 + gp.val) (fun _ => rfl)
    (by have := z.toNat_le; omega) (fun y r e _ => by
    obtain ⟨m, fc, z0, a0, a1, a2, a3⟩ := layout_fsqrt (M := 0x10) (F := 0x04) d a z gp (by omega) (by omega) (by omega)
    simp only [decodeA, decodeFloat, m, fc, z0, a0, a1, a2, a3, zero_zero])

theorem fmin (d a b : Fin 32) (z : Bool) (gp : Fin 8) : Statement (.fmin d a b z gp) :=
  wordA (v := 0x10000028 + d.val * 0x80000 + a.val * 0x4000 + b.val * 0x200 + z.toNat * 0x100 + gp.val) (fun _ => rfl)
    (by have := z.toNat_le; omega) (fun y r e _ => by
    obtain ⟨m, fc, a0, a1, a2, a3, a4⟩ := layout_fadd (M := 0x10) (F := 0x05) d a b z gp (by omega) (by omega) (by omega)
    simp only [decodeA, decodeFloat, m, fc, a0, a1, a2, a3, a4])

theorem fmax (d a b : Fin 32) (z : Bool) (gp : Fin 8) : Statement (.fmax d a b z gp) :=
  wordA (v := 0x10000030 + d.val * 0x80000 + a.val * 0x4000 + b.val * 0x200 + z.toNat * 0x100 + gp.val) (fun _ => rfl)
    (by have := z.toNat_le; omega) (fun y r e _ => by
    obtain ⟨m, fc, a0, a1, a2, a3, a4⟩ := layout_fadd (M := 0x10) (F := 0x06) d a b z gp (by omega) (by omega) (by omega)
    simp only [decodeA, decodeFloat, m, fc, a0, a1, a2, a3, a4])

theorem ffma (d a b : Fin 32) (z : Bool) (gp : Fin 8) : Statement (.ffma d a b z gp) :=
  wordA (v := 0x10000038 + d.val * 0x80000 + a.val * 0x4000 + b.val * 0x200 + z.toNat * 0x100 + gp.val) (fun _ => rfl)
    (by have := z.toNat_le; omega) (fun y r e _ => by
    obtain ⟨m, fc, a0, a1, a2, a3, a4⟩ := layout_fadd (M := 0x10) (F := 0x07) d a b z gp (by omega) (by omega) (by omega)
    simp only [decodeA, decodeFloat, m, fc, a0, a1, a2, a3, a4])

theorem fabs (d a : Fin 32) (z : Bool) (gp : Fin 8) : Statement (.fabs d a z gp) :=
  wordA (v := 0x10000040 + d.val * 0x80000 + a.val * 0x4000 + z.toNat * 0x100 + gp.val) (fun _ => rfl)
    (by have := z.toNat_le; omega) (fun y r e _ => by
    obtain ⟨m, fc, z0, a0, a1, a2, a3⟩ := layout_fsqrt (M := 0x10) (F := 0x08) d a z gp (by omega) (by omega) (by omega)
    simp only [decodeA, decodeFloat, m, fc, z0, a0, a1, a2, a3, zero_zero])

theorem fneg (d a : Fin 32) (z : Bool) (gp : Fin 8) : Statement (.fneg d a z gp) :=
  wordA (v := 0x10000048 + d.val * 0x80000 + a.val * 0x4000 + z.toNat * 0x100 + gp.val) (fun _ => rfl)
    (by have := z.toNat_le; omega) (fun y r e _ => by
    obtain ⟨m, fc, z0, a0, a1, a2, a3⟩ := layout_fsqrt (M := 0x10) (F := 0x09) d a z gp (by omega) (by omega) (by omega)
    simp only [decodeA, decodeFloat, m, fc, z0, a0, a1, a2, a3, zero_zero])

theorem fclass (d a : Fin 32) (z : Bool) (gp : Fin 8) : Statement (.fclass d a z gp) :=
  wordA (v := 0x10000050 + d.val * 0x80000 + a.val * 0x4000 + z.toNat * 0x100 + gp.val) (fun _ => rfl)
    (by have := z.toNat_le; omega) (fun y r e _ => by
    obtain ⟨m, fc, z0, a0, a1, a2, a3⟩ := layout_fsqrt (M := 0x10) (F := 0x0A) d a z gp (by omega) (by omega) (by omega)
    simp only [decodeA, decodeFloat, m, fc, z0, a0, a1, a2, a3, zero_zero])

theorem fcvti (d a : Fin 32) (u z : Bool) (gp : Fin 8) : Statement (.fcvti d a u z gp) :=
  wordA (v := 0x10000058 + d.val * 0x80000 + a.val * 0x4000 + u.toNat * 0x200 + z.toNat * 0x100 + gp.val) (fun _ => rfl)
    (by have := u.toNat_le; have := z.toNat_le; omega) (fun y r e _ => by
    obtain ⟨m, fc, z0, a0, a1, a2, a3, a4⟩ := layout_fcvti (M := 0x10) (F := 0x0B) d a u z gp (by omega) (by omega) (by omega)
    simp only [decodeA, decodeFloat, m, fc, z0, a0, a1, a2, a3, a4, zero_zero])

theorem fcvtf (d a : Fin 32) (u z : Bool) (gp : Fin 8) : Statement (.fcvtf d a u z gp) :=
  wordA (v := 0x10000060 + d.val * 0x80000 + a.val * 0x4000 + u.toNat * 0x200 + z.toNat * 0x100 + gp.val) (fun _ => rfl)
    (by have := u.toNat_le; have := z.toNat_le; omega) (fun y r e _ => by
    obtain ⟨m, fc, z0, a0, a1, a2, a3, a4⟩ := layout_fcvti (M := 0x10) (F := 0x0C) d a u z gp (by omega) (by omega) (by omega)
    simp only [decodeA, decodeFloat, m, fc, z0, a0, a1, a2, a3, a4, zero_zero])

theorem fcvtp (d a : Fin 32) (z : Bool) (gp : Fin 8) : Statement (.fcvtp d a z gp) :=
  wordA (v := 0x10000068 + d.val * 0x80000 + a.val * 0x4000 + z.toNat * 0x100 + gp.val) (fun _ => rfl)
    (by have := z.toNat_le; omega) (fun y r e _ => by
    obtain ⟨m, fc, z0, a0, a1, a2, a3⟩ := layout_fsqrt (M := 0x10) (F := 0x0D) d a z gp (by omega) (by omega) (by omega)
    simp only [decodeA, decodeFloat, m, fc, z0, a0, a1, a2, a3, zero_zero])

theorem fcmpeq (d : Fin 8) (a b : Fin 32) (z : Bool) (gp : Fin 8) : Statement (.fcmpeq d a b z gp) :=
  wordA (v := 0x11000000 + d.val * 0x80000 + a.val * 0x4000 + b.val * 0x200 + z.toNat * 0x100 + gp.val) (fun _ => rfl)
    (by have := z.toNat_le; omega) (fun y r e _ => by
    obtain ⟨m, fc, z0, a0, a1, a2, a3, a4⟩ := layout_fcmpeq (M := 0x11) (F := 0x00) d a b z gp (by omega) (by omega) (by omega)
    simp only [decodeA, decodeFloatCompare, m, fc, z0, a0, a1, a2, a3, a4, zero_zero])

theorem fcmplt (d : Fin 8) (a b : Fin 32) (z : Bool) (gp : Fin 8) : Statement (.fcmplt d a b z gp) :=
  wordA (v := 0x11000008 + d.val * 0x80000 + a.val * 0x4000 + b.val * 0x200 + z.toNat * 0x100 + gp.val) (fun _ => rfl)
    (by have := z.toNat_le; omega) (fun y r e _ => by
    obtain ⟨m, fc, z0, a0, a1, a2, a3, a4⟩ := layout_fcmpeq (M := 0x11) (F := 0x01) d a b z gp (by omega) (by omega) (by omega)
    simp only [decodeA, decodeFloatCompare, m, fc, z0, a0, a1, a2, a3, a4, zero_zero])

theorem fcmple (d : Fin 8) (a b : Fin 32) (z : Bool) (gp : Fin 8) : Statement (.fcmple d a b z gp) :=
  wordA (v := 0x11000010 + d.val * 0x80000 + a.val * 0x4000 + b.val * 0x200 + z.toNat * 0x100 + gp.val) (fun _ => rfl)
    (by have := z.toNat_le; omega) (fun y r e _ => by
    obtain ⟨m, fc, z0, a0, a1, a2, a3, a4⟩ := layout_fcmpeq (M := 0x11) (F := 0x02) d a b z gp (by omega) (by omega) (by omega)
    simp only [decodeA, decodeFloatCompare, m, fc, z0, a0, a1, a2, a3, a4, zero_zero])

theorem fcmpun (d : Fin 8) (a b : Fin 32) (z : Bool) (gp : Fin 8) : Statement (.fcmpun d a b z gp) :=
  wordA (v := 0x11000018 + d.val * 0x80000 + a.val * 0x4000 + b.val * 0x200 + z.toNat * 0x100 + gp.val) (fun _ => rfl)
    (by have := z.toNat_le; omega) (fun y r e _ => by
    obtain ⟨m, fc, z0, a0, a1, a2, a3, a4⟩ := layout_fcmpeq (M := 0x11) (F := 0x03) d a b z gp (by omega) (by omega) (by omega)
    simp only [decodeA, decodeFloatCompare, m, fc, z0, a0, a1, a2, a3, a4, zero_zero])

theorem badd (d a b : Fin 64) (h : Fin 4) (w : Fin 16) : Statement (.badd d a b h w) :=
  wordA (v := 0x20000000 + d.val * 0x40000 + a.val * 0x1000 + b.val * 0x40 + h.val * 0x10 + w.val) (fun _ => rfl)
    (by omega) (fun y r e _ => by
    obtain ⟨m, a0, a1, a2, a3, a4⟩ := layout_badd (M := 0x20) d a b h w (by omega) (by omega)
    simp only [decodeA, m, a0, a1, a2, a3, a4])

theorem bsub (d a b : Fin 64) (h : Fin 4) (w : Fin 16) : Statement (.bsub d a b h w) :=
  wordA (v := 0x21000000 + d.val * 0x40000 + a.val * 0x1000 + b.val * 0x40 + h.val * 0x10 + w.val) (fun _ => rfl)
    (by omega) (fun y r e _ => by
    obtain ⟨m, a0, a1, a2, a3, a4⟩ := layout_badd (M := 0x21) d a b h w (by omega) (by omega)
    simp only [decodeA, m, a0, a1, a2, a3, a4])

theorem bmul (d a b : Fin 64) (h : Fin 4) (w : Fin 16) : Statement (.bmul d a b h w) :=
  wordA (v := 0x22000000 + d.val * 0x40000 + a.val * 0x1000 + b.val * 0x40 + h.val * 0x10 + w.val) (fun _ => rfl)
    (by omega) (fun y r e _ => by
    obtain ⟨m, a0, a1, a2, a3, a4⟩ := layout_badd (M := 0x22) d a b h w (by omega) (by omega)
    simp only [decodeA, m, a0, a1, a2, a3, a4])

theorem bfma (d a b : Fin 64) (h : Fin 4) (w : Fin 16) : Statement (.bfma d a b h w) :=
  wordA (v := 0x23000000 + d.val * 0x40000 + a.val * 0x1000 + b.val * 0x40 + h.val * 0x10 + w.val) (fun _ => rfl)
    (by omega) (fun y r e _ => by
    obtain ⟨m, a0, a1, a2, a3, a4⟩ := layout_badd (M := 0x23) d a b h w (by omega) (by omega)
    simp only [decodeA, m, a0, a1, a2, a3, a4])

theorem bmin (d a b : Fin 64) (h : Fin 4) (w : Fin 16) : Statement (.bmin d a b h w) :=
  wordA (v := 0x24000000 + d.val * 0x40000 + a.val * 0x1000 + b.val * 0x40 + h.val * 0x10 + w.val) (fun _ => rfl)
    (by omega) (fun y r e _ => by
    obtain ⟨m, a0, a1, a2, a3, a4⟩ := layout_badd (M := 0x24) d a b h w (by omega) (by omega)
    simp only [decodeA, m, a0, a1, a2, a3, a4])

theorem bmax (d a b : Fin 64) (h : Fin 4) (w : Fin 16) : Statement (.bmax d a b h w) :=
  wordA (v := 0x25000000 + d.val * 0x40000 + a.val * 0x1000 + b.val * 0x40 + h.val * 0x10 + w.val) (fun _ => rfl)
    (by omega) (fun y r e _ => by
    obtain ⟨m, a0, a1, a2, a3, a4⟩ := layout_badd (M := 0x25) d a b h w (by omega) (by omega)
    simp only [decodeA, m, a0, a1, a2, a3, a4])

theorem band (d a b : Fin 64) (h : Fin 4) (w : Fin 16) : Statement (.band d a b h w) :=
  wordA (v := 0x26000000 + d.val * 0x40000 + a.val * 0x1000 + b.val * 0x40 + h.val * 0x10 + w.val) (fun _ => rfl)
    (by omega) (fun y r e _ => by
    obtain ⟨m, a0, a1, a2, a3, a4⟩ := layout_badd (M := 0x26) d a b h w (by omega) (by omega)
    simp only [decodeA, m, a0, a1, a2, a3, a4])

theorem bor (d a b : Fin 64) (h : Fin 4) (w : Fin 16) : Statement (.bor d a b h w) :=
  wordA (v := 0x27000000 + d.val * 0x40000 + a.val * 0x1000 + b.val * 0x40 + h.val * 0x10 + w.val) (fun _ => rfl)
    (by omega) (fun y r e _ => by
    obtain ⟨m, a0, a1, a2, a3, a4⟩ := layout_badd (M := 0x27) d a b h w (by omega) (by omega)
    simp only [decodeA, m, a0, a1, a2, a3, a4])

theorem bxor (d a b : Fin 64) (h : Fin 4) (w : Fin 16) : Statement (.bxor d a b h w) :=
  wordA (v := 0x28000000 + d.val * 0x40000 + a.val * 0x1000 + b.val * 0x40 + h.val * 0x10 + w.val) (fun _ => rfl)
    (by omega) (fun y r e _ => by
    obtain ⟨m, a0, a1, a2, a3, a4⟩ := layout_badd (M := 0x28) d a b h w (by omega) (by omega)
    simp only [decodeA, m, a0, a1, a2, a3, a4])

theorem bdot (d a b : Fin 64) (h : Fin 4) (w : Fin 16) : Statement (.bdot d a b h w) :=
  wordA (v := 0x29000000 + d.val * 0x40000 + a.val * 0x1000 + b.val * 0x40 + h.val * 0x10 + w.val) (fun _ => rfl)
    (by omega) (fun y r e _ => by
    obtain ⟨m, a0, a1, a2, a3, a4⟩ := layout_badd (M := 0x29) d a b h w (by omega) (by omega)
    simp only [decodeA, m, a0, a1, a2, a3, a4])

theorem bred (d a o : Fin 64) (h : Fin 4) (w : Fin 16) : Statement (.bred d a o h w) :=
  wordA (v := 0x2A000000 + d.val * 0x40000 + a.val * 0x1000 + o.val * 0x40 + h.val * 0x10 + w.val) (fun _ => rfl)
    (by omega) (fun y r e hw => by
    obtain ⟨m, a0, a1, a2, a3, a4⟩ := layout_badd (M := 0x2A) d a o h w (by omega) (by omega)
    simp only [decodeA, m, a0, a1, a2, a3, a4]; exact sound_of hw)

theorem bcmplt (d a b : Fin 64) (h : Fin 4) (w : Fin 16) : Statement (.bcmplt d a b h w) :=
  wordA (v := 0x2B000000 + d.val * 0x40000 + a.val * 0x1000 + b.val * 0x40 + h.val * 0x10 + w.val) (fun _ => rfl)
    (by omega) (fun y r e _ => by
    obtain ⟨m, a0, a1, a2, a3, a4⟩ := layout_badd (M := 0x2B) d a b h w (by omega) (by omega)
    simp only [decodeA, m, a0, a1, a2, a3, a4])

theorem bsel (d a b : Fin 64) (h : Fin 4) (w : Fin 16) : Statement (.bsel d a b h w) :=
  wordA (v := 0x2C000000 + d.val * 0x40000 + a.val * 0x1000 + b.val * 0x40 + h.val * 0x10 + w.val) (fun _ => rfl)
    (by omega) (fun y r e _ => by
    obtain ⟨m, a0, a1, a2, a3, a4⟩ := layout_badd (M := 0x2C) d a b h w (by omega) (by omega)
    simp only [decodeA, m, a0, a1, a2, a3, a4])

theorem bmov (d a : Fin 64) (h : Fin 4) (w : Fin 16) : Statement (.bmov d a h w) :=
  wordA (v := 0x2D000000 + d.val * 0x40000 + a.val * 0x1000 + h.val * 0x10 + w.val) (fun _ => rfl)
    (by omega) (fun y r e _ => by
    obtain ⟨m, z0, a0, a1, a2, a3⟩ := layout_bmov (M := 0x2D) d a h w (by omega) (by omega)
    simp only [decodeA, m, z0, a0, a1, a2, a3, zero_zero])

theorem bneg (d a : Fin 64) (h : Fin 4) (w : Fin 16) : Statement (.bneg d a h w) :=
  wordA (v := 0x2E000000 + d.val * 0x40000 + a.val * 0x1000 + h.val * 0x10 + w.val) (fun _ => rfl)
    (by omega) (fun y r e _ => by
    obtain ⟨m, fc, a0, a1, a2, a3⟩ := layout_bneg (M := 0x2E) (F := 0x00) d a h w (by omega) (by omega) (by omega)
    simp only [decodeA, decodeUnary, m, fc, a0, a1, a2, a3])

theorem babs (d a : Fin 64) (h : Fin 4) (w : Fin 16) : Statement (.babs d a h w) :=
  wordA (v := 0x2E000040 + d.val * 0x40000 + a.val * 0x1000 + h.val * 0x10 + w.val) (fun _ => rfl)
    (by omega) (fun y r e _ => by
    obtain ⟨m, fc, a0, a1, a2, a3⟩ := layout_bneg (M := 0x2E) (F := 0x01) d a h w (by omega) (by omega) (by omega)
    simp only [decodeA, decodeUnary, m, fc, a0, a1, a2, a3])

theorem bexp2 (d a : Fin 64) (h : Fin 4) (w : Fin 16) : Statement (.bexp2 d a h w) :=
  wordA (v := 0x2E000080 + d.val * 0x40000 + a.val * 0x1000 + h.val * 0x10 + w.val) (fun _ => rfl)
    (by omega) (fun y r e _ => by
    obtain ⟨m, fc, a0, a1, a2, a3⟩ := layout_bneg (M := 0x2E) (F := 0x02) d a h w (by omega) (by omega) (by omega)
    simp only [decodeA, decodeUnary, m, fc, a0, a1, a2, a3])

theorem blog2 (d a : Fin 64) (h : Fin 4) (w : Fin 16) : Statement (.blog2 d a h w) :=
  wordA (v := 0x2E0000C0 + d.val * 0x40000 + a.val * 0x1000 + h.val * 0x10 + w.val) (fun _ => rfl)
    (by omega) (fun y r e _ => by
    obtain ⟨m, fc, a0, a1, a2, a3⟩ := layout_bneg (M := 0x2E) (F := 0x03) d a h w (by omega) (by omega) (by omega)
    simp only [decodeA, decodeUnary, m, fc, a0, a1, a2, a3])

theorem brcp (d a : Fin 64) (h : Fin 4) (w : Fin 16) : Statement (.brcp d a h w) :=
  wordA (v := 0x2E000100 + d.val * 0x40000 + a.val * 0x1000 + h.val * 0x10 + w.val) (fun _ => rfl)
    (by omega) (fun y r e _ => by
    obtain ⟨m, fc, a0, a1, a2, a3⟩ := layout_bneg (M := 0x2E) (F := 0x04) d a h w (by omega) (by omega) (by omega)
    simp only [decodeA, decodeUnary, m, fc, a0, a1, a2, a3])

theorem brsq (d a : Fin 64) (h : Fin 4) (w : Fin 16) : Statement (.brsq d a h w) :=
  wordA (v := 0x2E000140 + d.val * 0x40000 + a.val * 0x1000 + h.val * 0x10 + w.val) (fun _ => rfl)
    (by omega) (fun y r e _ => by
    obtain ⟨m, fc, a0, a1, a2, a3⟩ := layout_bneg (M := 0x2E) (F := 0x05) d a h w (by omega) (by omega) (by omega)
    simp only [decodeA, decodeUnary, m, fc, a0, a1, a2, a3])

theorem bsigm (d a : Fin 64) (h : Fin 4) (w : Fin 16) : Statement (.bsigm d a h w) :=
  wordA (v := 0x2E000180 + d.val * 0x40000 + a.val * 0x1000 + h.val * 0x10 + w.val) (fun _ => rfl)
    (by omega) (fun y r e _ => by
    obtain ⟨m, fc, a0, a1, a2, a3⟩ := layout_bneg (M := 0x2E) (F := 0x06) d a h w (by omega) (by omega) (by omega)
    simp only [decodeA, decodeUnary, m, fc, a0, a1, a2, a3])

theorem btanh (d a : Fin 64) (h : Fin 4) (w : Fin 16) : Statement (.btanh d a h w) :=
  wordA (v := 0x2E0001C0 + d.val * 0x40000 + a.val * 0x1000 + h.val * 0x10 + w.val) (fun _ => rfl)
    (by omega) (fun y r e _ => by
    obtain ⟨m, fc, a0, a1, a2, a3⟩ := layout_bneg (M := 0x2E) (F := 0x07) d a h w (by omega) (by omega) (by omega)
    simp only [decodeA, decodeUnary, m, fc, a0, a1, a2, a3])

theorem bsqrt (d a : Fin 64) (h : Fin 4) (w : Fin 16) : Statement (.bsqrt d a h w) :=
  wordA (v := 0x2E000200 + d.val * 0x40000 + a.val * 0x1000 + h.val * 0x10 + w.val) (fun _ => rfl)
    (by omega) (fun y r e _ => by
    obtain ⟨m, fc, a0, a1, a2, a3⟩ := layout_bneg (M := 0x2E) (F := 0x08) d a h w (by omega) (by omega) (by omega)
    simp only [decodeA, decodeUnary, m, fc, a0, a1, a2, a3])

theorem brelu (d a : Fin 64) (h : Fin 4) (w : Fin 16) : Statement (.brelu d a h w) :=
  wordA (v := 0x2E000240 + d.val * 0x40000 + a.val * 0x1000 + h.val * 0x10 + w.val) (fun _ => rfl)
    (by omega) (fun y r e _ => by
    obtain ⟨m, fc, a0, a1, a2, a3⟩ := layout_bneg (M := 0x2E) (F := 0x09) d a h w (by omega) (by omega) (by omega)
    simp only [decodeA, decodeUnary, m, fc, a0, a1, a2, a3])

theorem bcvt (d a : Fin 64) (f : Fin 16) (h : Fin 4) (w : Fin 16) : Statement (.bcvt d a f h w) :=
  wordA (v := 0x2F000000 + d.val * 0x40000 + a.val * 0x1000 + f.val * 0x40 + h.val * 0x10 + w.val) (fun _ => rfl)
    (by omega) (fun y r e _ => by
    obtain ⟨m, z0, a0, a1, a2, a3, a4⟩ := layout_bcvt (M := 0x2F) d a f h w (by omega) (by omega)
    simp only [decodeA, m, z0, a0, a1, a2, a3, a4, zero_zero])

theorem bscal (d a : Fin 64) (g : Fin 32) (h : Fin 4) (w : Fin 16) : Statement (.bscal d a g h w) :=
  wordA (v := 0x30000000 + d.val * 0x40000 + a.val * 0x1000 + g.val * 0x80 + h.val * 0x10 + w.val) (fun _ => rfl)
    (by omega) (fun y r e _ => by
    obtain ⟨m, z0, a0, a1, a2, a3, a4⟩ := layout_bscal (M := 0x30) d a g h w (by omega) (by omega)
    simp only [decodeA, m, z0, a0, a1, a2, a3, a4, zero_zero])

theorem badds (d a : Fin 64) (g : Fin 32) (h : Fin 4) (w : Fin 16) : Statement (.badds d a g h w) :=
  wordA (v := 0x31000000 + d.val * 0x40000 + a.val * 0x1000 + g.val * 0x80 + h.val * 0x10 + w.val) (fun _ => rfl)
    (by omega) (fun y r e _ => by
    obtain ⟨m, z0, a0, a1, a2, a3, a4⟩ := layout_bscal (M := 0x31) d a g h w (by omega) (by omega)
    simp only [decodeA, m, z0, a0, a1, a2, a3, a4, zero_zero])

theorem bbcst (d : Fin 64) (g : Fin 32) (h : Fin 4) (w : Fin 16) : Statement (.bbcst d g h w) :=
  wordA (v := 0x32000000 + d.val * 0x40000 + g.val * 0x80 + h.val * 0x10 + w.val) (fun _ => rfl)
    (by omega) (fun y r e _ => by
    obtain ⟨m, z0, z1, a0, a1, a2, a3⟩ := layout_bbcst (M := 0x32) d g h w (by omega) (by omega)
    simp only [decodeA, m, z0, z1, a0, a1, a2, a3, zero_zero])

theorem bget (l a : Fin 64) (g : Fin 32) (h : Fin 4) (w : Fin 16) : Statement (.bget l a g h w) :=
  wordA (v := 0x33000000 + l.val * 0x40000 + a.val * 0x1000 + g.val * 0x80 + h.val * 0x10 + w.val) (fun _ => rfl)
    (by omega) (fun y r e _ => by
    obtain ⟨m, z0, a0, a1, a2, a3, a4⟩ := layout_bscal (M := 0x33) l a g h w (by omega) (by omega)
    simp only [decodeA, m, z0, a0, a1, a2, a3, a4, zero_zero])

theorem bset (d l : Fin 64) (g : Fin 32) (h : Fin 4) (w : Fin 16) : Statement (.bset d l g h w) :=
  wordA (v := 0x34000000 + d.val * 0x40000 + l.val * 0x1000 + g.val * 0x80 + h.val * 0x10 + w.val) (fun _ => rfl)
    (by omega) (fun y r e _ => by
    obtain ⟨m, z0, a0, a1, a2, a3, a4⟩ := layout_bscal (M := 0x34) d l g h w (by omega) (by omega)
    simp only [decodeA, m, z0, a0, a1, a2, a3, a4, zero_zero])

theorem bgnorm (d a : Fin 64) (g : Fin 32) (h : Fin 4) (w : Fin 16) : Statement (.bgnorm d a g h w) :=
  wordA (v := 0x35000000 + d.val * 0x40000 + a.val * 0x1000 + g.val * 0x80 + h.val * 0x10 + w.val) (fun _ => rfl)
    (by omega) (fun y r e _ => by
    obtain ⟨m, z0, a0, a1, a2, a3, a4⟩ := layout_bscal (M := 0x35) d a g h w (by omega) (by omega)
    simp only [decodeA, m, z0, a0, a1, a2, a3, a4, zero_zero])

theorem bshuf (d a : Fin 64) (g : Fin 32) (h : Fin 4) (w : Fin 16) : Statement (.bshuf d a g h w) :=
  wordA (v := 0x36000000 + d.val * 0x40000 + a.val * 0x1000 + g.val * 0x80 + h.val * 0x10 + w.val) (fun _ => rfl)
    (by omega) (fun y r e _ => by
    obtain ⟨m, z0, a0, a1, a2, a3, a4⟩ := layout_bscal (M := 0x36) d a g h w (by omega) (by omega)
    simp only [decodeA, m, z0, a0, a1, a2, a3, a4, zero_zero])

theorem bscl (d a : Fin 64) (g : Fin 32) (h : Fin 4) (w : Fin 16) : Statement (.bscl d a g h w) :=
  wordA (v := 0x37000000 + d.val * 0x40000 + a.val * 0x1000 + g.val * 0x80 + h.val * 0x10 + w.val) (fun _ => rfl)
    (by omega) (fun y r e _ => by
    obtain ⟨m, z0, a0, a1, a2, a3, a4⟩ := layout_bscal (M := 0x37) d a g h w (by omega) (by omega)
    simp only [decodeA, m, z0, a0, a1, a2, a3, a4, zero_zero])

theorem nop (gp : Fin 8) : Statement (.nop gp) :=
  wordC (v := 0x0 + gp.val) (fun _ => rfl)
    (by omega) (fun y r e _ => by
    obtain ⟨m, fc, z0, a0⟩ := layout_nop (M := 0x00) (F := 0x00) gp (by omega) (by omega) (by omega)
    simp only [decodeC, decodeControl, m, fc, z0, a0, zero_zero])

theorem halt (gp : Fin 8) : Statement (.halt gp) :=
  wordLone (v := 0x8 + gp.val) (fun _ => rfl)
    (by omega) (fun y r e _ => by
    obtain ⟨m, fc, z0, a0⟩ := layout_nop (M := 0x00) (F := 0x01) gp (by omega) (by omega) (by omega)
    simp only [decodeC, decodeControl, m, fc, z0, a0, zero_zero])

theorem brk (gp : Fin 8) : Statement (.brk gp) :=
  wordLone (v := 0x10 + gp.val) (fun _ => rfl)
    (by omega) (fun y r e _ => by
    obtain ⟨m, fc, z0, a0⟩ := layout_nop (M := 0x00) (F := 0x02) gp (by omega) (by omega) (by omega)
    simp only [decodeC, decodeControl, m, fc, z0, a0, zero_zero])

theorem syscall (gp : Fin 8) : Statement (.syscall gp) :=
  wordLone (v := 0x18 + gp.val) (fun _ => rfl)
    (by omega) (fun y r e _ => by
    obtain ⟨m, fc, z0, a0⟩ := layout_nop (M := 0x00) (F := 0x03) gp (by omega) (by omega) (by omega)
    simp only [decodeC, decodeControl, m, fc, z0, a0, zero_zero])

theorem yield (gp : Fin 8) : Statement (.yield gp) :=
  wordC (v := 0x20 + gp.val) (fun _ => rfl)
    (by omega) (fun y r e _ => by
    obtain ⟨m, fc, z0, a0⟩ := layout_nop (M := 0x00) (F := 0x04) gp (by omega) (by omega) (by omega)
    simp only [decodeC, decodeControl, m, fc, z0, a0, zero_zero])

theorem uiret (gp : Fin 8) : Statement (.uiret gp) :=
  wordLone (v := 0x28 + gp.val) (fun _ => rfl)
    (by omega) (fun y r e _ => by
    obtain ⟨m, fc, z0, a0⟩ := layout_nop (M := 0x00) (F := 0x05) gp (by omega) (by omega) (by omega)
    simp only [decodeC, decodeControl, m, fc, z0, a0, zero_zero])

theorem ifence (gp : Fin 8) : Statement (.ifence gp) :=
  wordC (v := 0x30 + gp.val) (fun _ => rfl)
    (by omega) (fun y r e _ => by
    obtain ⟨m, fc, z0, a0⟩ := layout_nop (M := 0x00) (F := 0x06) gp (by omega) (by omega) (by omega)
    simp only [decodeC, decodeControl, m, fc, z0, a0, zero_zero])

theorem tret (gp : Fin 8) : Statement (.tret gp) :=
  wordLone (v := 0x38 + gp.val) (fun _ => rfl)
    (by omega) (fun y r e _ => by
    obtain ⟨m, fc, z0, a0⟩ := layout_nop (M := 0x00) (F := 0x07) gp (by omega) (by omega) (by omega)
    simp only [decodeC, decodeControl, m, fc, z0, a0, zero_zero])

theorem br (p : Fin 8) (s : Bool) (d : BitVec 20) : Statement (.br p s d) :=
  wordC (v := 0x1000000 + p.val * 0x200000 + s.toNat * 0x100000 + d.toNat) (fun _ => rfl)
    (by have := s.toNat_le; omega) (fun y r e _ => by
    obtain ⟨m, a0, a1, a2⟩ := layout_br (M := 0x01) p s d (by omega) (by omega)
    simp only [decodeC, m, a0, a1, a2])

theorem jal (l : Fin 32) (d : BitVec 19) : Statement (.jal l d) :=
  wordC (v := 0x2000000 + l.val * 0x80000 + d.toNat) (fun _ => rfl)
    (by omega) (fun y r e _ => by
    obtain ⟨m, a0, a1⟩ := layout_jal (M := 0x02) l d (by omega) (by omega)
    simp only [decodeC, m, a0, a1])

theorem jalr (d a b : Fin 32) (gp : Fin 8) : Statement (.jalr d a b gp) :=
  wordC (v := 0x3000000 + d.val * 0x80000 + a.val * 0x4000 + b.val * 0x200 + gp.val) (fun _ => rfl)
    (by omega) (fun y r e _ => by
    obtain ⟨m, z0, a0, a1, a2, a3⟩ := layout_jalr (M := 0x03) d a b gp (by omega) (by omega)
    simp only [decodeC, m, z0, a0, a1, a2, a3, zero_zero, fnZero])

theorem ld8 (t s : Fin 32) (o : BitVec 8) (c : Fin 16) (k : Fin 4) : Statement (.ld8 t s o c k) :=
  wordC (v := 0x4000000 + t.val * 0x80000 + s.val * 0x4000 + o.toNat * 0x40 + c.val * 0x4 + k.val) (fun _ => rfl)
    (by omega) (fun y r e hw => by
    obtain ⟨m, a0, a1, a2, a3, a4⟩ := layout_ld8 (M := 0x04) t s o c k (by omega) (by omega)
    simp only [decodeC, m, a0, a1, a2, a3, a4]; exact sound_of hw)

theorem ld8U (t s : Fin 32) (o : BitVec 8) (c : Fin 16) (k : Fin 4) : Statement (.ld8U t s o c k) :=
  wordC (v := 0x5000000 + t.val * 0x80000 + s.val * 0x4000 + o.toNat * 0x40 + c.val * 0x4 + k.val) (fun _ => rfl)
    (by omega) (fun y r e hw => by
    obtain ⟨m, a0, a1, a2, a3, a4⟩ := layout_ld8 (M := 0x05) t s o c k (by omega) (by omega)
    simp only [decodeC, m, a0, a1, a2, a3, a4]; exact sound_of hw)

theorem ld16 (t s : Fin 32) (o : BitVec 8) (c : Fin 16) (k : Fin 4) : Statement (.ld16 t s o c k) :=
  wordC (v := 0x6000000 + t.val * 0x80000 + s.val * 0x4000 + o.toNat * 0x40 + c.val * 0x4 + k.val) (fun _ => rfl)
    (by omega) (fun y r e hw => by
    obtain ⟨m, a0, a1, a2, a3, a4⟩ := layout_ld8 (M := 0x06) t s o c k (by omega) (by omega)
    simp only [decodeC, m, a0, a1, a2, a3, a4]; exact sound_of hw)

theorem ld16U (t s : Fin 32) (o : BitVec 8) (c : Fin 16) (k : Fin 4) : Statement (.ld16U t s o c k) :=
  wordC (v := 0x7000000 + t.val * 0x80000 + s.val * 0x4000 + o.toNat * 0x40 + c.val * 0x4 + k.val) (fun _ => rfl)
    (by omega) (fun y r e hw => by
    obtain ⟨m, a0, a1, a2, a3, a4⟩ := layout_ld8 (M := 0x07) t s o c k (by omega) (by omega)
    simp only [decodeC, m, a0, a1, a2, a3, a4]; exact sound_of hw)

theorem ld32 (t s : Fin 32) (o : BitVec 8) (c : Fin 16) (k : Fin 4) : Statement (.ld32 t s o c k) :=
  wordC (v := 0x8000000 + t.val * 0x80000 + s.val * 0x4000 + o.toNat * 0x40 + c.val * 0x4 + k.val) (fun _ => rfl)
    (by omega) (fun y r e hw => by
    obtain ⟨m, a0, a1, a2, a3, a4⟩ := layout_ld8 (M := 0x08) t s o c k (by omega) (by omega)
    simp only [decodeC, m, a0, a1, a2, a3, a4]; exact sound_of hw)

theorem ld32U (t s : Fin 32) (o : BitVec 8) (c : Fin 16) (k : Fin 4) : Statement (.ld32U t s o c k) :=
  wordC (v := 0x9000000 + t.val * 0x80000 + s.val * 0x4000 + o.toNat * 0x40 + c.val * 0x4 + k.val) (fun _ => rfl)
    (by omega) (fun y r e hw => by
    obtain ⟨m, a0, a1, a2, a3, a4⟩ := layout_ld8 (M := 0x09) t s o c k (by omega) (by omega)
    simp only [decodeC, m, a0, a1, a2, a3, a4]; exact sound_of hw)

theorem ld64 (t s : Fin 32) (o : BitVec 8) (c : Fin 16) (k : Fin 4) : Statement (.ld64 t s o c k) :=
  wordC (v := 0xA000000 + t.val * 0x80000 + s.val * 0x4000 + o.toNat * 0x40 + c.val * 0x4 + k.val) (fun _ => rfl)
    (by omega) (fun y r e hw => by
    obtain ⟨m, a0, a1, a2, a3, a4⟩ := layout_ld8 (M := 0x0A) t s o c k (by omega) (by omega)
    simp only [decodeC, m, a0, a1, a2, a3, a4]; exact sound_of hw)

theorem st8 (t s : Fin 32) (o : BitVec 8) (c : Fin 16) (k : Fin 4) : Statement (.st8 t s o c k) :=
  wordC (v := 0xB000000 + t.val * 0x80000 + s.val * 0x4000 + o.toNat * 0x40 + c.val * 0x4 + k.val) (fun _ => rfl)
    (by omega) (fun y r e hw => by
    obtain ⟨m, a0, a1, a2, a3, a4⟩ := layout_ld8 (M := 0x0B) t s o c k (by omega) (by omega)
    simp only [decodeC, m, a0, a1, a2, a3, a4]; exact sound_of hw)

theorem st16 (t s : Fin 32) (o : BitVec 8) (c : Fin 16) (k : Fin 4) : Statement (.st16 t s o c k) :=
  wordC (v := 0xC000000 + t.val * 0x80000 + s.val * 0x4000 + o.toNat * 0x40 + c.val * 0x4 + k.val) (fun _ => rfl)
    (by omega) (fun y r e hw => by
    obtain ⟨m, a0, a1, a2, a3, a4⟩ := layout_ld8 (M := 0x0C) t s o c k (by omega) (by omega)
    simp only [decodeC, m, a0, a1, a2, a3, a4]; exact sound_of hw)

theorem st32 (t s : Fin 32) (o : BitVec 8) (c : Fin 16) (k : Fin 4) : Statement (.st32 t s o c k) :=
  wordC (v := 0xD000000 + t.val * 0x80000 + s.val * 0x4000 + o.toNat * 0x40 + c.val * 0x4 + k.val) (fun _ => rfl)
    (by omega) (fun y r e hw => by
    obtain ⟨m, a0, a1, a2, a3, a4⟩ := layout_ld8 (M := 0x0D) t s o c k (by omega) (by omega)
    simp only [decodeC, m, a0, a1, a2, a3, a4]; exact sound_of hw)

theorem st64 (t s : Fin 32) (o : BitVec 8) (c : Fin 16) (k : Fin 4) : Statement (.st64 t s o c k) :=
  wordC (v := 0xE000000 + t.val * 0x80000 + s.val * 0x4000 + o.toNat * 0x40 + c.val * 0x4 + k.val) (fun _ => rfl)
    (by omega) (fun y r e hw => by
    obtain ⟨m, a0, a1, a2, a3, a4⟩ := layout_ld8 (M := 0x0E) t s o c k (by omega) (by omega)
    simp only [decodeC, m, a0, a1, a2, a3, a4]; exact sound_of hw)

theorem ldv (v : Fin 64) (s : Fin 32) (o : BitVec 5) (h : Fin 4) (w : Fin 16) (k : Fin 4) : Statement (.ldv v s o h w k) :=
  wordC (v := 0xF000000 + v.val * 0x40000 + s.val * 0x2000 + o.toNat * 0x100 + h.val * 0x40 + w.val * 0x4 + k.val) (fun _ => rfl)
    (by omega) (fun y r e hw => by
    obtain ⟨m, a0, a1, a2, a3, a4, a5⟩ := layout_ldv (M := 0x0F) v s o h w k (by omega) (by omega)
    simp only [decodeC, m, a0, a1, a2, a3, a4, a5]; exact sound_of hw)

theorem stv (v : Fin 64) (s : Fin 32) (o : BitVec 5) (h : Fin 4) (w : Fin 16) (k : Fin 4) : Statement (.stv v s o h w k) :=
  wordC (v := 0x10000000 + v.val * 0x40000 + s.val * 0x2000 + o.toNat * 0x100 + h.val * 0x40 + w.val * 0x4 + k.val) (fun _ => rfl)
    (by omega) (fun y r e hw => by
    obtain ⟨m, a0, a1, a2, a3, a4, a5⟩ := layout_ldv (M := 0x10) v s o h w k (by omega) (by omega)
    simp only [decodeC, m, a0, a1, a2, a3, a4, a5]; exact sound_of hw)

theorem aadd (d s b : Fin 32) (c : Fin 16) (k : Fin 4) (w : Bool) : Statement (.aadd d s b c k w) :=
  wordC (v := 0x11000000 + d.val * 0x80000 + s.val * 0x4000 + b.val * 0x200 + c.val * 0x20 + k.val * 0x8 + w.toNat * 0x4) (fun _ => rfl)
    (by have := w.toNat_le; omega) (fun y r e _ => by
    obtain ⟨m, z0, a0, a1, a2, a3, a4, a5⟩ := layout_aadd (M := 0x11) d s b c k w (by omega) (by omega)
    simp only [decodeC, m, z0, a0, a1, a2, a3, a4, a5, zero_zero])

theorem aaddf (d s b : Fin 32) (c : Fin 16) (k : Fin 4) (w : Bool) : Statement (.aaddf d s b c k w) :=
  wordC (v := 0x12000000 + d.val * 0x80000 + s.val * 0x4000 + b.val * 0x200 + c.val * 0x20 + k.val * 0x8 + w.toNat * 0x4) (fun _ => rfl)
    (by have := w.toNat_le; omega) (fun y r e _ => by
    obtain ⟨m, z0, a0, a1, a2, a3, a4, a5⟩ := layout_aadd (M := 0x12) d s b c k w (by omega) (by omega)
    simp only [decodeC, m, z0, a0, a1, a2, a3, a4, a5, zero_zero])

theorem amin (d s b : Fin 32) (c : Fin 16) (k : Fin 4) (w : Bool) : Statement (.amin d s b c k w) :=
  wordC (v := 0x13000000 + d.val * 0x80000 + s.val * 0x4000 + b.val * 0x200 + c.val * 0x20 + k.val * 0x8 + w.toNat * 0x4) (fun _ => rfl)
    (by have := w.toNat_le; omega) (fun y r e _ => by
    obtain ⟨m, z0, a0, a1, a2, a3, a4, a5⟩ := layout_aadd (M := 0x13) d s b c k w (by omega) (by omega)
    simp only [decodeC, m, z0, a0, a1, a2, a3, a4, a5, zero_zero])

theorem amax (d s b : Fin 32) (c : Fin 16) (k : Fin 4) (w : Bool) : Statement (.amax d s b c k w) :=
  wordC (v := 0x14000000 + d.val * 0x80000 + s.val * 0x4000 + b.val * 0x200 + c.val * 0x20 + k.val * 0x8 + w.toNat * 0x4) (fun _ => rfl)
    (by have := w.toNat_le; omega) (fun y r e _ => by
    obtain ⟨m, z0, a0, a1, a2, a3, a4, a5⟩ := layout_aadd (M := 0x14) d s b c k w (by omega) (by omega)
    simp only [decodeC, m, z0, a0, a1, a2, a3, a4, a5, zero_zero])

theorem aminu (d s b : Fin 32) (c : Fin 16) (k : Fin 4) (w : Bool) : Statement (.aminu d s b c k w) :=
  wordC (v := 0x15000000 + d.val * 0x80000 + s.val * 0x4000 + b.val * 0x200 + c.val * 0x20 + k.val * 0x8 + w.toNat * 0x4) (fun _ => rfl)
    (by have := w.toNat_le; omega) (fun y r e _ => by
    obtain ⟨m, z0, a0, a1, a2, a3, a4, a5⟩ := layout_aadd (M := 0x15) d s b c k w (by omega) (by omega)
    simp only [decodeC, m, z0, a0, a1, a2, a3, a4, a5, zero_zero])

theorem amaxu (d s b : Fin 32) (c : Fin 16) (k : Fin 4) (w : Bool) : Statement (.amaxu d s b c k w) :=
  wordC (v := 0x16000000 + d.val * 0x80000 + s.val * 0x4000 + b.val * 0x200 + c.val * 0x20 + k.val * 0x8 + w.toNat * 0x4) (fun _ => rfl)
    (by have := w.toNat_le; omega) (fun y r e _ => by
    obtain ⟨m, z0, a0, a1, a2, a3, a4, a5⟩ := layout_aadd (M := 0x16) d s b c k w (by omega) (by omega)
    simp only [decodeC, m, z0, a0, a1, a2, a3, a4, a5, zero_zero])

theorem aand (d s b : Fin 32) (c : Fin 16) (k : Fin 4) (w : Bool) : Statement (.aand d s b c k w) :=
  wordC (v := 0x17000000 + d.val * 0x80000 + s.val * 0x4000 + b.val * 0x200 + c.val * 0x20 + k.val * 0x8 + w.toNat * 0x4) (fun _ => rfl)
    (by have := w.toNat_le; omega) (fun y r e _ => by
    obtain ⟨m, z0, a0, a1, a2, a3, a4, a5⟩ := layout_aadd (M := 0x17) d s b c k w (by omega) (by omega)
    simp only [decodeC, m, z0, a0, a1, a2, a3, a4, a5, zero_zero])

theorem aor (d s b : Fin 32) (c : Fin 16) (k : Fin 4) (w : Bool) : Statement (.aor d s b c k w) :=
  wordC (v := 0x18000000 + d.val * 0x80000 + s.val * 0x4000 + b.val * 0x200 + c.val * 0x20 + k.val * 0x8 + w.toNat * 0x4) (fun _ => rfl)
    (by have := w.toNat_le; omega) (fun y r e _ => by
    obtain ⟨m, z0, a0, a1, a2, a3, a4, a5⟩ := layout_aadd (M := 0x18) d s b c k w (by omega) (by omega)
    simp only [decodeC, m, z0, a0, a1, a2, a3, a4, a5, zero_zero])

theorem axor (d s b : Fin 32) (c : Fin 16) (k : Fin 4) (w : Bool) : Statement (.axor d s b c k w) :=
  wordC (v := 0x19000000 + d.val * 0x80000 + s.val * 0x4000 + b.val * 0x200 + c.val * 0x20 + k.val * 0x8 + w.toNat * 0x4) (fun _ => rfl)
    (by have := w.toNat_le; omega) (fun y r e _ => by
    obtain ⟨m, z0, a0, a1, a2, a3, a4, a5⟩ := layout_aadd (M := 0x19) d s b c k w (by omega) (by omega)
    simp only [decodeC, m, z0, a0, a1, a2, a3, a4, a5, zero_zero])

theorem aswp (d s b : Fin 32) (c : Fin 16) (k : Fin 4) (w : Bool) : Statement (.aswp d s b c k w) :=
  wordC (v := 0x1A000000 + d.val * 0x80000 + s.val * 0x4000 + b.val * 0x200 + c.val * 0x20 + k.val * 0x8 + w.toNat * 0x4) (fun _ => rfl)
    (by have := w.toNat_le; omega) (fun y r e _ => by
    obtain ⟨m, z0, a0, a1, a2, a3, a4, a5⟩ := layout_aadd (M := 0x1A) d s b c k w (by omega) (by omega)
    simp only [decodeC, m, z0, a0, a1, a2, a3, a4, a5, zero_zero])

theorem acas (d s b : Fin 32) (c : Fin 16) (k : Fin 4) (w : Bool) : Statement (.acas d s b c k w) :=
  wordC (v := 0x1B000000 + d.val * 0x80000 + s.val * 0x4000 + b.val * 0x200 + c.val * 0x20 + k.val * 0x8 + w.toNat * 0x4) (fun _ => rfl)
    (by have := w.toNat_le; omega) (fun y r e _ => by
    obtain ⟨m, z0, a0, a1, a2, a3, a4, a5⟩ := layout_aadd (M := 0x1B) d s b c k w (by omega) (by omega)
    simp only [decodeC, m, z0, a0, a1, a2, a3, a4, a5, zero_zero])

theorem fence (k : Fin 8) (c : Fin 16) : Statement (.fence k c) :=
  wordC (v := 0x1C000000 + k.val * 0x200000 + c.val * 0x20000) (fun _ => rfl)
    (by omega) (fun y r e hw => by
    obtain ⟨m, z0, a0, a1⟩ := layout_fence (M := 0x1C) k c (by omega) (by omega)
    simp only [decodeC, m, z0, a0, a1, zero_zero]; exact sound_of hw)

theorem pref (l : Fin 4) (s : Fin 32) (o : BitVec 8) : Statement (.pref l s o) :=
  wordC (v := 0x1D000000 + l.val * 0x80000 + s.val * 0x4000 + o.toNat * 0x40) (fun _ => rfl)
    (by omega) (fun y r e hw => by
    obtain ⟨m, z0, z1, a0, a1, a2⟩ := layout_pref (M := 0x1D) l s o (by omega) (by omega)
    simp only [decodeC, m, z0, z1, a0, a1, a2, zero_zero]; exact sound_of hw)

theorem send (a : Fin 32) (q : Fin 8) : Statement (.send a q) :=
  wordC (v := 0x1E000000 + a.val * 0x4000 + q.val * 0x10) (fun _ => rfl)
    (by omega) (fun y r e _ => by
    obtain ⟨m, fc, z0, z1, z2, a0, a1⟩ := layout_send (M := 0x1E) (F := 0x00) a q (by omega) (by omega) (by omega)
    simp only [decodeC, decodeChannel, m, fc, z0, z1, z2, a0, a1, zero_zero])

theorem sendt (p : Fin 8) (a : Fin 32) (q : Fin 8) : Statement (.sendt p a q) :=
  wordC (v := 0x1E000001 + p.val * 0x80000 + a.val * 0x4000 + q.val * 0x10) (fun _ => rfl)
    (by omega) (fun y r e _ => by
    obtain ⟨m, fc, z0, z1, z2, a0, a1, a2⟩ := layout_sendt (M := 0x1E) (F := 0x01) p a q (by omega) (by omega) (by omega)
    simp only [decodeC, decodeChannel, m, fc, z0, z1, z2, a0, a1, a2, zero_zero])

theorem recv (d : Fin 32) (q : Fin 8) : Statement (.recv d q) :=
  wordC (v := 0x1E000002 + d.val * 0x80000 + q.val * 0x10) (fun _ => rfl)
    (by omega) (fun y r e _ => by
    obtain ⟨m, fc, z0, z1, a0, a1⟩ := layout_recv (M := 0x1E) (F := 0x02) d q (by omega) (by omega) (by omega)
    simp only [decodeC, decodeChannel, m, fc, z0, z1, a0, a1, zero_zero])

theorem recvt (d : Fin 32) (p q : Fin 8) : Statement (.recvt d p q) :=
  wordC (v := 0x1E000003 + d.val * 0x80000 + p.val * 0x200 + q.val * 0x10) (fun _ => rfl)
    (by omega) (fun y r e _ => by
    obtain ⟨m, fc, z0, z1, z2, a0, a1, a2⟩ := layout_recvt (M := 0x1E) (F := 0x03) d p q (by omega) (by omega) (by omega)
    simp only [decodeC, decodeChannel, m, fc, z0, z1, z2, a0, a1, a2, zero_zero])

theorem sendc (a : Fin 32) (q : Fin 8) : Statement (.sendc a q) :=
  wordC (v := 0x1E000004 + a.val * 0x4000 + q.val * 0x10) (fun _ => rfl)
    (by omega) (fun y r e _ => by
    obtain ⟨m, fc, z0, z1, z2, a0, a1⟩ := layout_send (M := 0x1E) (F := 0x04) a q (by omega) (by omega) (by omega)
    simp only [decodeC, decodeChannel, m, fc, z0, z1, z2, a0, a1, zero_zero])

theorem alt (d a : Fin 32) : Statement (.alt d a) :=
  wordC (v := 0x1E000005 + d.val * 0x80000 + a.val * 0x4000) (fun _ => rfl)
    (by omega) (fun y r e _ => by
    obtain ⟨m, fc, z0, a0, a1⟩ := layout_alt (M := 0x1E) (F := 0x05) d a (by omega) (by omega) (by omega)
    simp only [decodeC, decodeChannel, m, fc, z0, a0, a1, zero_zero])

theorem chgrant (a : Fin 32) (q : Fin 8) : Statement (.chgrant a q) :=
  wordC (v := 0x1E000006 + a.val * 0x4000 + q.val * 0x10) (fun _ => rfl)
    (by omega) (fun y r e _ => by
    obtain ⟨m, fc, z0, z1, z2, a0, a1⟩ := layout_send (M := 0x1E) (F := 0x06) a q (by omega) (by omega) (by omega)
    simp only [decodeC, decodeChannel, m, fc, z0, z1, z2, a0, a1, zero_zero])

theorem chbind (a f : Fin 32) (q : Fin 8) : Statement (.chbind a f q) :=
  wordC (v := 0x1E000007 + a.val * 0x4000 + f.val * 0x200 + q.val * 0x10) (fun _ => rfl)
    (by omega) (fun y r e _ => by
    obtain ⟨m, fc, z0, z1, a0, a1, a2⟩ := layout_chbind (M := 0x1E) (F := 0x07) a f q (by omega) (by omega) (by omega)
    simp only [decodeC, decodeChannel, m, fc, z0, z1, a0, a1, a2, zero_zero])

theorem chunbind (q : Fin 8) : Statement (.chunbind q) :=
  wordC (v := 0x1E000008 + q.val * 0x10) (fun _ => rfl)
    (by omega) (fun y r e _ => by
    obtain ⟨m, fc, z0, z1, a0⟩ := layout_chunbind (M := 0x1E) (F := 0x08) q (by omega) (by omega) (by omega)
    simp only [decodeC, decodeChannel, m, fc, z0, z1, a0, zero_zero])

theorem chstat (d : Fin 32) (q : Fin 8) : Statement (.chstat d q) :=
  wordC (v := 0x1E000009 + d.val * 0x80000 + q.val * 0x10) (fun _ => rfl)
    (by omega) (fun y r e _ => by
    obtain ⟨m, fc, z0, z1, a0, a1⟩ := layout_recv (M := 0x1E) (F := 0x09) d q (by omega) (by omega) (by omega)
    simp only [decodeC, decodeChannel, m, fc, z0, z1, a0, a1, zero_zero])

theorem spawn (p : Fin 8) (a : Fin 32) : Statement (.spawn p a) :=
  wordC (v := 0x1F000000 + p.val * 0x80000 + a.val * 0x4000) (fun _ => rfl)
    (by omega) (fun y r e _ => by
    obtain ⟨m, fc, z0, z1, a0, a1⟩ := layout_spawn (M := 0x1F) (F := 0x00) p a (by omega) (by omega) (by omega)
    simp only [decodeC, decodeTask, m, fc, z0, z1, a0, a1, zero_zero])

theorem spawnat (p : Fin 8) (a b : Fin 32) : Statement (.spawnat p a b) :=
  wordC (v := 0x1F000001 + p.val * 0x80000 + a.val * 0x4000 + b.val * 0x200) (fun _ => rfl)
    (by omega) (fun y r e _ => by
    obtain ⟨m, fc, z0, z1, a0, a1, a2⟩ := layout_spawnat (M := 0x1F) (F := 0x01) p a b (by omega) (by omega) (by omega)
    simp only [decodeC, decodeTask, m, fc, z0, z1, a0, a1, a2, zero_zero])

theorem join (a : Fin 32) : Statement (.join a) :=
  wordC (v := 0x1F000002 + a.val * 0x4000) (fun _ => rfl)
    (by omega) (fun y r e _ => by
    obtain ⟨m, fc, z0, z1, a0⟩ := layout_join (M := 0x1F) (F := 0x02) a (by omega) (by omega) (by omega)
    simp only [decodeC, decodeTask, m, fc, z0, z1, a0, zero_zero])

theorem retire : Statement .retire :=
  wordLone (v := 0x1F000003) (fun _ => rfl)
    (by omega) (fun y r e _ => by
    obtain ⟨m, fc, z0⟩ := layout_retire (M := 0x1F) (F := 0x03) (by omega) (by omega) (by omega)
    simp only [decodeC, decodeTask, m, fc, z0, zero_zero])

theorem bar (a b : Fin 32) : Statement (.bar a b) :=
  wordC (v := 0x1F000004 + a.val * 0x4000 + b.val * 0x200) (fun _ => rfl)
    (by omega) (fun y r e _ => by
    obtain ⟨m, fc, z0, z1, a0, a1⟩ := layout_bar (M := 0x1F) (F := 0x04) a b (by omega) (by omega) (by omega)
    simp only [decodeC, decodeTask, m, fc, z0, z1, a0, a1, zero_zero])

theorem fmtsel (n : Fin 32) : Statement (.fmtsel n) :=
  wordC (v := 0x1F000005 + n.val * 0x10) (fun _ => rfl)
    (by omega) (fun y r e _ => by
    obtain ⟨m, fc, z0, a0⟩ := layout_fmtsel (M := 0x1F) (F := 0x05) n (by omega) (by omega) (by omega)
    simp only [decodeC, decodeTask, m, fc, z0, a0, zero_zero])

theorem taskinfo (d n : Fin 32) : Statement (.taskinfo d n) :=
  wordC (v := 0x1F000006 + d.val * 0x80000 + n.val * 0x10) (fun _ => rfl)
    (by omega) (fun y r e _ => by
    obtain ⟨m, fc, z0, a0, a1⟩ := layout_taskinfo (M := 0x1F) (F := 0x06) d n (by omega) (by omega) (by omega)
    simp only [decodeC, decodeTask, m, fc, z0, a0, a1, zero_zero])

theorem mwarm (a : Fin 32) : Statement (.mwarm a) :=
  wordC (v := 0x20000000 + a.val * 0x4000) (fun _ => rfl)
    (by omega) (fun y r e _ => by
    obtain ⟨m, fc, z0, z1, a0⟩ := layout_join (M := 0x20) (F := 0x00) a (by omega) (by omega) (by omega)
    simp only [decodeC, decodeWatch, m, fc, z0, z1, a0, zero_zero])

theorem mwait (d a : Fin 32) : Statement (.mwait d a) :=
  wordC (v := 0x20000001 + d.val * 0x80000 + a.val * 0x4000) (fun _ => rfl)
    (by omega) (fun y r e _ => by
    obtain ⟨m, fc, z0, a0, a1⟩ := layout_alt (M := 0x20) (F := 0x01) d a (by omega) (by omega) (by omega)
    simp only [decodeC, decodeWatch, m, fc, z0, a0, a1, zero_zero])

theorem mwdis (a : Fin 32) : Statement (.mwdis a) :=
  wordC (v := 0x20000002 + a.val * 0x4000) (fun _ => rfl)
    (by omega) (fun y r e _ => by
    obtain ⟨m, fc, z0, z1, a0⟩ := layout_join (M := 0x20) (F := 0x02) a (by omega) (by omega) (by omega)
    simp only [decodeC, decodeWatch, m, fc, z0, z1, a0, zero_zero])

theorem uisend (a b : Fin 32) : Statement (.uisend a b) :=
  wordC (v := 0x20000003 + a.val * 0x4000 + b.val * 0x200) (fun _ => rfl)
    (by omega) (fun y r e _ => by
    obtain ⟨m, fc, z0, z1, a0, a1⟩ := layout_bar (M := 0x20) (F := 0x03) a b (by omega) (by omega) (by omega)
    simp only [decodeC, decodeWatch, m, fc, z0, z1, a0, a1, zero_zero])

theorem uimask (d a : Fin 32) : Statement (.uimask d a) :=
  wordC (v := 0x20000004 + d.val * 0x80000 + a.val * 0x4000) (fun _ => rfl)
    (by omega) (fun y r e _ => by
    obtain ⟨m, fc, z0, a0, a1⟩ := layout_alt (M := 0x20) (F := 0x04) d a (by omega) (by omega) (by omega)
    simp only [decodeC, decodeWatch, m, fc, z0, a0, a1, zero_zero])

theorem jpoll (p : Fin 8) (a : Fin 32) : Statement (.jpoll p a) :=
  wordC (v := 0x20000005 + p.val * 0x80000 + a.val * 0x4000) (fun _ => rfl)
    (by omega) (fun y r e _ => by
    obtain ⟨m, fc, z0, z1, a0, a1⟩ := layout_spawn (M := 0x20) (F := 0x05) p a (by omega) (by omega) (by omega)
    simp only [decodeC, decodeWatch, m, fc, z0, z1, a0, a1, zero_zero])

theorem jwait (d a : Fin 32) : Statement (.jwait d a) :=
  wordC (v := 0x20000006 + d.val * 0x80000 + a.val * 0x4000) (fun _ => rfl)
    (by omega) (fun y r e _ => by
    obtain ⟨m, fc, z0, a0, a1⟩ := layout_alt (M := 0x20) (F := 0x06) d a (by omega) (by omega) (by omega)
    simp only [decodeC, decodeWatch, m, fc, z0, a0, a1, zero_zero])

theorem rdc (d : Fin 32) (n : BitVec 14) : Statement (.rdc d n) :=
  wordC (v := 0x21000000 + d.val * 0x80000 + n.toNat) (fun _ => rfl)
    (by omega) (fun y r e _ => by
    obtain ⟨m, z0, a0, a1⟩ := layout_li (M := 0x21) d n (by omega) (by omega)
    simp only [decodeC, m, z0, a0, a1, zero_zero])

theorem wrc (a : Fin 32) (n : BitVec 14) : Statement (.wrc a n) :=
  wordC (v := 0x22000000 + a.val * 0x4000 + n.toNat) (fun _ => rfl)
    (by omega) (fun y r e _ => by
    obtain ⟨m, z0, a0, a1⟩ := layout_wrc (M := 0x22) a n (by omega) (by omega)
    simp only [decodeC, m, z0, a0, a1, zero_zero])

theorem hsift (a b c : Fin 32) (k : Fin 16) : Statement (.hsift a b c k) :=
  wordC (v := 0x23000000 + a.val * 0x4000 + b.val * 0x200 + c.val * 0x10 + k.val) (fun _ => rfl)
    (by omega) (fun y r e _ => by
    obtain ⟨m, z0, a0, a1, a2, a3⟩ := layout_hsift (M := 0x23) a b c k (by omega) (by omega)
    simp only [decodeC, m, z0, a0, a1, a2, a3, zero_zero])

theorem mxma (d a : Fin 32) : Statement (.mxma d a) :=
  wordC (v := 0x24000000 + d.val * 0x80000 + a.val * 0x4000) (fun _ => rfl)
    (by omega) (fun y r e _ => by
    obtain ⟨m, fc, z0, a0, a1⟩ := layout_alt (M := 0x24) (F := 0x00) d a (by omega) (by omega) (by omega)
    simp only [decodeC, decodeMatrix, m, fc, z0, a0, a1, zero_zero])

theorem mxmab (a : Fin 32) : Statement (.mxmab a) :=
  wordC (v := 0x24000001 + a.val * 0x4000) (fun _ => rfl)
    (by omega) (fun y r e _ => by
    obtain ⟨m, fc, z0, z1, a0⟩ := layout_join (M := 0x24) (F := 0x01) a (by omega) (by omega) (by omega)
    simp only [decodeC, decodeMatrix, m, fc, z0, z1, a0, zero_zero])

theorem mxld (a n : Fin 32) : Statement (.mxld a n) :=
  wordC (v := 0x24000002 + a.val * 0x4000 + n.val * 0x10) (fun _ => rfl)
    (by omega) (fun y r e _ => by
    obtain ⟨m, fc, z0, z1, a0, a1⟩ := layout_mxld (M := 0x24) (F := 0x02) a n (by omega) (by omega) (by omega)
    simp only [decodeC, decodeMatrix, m, fc, z0, z1, a0, a1, zero_zero])

theorem mxst (a n : Fin 32) : Statement (.mxst a n) :=
  wordC (v := 0x24000003 + a.val * 0x4000 + n.val * 0x10) (fun _ => rfl)
    (by omega) (fun y r e _ => by
    obtain ⟨m, fc, z0, z1, a0, a1⟩ := layout_mxld (M := 0x24) (F := 0x03) a n (by omega) (by omega) (by omega)
    simp only [decodeC, decodeMatrix, m, fc, z0, z1, a0, a1, zero_zero])

theorem mxzero (n : Fin 32) : Statement (.mxzero n) :=
  wordC (v := 0x24000004 + n.val * 0x10) (fun _ => rfl)
    (by omega) (fun y r e _ => by
    obtain ⟨m, fc, z0, a0⟩ := layout_fmtsel (M := 0x24) (F := 0x04) n (by omega) (by omega) (by omega)
    simp only [decodeC, decodeMatrix, m, fc, z0, a0, zero_zero])

theorem mxq (d : Fin 32) : Statement (.mxq d) :=
  wordC (v := 0x24000005 + d.val * 0x80000) (fun _ => rfl)
    (by omega) (fun y r e _ => by
    obtain ⟨m, fc, z0, a0⟩ := layout_mxq (M := 0x24) (F := 0x05) d (by omega) (by omega) (by omega)
    simp only [decodeC, decodeMatrix, m, fc, z0, a0, zero_zero])

theorem ringset (a n : Fin 32) : Statement (.ringset a n) :=
  wordC (v := 0x25000000 + a.val * 0x4000 + n.val * 0x10) (fun _ => rfl)
    (by omega) (fun y r e _ => by
    obtain ⟨m, fc, z0, z1, a0, a1⟩ := layout_mxld (M := 0x25) (F := 0x00) a n (by omega) (by omega) (by omega)
    simp only [decodeC, decodeRing, m, fc, z0, z1, a0, a1, zero_zero])

theorem ringadv (a n : Fin 32) : Statement (.ringadv a n) :=
  wordC (v := 0x25000001 + a.val * 0x4000 + n.val * 0x10) (fun _ => rfl)
    (by omega) (fun y r e _ => by
    obtain ⟨m, fc, z0, z1, a0, a1⟩ := layout_mxld (M := 0x25) (F := 0x01) a n (by omega) (by omega) (by omega)
    simp only [decodeC, decodeRing, m, fc, z0, z1, a0, a1, zero_zero])

theorem ringq (d n : Fin 32) : Statement (.ringq d n) :=
  wordC (v := 0x25000002 + d.val * 0x80000 + n.val * 0x10) (fun _ => rfl)
    (by omega) (fun y r e _ => by
    obtain ⟨m, fc, z0, a0, a1⟩ := layout_taskinfo (M := 0x25) (F := 0x02) d n (by omega) (by omega) (by omega)
    simp only [decodeC, decodeRing, m, fc, z0, a0, a1, zero_zero])

theorem cpy (d a : Fin 32) : Statement (.cpy d a) :=
  wordC (v := 0x26000000 + d.val * 0x80000 + a.val * 0x4000) (fun _ => rfl)
    (by omega) (fun y r e _ => by
    obtain ⟨m, fc, z0, a0, a1⟩ := layout_alt (M := 0x26) (F := 0x00) d a (by omega) (by omega) (by omega)
    simp only [decodeC, decodeCopy, m, fc, z0, a0, a1, zero_zero])

theorem cpys (a : Fin 32) (q : Fin 8) : Statement (.cpys a q) :=
  wordC (v := 0x26000001 + a.val * 0x4000 + q.val * 0x10) (fun _ => rfl)
    (by omega) (fun y r e _ => by
    obtain ⟨m, fc, z0, z1, z2, a0, a1⟩ := layout_send (M := 0x26) (F := 0x01) a q (by omega) (by omega) (by omega)
    simp only [decodeC, decodeCopy, m, fc, z0, z1, z2, a0, a1, zero_zero])

theorem cpym (d a : Fin 32) : Statement (.cpym d a) :=
  wordC (v := 0x26000002 + d.val * 0x80000 + a.val * 0x4000) (fun _ => rfl)
    (by omega) (fun y r e _ => by
    obtain ⟨m, fc, z0, a0, a1⟩ := layout_alt (M := 0x26) (F := 0x02) d a (by omega) (by omega) (by omega)
    simp only [decodeC, decodeCopy, m, fc, z0, a0, a1, zero_zero])

theorem cpyq (d a : Fin 32) : Statement (.cpyq d a) :=
  wordC (v := 0x26000003 + d.val * 0x80000 + a.val * 0x4000) (fun _ => rfl)
    (by omega) (fun y r e _ => by
    obtain ⟨m, fc, z0, a0, a1⟩ := layout_alt (M := 0x26) (F := 0x03) d a (by omega) (by omega) (by omega)
    simp only [decodeC, decodeCopy, m, fc, z0, a0, a1, zero_zero])

theorem pfetch (d a b : Fin 32) : Statement (.pfetch d a b) :=
  wordC (v := 0x27000000 + d.val * 0x80000 + a.val * 0x4000 + b.val * 0x200) (fun _ => rfl)
    (by omega) (fun y r e _ => by
    obtain ⟨m, fc, z0, a0, a1, a2⟩ := layout_pfetch (M := 0x27) (F := 0x00) d a b (by omega) (by omega) (by omega)
    simp only [decodeC, decodePredict, m, fc, z0, a0, a1, a2, zero_zero])

theorem pconf (a b : Fin 32) : Statement (.pconf a b) :=
  wordC (v := 0x27000001 + a.val * 0x4000 + b.val * 0x200) (fun _ => rfl)
    (by omega) (fun y r e _ => by
    obtain ⟨m, fc, z0, z1, a0, a1⟩ := layout_bar (M := 0x27) (F := 0x01) a b (by omega) (by omega) (by omega)
    simp only [decodeC, decodePredict, m, fc, z0, z1, a0, a1, zero_zero])

theorem pcanc (a : Fin 32) : Statement (.pcanc a) :=
  wordC (v := 0x27000002 + a.val * 0x4000) (fun _ => rfl)
    (by omega) (fun y r e _ => by
    obtain ⟨m, fc, z0, z1, a0⟩ := layout_join (M := 0x27) (F := 0x02) a (by omega) (by omega) (by omega)
    simp only [decodeC, decodePredict, m, fc, z0, z1, a0, zero_zero])

theorem pfset (a b : Fin 32) : Statement (.pfset a b) :=
  wordC (v := 0x27000003 + a.val * 0x4000 + b.val * 0x200) (fun _ => rfl)
    (by omega) (fun y r e _ => by
    obtain ⟨m, fc, z0, z1, a0, a1⟩ := layout_bar (M := 0x27) (F := 0x03) a b (by omega) (by omega) (by omega)
    simp only [decodeC, decodePredict, m, fc, z0, z1, a0, a1, zero_zero])

theorem pfget (d a : Fin 32) : Statement (.pfget d a) :=
  wordC (v := 0x27000004 + d.val * 0x80000 + a.val * 0x4000) (fun _ => rfl)
    (by omega) (fun y r e _ => by
    obtain ⟨m, fc, z0, a0, a1⟩ := layout_alt (M := 0x27) (F := 0x04) d a (by omega) (by omega) (by omega)
    simp only [decodeC, decodePredict, m, fc, z0, a0, a1, zero_zero])

theorem pfstat (d a : Fin 32) : Statement (.pfstat d a) :=
  wordC (v := 0x27000005 + d.val * 0x80000 + a.val * 0x4000) (fun _ => rfl)
    (by omega) (fun y r e _ => by
    obtain ⟨m, fc, z0, a0, a1⟩ := layout_alt (M := 0x27) (F := 0x05) d a (by omega) (by omega) (by omega)
    simp only [decodeC, decodePredict, m, fc, z0, a0, a1, zero_zero])

theorem aejob (d a : Fin 32) : Statement (.aejob d a) :=
  wordC (v := 0x28000000 + d.val * 0x80000 + a.val * 0x4000) (fun _ => rfl)
    (by omega) (fun y r e _ => by
    obtain ⟨m, fc, z0, a0, a1⟩ := layout_alt (M := 0x28) (F := 0x00) d a (by omega) (by omega) (by omega)
    simp only [decodeC, decodeDrover, m, fc, z0, a0, a1, zero_zero])

theorem aeres (d a : Fin 32) : Statement (.aeres d a) :=
  wordC (v := 0x28000001 + d.val * 0x80000 + a.val * 0x4000) (fun _ => rfl)
    (by omega) (fun y r e _ => by
    obtain ⟨m, fc, z0, a0, a1⟩ := layout_alt (M := 0x28) (F := 0x01) d a (by omega) (by omega) (by omega)
    simp only [decodeC, decodeDrover, m, fc, z0, a0, a1, zero_zero])

theorem aeabort (a : Fin 32) : Statement (.aeabort a) :=
  wordC (v := 0x28000002 + a.val * 0x4000) (fun _ => rfl)
    (by omega) (fun y r e _ => by
    obtain ⟨m, fc, z0, z1, a0⟩ := layout_join (M := 0x28) (F := 0x02) a (by omega) (by omega) (by omega)
    simp only [decodeC, decodeDrover, m, fc, z0, z1, a0, zero_zero])

theorem escreq (d a : Fin 32) : Statement (.escreq d a) :=
  wordC (v := 0x29000000 + d.val * 0x80000 + a.val * 0x4000) (fun _ => rfl)
    (by omega) (fun y r e _ => by
    obtain ⟨m, fc, z0, a0, a1⟩ := layout_alt (M := 0x29) (F := 0x00) d a (by omega) (by omega) (by omega)
    simp only [decodeC, decodeSlice, m, fc, z0, a0, a1, zero_zero])

theorem escpin (a : Fin 32) : Statement (.escpin a) :=
  wordC (v := 0x29000001 + a.val * 0x4000) (fun _ => rfl)
    (by omega) (fun y r e _ => by
    obtain ⟨m, fc, z0, z1, a0⟩ := layout_join (M := 0x29) (F := 0x01) a (by omega) (by omega) (by omega)
    simp only [decodeC, decodeSlice, m, fc, z0, z1, a0, zero_zero])

theorem escunpin (a : Fin 32) : Statement (.escunpin a) :=
  wordC (v := 0x29000002 + a.val * 0x4000) (fun _ => rfl)
    (by omega) (fun y r e _ => by
    obtain ⟨m, fc, z0, z1, a0⟩ := layout_join (M := 0x29) (F := 0x02) a (by omega) (by omega) (by omega)
    simp only [decodeC, decodeSlice, m, fc, z0, z1, a0, zero_zero])

theorem eschist (a b n : Fin 32) : Statement (.eschist a b n) :=
  wordC (v := 0x29000003 + a.val * 0x4000 + b.val * 0x200 + n.val * 0x10) (fun _ => rfl)
    (by omega) (fun y r e _ => by
    obtain ⟨m, fc, z0, a0, a1, a2⟩ := layout_eschist (M := 0x29) (F := 0x03) a b n (by omega) (by omega) (by omega)
    simp only [decodeC, decodeSlice, m, fc, z0, a0, a1, a2, zero_zero])

theorem escq (d a : Fin 32) : Statement (.escq d a) :=
  wordC (v := 0x29000004 + d.val * 0x80000 + a.val * 0x4000) (fun _ => rfl)
    (by omega) (fun y r e _ => by
    obtain ⟨m, fc, z0, a0, a1⟩ := layout_alt (M := 0x29) (F := 0x04) d a (by omega) (by omega) (by omega)
    simp only [decodeC, decodeSlice, m, fc, z0, a0, a1, zero_zero])

theorem kvxl (d a b : Fin 32) : Statement (.kvxl d a b) :=
  wordC (v := 0x2A000000 + d.val * 0x80000 + a.val * 0x4000 + b.val * 0x200) (fun _ => rfl)
    (by omega) (fun y r e _ => by
    obtain ⟨m, fc, z0, a0, a1, a2⟩ := layout_pfetch (M := 0x2A) (F := 0x00) d a b (by omega) (by omega) (by omega)
    simp only [decodeC, decodeKv, m, fc, z0, a0, a1, a2, zero_zero])

theorem kvins (d a b : Fin 32) : Statement (.kvins d a b) :=
  wordC (v := 0x2A000001 + d.val * 0x80000 + a.val * 0x4000 + b.val * 0x200) (fun _ => rfl)
    (by omega) (fun y r e _ => by
    obtain ⟨m, fc, z0, a0, a1, a2⟩ := layout_pfetch (M := 0x2A) (F := 0x01) d a b (by omega) (by omega) (by omega)
    simp only [decodeC, decodeKv, m, fc, z0, a0, a1, a2, zero_zero])

theorem kvdel (d a b : Fin 32) : Statement (.kvdel d a b) :=
  wordC (v := 0x2A000002 + d.val * 0x80000 + a.val * 0x4000 + b.val * 0x200) (fun _ => rfl)
    (by omega) (fun y r e _ => by
    obtain ⟨m, fc, z0, a0, a1, a2⟩ := layout_pfetch (M := 0x2A) (F := 0x02) d a b (by omega) (by omega) (by omega)
    simp only [decodeC, decodeKv, m, fc, z0, a0, a1, a2, zero_zero])

theorem kvexp (d a b : Fin 32) : Statement (.kvexp d a b) :=
  wordC (v := 0x2A000003 + d.val * 0x80000 + a.val * 0x4000 + b.val * 0x200) (fun _ => rfl)
    (by omega) (fun y r e _ => by
    obtain ⟨m, fc, z0, a0, a1, a2⟩ := layout_pfetch (M := 0x2A) (F := 0x03) d a b (by omega) (by omega) (by omega)
    simp only [decodeC, decodeKv, m, fc, z0, a0, a1, a2, zero_zero])

theorem kvimp (d a : Fin 32) : Statement (.kvimp d a) :=
  wordC (v := 0x2A000004 + d.val * 0x80000 + a.val * 0x4000) (fun _ => rfl)
    (by omega) (fun y r e _ => by
    obtain ⟨m, fc, z0, a0, a1⟩ := layout_alt (M := 0x2A) (F := 0x04) d a (by omega) (by omega) (by omega)
    simp only [decodeC, decodeKv, m, fc, z0, a0, a1, zero_zero])

theorem pcommit (d a : Fin 32) : Statement (.pcommit d a) :=
  wordC (v := 0x2B000000 + d.val * 0x80000 + a.val * 0x4000) (fun _ => rfl)
    (by omega) (fun y r e _ => by
    obtain ⟨m, fc, z0, a0, a1⟩ := layout_alt (M := 0x2B) (F := 0x00) d a (by omega) (by omega) (by omega)
    simp only [decodeC, decodeTile, m, fc, z0, a0, a1, zero_zero])

theorem pdecommit (d a : Fin 32) : Statement (.pdecommit d a) :=
  wordC (v := 0x2B000001 + d.val * 0x80000 + a.val * 0x4000) (fun _ => rfl)
    (by omega) (fun y r e _ => by
    obtain ⟨m, fc, z0, a0, a1⟩ := layout_alt (M := 0x2B) (F := 0x01) d a (by omega) (by omega) (by omega)
    simp only [decodeC, decodeTile, m, fc, z0, a0, a1, zero_zero])

theorem pprobe (d a : Fin 32) : Statement (.pprobe d a) :=
  wordC (v := 0x2B000002 + d.val * 0x80000 + a.val * 0x4000) (fun _ => rfl)
    (by omega) (fun y r e _ => by
    obtain ⟨m, fc, z0, a0, a1⟩ := layout_alt (M := 0x2B) (F := 0x02) d a (by omega) (by omega) (by omega)
    simp only [decodeC, decodeTile, m, fc, z0, a0, a1, zero_zero])

theorem swapctx (a : Fin 32) : Statement (.swapctx a) :=
  wordLone (v := 0x30000000 + a.val * 0x4000) (fun _ => rfl)
    (by omega) (fun y r e _ => by
    obtain ⟨m, fc, z0, z1, a0⟩ := layout_join (M := 0x30) (F := 0x00) a (by omega) (by omega) (by omega)
    simp only [decodeC, decodePrivileged, m, fc, z0, z1, a0, zero_zero])

theorem slothand (a : Fin 32) : Statement (.slothand a) :=
  wordLone (v := 0x30000001 + a.val * 0x4000) (fun _ => rfl)
    (by omega) (fun y r e _ => by
    obtain ⟨m, fc, z0, z1, a0⟩ := layout_join (M := 0x30) (F := 0x01) a (by omega) (by omega) (by omega)
    simp only [decodeC, decodePrivileged, m, fc, z0, z1, a0, zero_zero])

theorem divset (a b : Fin 32) : Statement (.divset a b) :=
  wordC (v := 0x30000002 + a.val * 0x4000 + b.val * 0x200) (fun _ => rfl)
    (by omega) (fun y r e _ => by
    obtain ⟨m, fc, z0, z1, a0, a1⟩ := layout_bar (M := 0x30) (F := 0x02) a b (by omega) (by omega) (by omega)
    simp only [decodeC, decodePrivileged, m, fc, z0, z1, a0, a1, zero_zero])

theorem divclr (a : Fin 32) : Statement (.divclr a) :=
  wordC (v := 0x30000003 + a.val * 0x4000) (fun _ => rfl)
    (by omega) (fun y r e _ => by
    obtain ⟨m, fc, z0, z1, a0⟩ := layout_join (M := 0x30) (F := 0x03) a (by omega) (by omega) (by omega)
    simp only [decodeC, decodePrivileged, m, fc, z0, z1, a0, zero_zero])

theorem tlbinv (a b : Fin 32) : Statement (.tlbinv a b) :=
  wordC (v := 0x30000004 + a.val * 0x4000 + b.val * 0x200) (fun _ => rfl)
    (by omega) (fun y r e _ => by
    obtain ⟨m, fc, z0, z1, a0, a1⟩ := layout_bar (M := 0x30) (F := 0x04) a b (by omega) (by omega) (by omega)
    simp only [decodeC, decodePrivileged, m, fc, z0, z1, a0, a1, zero_zero])

theorem tlbinvc (a : Fin 32) : Statement (.tlbinvc a) :=
  wordC (v := 0x30000005 + a.val * 0x4000) (fun _ => rfl)
    (by omega) (fun y r e _ => by
    obtain ⟨m, fc, z0, z1, a0⟩ := layout_join (M := 0x30) (F := 0x05) a (by omega) (by omega) (by omega)
    simp only [decodeC, decodePrivileged, m, fc, z0, z1, a0, zero_zero])

theorem pfclr : Statement .pfclr :=
  wordC (v := 0x30000006) (fun _ => rfl)
    (by omega) (fun y r e _ => by
    obtain ⟨m, fc, z0⟩ := layout_retire (M := 0x30) (F := 0x06) (by omega) (by omega) (by omega)
    simp only [decodeC, decodePrivileged, m, fc, z0, zero_zero])

theorem taskDispatch (core slot : Nat) : Statement (.taskDispatch core slot) := step (fun _ => rfl)

theorem ifetchFill (core slot : Nat) : Statement (.ifetchFill core slot) := step (fun _ => rfl)

theorem loadDataReturn (core slot : Nat) : Statement (.loadDataReturn core slot) := step (fun _ => rfl)

theorem storeBufferDrain (core slot : Nat) : Statement (.storeBufferDrain core slot) := step (fun _ => rfl)

theorem homeRequestArrival (rid : Nat) : Statement (.homeRequestArrival rid) := step (fun _ => rfl)

theorem atomicPerform (core slot : Nat) : Statement (.atomicPerform core slot) := step (fun _ => rfl)

theorem longOpComplete (core slot : Nat) : Statement (.longOpComplete core slot) := step (fun _ => rfl)

theorem blockOpComplete (core slot : Nat) : Statement (.blockOpComplete core slot) := step (fun _ => rfl)

theorem fenceComplete (core slot : Nat) : Statement (.fenceComplete core slot) := step (fun _ => rfl)

theorem ifenceComplete (core slot : Nat) : Statement (.ifenceComplete core slot) := step (fun _ => rfl)

theorem yieldExpiry (core slot : Nat) : Statement (.yieldExpiry core slot) := step (fun _ => rfl)

theorem userInterruptEntry (core slot : Nat) : Statement (.userInterruptEntry core slot) := step (fun _ => rfl)

theorem copyCompletionEntry (core slot : Nat) : Statement (.copyCompletionEntry core slot) := step (fun _ => rfl)

theorem channelWordArrival (mid : Nat) : Statement (.channelWordArrival mid) := step (fun _ => rfl)

theorem grantArrival (mid : Nat) : Statement (.grantArrival mid) := step (fun _ => rfl)

theorem chunbindAck (core slot : Nat) : Statement (.chunbindAck core slot) := step (fun _ => rfl)

theorem spawnComplete (core slot : Nat) : Statement (.spawnComplete core slot) := step (fun _ => rfl)

theorem spawnatPacketArrival (rid : Nat) : Statement (.spawnatPacketArrival rid) := step (fun _ => rfl)

theorem spawnatAck (core slot : Nat) : Statement (.spawnatAck core slot) := step (fun _ => rfl)

theorem joinWake (core slot : Nat) : Statement (.joinWake core slot) := step (fun _ => rfl)

theorem retireFrameUpdate (core slot : Nat) : Statement (.retireFrameUpdate core slot) := step (fun _ => rfl)

theorem retireSlotFree (core slot : Nat) : Statement (.retireSlotFree core slot) := step (fun _ => rfl)

theorem barWake (core slot : Nat) : Statement (.barWake core slot) := step (fun _ => rfl)

theorem mwaitWake (core slot : Nat) : Statement (.mwaitWake core slot) := step (fun _ => rfl)

theorem mwaitTimeout (core slot : Nat) : Statement (.mwaitTimeout core slot) := step (fun _ => rfl)

theorem stallReport (core slot : Nat) : Statement (.stallReport core slot) := step (fun _ => rfl)

theorem uisendArrival (mid : Nat) : Statement (.uisendArrival mid) := step (fun _ => rfl)

theorem trapEntry (core slot : Nat) : Statement (.trapEntry core slot) := step (fun _ => rfl)

theorem switchRequestTaken (core slot : Nat) : Statement (.switchRequestTaken core slot) := step (fun _ => rfl)

theorem contextExchange (core slot : Nat) : Statement (.contextExchange core slot) := step (fun _ => rfl)

theorem engineFaultDelivery (core slot : Nat) : Statement (.engineFaultDelivery core slot) := step (fun _ => rfl)

theorem matrixJobStart (flock : Nat) : Statement (.matrixJobStart flock) := step (fun _ => rfl)

theorem matrixPanelFetch (flock : Nat) : Statement (.matrixPanelFetch flock) := step (fun _ => rfl)

theorem matrixStep (flock : Nat) (mismatch rerunMismatch : Bool) : Statement (.matrixStep flock mismatch rerunMismatch) := step (fun _ => rfl)

theorem matrixJobComplete (flock : Nat) : Statement (.matrixJobComplete flock) := step (fun _ => rfl)

theorem accumTransferComplete (flock : Nat) : Statement (.accumTransferComplete flock) := step (fun _ => rfl)

theorem mxzeroJob (flock : Nat) : Statement (.mxzeroJob flock) := step (fun _ => rfl)

theorem copyStart (core ctx n : Nat) : Statement (.copyStart core ctx n) := step (fun _ => rfl)

theorem copyTurn (flock : Nat) : Statement (.copyTurn flock) := step (fun _ => rfl)

theorem copyComplete (core ctx n : Nat) : Statement (.copyComplete core ctx n) := step (fun _ => rfl)

theorem droverJobStart (band : Nat) : Statement (.droverJobStart band) := step (fun _ => rfl)

theorem droverRound (band : Nat) : Statement (.droverRound band) := step (fun _ => rfl)

theorem droverJobEnd (band : Nat) : Statement (.droverJobEnd band) := step (fun _ => rfl)

theorem sliceFillComplete (ctx tag : Nat) : Statement (.sliceFillComplete ctx tag) := step (fun _ => rfl)

theorem sliceEvictionComplete (ctx tag : Nat) : Statement (.sliceEvictionComplete ctx tag) := step (fun _ => rfl)

theorem kvTranslatorOp (core slot : Nat) : Statement (.kvTranslatorOp core slot) := step (fun _ => rfl)

theorem kvExportJob (core ctx n : Nat) : Statement (.kvExportJob core ctx n) := step (fun _ => rfl)

theorem kvImportJob (core ctx n : Nat) : Statement (.kvImportJob core ctx n) := step (fun _ => rfl)

theorem speculativeFetchLine (core buf : Nat) : Statement (.speculativeFetchLine core buf) := step (fun _ => rfl)

theorem parisonDataLand (core buf : Nat) : Statement (.parisonDataLand core buf) := step (fun _ => rfl)

theorem pageWalkComplete (core slot : Nat) : Statement (.pageWalkComplete core slot) := step (fun _ => rfl)

theorem tlbinvComplete (core slot : Nat) : Statement (.tlbinvComplete core slot) := step (fun _ => rfl)

theorem pcommitComplete (core slot : Nat) : Statement (.pcommitComplete core slot) := step (fun _ => rfl)

theorem pdecommitInvalidationDone (ctx page : Nat) : Statement (.pdecommitInvalidationDone ctx page) := step (fun _ => rfl)

theorem tokenBucketRefill (flock : Nat) : Statement (.tokenBucketRefill flock) := step (fun _ => rfl)

theorem slicePortGrant (flock slice : Nat) : Statement (.slicePortGrant flock slice) := step (fun _ => rfl)

theorem portSaveStep (core entry : Nat) : Statement (.portSaveStep core entry) := step (fun _ => rfl)

theorem saveStep (core entry : Nat) : Statement (.saveStep core entry) := step (fun _ => rfl)

theorem restoreReadIssue (core entry : Nat) : Statement (.restoreReadIssue core entry) := step (fun _ => rfl)

theorem restoreLineWrite (core entry bank : Nat) : Statement (.restoreLineWrite core entry bank) := step (fun _ => rfl)

theorem portRestoreStep (core entry : Nat) : Statement (.portRestoreStep core entry) := step (fun _ => rfl)

theorem lehrAccess (core : Nat) : Statement (.lehrAccess core) := step (fun _ => rfl)

theorem lehrChannelWrite (mid : Nat) : Statement (.lehrChannelWrite mid) := step (fun _ => rfl)

theorem quantumEnd (core part : Nat) : Statement (.quantumEnd core part) := step (fun _ => rfl)

theorem powerGood : Statement .powerGood := step (fun _ => rfl)

theorem safeStageEntry (flashOk sigOk : Bool) : Statement (.safeStageEntry flashOk sigOk) := step (fun _ => rfl)

theorem inventoryStageEntry (fresh : List Nat) (working : Nat) (recordSigOk : Bool) : Statement (.inventoryStageEntry fresh working recordSigOk) := step (fun _ => rfl)

theorem kernelStageEntry (found0 sig0 found1 sig1 : Bool) : Statement (.kernelStageEntry found0 sig0 found1 sig1) := step (fun _ => rfl)

theorem dieEntersService (die : Nat) (repairable : Bool) : Statement (.dieEntersService die repairable) := step (fun _ => rfl)

theorem scrubRead (unit : Nat) (corrected lost : Bool) : Statement (.scrubRead unit corrected lost) := step (fun _ => rfl)

theorem doorbell (fn value : Nat) : Statement (.doorbell fn value) := step (fun _ => rfl)

theorem hostPostedWrite (addr size value : Nat) : Statement (.hostPostedWrite addr size value) := step (fun _ => rfl)

theorem linkFlitReceive (link : Nat) (crcOk : Bool) (corrected uncorrected : Nat) : Statement (.linkFlitReceive link crcOk corrected uncorrected) := step (fun _ => rfl)

theorem linkRetrain (link : Nat) : Statement (.linkRetrain link) := step (fun _ => rfl)

theorem peerLost (peer : Nat) : Statement (.peerLost peer) := step (fun _ => rfl)

theorem thermalTrip : Statement .thermalTrip := step (fun _ => rfl)

theorem thermalResume : Statement .thermalResume := step (fun _ => rfl)

theorem junctionThrottle (flock clock : Nat) : Statement (.junctionThrottle flock clock) := step (fun _ => rfl)

theorem clockChange (flock clock : Nat) : Statement (.clockChange flock clock) := step (fun _ => rfl)

theorem pwrcap (value : Nat) : Statement (.pwrcap value) := step (fun _ => rfl)

theorem sesskey (word value : Nat) : Statement (.sesskey word value) := step (fun _ => rfl)

theorem escways (hearth value : Nat) : Statement (.escways hearth value) := step (fun _ => rfl)

theorem linkRetrainCmd (link : Nat) : Statement (.linkRetrainCmd link) := step (fun _ => rfl)

theorem linkEnable (link : Nat) (enable : Bool) : Statement (.linkEnable link enable) := step (fun _ => rfl)

theorem deviceRegisterWrite (offset value : Nat) : Statement (.deviceRegisterWrite offset value) := step (fun _ => rfl)

theorem hearthCmdIdle (hearth : Nat) : Statement (.hearthCmdIdle hearth) := step (fun _ => rfl)

theorem hearthScrubLine (hearth : Nat) : Statement (.hearthScrubLine hearth) := step (fun _ => rfl)

theorem hearthScrubWord (hearth : Nat) : Statement (.hearthScrubWord hearth) := step (fun _ => rfl)

theorem hearthSliceQuota (hearth : Nat) : Statement (.hearthSliceQuota hearth) := step (fun _ => rfl)

theorem hearthCmdReserved (hearth : Nat) : Statement (.hearthCmdReserved hearth) := step (fun _ => rfl)

theorem coreCmdIdle (core : Nat) : Statement (.coreCmdIdle core) := step (fun _ => rfl)

theorem coreCmdResume (core : Nat) : Statement (.coreCmdResume core) := step (fun _ => rfl)

theorem coreCmdRetireAsFailed (core : Nat) : Statement (.coreCmdRetireAsFailed core) := step (fun _ => rfl)

theorem coreCmdMakeResident (core : Nat) : Statement (.coreCmdMakeResident core) := step (fun _ => rfl)

theorem coreCmdRemove (core : Nat) : Statement (.coreCmdRemove core) := step (fun _ => rfl)

theorem coreCmdWriteMasks (core : Nat) : Statement (.coreCmdWriteMasks core) := step (fun _ => rfl)

theorem coreCmdDivert (core : Nat) : Statement (.coreCmdDivert core) := step (fun _ => rfl)

theorem coreCmdClearEntry (core : Nat) : Statement (.coreCmdClearEntry core) := step (fun _ => rfl)

theorem coreCmdInstallEntry (core : Nat) : Statement (.coreCmdInstallEntry core) := step (fun _ => rfl)

theorem coreCmdHandOver (core : Nat) : Statement (.coreCmdHandOver core) := step (fun _ => rfl)

theorem coreCmdSwitchRequest (core : Nat) : Statement (.coreCmdSwitchRequest core) := step (fun _ => rfl)

theorem coreCmdWriteRegister (core : Nat) : Statement (.coreCmdWriteRegister core) := step (fun _ => rfl)

theorem coreCmdReadRegister (core : Nat) : Statement (.coreCmdReadRegister core) := step (fun _ => rfl)

theorem coreCmdSpillDeque (core : Nat) : Statement (.coreCmdSpillDeque core) := step (fun _ => rfl)

theorem coreCmdReleaseJob (core : Nat) : Statement (.coreCmdReleaseJob core) := step (fun _ => rfl)

theorem coreCmdReserved (core : Nat) : Statement (.coreCmdReserved core) := step (fun _ => rfl)

theorem linkTrainingDone (link : Nat) (up : Bool) (peer peerLink : Nat) : Statement (.linkTrainingDone link up peer peerLink) := step (fun _ => rfl)

theorem powerLoss : Statement .powerLoss := step (fun _ => rfl)

end Sys2Proof.Laws.WordOrStep
end

