-- ==== Sys2Proof/Laws/Slot.lean ====
section
/-! SUPPORT. A slot's registers: what is read after a write (R12, R115, R140, R292), and that a write of a register changes nothing
else of the slot. -/

namespace Sys2Proof.Machine

variable (sl : Slot)

/-! ## Writes of registers change registers alone -/

@[simp] theorem gWrite_occupied (r : Fin 32) (v : Word) : (gWrite sl r v).occupied = sl.occupied := by
  unfold gWrite; split; rfl; split <;> rfl
@[simp] theorem gWrite_ctx (r : Fin 32) (v : Word) : (gWrite sl r v).ctx = sl.ctx := by
  unfold gWrite; split; rfl; split <;> rfl
@[simp] theorem gWrite_mode (r : Fin 32) (v : Word) : (gWrite sl r v).mode = sl.mode := by
  unfold gWrite; split; rfl; split <;> rfl
@[simp] theorem gWrite_ctl (r : Fin 32) (v : Word) : (gWrite sl r v).ctl = sl.ctl := by
  unfold gWrite; split; rfl; split <;> rfl
@[simp] theorem gWrite_trap (r : Fin 32) (v : Word) : (gWrite sl r v).trap = sl.trap := by
  unfold gWrite; split; rfl; split <;> rfl
@[simp] theorem gWrite_task (r : Fin 32) (v : Word) : (gWrite sl r v).task = sl.task := by
  unfold gWrite; split; rfl; split <;> rfl
@[simp] theorem gWrite_handler (r : Fin 32) (v : Word) : (gWrite sl r v).handler = sl.handler := by
  unfold gWrite; split; rfl; split <;> rfl
@[simp] theorem gWrite_q (r : Fin 32) (v : Word) : (gWrite sl r v).q = sl.q := by
  unfold gWrite; split; rfl; split <;> rfl
@[simp] theorem gWrite_pair (r : Fin 32) (v : Word) : (gWrite sl r v).pair = sl.pair := by
  unfold gWrite; split; rfl; split <;> rfl
@[simp] theorem gWrite_altLast (r : Fin 32) (v : Word) : (gWrite sl r v).altLast = sl.altLast := by
  unfold gWrite; split; rfl; split <;> rfl
@[simp] theorem gWrite_sb (r : Fin 32) (v : Word) : (gWrite sl r v).sb = sl.sb := by
  unfold gWrite; split; rfl; split <;> rfl
@[simp] theorem gWrite_sbIn (r : Fin 32) (v : Word) : (gWrite sl r v).sbIn = sl.sbIn := by
  unfold gWrite; split; rfl; split <;> rfl
@[simp] theorem gWrite_sbOut (r : Fin 32) (v : Word) : (gWrite sl r v).sbOut = sl.sbOut := by
  unfold gWrite; split; rfl; split <;> rfl
@[simp] theorem gWrite_issue (r : Fin 32) (v : Word) : (gWrite sl r v).issue = sl.issue := by
  unfold gWrite; split; rfl; split <;> rfl
@[simp] theorem gWrite_stv (r : Fin 32) (v : Word) : (gWrite sl r v).stv = sl.stv := by
  unfold gWrite; split; rfl; split <;> rfl
@[simp] theorem gWrite_passed (r : Fin 32) (v : Word) : (gWrite sl r v).passed = sl.passed := by
  unfold gWrite; split; rfl; split <;> rfl
@[simp] theorem gWrite_wait (r : Fin 32) (v : Word) : (gWrite sl r v).wait = sl.wait := by
  unfold gWrite; split; rfl; split <;> rfl
@[simp] theorem gWrite_await (r : Fin 32) (v : Word) : (gWrite sl r v).await = sl.await := by
  unfold gWrite; split; rfl; split <;> rfl
@[simp] theorem gWrite_susp (r : Fin 32) (v : Word) : (gWrite sl r v).susp = sl.susp := by
  unfold gWrite; split; rfl; split <;> rfl
@[simp] theorem gWrite_last (r : Fin 32) (v : Word) : (gWrite sl r v).last = sl.last := by
  unfold gWrite; split; rfl; split <;> rfl
@[simp] theorem gWrite_stall (r : Fin 32) (v : Word) : (gWrite sl r v).stall = sl.stall := by
  unfold gWrite; split; rfl; split <;> rfl
@[simp] theorem gWrite_ccq (r : Fin 32) (v : Word) : (gWrite sl r v).ccq = sl.ccq := by
  unfold gWrite; split; rfl; split <;> rfl
@[simp] theorem gWrite_switchReq (r : Fin 32) (v : Word) : (gWrite sl r v).switchReq = sl.switchReq := by
  unfold gWrite; split; rfl; split <;> rfl
@[simp] theorem gWrite_engineFaults (r : Fin 32) (v : Word) : (gWrite sl r v).engineFaults = sl.engineFaults := by
  unfold gWrite; split; rfl; split <;> rfl
@[simp] theorem gWrite_asyncEvents (r : Fin 32) (v : Word) : (gWrite sl r v).asyncEvents = sl.asyncEvents := by
  unfold gWrite; split; rfl; split <;> rfl
@[simp] theorem gWrite_replayValue (r : Fin 32) (v : Word) : (gWrite sl r v).replayValue = sl.replayValue := by
  unfold gWrite; split; rfl; split <;> rfl
@[simp] theorem gWrite_replayFor (r : Fin 32) (v : Word) : (gWrite sl r v).replayFor = sl.replayFor := by
  unfold gWrite; split; rfl; split <;> rfl
@[simp] theorem gWrite_replaceCause (r : Fin 32) (v : Word) : (gWrite sl r v).replaceCause = sl.replaceCause := by
  unfold gWrite; split; rfl; split <;> rfl
@[simp] theorem gWrite_pfbuf (r : Fin 32) (v : Word) : (gWrite sl r v).pfbuf = sl.pfbuf := by
  unfold gWrite; split; rfl; split <;> rfl
@[simp] theorem gWrite_dispatchFault (r : Fin 32) (v : Word) : (gWrite sl r v).dispatchFault = sl.dispatchFault := by
  unfold gWrite; split; rfl; split <;> rfl
@[simp] theorem gWrite_fmtPending (r : Fin 32) (v : Word) : (gWrite sl r v).fmtPending = sl.fmtPending := by
  unfold gWrite; split; rfl; split <;> rfl

@[simp] theorem pWrite_occupied (r : Fin 8) (v : Bool) : (pWrite sl r v).occupied = sl.occupied := by
  unfold pWrite; split <;> rfl
@[simp] theorem pWrite_ctx (r : Fin 8) (v : Bool) : (pWrite sl r v).ctx = sl.ctx := by
  unfold pWrite; split <;> rfl
@[simp] theorem pWrite_mode (r : Fin 8) (v : Bool) : (pWrite sl r v).mode = sl.mode := by
  unfold pWrite; split <;> rfl
@[simp] theorem pWrite_ctl (r : Fin 8) (v : Bool) : (pWrite sl r v).ctl = sl.ctl := by
  unfold pWrite; split <;> rfl
@[simp] theorem pWrite_trap (r : Fin 8) (v : Bool) : (pWrite sl r v).trap = sl.trap := by
  unfold pWrite; split <;> rfl
@[simp] theorem pWrite_task (r : Fin 8) (v : Bool) : (pWrite sl r v).task = sl.task := by
  unfold pWrite; split <;> rfl
@[simp] theorem pWrite_handler (r : Fin 8) (v : Bool) : (pWrite sl r v).handler = sl.handler := by
  unfold pWrite; split <;> rfl
@[simp] theorem pWrite_q (r : Fin 8) (v : Bool) : (pWrite sl r v).q = sl.q := by
  unfold pWrite; split <;> rfl
@[simp] theorem pWrite_pair (r : Fin 8) (v : Bool) : (pWrite sl r v).pair = sl.pair := by
  unfold pWrite; split <;> rfl
@[simp] theorem pWrite_altLast (r : Fin 8) (v : Bool) : (pWrite sl r v).altLast = sl.altLast := by
  unfold pWrite; split <;> rfl
@[simp] theorem pWrite_sb (r : Fin 8) (v : Bool) : (pWrite sl r v).sb = sl.sb := by
  unfold pWrite; split <;> rfl
@[simp] theorem pWrite_sbIn (r : Fin 8) (v : Bool) : (pWrite sl r v).sbIn = sl.sbIn := by
  unfold pWrite; split <;> rfl
@[simp] theorem pWrite_sbOut (r : Fin 8) (v : Bool) : (pWrite sl r v).sbOut = sl.sbOut := by
  unfold pWrite; split <;> rfl
@[simp] theorem pWrite_issue (r : Fin 8) (v : Bool) : (pWrite sl r v).issue = sl.issue := by
  unfold pWrite; split <;> rfl
@[simp] theorem pWrite_stv (r : Fin 8) (v : Bool) : (pWrite sl r v).stv = sl.stv := by
  unfold pWrite; split <;> rfl
@[simp] theorem pWrite_passed (r : Fin 8) (v : Bool) : (pWrite sl r v).passed = sl.passed := by
  unfold pWrite; split <;> rfl
@[simp] theorem pWrite_wait (r : Fin 8) (v : Bool) : (pWrite sl r v).wait = sl.wait := by
  unfold pWrite; split <;> rfl
@[simp] theorem pWrite_await (r : Fin 8) (v : Bool) : (pWrite sl r v).await = sl.await := by
  unfold pWrite; split <;> rfl
@[simp] theorem pWrite_susp (r : Fin 8) (v : Bool) : (pWrite sl r v).susp = sl.susp := by
  unfold pWrite; split <;> rfl
@[simp] theorem pWrite_last (r : Fin 8) (v : Bool) : (pWrite sl r v).last = sl.last := by
  unfold pWrite; split <;> rfl
@[simp] theorem pWrite_stall (r : Fin 8) (v : Bool) : (pWrite sl r v).stall = sl.stall := by
  unfold pWrite; split <;> rfl
@[simp] theorem pWrite_ccq (r : Fin 8) (v : Bool) : (pWrite sl r v).ccq = sl.ccq := by
  unfold pWrite; split <;> rfl
@[simp] theorem pWrite_switchReq (r : Fin 8) (v : Bool) : (pWrite sl r v).switchReq = sl.switchReq := by
  unfold pWrite; split <;> rfl
@[simp] theorem pWrite_engineFaults (r : Fin 8) (v : Bool) : (pWrite sl r v).engineFaults = sl.engineFaults := by
  unfold pWrite; split <;> rfl
@[simp] theorem pWrite_asyncEvents (r : Fin 8) (v : Bool) : (pWrite sl r v).asyncEvents = sl.asyncEvents := by
  unfold pWrite; split <;> rfl
@[simp] theorem pWrite_replayValue (r : Fin 8) (v : Bool) : (pWrite sl r v).replayValue = sl.replayValue := by
  unfold pWrite; split <;> rfl
@[simp] theorem pWrite_replayFor (r : Fin 8) (v : Bool) : (pWrite sl r v).replayFor = sl.replayFor := by
  unfold pWrite; split <;> rfl
@[simp] theorem pWrite_replaceCause (r : Fin 8) (v : Bool) : (pWrite sl r v).replaceCause = sl.replaceCause := by
  unfold pWrite; split <;> rfl
@[simp] theorem pWrite_pfbuf (r : Fin 8) (v : Bool) : (pWrite sl r v).pfbuf = sl.pfbuf := by
  unfold pWrite; split <;> rfl
@[simp] theorem pWrite_dispatchFault (r : Fin 8) (v : Bool) : (pWrite sl r v).dispatchFault = sl.dispatchFault := by
  unfold pWrite; split <;> rfl
@[simp] theorem pWrite_fmtPending (r : Fin 8) (v : Bool) : (pWrite sl r v).fmtPending = sl.fmtPending := by
  unfold pWrite; split <;> rfl

@[simp] theorem bWrite_occupied (r : Fin 64) (v : Quad) : (bWrite sl r v).occupied = sl.occupied := rfl
@[simp] theorem bWrite_ctx (r : Fin 64) (v : Quad) : (bWrite sl r v).ctx = sl.ctx := rfl
@[simp] theorem bWrite_mode (r : Fin 64) (v : Quad) : (bWrite sl r v).mode = sl.mode := rfl
@[simp] theorem bWrite_ctl (r : Fin 64) (v : Quad) : (bWrite sl r v).ctl = sl.ctl := rfl
@[simp] theorem bWrite_trap (r : Fin 64) (v : Quad) : (bWrite sl r v).trap = sl.trap := rfl
@[simp] theorem bWrite_task (r : Fin 64) (v : Quad) : (bWrite sl r v).task = sl.task := rfl
@[simp] theorem bWrite_handler (r : Fin 64) (v : Quad) : (bWrite sl r v).handler = sl.handler := rfl
@[simp] theorem bWrite_q (r : Fin 64) (v : Quad) : (bWrite sl r v).q = sl.q := rfl
@[simp] theorem bWrite_pair (r : Fin 64) (v : Quad) : (bWrite sl r v).pair = sl.pair := rfl
@[simp] theorem bWrite_altLast (r : Fin 64) (v : Quad) : (bWrite sl r v).altLast = sl.altLast := rfl
@[simp] theorem bWrite_sb (r : Fin 64) (v : Quad) : (bWrite sl r v).sb = sl.sb := rfl
@[simp] theorem bWrite_sbIn (r : Fin 64) (v : Quad) : (bWrite sl r v).sbIn = sl.sbIn := rfl
@[simp] theorem bWrite_sbOut (r : Fin 64) (v : Quad) : (bWrite sl r v).sbOut = sl.sbOut := rfl
@[simp] theorem bWrite_issue (r : Fin 64) (v : Quad) : (bWrite sl r v).issue = sl.issue := rfl
@[simp] theorem bWrite_stv (r : Fin 64) (v : Quad) : (bWrite sl r v).stv = sl.stv := rfl
@[simp] theorem bWrite_passed (r : Fin 64) (v : Quad) : (bWrite sl r v).passed = sl.passed := rfl
@[simp] theorem bWrite_wait (r : Fin 64) (v : Quad) : (bWrite sl r v).wait = sl.wait := rfl
@[simp] theorem bWrite_await (r : Fin 64) (v : Quad) : (bWrite sl r v).await = sl.await := rfl
@[simp] theorem bWrite_susp (r : Fin 64) (v : Quad) : (bWrite sl r v).susp = sl.susp := rfl
@[simp] theorem bWrite_last (r : Fin 64) (v : Quad) : (bWrite sl r v).last = sl.last := rfl
@[simp] theorem bWrite_stall (r : Fin 64) (v : Quad) : (bWrite sl r v).stall = sl.stall := rfl
@[simp] theorem bWrite_ccq (r : Fin 64) (v : Quad) : (bWrite sl r v).ccq = sl.ccq := rfl
@[simp] theorem bWrite_switchReq (r : Fin 64) (v : Quad) : (bWrite sl r v).switchReq = sl.switchReq := rfl
@[simp] theorem bWrite_engineFaults (r : Fin 64) (v : Quad) : (bWrite sl r v).engineFaults = sl.engineFaults := rfl
@[simp] theorem bWrite_asyncEvents (r : Fin 64) (v : Quad) : (bWrite sl r v).asyncEvents = sl.asyncEvents := rfl
@[simp] theorem bWrite_replayValue (r : Fin 64) (v : Quad) : (bWrite sl r v).replayValue = sl.replayValue := rfl
@[simp] theorem bWrite_replayFor (r : Fin 64) (v : Quad) : (bWrite sl r v).replayFor = sl.replayFor := rfl
@[simp] theorem bWrite_replaceCause (r : Fin 64) (v : Quad) : (bWrite sl r v).replaceCause = sl.replaceCause := rfl
@[simp] theorem bWrite_pfbuf (r : Fin 64) (v : Quad) : (bWrite sl r v).pfbuf = sl.pfbuf := rfl
@[simp] theorem bWrite_dispatchFault (r : Fin 64) (v : Quad) : (bWrite sl r v).dispatchFault = sl.dispatchFault := rfl
@[simp] theorem bWrite_fmtPending (r : Fin 64) (v : Quad) : (bWrite sl r v).fmtPending = sl.fmtPending := rfl

/-! ## The other registers of a write -/

@[simp] theorem gWrite_p (r : Fin 32) (v : Word) : (gWrite sl r v).regs.p = sl.regs.p := by
  unfold gWrite; split; rfl; split <;> rfl
@[simp] theorem gWrite_b (r : Fin 32) (v : Word) : (gWrite sl r v).regs.b = sl.regs.b := by
  unfold gWrite; split; rfl; split <;> rfl
@[simp] theorem gWrite_pc (r : Fin 32) (v : Word) : (gWrite sl r v).regs.pc = sl.regs.pc := by
  unfold gWrite; split; rfl; split <;> rfl
@[simp] theorem pWrite_g (r : Fin 8) (v : Bool) : (pWrite sl r v).regs.g = sl.regs.g := by unfold pWrite; split <;> rfl
@[simp] theorem pWrite_sh (r : Fin 8) (v : Bool) : (pWrite sl r v).regs.sh = sl.regs.sh := by unfold pWrite; split <;> rfl
@[simp] theorem pWrite_b (r : Fin 8) (v : Bool) : (pWrite sl r v).regs.b = sl.regs.b := by unfold pWrite; split <;> rfl
@[simp] theorem pWrite_pc (r : Fin 8) (v : Bool) : (pWrite sl r v).regs.pc = sl.regs.pc := by unfold pWrite; split <;> rfl
@[simp] theorem bWrite_g (r : Fin 64) (v : Quad) : (bWrite sl r v).regs.g = sl.regs.g := rfl
@[simp] theorem bWrite_sh (r : Fin 64) (v : Quad) : (bWrite sl r v).regs.sh = sl.regs.sh := rfl
@[simp] theorem bWrite_p (r : Fin 64) (v : Quad) : (bWrite sl r v).regs.p = sl.regs.p := rfl
@[simp] theorem bWrite_pc (r : Fin 64) (v : Quad) : (bWrite sl r v).regs.pc = sl.regs.pc := rfl

/-! ## Reading after writing -/

/-- An entry of a vector. -/
theorem get_at {α : Type} {n : Nat} (v : Vector α n) (i : Fin n) : v.get i = v[i.val] := rfl

/-- g0 reads zero. -/
@[simp] theorem gRead_zero : gRead sl 0 = 0 := by simp [gRead]

/-- A write to g0 is discarded. -/
@[simp] theorem gWrite_zero (v : Word) : gWrite sl 0 v = sl := by simp [gWrite]

/-- p0 reads true. -/
@[simp] theorem pRead_zero : pRead sl 0 = true := by simp [pRead]

/-- A write to p0 is discarded. -/
@[simp] theorem pWrite_zero (v : Bool) : pWrite sl 0 v = sl := by simp [pWrite]

/-- A general register read after it is written. -/
theorem gRead_gWrite_same {r : Fin 32} (v : Word) (h : r.val ≠ 0) : gRead (gWrite sl r v) r = v := by
  unfold gRead
  simp only [h, if_false, gWrite_mode]
  unfold gWrite
  simp only [h, if_false]
  split
  · rename_i hs
    simp [List.getD_eq_getElem?_getD]
  · simp [get_at]

/-- A general register read after another is written. -/
theorem gRead_gWrite_other {r q : Fin 32} (v : Word) (h : q ≠ r) : gRead (gWrite sl r v) q = gRead sl q := by
  have hv : q.val ≠ r.val := fun e => h (Fin.ext e)
  by_cases hr : r.val = 0
  · simp [gWrite, hr]
  by_cases hq : q.val = 0
  · simp [gRead, hq]
  cases hm : sl.mode with
  | user => simp [gRead, gWrite, hm, hr, hq, get_at, Vector.getElem_set_ne _ _ (Ne.symm hv)]
  | supervisor =>
    by_cases h1 : 28 ≤ r.val
    · by_cases h2 : 28 ≤ q.val
      · have : r.val - 28 ≠ q.val - 28 := by omega
        simp [gRead, gWrite, hm, hr, hq, h1, h2, List.getD_eq_getElem?_getD, this]
      · simp [gRead, gWrite, hm, hr, hq, h1, h2]
    · by_cases h2 : 28 ≤ q.val
      · simp [gRead, gWrite, hm, hr, hq, h1, h2]
      · simp [gRead, gWrite, hm, hr, hq, h1, h2, get_at, Vector.getElem_set_ne _ _ (Ne.symm hv)]

/-- A predicate read after it is written. -/
theorem pRead_pWrite_same {r : Fin 8} (v : Bool) (h : r.val ≠ 0) : pRead (pWrite sl r v) r = v := by
  simp [pRead, pWrite, h, get_at]

/-- A predicate read after another is written. -/
theorem pRead_pWrite_other {r q : Fin 8} (v : Bool) (h : q ≠ r) : pRead (pWrite sl r v) q = pRead sl q := by
  have hv : r.val ≠ q.val := fun e => h (Fin.ext e.symm)
  by_cases hr : r.val = 0
  · simp [pWrite, hr]
  by_cases hq : q.val = 0
  · simp [pRead, hq]
  simp [pRead, pWrite, hr, hq, get_at, Vector.getElem_set_ne _ _ hv]

/-- A block register read after it is written. -/
@[simp] theorem bRead_bWrite_same (r : Fin 64) (v : Quad) : bRead (bWrite sl r v) r = v := by
  simp [bRead, bWrite, get_at]

/-- A block register read after another is written. -/
theorem bRead_bWrite_other {r q : Fin 64} (v : Quad) (h : q ≠ r) : bRead (bWrite sl r v) q = bRead sl q := by
  have hv : r.val ≠ q.val := fun e => h (Fin.ext e.symm)
  simp [bRead, bWrite, get_at, Vector.getElem_set_ne _ _ hv]

@[simp] theorem gRead_pWrite (r : Fin 8) (v : Bool) (q : Fin 32) : gRead (pWrite sl r v) q = gRead sl q := by
  simp [gRead]
@[simp] theorem gRead_bWrite (r : Fin 64) (v : Quad) (q : Fin 32) : gRead (bWrite sl r v) q = gRead sl q := by
  simp [gRead]
@[simp] theorem pRead_gWrite (r : Fin 32) (v : Word) (q : Fin 8) : pRead (gWrite sl r v) q = pRead sl q := by
  simp [pRead]
@[simp] theorem pRead_bWrite (r : Fin 64) (v : Quad) (q : Fin 8) : pRead (bWrite sl r v) q = pRead sl q := by
  simp [pRead]
@[simp] theorem bRead_gWrite (r : Fin 32) (v : Word) (q : Fin 64) : bRead (gWrite sl r v) q = bRead sl q := by
  simp [bRead]
@[simp] theorem bRead_pWrite (r : Fin 8) (v : Bool) (q : Fin 64) : bRead (pWrite sl r v) q = bRead sl q := by
  simp [bRead]

end Sys2Proof.Machine
end

