-- ==== Sys2Proof/Laws/Words.lean ====
section
/-! SUPPORT. A bundle from its issue to its end: what a word's meaning comes to when it acts, waits, faults, or is guarded off, in
the terms of Safety.lean. One lemma per shared operation; a claim about a word cites these and does not unfold them. -/

namespace Sys2Proof.Machine

variable {s : State} {core slot : Nat} {iss : Issue} {o : Option AOut}

/-! ## Effects -/

/-- An effect that writes nothing changes nothing. -/
@[simp] theorem orFlags_none (x : Word) : orFlags x 0#5 = x := by simp [orFlags]

/-- No flag and no seed: the control registers stay. -/
theorem ctl_kept (sl : Slot) : { sl with ctl := { sl.ctl with
    fctl := orFlags sl.ctl.fctl 0, rseed := (none : Option Word).getD sl.ctl.rseed } } = sl := by
  simp [orFlags]

@[simp] theorem applyEffect_nothing (sl : Slot) : applyEffect sl AEffect.nothing = sl := ctl_kept sl

@[simp] theorem applyEffect_ofG (sl : Slot) (d : Fin 32) (v : Word) : applyEffect sl (.ofG d v) = gWrite sl d v :=
  ctl_kept _

@[simp] theorem applyEffect_ofP (sl : Slot) (d : Fin 8) (v : Bool) : applyEffect sl (.ofP d v) = pWrite sl d v :=
  ctl_kept _

@[simp] theorem applyEffect_ofB (sl : Slot) (bs : List (Fin 64 × Quad)) :
    applyEffect sl (.ofB bs) = bs.foldl (fun s x => bWrite s x.1 x.2) sl := ctl_kept _

@[simp] theorem keepSeed_false (e : AEffect) : e.keepSeed false = e := rfl

/-! ## The companion -/

/-- What an A word does depends on the registers, the control registers and the mode of its slot, and on nothing else of it. -/
theorem aEffect_congr (core : Nat) (sl sl' : Slot) (i : Instr) (hr : sl.regs = sl'.regs) (hc : sl.ctl = sl'.ctl)
    (hm : sl.mode = sl'.mode) : aEffect core sl i = aEffect core sl' i := by
  cases sl; cases sl'; simp only at hr hc hm; subst hr hc hm
  cases i <;> rfl

theorem companion_congr (core : Nat) (sl sl' : Slot) (iss : Issue) (hr : sl.regs = sl'.regs) (hc : sl.ctl = sl'.ctl)
    (hm : sl.mode = sl'.mode) : companion core sl iss = companion core sl' iss := by
  simp only [companion, aEffect_congr core sl sl' _ hr hc hm]

theorem Issues.out (h : Issues s core slot iss o) : companionOut core (slotAt s core slot) = o := by
  simp [companionOut, h.bundle, h.partner]

theorem Issues.noFault (h : Issues s core slot iss o) : companionFault core (slotAt s core slot) = none := by
  simp [companionFault, h.bundle, h.partner]

/-! ## The end of a bundle -/

/-- The states at the end of a step. -/
@[simp] theorem stepEnd_eq (s : State) (f : Micro) : stepEnd s f = { after f s with issuing := none } := rfl

/-- The meaning of a word in a slot that issues a bundle. -/
theorem onIssue_stepEnd (h : Issuing s core slot iss) (f : Nat → Nat → Micro) : onIssue s f = .next (stepEnd s (f core slot)) := by
  simp only [onIssue, h.issuing, h.bundle, Option.isSome_some, if_true, commit_eq, after_andThen, after_const, applyAll_cons,
    applyAll_nil, stepEnd_eq]
  rfl

/-- A bundle ended with a given A word. -/
theorem finishWith_ended (h : Issuing s core slot iss) (o : Option AOut) (f : Slot → Slot) (n : Option Word) :
    stepEnd s (finishWith core slot o f n false) =
      ended s core slot o (f (slotAt s core slot)) (n.getD iss.after) := by
  rcases o with _ | ⟨e, _ | _ | occ⟩ <;>
    simp [finishWith, h.bundle, h.idle, ended, withUnit, Issue.after, startUnit]

/-- A bundle ended by a C word. -/
theorem finishBundle_ended (h : Issues s core slot iss o) (f : Slot → Slot) (n : Option Word) :
    stepEnd s (finishBundle core slot f n) = ended s core slot o (f (slotAt s core slot)) (n.getD iss.after) := by
  simpa [finishBundle, finishOwn, unlessA, endBundle, h.out, h.noFault] using finishWith_ended h.toIssuing o f n

/-- A bundle ended by a C word that changes nothing more. -/
theorem finishPlain_ended (h : Issues s core slot iss o) :
    stepEnd s (finishPlain core slot) = ended s core slot o (slotAt s core slot) iss.after := by
  simpa [finishPlain] using finishBundle_ended h id none

/-- The companion of a bundle that waits. -/
theorem Waits.out (h : Waits s core slot iss o) : companionOut core (slotAt s core slot) = o := by
  simp [companionOut, h.bundle, h.partner]

/-- Its A word raises no fault. -/
theorem Waits.noFault (h : Waits s core slot iss o) : companionFault core (slotAt s core slot) = none := by
  simp [companionFault, h.bundle, h.partner]

/-- A bundle that has waited, ended by its C word. -/
theorem finishBundle_closed (h : Waits s core slot iss o) (f : Slot → Slot) (n : Option Word) :
    after (finishBundle core slot f n) s = closed s core slot o (f (slotAt s core slot)) (n.getD iss.after) := by
  have hi := h.between
  unfold closed
  split
  · rename_i hw
    rcases o with _ | ⟨e, _ | _ | occ⟩ <;>
      (simp [finishBundle, finishOwn, unlessA, endBundle, h.noFault, h.out, finishWith, h.bundle, hw, ended, withUnit, Issue.after,
        startUnit]; simp [applyUpd, hi])
  · rename_i e hA
    simp [finishBundle, finishOwn, unlessA, endBundle, h.noFault, finishWith, h.bundle, hA, Issue.after, applyUpd]
  · rename_i w hw hk
    rcases hA : (slotAt s core slot).await with _ | e | ⟨e, r⟩ | e
    · exact absurd hA hw
    rotate_left 2
    · exact absurd hA (hk e)
    all_goals
      simp [finishBundle, finishOwn, unlessA, endBundle, h.noFault, finishWith, h.bundle, hA, Issue.after, applyUpd]

/-- A bundle that has waited, ended by a C word that changes nothing more. -/
theorem finishPlain_closed (h : Waits s core slot iss o) :
    after (finishPlain core slot) s = closed s core slot o (slotAt s core slot) iss.after :=
  finishBundle_closed h id none

/-! ## Waits -/

/-- A wait that ends with the bundle. -/
theorem waitFor_waiting (h : Issues s core slot iss o) (w : Wait) :
    stepEnd s (waitFor core slot w 0) = waiting s core slot o (slotAt s core slot) w := by
  rcases o with _ | ⟨e, _ | _ | occ⟩ <;>
    simp [waitFor, beginA, h.idle, h.out, waiting, withUnit, startUnit, stallOf]

/-- A wait after which the bundle issues again. -/
theorem waitAgain_retrying (s : State) (core slot : Nat) (c : Cond) (code : Nat) :
    stepEnd s (waitAgain core slot (.cond c) code) = retrying s core slot c (stallOf s core (slotAt s core slot) code) := by
  simp [waitAgain, retrying, Wait.begun, applyUpd]

/-! ## The ways a C word goes on -/

/-- A bundle whose A word raises no fault has a legal second word, or one that was ignored. -/
theorem Issues.goodA (h : Issues s core slot iss o) : (slotAt s core slot).badA = false := by
  have hp := h.partner
  unfold companion at hp
  simp only [Slot.badA, h.bundle, Option.map_some, Option.getD_some, Bool.and_eq_false_iff]
  split at hp
  · rename_i e he; right; simp [he]
  · split at hp
    · cases hp
    · left; simp_all

theorem runC_act (h : Issues s core slot iss o) {k : State → CRes} {f : Micro} (hk : k s = .act f) :
    after (runC core slot k) s = after f s := by simp [runC, runLegal, unlessA, hk, h.goodA, h.noFault]

theorem runC_again (h : (slotAt s core slot).badA = false) {k : State → CRes} {w : Wait} {n : Nat} (hk : k s = .again w n) :
    after (runC core slot k) s = after (waitAgain core slot w n) s := by simp [runC, runLegal, hk, h]

theorem runC_fault (h : (slotAt s core slot).badA = false) {k : State → CRes} {t : Trouble} (hk : k s = .fault t) :
    after (runC core slot k) s = after (raiseC core slot t) s := by simp [runC, runLegal, hk, h]

theorem runC_turn (h : (slotAt s core slot).badA = false) {k : State → CRes} {f : Micro} (hk : k s = .turn f) :
    after (runC core slot k) s = after f s := by simp [runC, runLegal, hk, h]

theorem runC_access (h : (slotAt s core slot).badA = false) {k : State → CRes} {f : Micro} (hk : k s = .access f) :
    after (runC core slot k) s = after f s := by simp [runC, runLegal, hk, h]

/-- A C word that acts. -/
theorem cWord_act (h : Issues s core slot iss o) {k : Nat → Nat → State → CRes} {f : Micro} (hk : k core slot s = .act f) :
    cWord s k = .next (stepEnd s f) := by
  simp [cWord, onIssue_stepEnd h.toIssuing, runC_act h hk]

/-- A C word that is to be issued again. -/
theorem cWord_again (h : Issuing s core slot iss) (hb : (slotAt s core slot).badA = false) {k : Nat → Nat → State → CRes} {c : Cond} {n : Nat}
    (hk : k core slot s = .again (.cond c) n) :
    cWord s k = .next (retrying s core slot c (stallOf s core (slotAt s core slot) n)) := by
  rw [cWord, onIssue_stepEnd h, ← waitAgain_retrying]
  simp [runC_again hb hk]

/-- A C word that faults. -/
theorem cWord_fault (h : Issues s core slot iss o) {k : Nat → Nat → State → CRes} {t : Trouble}
    (hk : k core slot s = .fault t) : cWord s k = .next (stepEnd s (raiseC core slot t)) := by
  simp [cWord, onIssue_stepEnd h.toIssuing, runC_fault h.goodA hk]

/-- A C word whose access is to be performed. -/
theorem cWord_access (h : Issuing s core slot iss) (hb : (slotAt s core slot).badA = false) {k : Nat → Nat → State → CRes}
    {f : Micro} (hk : k core slot s = .access f) : cWord s k = .next (stepEnd s f) := by
  simp [cWord, onIssue_stepEnd h, runC_access hb hk]

/-- A C word in whose place something else happens. -/
theorem cWord_turn (h : Issues s core slot iss o) {k : Nat → Nat → State → CRes} {f : Micro}
    (hk : k core slot s = .turn f) : cWord s k = .next (stepEnd s f) := by
  simp [cWord, onIssue_stepEnd h.toIssuing, runC_turn h.goodA hk]

/-- A guard that is off: only the A word acts. -/
theorem cGuarded_off {gp : Fin 8} (h : guardHolds (slotAt s core slot) gp = false) (r : CRes) :
    cGuarded gp core slot s r = .act (finishPlain core slot) := by simp [cGuarded, h]

/-- A guard that is on. -/
theorem cGuarded_on {gp : Fin 8} (h : guardHolds (slotAt s core slot) gp = true) (r : CRes) :
    cGuarded gp core slot s r = r := by simp [cGuarded, h]

/-! ## Lone A words -/

/-- A lone A word that raises no fault. -/
theorem loneA_ok (h : Issuing s core slot iss) {r : Nat → Slot → ARes} {a : AOut}
    (hr : r core (slotAt s core slot) = .ok a) :
    loneA s r = .next (ended s core slot (some a) (slotAt s core slot) iss.after) := by
  rw [loneA, onIssue_stepEnd h]
  have := finishWith_ended h (some a) id none
  simp only [id_eq, Option.getD_none, stepEnd_eq] at this
  simp only [stepEnd_eq, after_ask, hr, this]

/-- A lone A word that faults. -/
theorem loneA_fault (h : Issuing s core slot iss) {r : Nat → Slot → ARes} {c : Nat}
    (hr : r core (slotAt s core slot) = .error c) :
    loneA s r = .next (stepEnd s (raiseA core slot c (finishPlain core slot))) := by
  rw [loneA, onIssue_stepEnd h]
  simp [hr]

/-! ## What a lone A word comes to when it is done at once -/

theorem gWrite_doneAt (v : Slot) (n : Word) (d : Fin 32) (x : Word) : gWrite (v.doneAt n) d x = (gWrite v d x).doneAt n := by
  unfold gWrite
  by_cases h : d.val = 0
  · simp [h]
  · simp only [h, if_false]
    split <;> split <;> simp_all [Slot.doneAt]

theorem pWrite_doneAt (v : Slot) (n : Word) (d : Fin 8) (x : Bool) : pWrite (v.doneAt n) d x = (pWrite v d x).doneAt n := by
  unfold pWrite
  split <;> simp [Slot.doneAt]

/-- A lone word that writes a general register under a guard. -/
theorem loneA_guarded_g (h : Issuing s core slot iss) {r : Nat → Slot → ARes} {gp : Fin 8} {d : Fin 32} {v : Word}
    (hr : r core (slotAt s core slot) = guarded gp (slotAt s core slot) (aNow (.ofG d v))) :
    loneA s r = .next (ended s core slot none
      (if pRead (slotAt s core slot) gp then gWrite (slotAt s core slot) d v else slotAt s core slot) iss.after) := by
  unfold guarded aNow guardHolds at hr
  split at hr
  · rename_i hg
    rw [loneA_ok h hr]
    simp [ended, withUnit, hg, gWrite_doneAt]
  · rename_i hg
    rw [loneA_ok h hr]
    simp [ended, withUnit, hg]

/-- A lone word that writes a predicate under a guard. -/
theorem loneA_guarded_p (h : Issuing s core slot iss) {r : Nat → Slot → ARes} {gp : Fin 8} {d : Fin 8} {v : Bool}
    (hr : r core (slotAt s core slot) = guarded gp (slotAt s core slot) (aNow (.ofP d v))) :
    loneA s r = .next (ended s core slot none
      (if pRead (slotAt s core slot) gp then pWrite (slotAt s core slot) d v else slotAt s core slot) iss.after) := by
  unfold guarded aNow guardHolds at hr
  split at hr
  · rename_i hg
    rw [loneA_ok h hr]
    simp [ended, withUnit, hg, pWrite_doneAt]
  · rename_i hg
    rw [loneA_ok h hr]
    simp [ended, withUnit, hg]

/-- A lone word that writes a general register. -/
theorem loneA_g (h : Issuing s core slot iss) {r : Nat → Slot → ARes} {d : Fin 32} {v : Word}
    (hr : r core (slotAt s core slot) = aNow (.ofG d v)) :
    loneA s r = .next (ended s core slot none (gWrite (slotAt s core slot) d v) iss.after) := by
  rw [loneA_ok h hr]
  simp [ended, withUnit, gWrite_doneAt]

/-- A lone word that writes a predicate. -/
theorem loneA_p (h : Issuing s core slot iss) {r : Nat → Slot → ARes} {d : Fin 8} {v : Bool}
    (hr : r core (slotAt s core slot) = aNow (.ofP d v)) :
    loneA s r = .next (ended s core slot none (pWrite (slotAt s core slot) d v) iss.after) := by
  rw [loneA_ok h hr]
  simp [ended, withUnit, pWrite_doneAt]

/-! ## Every word goes on in a slot that issues -/

/-- A C word stops only where no slot issues a bundle. -/
theorem cWord_goes (h : s.issuing = some (core, slot)) (hi : (slotAt s core slot).issue.isSome = true)
    (k : Nat → Nat → State → CRes) : Goes (cWord s k) := by
  simp [cWord, onIssue, h, hi, commit_eq, Goes]

/-- A lone A word stops only where no slot issues a bundle. -/
theorem loneA_goes (h : s.issuing = some (core, slot)) (hi : (slotAt s core slot).issue.isSome = true)
    (r : Nat → Slot → ARes) : Goes (loneA s r) := by
  simp [loneA, onIssue, h, hi, commit_eq, Goes]

/-- Whatever a word does, memory stays canonical. -/
theorem onIssue_canonical (h : s.Canonical) (f : Nat → Nat → Micro) {t : State} (ht : onIssue s f = .next t) :
    t.Canonical := by
  unfold onIssue at ht
  split at ht
  · split at ht
    · exact commit_canonical h _ ht
    · cases ht
  · cases ht

end Sys2Proof.Machine
end

