-- ==== Sys2Proof/Laws/Watches.lean ====
section
/-! SUPPORT. Watches: what a write does to them (R206), and that it changes nothing else. -/

namespace Sys2Proof.Machine

theorem watchTouched_idem (key n : Nat) (w : Watch) : watchTouched key n (watchTouched key n w) = watchTouched key n w := by
  have hE : ∀ e, watchEvent (w.note e) key n = watchEvent w key n := fun e => by
    unfold Watch.note; split <;> rfl
  have hN : ∀ e, (w.note e).note e = w.note e := fun e => by
    by_cases hs : w.stolen = true
    · simp [Watch.note, hs]
    · rcases hv : w.event with _ | f <;> simp [Watch.note, hs, hv]
  rcases h : watchEvent w key n with _ | e
  · simp [watchTouched, h]
  · simp [watchTouched, h, hE, hN]

/-- The rows of a list of cores whose watches see a write. -/
theorem touch_list (key n : Nat) (l : List (Nat × Core)) (s : State) :
    let t := after (forAll l (fun x => modCore x.1 (fun c => { c with watches := c.watches.map (watchTouched key n) }))) s
    (∀ c, coreAt t c = if c ∈ l.map Prod.fst
      then { coreAt s c with watches := (coreAt s c).watches.map (watchTouched key n) } else coreAt s c) ∧
    { t with cores := s.cores } = s := by
  induction l generalizing s with
  | nil => simp
  | cons x l ih =>
    simp only [after_forAll_cons, after_modCore]
    have := ih (applyUpd s (.core x.1 { coreAt s x.1 with watches := (coreAt s x.1).watches.map (watchTouched key n) }))
    refine ⟨fun c => ?_, ?_⟩
    · rw [this.1 c]
      by_cases hx : c = x.1
      · subst hx
        by_cases hl : x.1 ∈ l.map Prod.fst
        · simp [hl, Function.comp_def, watchTouched_idem]
        · simp [hl]
      · rw [coreAt_core_other s _ hx]
        by_cases hl : c ∈ l.map Prod.fst
        · rw [if_pos hl, if_pos (by simpa using Or.inr hl)]
        · rw [if_neg hl, if_neg (by simp only [List.map_cons, List.mem_cons, not_or]; exact ⟨hx, hl⟩)]
    · have h2 := this.2
      simp only [applyUpd] at h2 ⊢
      rw [State.mk.injEq] at h2 ⊢
      simpa using h2

theorem lookup_not_mem {α : Type} (d : α) (t : List (Nat × α)) (k : Nat) (h : k ∉ t.map Prod.fst) : lookup d t k = d := by
  induction t with
  | nil => rfl
  | cons x t ih => simp only [List.map_cons, List.mem_cons, not_or] at h; simp [lookup, h.1, ih h.2]

theorem lookup_mem {α : Type} (d : α) (t : List (Nat × α)) (k : Nat) (h : lookup d t k ≠ d) : (k, lookup d t k) ∈ t := by
  induction t with
  | nil => simp [lookup] at h
  | cons x t ih =>
    obtain ⟨j, v⟩ := x
    by_cases hk : k = j
    · simp [lookup, hk]
    · simp only [lookup, hk, if_false] at h ⊢; exact List.mem_cons_of_mem _ (ih h)

/-- What a write does to the watches of the cores. -/
theorem touchWatches_spec (here : Nat → Bool) (key n : Nat) (s : State) :
    let t := after (touchWatches here key n) s
    (∀ c, coreAt t c = if here c
      then { coreAt s c with watches := (coreAt s c).watches.map (watchTouched key n) } else coreAt s c) ∧
    { t with cores := s.cores } = s := by
  have := touch_list key n (s.cores.filter (fun x => here x.1 && !x.2.watches.isEmpty)) s
  refine ⟨fun c => ?_, this.2⟩
  have h1 := this.1 c
  simp only [touchWatches, after_ask]
  rw [h1]
  by_cases hh : here c = true
  · simp only [hh, if_true]
    split
    · rfl
    · rename_i hn
      rcases hw : (coreAt s c).watches with _ | ⟨w, ws⟩
      · rw [List.map_nil, ← hw]
      · exfalso
        apply hn
        have hm : (c, coreAt s c) ∈ s.cores := by
          apply lookup_mem
          intro h
          have : (coreAt s c).watches = [] := by rw [coreAt, h]; rfl
          rw [hw] at this; cases this
        simp only [List.mem_map, List.mem_filter]
        exact ⟨_, ⟨hm, by simp [hh, hw]⟩, rfl⟩
  · have : c ∉ (s.cores.filter (fun x => here x.1 && !x.2.watches.isEmpty)).map Prod.fst := by
      simp only [List.mem_map, List.mem_filter, not_exists, not_and]
      rintro x ⟨_, hx⟩ rfl
      simp [hh] at hx
    rw [if_neg this, if_neg hh]
end Sys2Proof.Machine
end

