-- ==== Sys2Proof/Laws/Traffic.lean ====
section
/-! SUPPORT. Memory traffic: what asking for a way out changes, loads and atomics that wait, and bytes stored. -/

namespace Sys2Proof.Machine

variable {s : State} {core slot : Nat} {iss : Issue} {o : Option AOut}

/-! ## What only the flocks hold -/

theorem ButForFlocks.refl (t : State) : ButForFlocks t t := rfl

theorem ButForFlocks.trans {t u v : State} (h : ButForFlocks t u) (g : ButForFlocks u v) : ButForFlocks t v := by
  cases t; cases u; cases v; simp [ButForFlocks] at *; simp_all

theorem ButForFlocks.issuing {t u : State} (h : ButForFlocks t u) (i : Option (Nat × Nat)) :
    ButForFlocks { t with issuing := i } { u with issuing := i } := by
  cases t; cases u; simp [ButForFlocks] at *; simp_all

/-- A state that agrees but for the flocks, spelled out. -/
theorem ButForFlocks.eq {t u : State} (h : ButForFlocks t u) : t = { u with flocks := t.flocks } := by
  cases t; cases u; simp [ButForFlocks] at h ⊢; simp_all

theorem forAll_butForFlocks {α : Type} (l : List α) (f : α → Micro) (h : ∀ x s, ButForFlocks (after (f x) s) s)
    (s : State) : ButForFlocks (after (forAll l f) s) s := by
  induction l generalizing s with
  | nil => exact .refl _
  | cons x l ih => rw [after_forAll_cons]; exact (ih _).trans (h x s)

/-- Asking for a way out changes only what the flock holds. -/
theorem askPort_butForFlocks (core k ctx : Nat) (t : Target) (s : State) :
    ButForFlocks (after (askPort core k ctx t) s) s := by
  simp only [askPort, after_ask]
  split
  · rw [after_onlyIf]; split <;> simp [ButForFlocks, applyUpd]
  · simp [ButForFlocks, applyUpd]

/-- So does asking for an atomic's way out. -/
theorem askUnit_butForFlocks (core k ctx : Nat) (t : Target) (s : State) :
    ButForFlocks (after (askUnit core k ctx t) s) s := by
  simp only [askUnit, after_ask]
  split
  · simp [ButForFlocks, applyUpd]
  · exact askPort_butForFlocks ..

/-! ## Waits -/

/-- A load accepted. -/
theorem beginLoad_waiting (h : Issues s core slot iss o) (addr : Word) (ps : List Piece) (d : Dest)
    (acq : Option Nat) :
    ButForFlocks (stepEnd s (beginLoad core slot addr ps d acq)) (waiting s core slot o (slotAt s core slot)
      (.load { addr := addr, pieces := ps, got := [], bad := false, dest := d, acq := acq, met := [], begun := s.tick,
               queued := false })) := by
  have hw := waitFor_waiting h
    (.load { addr := addr, pieces := ps, got := [], bad := false, dest := d, acq := acq, met := [], begun := s.tick, queued := false })
  simp only [stepEnd_eq, beginLoad, after_ask, after_andThen] at hw ⊢
  rw [← hw]
  exact ButForFlocks.issuing (forAll_butForFlocks _ _ (fun p u => askPort_butForFlocks ..) _) none

/-- An atomic accepted. -/
theorem beginAtomic_waiting (h : Issues s core slot iss o) (a : AtomicReq) :
    ButForFlocks (stepEnd s (beginAtomic core slot a)) (waiting s core slot o (slotAt s core slot) (.atomic a)) := by
  have hw := waitFor_waiting h (.atomic a)
  simp only [stepEnd_eq, beginAtomic, after_ask, after_andThen] at hw ⊢
  rw [← hw]
  exact ButForFlocks.issuing (askUnit_butForFlocks ..) none

/-- A C word that waits for something that is no condition, and is then issued again. -/
theorem cWord_wait (h : Issuing s core slot iss) (hb : (slotAt s core slot).badA = false) {k : Nat → Nat → State → CRes}
    {w : Wait} (hk : k core slot s = .again w 0) :
    cWord s k = .next { s with
      slots := assign s.slots (core * 16 + slot) { slotAt s core slot with
        wait := w.begun s core slot, stall := none
        passed := if (slotAt s core slot).muted then (slotAt s core slot).issue.map (fun iss => iss.pc) else none }
      issuing := none } := by
  rw [cWord, onIssue_stepEnd h]
  have := h.idle
  simp [runC_again hb hk, waitAgain, stallOf, applyUpd, ← this]

/-- The pieces of an access that are all allowed. -/
theorem checkPieces_ok (s : State) (core slot : Nat) (k : Access) (size n : Nat) (addr : Word) (ts : List Target)
    (hl : ts.length = n)
    (h : ∀ m (hm : m < ts.length), checkAddr s core slot (addr + BitVec.ofNat 64 (size * m)) size k = .ok ts[m]) :
    checkPieces s core slot addr size k n = .ok ts := by
  induction n generalizing addr ts with
  | zero => rw [List.length_eq_zero_iff] at hl; subst hl; rfl
  | succ n ih =>
    rcases ts with _ | ⟨t, ts⟩
    · simp at hl
    · have h0 := h 0 (by simp)
      simp at h0
      simp only [checkPieces, h0]
      rw [ih (addr + word size) ts (by simpa using hl)]
      · rfl
      · intro m hm
        have := h (m + 1) (by simpa using hm)
        simp only [List.getElem_cons_succ] at this
        rw [← this, word, BitVec.add_assoc, ← BitVec.ofNat_add, Nat.mul_succ, Nat.add_comm]

/-- A structure that is read whole: what is done with its bytes comes after its way out is paid and it has been seen. -/
theorem withStruct_reads {addr : Word} {align n : Nat} {t : Target} {bs : List Byte} {us : List Upd}
    (h : ReadsStruct s core slot addr align n t bs us) (k : List Byte → CRes) :
    ∃ pay : Micro, pay s = us ∧ withStruct core slot s addr align n k = (k bs).after pay core slot := by
  obtain ⟨f, pay, hf, rfl, hp, rfl⟩ := h.found
  exact ⟨andThen (fun _ => pay) (readBy core slot addr t n f), rfl, by
    simp [withStruct, h.allowed, onTarget, structWait, h.drained, h.sound, hf, hp]⟩

/-! ## Bytes stored -/

/-- A run of bytes written. -/
theorem stored_cellsAt (hs : s.Canonical) (key : Nat) (bs : List Byte) (t : State)
    (ht : t.mem = memWriteAll s.mem (cellsAt key bs)) : Stored s t key bs := by
  intro a
  rw [ht]
  split
  · rename_i h
    obtain ⟨k, rfl⟩ := Nat.exists_eq_add_of_le h.1
    rw [memRead_cellsAt hs key bs k (by omega)]
    simp [List.getD, show k < bs.length by omega]
  · rename_i h
    exact memRead_memWriteAll_other _ _ (fun c hc e => h (by have := cellsAt_mem hc; omega))

/-- What a write leaves as it is besides the watches. -/
theorem touchWatches_rest (here : Nat → Bool) (key n : Nat) (s : State) :
    let t := after (touchWatches here key n) s
    t.mem = s.mem ∧ t.poison = s.poison ∧ t.slots = s.slots ∧ t.flocks = s.flocks ∧ t.reqs = s.reqs ∧ t.msgs = s.msgs ∧
      t.tick = s.tick ∧ t.records = s.records := by
  have := (touchWatches_spec here key n s).2
  rw [State.mk.injEq] at this
  simp_all

/-! ## What reaching a location changes -/

/-- A run of pieces keeps what each of them keeps. -/
theorem forAll_keeps {α β : Type} (v : State → β) (l : List α) (f : α → Micro) (h : ∀ x u, v (after (f x) u) = v u) (u : State) :
    v (after (forAll l f) u) = v u := by
  induction l generalizing u with
  | nil => rfl
  | cons x l ih => rw [after_forAll_cons, ih, h]

/-- What a walk may change left aside: memory, by the bits it sets in entries; their order and the watches on them; and the
translations that cores, flocks and dies hold. -/
def butWalks (u : State) : State :=
  { u with mem := [], cores := [], flocks := [], diesT := [], order := Order.reset }

/-- A core, its translations and watches left aside. -/
def Core.butWalks (c : Core) : Core := { c with tlb := [], watches := [] }

/-- Only what a walk may change changes. -/
structure OnlyWalks (f : Micro) : Prop where
  rest : ∀ u, butWalks (after f u) = butWalks u
  core : ∀ u c, (coreAt (after f u) c).butWalks = (coreAt u c).butWalks

theorem OnlyWalks.skip : OnlyWalks skip := ⟨fun _ => rfl, fun _ _ => rfl⟩

theorem OnlyWalks.andThen {f g : Micro} (hf : OnlyWalks f) (hg : OnlyWalks g) : OnlyWalks (andThen f g) :=
  ⟨fun u => by rw [after_andThen, hg.rest, hf.rest], fun u c => by rw [after_andThen, hg.core, hf.core]⟩

theorem OnlyWalks.ask {k : State → Micro} (h : ∀ u, OnlyWalks (k u)) : OnlyWalks (ask k) :=
  ⟨fun u => (h u).rest u, fun u c => (h u).core u c⟩

theorem OnlyWalks.forAll {α : Type} {l : List α} {f : α → Micro} (h : ∀ x, OnlyWalks (f x)) : OnlyWalks (forAll l f) :=
  ⟨forAll_keeps _ l f (fun x => (h x).rest), fun u c => forAll_keeps (fun v => (coreAt v c).butWalks) l f (fun x v => (h x).core v c) u⟩

theorem OnlyWalks.modCore {core : Nat} {f : Core → Core} (h : ∀ c, (f c).butWalks = c.butWalks) : OnlyWalks (modCore core f) :=
  ⟨fun _ => rfl, fun u c => by
    rw [after_modCore]
    by_cases hc : c = core
    · subst hc; simp [h]
    · rw [coreAt_core_other u _ hc]⟩

theorem touchWatches_onlyWalks (here : Nat → Bool) (key n : Nat) : OnlyWalks (touchWatches here key n) :=
  .ask fun _ => .forAll fun _ => .modCore fun _ => rfl

theorem writeHome_onlyWalks (w : Writer) (key : Nat) (bs : List Byte) : OnlyWalks (writeHome w key bs) := by
  refine .ask fun u => ⟨fun v => ?_, fun v c => ?_⟩
  · simp only [after_doAll_cons, after_doAll_nil]; exact (touchWatches_onlyWalks ..).rest _
  · simp only [after_doAll_cons, after_doAll_nil]; exact (touchWatches_onlyWalks ..).core _ c

theorem markEntries_onlyWalks (die : Nat) (needs : List (Pte × Bool)) : OnlyWalks (markEntries die needs) :=
  .forAll fun _ => .ask fun _ => .andThen ⟨fun _ => rfl, fun _ _ => rfl⟩ (writeHome_onlyWalks ..)

theorem OnlyWalks.onlyIf {f : Micro} (h : OnlyWalks f) (c : Bool) : OnlyWalks (onlyIf c f) := by
  cases c
  · exact .skip
  · exact h

theorem letGo_onlyWalks (die : Nat) (ts : List TlbEntry) : OnlyWalks (letGo die ts) := .onlyIf ⟨fun _ => rfl, fun _ _ => rfl⟩ _

theorem sawWords_onlyWalks (r : Reader) (addrs : List Nat) : OnlyWalks (sawWords r addrs) := by
  refine .ask fun u => ?_
  cases r.die
  · exact .skip
  · exact .forAll fun _ => ⟨fun _ => rfl, fun _ _ => rfl⟩

theorem installDie_onlyWalks (die : Nat) (t : TlbEntry) (us : List UpperEntry) : OnlyWalks (installDie die t us) :=
  .ask fun _ => .onlyIf (.andThen (letGo_onlyWalks ..) ⟨fun _ => rfl, fun _ _ => rfl⟩) _

theorem installTlb_onlyWalks (core : Nat) (t : TlbEntry) (us : List UpperEntry) : OnlyWalks (installTlb core t us) :=
  .ask fun _ => OnlyWalks.onlyIf (by
    unfold doAll
    exact .andThen (letGo_onlyWalks ..) (.andThen (.modCore fun _ => rfl)
      (.andThen ⟨fun _ => rfl, fun _ _ => rfl⟩ (.andThen (installDie_onlyWalks ..) .skip)))) _

theorem finishWalk_onlyWalks {s : State} {core : Nat} {w : Walker} {m : Mode} {va : Nat} {k : Access} {x : TlbEntry × Micro}
    (h : finishWalk s core w m va k = .ok x) : OnlyWalks x.2 := by
  unfold finishWalk at h
  split at h
  · cases h
  · split at h
    · cases h
    · split at h
      · cases h
      · cases h
        exact .andThen (sawWords_onlyWalks ..) (.andThen (markEntries_onlyWalks ..) (.andThen (installTlb_onlyWalks ..) .skip))

theorem translateNow_onlyWalks {s : State} {core : Nat} {w : Walker} {m : Mode} {va : Nat} {k : Access} {x : Target × Micro}
    (h : translateNow s core w m va k = .ok x) : OnlyWalks x.2 := by
  unfold translateNow at h
  split at h
  · cases h; exact .skip
  · cases h
  · split at h
    · rcases hf : finishWalk s core w m va k with c | y <;> rw [hf] at h
      · cases h
      · cases h; exact finishWalk_onlyWalks hf
    · cases h

/-- Reaching a location changes nothing but what a walk changes. -/
theorem reach_onlyWalks {s : State} {w : Walker} {core part : Nat} {m : Mode} {addr : Word} {size : Nat} {k : Access}
    {x : Target × Micro} (h : reach s w core part m addr size k = .ok x) : OnlyWalks x.2 := by
  unfold reach at h
  simp only at h
  split at h
  · cases h
  · split at h
    · cases h
    · split at h <;> cases h; exact .skip
  · split at h
    · cases h
    · split at h <;> cases h; exact .skip
  · cases h
  · split at h
    · cases h
    · split at h
      · cases h
      · rcases hb : backing (ctxAt s w.ctx).escbase addr.toNat with c | a <;> rw [hb] at h
        · cases h
        · exact translateNow_onlyWalks h
  · split at h
    · cases h
    · exact translateNow_onlyWalks h

theorem reachFrame_onlyWalks {s : State} {core slot : Nat} {frame : Word} {x : Target × Micro}
    (h : reachFrame s core slot frame = .ok x) : OnlyWalks x.2 := by
  unfold reachFrame at h
  simp only at h
  split at h
  · cases h
  · rename_i hr
    split at h
    · cases h
    · cases h; exact reach_onlyWalks hr

theorem OnlyWalks.keeps {f : Micro} (h : OnlyWalks f) (u : State) : (after f u).slots = u.slots ∧ (after f u).reqs = u.reqs ∧
    (after f u).msgs = u.msgs ∧ (after f u).jobs = u.jobs ∧ (after f u).issuing = u.issuing ∧ (after f u).tick = u.tick ∧
    (after f u).poison = u.poison ∧ (after f u).records = u.records ∧ (after f u).pkg = u.pkg ∧ (after f u).ctxs = u.ctxs := by
  have := h.rest u
  rw [butWalks, butWalks, State.mk.injEq] at this
  simp_all

/-- Bytes put at a physical address change no slot. -/
theorem putPhys_slots (pa : Nat) (bs : List Byte) (u : State) :
    (after (putPhys pa bs) u).slots = u.slots ∧ (after (putPhys pa bs) u).issuing = u.issuing := by
  unfold putPhys
  split
  · split
    · exact ⟨rfl, rfl⟩
    · split <;> exact ⟨rfl, rfl⟩
  · exact ⟨rfl, rfl⟩

/-- A write performed at once changes no slot. -/
theorem performWrite_slots {s : State} {ctx : Nat} {t : Target} {w : Writer} {bs : List Byte} {g : Micro}
    (h : performWrite s ctx t w bs = some g) (u : State) : (after g u).slots = u.slots ∧ (after g u).issuing = u.issuing := by
  unfold performWrite at h
  simp only at h
  split at h
  · split at h
    · cases h; exact ⟨rfl, rfl⟩
    · cases h; exact ⟨rfl, rfl⟩
    · cases h
  · cases h; exact ⟨rfl, rfl⟩
  · cases h; rw [after_andThen]; exact putPhys_slots ..

end Sys2Proof.Machine
end

