-- ==== Sys2Proof/Laws/Spares.lean ====
section
/-! SUPPORT. What a fault of one slot leaves alone: memory, watches, and every other slot. -/

namespace Sys2Proof.Machine

/-- A piece that changes no byte of memory, no watch and nothing of a given slot. -/
def Spares (core slot : Nat) (f : Micro) : Prop := ∀ u : State,
  (after f u).mem = u.mem ∧ (after f u).poison = u.poison ∧ slotAt (after f u) core slot = slotAt u core slot ∧
  ∀ c, (coreAt (after f u) c).watches = (coreAt u c).watches

variable {core slot : Nat}

theorem Spares.skip : Spares core slot skip := fun _ => ⟨rfl, rfl, rfl, fun _ => rfl⟩

theorem Spares.andThen {f g : Micro} (hf : Spares core slot f) (hg : Spares core slot g) : Spares core slot (andThen f g) := by
  intro u
  rw [after_andThen]
  have h1 := hf u
  have h2 := hg (after f u)
  exact ⟨h2.1.trans h1.1, h2.2.1.trans h1.2.1, h2.2.2.1.trans h1.2.2.1, fun c => (h2.2.2.2 c).trans (h1.2.2.2 c)⟩

theorem Spares.doAll (l : List Micro) (h : ∀ f ∈ l, Spares core slot f) : Spares core slot (doAll l) := by
  induction l with
  | nil => exact .skip
  | cons f t ih => exact .andThen (h f (by simp)) (ih (fun g hg => h g (by simp [hg])))

theorem Spares.forAll {α : Type} (l : List α) {f : α → Micro} (h : ∀ x, Spares core slot (f x)) :
    Spares core slot (forAll l f) :=
  .doAll _ (fun g hg => by obtain ⟨x, _, rfl⟩ := List.mem_map.1 hg; exact h x)

theorem Spares.ask {k : State → Micro} (h : ∀ s, Spares core slot (k s)) : Spares core slot (ask k) := fun u => h u u

theorem Spares.onlyIf (c : Bool) {f : Micro} (h : Spares core slot f) : Spares core slot (onlyIf c f) := by
  cases c
  · exact .skip
  · exact h

theorem Spares.modSlot {c k : Nat} (h : core * 16 + slot ≠ c * 16 + k) (f : Slot → Slot) : Spares core slot (modSlot c k f) :=
  fun u => ⟨rfl, rfl, slotAt_slot_other u _ h, fun _ => rfl⟩

theorem Spares.modCore (c : Nat) {f : Core → Core} (h : ∀ x, (f x).watches = x.watches) : Spares core slot (modCore c f) := by
  refine fun u => ⟨rfl, rfl, rfl, fun d => ?_⟩
  by_cases hd : d = c
  · subst hd; simp [h]
  · rw [after_modCore, coreAt_core_other u _ hd]

theorem Spares.postRecord (r : Record) : Spares core slot (postRecord r) := fun _ => ⟨rfl, rfl, rfl, fun _ => rfl⟩
theorem Spares.bump : Spares core slot bump := fun _ => ⟨rfl, rfl, rfl, fun _ => rfl⟩
theorem Spares.modJobs (f : List Job → List Job) : Spares core slot (modJobs f) := fun _ => ⟨rfl, rfl, rfl, fun _ => rfl⟩
theorem Spares.msgs (f : State → List Msg) : Spares core slot (fun s => [.msgs (f s)]) :=
  fun _ => ⟨rfl, rfl, rfl, fun _ => rfl⟩

theorem Spares.modPort (c p : Nat) (f : Port → Port) : Spares core slot (modPort c p f) :=
  .modCore c (fun x => by split <;> rfl)

theorem Spares.modBuffer (c b : Nat) (f : Parison → Parison) : Spares core slot (modBuffer c b f) :=
  .modCore c (fun x => by split <;> rfl)

theorem Spares.setAllow (c p n : Nat) : Spares core slot (setAllow c p n) := by
  refine .ask (fun s => ?_)
  simp only
  split
  · split
    · exact .modCore _ (fun _ => rfl)
    · exact .skip
  · exact .modPort _ _ _

theorem Spares.closePort (c p : Nat) : Spares core slot (closePort c p) := by
  refine .ask (fun s => .doAll _ (fun f hf => ?_))
  simp only [List.mem_cons, List.not_mem_nil, or_false] at hf
  rcases hf with rfl | rfl | rfl | rfl | rfl
  · split
    · exact .modJobs _
    · exact .skip
  · exact .onlyIf _ (.setAllow _ _ _)
  · exact .onlyIf _ (.setAllow _ _ _)
  · exact .msgs _
  · exact .modPort _ _ _

theorem Spares.closeAll {c k : Nat} (h : core * 16 + slot ≠ c * 16 + k) : Spares core slot (closeAll c k) :=
  .ask (fun _ => .andThen (.forAll _ (fun _ => .closePort _ _)) (.modSlot h _))

theorem Spares.enterTrap {c k : Nat} (h : core * 16 + slot ≠ c * 16 + k) (e : TrapEvent) :
    Spares core slot (enterTrap c k e) := by
  refine .ask (fun s => ?_)
  simp only
  split
  · exact .andThen (.postRecord _) (.modSlot h _)
  · exact .modSlot h _

theorem Spares.passUp {c k : Nat} (h : core * 16 + slot ≠ c * 16 + k) (pc : Word) (t : Trouble) :
    Spares core slot (passUp c k pc t) := by
  refine .ask (fun s => ?_)
  simp only
  split
  · exact .enterTrap h _
  · exact .modSlot h _

theorem Spares.killSelf {c k : Nat} (h : core * 16 + slot ≠ c * 16 + k) : Spares core slot (killSelf c k) :=
  .ask (fun _ => .andThen (.onlyIf _ (.postRecord _)) (.modSlot h _))

theorem Spares.contain {c k : Nat} (h : core * 16 + slot ≠ c * 16 + k) (pc : Word) (t : Trouble) {go : Micro}
    (hg : Spares core slot go) : Spares core slot (contain c k pc t go) := by
  refine .ask (fun s => .andThen (.modSlot h _) ?_)
  split
  · exact hg
  · split
    · exact .andThen (.closeAll h) (.modSlot h _)
    · exact .passUp h _ _
  · exact .killSelf h
  · exact .passUp h _ _

theorem Spares.raiseAt {c k : Nat} (h : core * 16 + slot ≠ c * 16 + k) (pc : Word) (t : Trouble) {go : Micro}
    (hg : Spares core slot go) : Spares core slot (raiseAt c k pc t go) := by
  refine .ask (fun s => ?_)
  simp only
  split
  · exact .andThen (.postRecord _) (.modSlot h _)
  · split
    · exact .andThen (.postRecord _) (.modSlot h _)
    · split
      · exact .enterTrap h _
      · exact .contain h _ _ hg

theorem Spares.startUnit {c k : Nat} (h : core * 16 + slot ≠ c * 16 + k) (e : AEffect) (a : AKind) :
    Spares core slot (startUnit c k e a) := by
  cases a with
  | now => exact .skip
  | long => exact .andThen (.modSlot h _) (.modCore _ (fun _ => rfl))
  | block occ =>
    intro s
    simp only [Machine.startUnit, after_ask]
    refine Spares.andThen (.modSlot h _) (.modCore _ ?_) s
    intro _; rfl

theorem Spares.finishWith {c k : Nat} (h : core * 16 + slot ≠ c * 16 + k) (a : Option AOut) (f : Slot → Slot)
    (n : Option Word) (own : Bool) : Spares core slot (finishWith c k a f n own) := by
  refine .ask (fun s => ?_)
  simp only
  split
  · exact .skip
  · split
    · split
      · exact .modSlot h _
      · exact .andThen (.modSlot h _) (.startUnit h _ _)
    · exact .modSlot h _
    · exact .modSlot h _
    · exact .modSlot h _
    · exact .modSlot h _

theorem Spares.endBundle {c k : Nat} (h : core * 16 + slot ≠ c * 16 + k) (f : Slot → Slot) (n : Option Word) (own : Bool) :
    Spares core slot (endBundle c k f n own) := .ask (fun _ => .finishWith h _ _ _ _)

theorem Spares.quietA {c k : Nat} (h : core * 16 + slot ≠ c * 16 + k) : Spares core slot (quietA c k) := by
  refine .ask (fun s => ?_)
  simp only
  split
  · exact .skip
  · split
    · exact .modSlot h _
    · exact .skip

theorem Spares.passC {c k : Nat} (h : core * 16 + slot ≠ c * 16 + k) : Spares core slot (passC c k) :=
  .andThen (.quietA h) (.ask (fun _ => .endBundle h _ _ _))

/-- A fault of one slot's C word spares every other. -/
theorem Spares.raiseC {c k : Nat} (h : core * 16 + slot ≠ c * 16 + k) (t : Trouble) : Spares core slot (raiseC c k t) := by
  refine .ask (fun s => ?_)
  split
  · exact .passC h
  · exact .raiseAt h _ _ (.passC h)

/-- A fault of one slot's A word spares every other, where what IGNORE goes on with does. -/
theorem Spares.raiseA {c k : Nat} (h : core * 16 + slot ≠ c * 16 + k) (cause : Nat) {f : Micro} (hf : Spares core slot f) :
    Spares core slot (raiseA c k cause f) := .ask (fun _ => .raiseAt h _ _ (.andThen (.modSlot h _) hf))

theorem Spares.unlessA {c k : Nat} (h : core * 16 + slot ≠ c * 16 + k) {f : Micro} (hf : Spares core slot f) :
    Spares core slot (unlessA c k f) := by
  refine .ask (fun s => ?_)
  split
  · exact hf
  · exact .raiseA h _ hf

/-- The end of a bundle spares every other slot, whatever its A word does. -/
theorem Spares.finishOwn {c k : Nat} (h : core * 16 + slot ≠ c * 16 + k) (f : Slot → Slot) (n : Option Word) (own : Bool) :
    Spares core slot (finishOwn c k f n own) := .unlessA h (.endBundle h _ _ _)

end Sys2Proof.Machine
end

