-- ==== Sys2Proof/Laws/Trap.lean ====
section
/-! SUPPORT. Taking an exception and a fault's way through containment: each case once (R32–R34, R297–R303). -/

namespace Sys2Proof.Machine

variable {s : State} {core slot : Nat}

/-! ## Entry (R299, R300) -/

/-- With TVEC set the slot enters S mode at it. -/
theorem enterTrap_vector (e : TrapEvent) (h : tvecOf (coreAt s core) slot ≠ 0) :
    after (enterTrap core slot e) s =
      applyUpd s (.slot core slot (trapped (tvecOf (coreAt s core) slot) e (slotAt s core slot))) := by
  have h' : ¬ tvecOf (coreAt s core) slot = 0#64 := h
  simp [enterTrap, h']

/-- With TVEC zero the event is posted, and the slot is held. -/
theorem enterTrap_held (e : TrapEvent) (h : tvecOf (coreAt s core) slot = 0) :
    after (enterTrap core slot e) s =
      applyUpd (applyUpd s (.records (s.records ++
        [{ cause := e.cause, flags := recordFlags e.async e.esc true e.engine.isSome e.write, wait := 0,
           handle := e.engine.getD 0, value := e.value, pc := if e.engine.isSome then 0 else e.pc,
           who := whoOf s core slot }])))
        (.slot core slot (heldAt e.pc (slotAt s core slot))) := by
  simp [enterTrap, h]

/-! ## A fault raised (R302, R303, R32) -/

/-- The record that a raised fault posts. -/
def raisedRecord (s : State) (core slot : Nat) (pc : Word) (t : Trouble) : Record :=
  { cause := t.cause
    flags := recordFlags t.async false ((slotAt s core slot).mode == .supervisor) t.engine.isSome t.write
    wait := 0, handle := t.engine.getD 0, value := t.value, pc := if t.engine.isSome then 0 else pc
    who := whoOf s core slot }

/-- Not present: posted, and the slot waits for the service. -/
theorem raiseAt_notPresent (pc : Word) (t : Trouble) (go : Micro) (h : t.cause = 0x07) :
    after (raiseAt core slot pc t go) s =
      applyUpd (applyUpd s (.records (s.records ++ [raisedRecord s core slot pc t])))
        (.slot core slot { slotAt s core slot with
          wait := .replay, await := .none, stall := none, replayValue := t.value, replayFor := none
          regs := { (slotAt s core slot).regs with pc := pc } }) := by
  simp [raiseAt, h, raisedRecord]

/-- Any other fault in S mode: posted, and the slot is held. -/
theorem raiseAt_supervisor (pc : Word) (t : Trouble) (go : Micro) (h : t.cause ≠ 0x07)
    (hm : (slotAt s core slot).mode = .supervisor) :
    after (raiseAt core slot pc t go) s =
      applyUpd (applyUpd s (.records (s.records ++ [raisedRecord s core slot pc t])))
        (.slot core slot (heldAt pc (slotAt s core slot))) := by
  simp [raiseAt, h, hm, raisedRecord]

/-- A breakpoint or a system call of a U-mode thread enters S mode. -/
theorem raiseAt_call (pc : Word) (t : Trouble) (go : Micro) (h : t.cause = 0x0E ∨ t.cause = 0x0F)
    (hm : (slotAt s core slot).mode = .user) :
    after (raiseAt core slot pc t go) s =
      after (enterTrap core slot { pc := pc, async := false, esc := false, cause := t.cause, value := t.value }) s := by
  have h7 : t.cause ≠ 0x07 := by omega
  simp [raiseAt, h, h7, hm]

/-- Every other fault of a U-mode thread goes through containment. -/
theorem raiseAt_contain (pc : Word) (t : Trouble) (go : Micro) (h : t.cause ≠ 0x07) (he : t.cause ≠ 0x0E)
    (hf : t.cause ≠ 0x0F) (hm : (slotAt s core slot).mode = .user) :
    after (raiseAt core slot pc t go) s = after (contain core slot pc t go) s := by
  simp [raiseAt, h, he, hf, hm]

/-! ## Containment (R33, R34, R297) -/

/-- The slot of a fault that has been recorded. -/
def recorded (pc : Word) (cause : Nat) (sl : Slot) : Slot :=
  { sl with task := { sl.task with faultWord := recordFault sl.task.faultWord pc cause } }

/-- IGNORE: recorded, and the bundle goes on. -/
theorem contain_ignore (pc : Word) (t : Trouble) (go : Micro) (h : policyOf (slotAt s core slot) = 0) :
    after (contain core slot pc t go) s =
      after go (applyUpd s (.slot core slot (recorded pc t.cause (slotAt s core slot)))) := by
  simp [contain, h, recorded]

/-- KILL_SELF. -/
theorem contain_kill (pc : Word) (t : Trouble) (go : Micro) (h : policyOf (slotAt s core slot) = 2) :
    after (contain core slot pc t go) s =
      after (killSelf core slot) (applyUpd s (.slot core slot (recorded pc t.cause (slotAt s core slot)))) := by
  simp [contain, h, recorded]

/-- ESCALATE. -/
theorem contain_escalate (pc : Word) (t : Trouble) (go : Micro) (h : policyOf (slotAt s core slot) = 3) :
    after (contain core slot pc t go) s =
      after (passUp core slot pc t) (applyUpd s (.slot core slot (recorded pc t.cause (slotAt s core slot)))) := by
  simp [contain, h, recorded]

/-- RETRY: the first fault restarts the task, and any later one is passed up. -/
theorem contain_retry (pc : Word) (t : Trouble) (go : Micro) (h : policyOf (slotAt s core slot) = 1) :
    after (contain core slot pc t go) s =
      after (if bitsNat (slotAt s core slot).task.faultWord 15 8 = 0 then restart core slot
          else passUp core slot pc t)
        (applyUpd s (.slot core slot (recorded pc t.cause (slotAt s core slot)))) := by
  simp [contain, h, recorded]

/-- A C word's fault in a bundle that has reported none. -/
theorem raiseC_raiseAt (t : Trouble) (h : (slotAt s core slot).muted = false) :
    after (raiseC core slot t) s = after (raiseAt core slot (bundlePc (slotAt s core slot)) t (passC core slot)) s := by
  simp [raiseC, h]

end Sys2Proof.Machine
end

