-- ==== Sys2Proof/Tests/Slice0.lean ====
section
/-! SUPPORT. The model's own tests: terms that WellFormed refuses, words decoded bit by bit from the spec's tables, one step of a
few instructions with results taken from the spec's tables and examples, and for each statement a state that meets its
hypotheses. -/

set_option Elab.async false

namespace Sys2Proof.Tests

open Sys2Proof Sys2Proof.Machine Sys2Proof.Certificates

/-! ## States -/

/-- The package in service, with a thread of context 0 in slot 0 of core 0 at 0x800000, changed by `f`, and the word `w` there. -/
def placed (f : Slot → Slot) (w : Nat) : State :=
  let s := State.reset.withFetchWord 32 w
  { s with slots := assign s.slots 0 (f (slotAt s 0 0)) }

/-- The state a step answers; reset where it stops. -/
def next (o : Out) : State :=
  match o with
  | .next t => t
  | _ => State.reset

/-- The slot after one step. -/
def slotAfter (f : Slot → Slot) (w : Nat) : Slot := slotAt (next (step (placed f w))) 0 0

/-- The bundle of a test: one word at 0x800000. -/
def lone (c a : Option Instr) : Issue := issueOf 0x800000 0x12345678 0 4 c a

/-- A pair whose A word is ADDI g9, g0, 5. -/
def pair (c : Instr) : Issue := issueOf 0x800000 0x12345678 0x82480005 8 (some c) (some (.addi 9 0 5))

/-- What that A word does. -/
def partnerOut : AOut := { eff := .ofG 9 5, kind := .now }

/-- Slot 0 of core 0 issues a bundle. -/
def issues (f : Slot → Slot) (iss : Issue) : State := issuingState (beginCycle (placed f 0) 0 []) 0 0 iss

/-- Slot 0 of core 0 waits. -/
def waits (f : Slot → Slot) (iss : Issue) (w : Wait) : State :=
  let s := placed f 0
  { s with
    agenda := []
    slots := assign s.slots 0 { slotAt s 0 0 with issue := some iss, wait := w } }

/-- No change to the slot. -/
def plain (sl : Slot) : Slot := sl

/-- In S mode. -/
def inS (sl : Slot) : Slot := { sl with mode := .supervisor }

/-- Memory with bytes written at an address. -/
def withBytes (a : Nat) (bs : List Byte) (s : State) : State := { s with mem := memWriteAll s.mem (cellsAt a bs) }

/-- A number's words of `n` bytes each, in memory. -/
def numbers (n : Nat) (l : List Nat) : List Byte := l.flatMap (leBytes n)

/-- A translation of context 0 held by die 0: the page at 0x800000 lies at 0x100000 of silo memory. -/
def page (f : TlbEntry → TlbEntry) : TlbEntry := f
  { ctx := 0, va := 0x800000, size := 0x10000, pa := 0x100000, r := true, w := true, x := true, u := true, dev := false
    spec := true, aSeen := true, dSeen := true }

/-- A state in which context 0 has tables, of which nothing is held. -/
def rooted (s : State) : State := { s with ctxs := assign s.ctxs 0 { ctxAt s 0 with ptbase := 0x200000 } }

/-- A state whose die 0 holds that translation. -/
def mapped (f : TlbEntry → TlbEntry) (s : State) : State :=
  { rooted s with diesT := assign s.diesT 0 { tlb := [page f], upper := [], gone := [] } }

/-- A state with core 0 changed. -/
def withCore (f : Core → Core) (s : State) : State := { s with cores := assign s.cores 0 (f (coreAt s 0)) }

/-- A state with slot `k` of core 0 changed. -/
def atSlot (k : Nat) (f : Slot → Slot) (s : State) : State := { s with slots := assign s.slots k (f (slotAt s 0 k)) }

/-- The slot with a value in g1 and another in g2. -/
def args (v w : Word) (sl : Slot) : Slot := gWrite (gWrite sl 1 v) 2 w

/-- Where offset 0 of core 0's bank 0 stands in memory. -/
def bank0 : Nat := 0x00F0000000000000

/-- The slot with a format descriptor in FD0 and another in FD1. -/
def formats (a b : Word) (sl : Slot) : Slot :=
  { sl with ctl := { sl.ctl with fd := (sl.ctl.fd.set 0 a).set 1 b } }

/-! ## A word of every instruction, written out bit by bit from Tables 6.2 to 6.7 -/

/-- Every word of a list decodes to the instruction beside it. -/
def decodes (l : List (Nat × Instr)) : Bool := l.all (fun x => decide (decodeWord x.1 = .ok x.2))

/-- Major 0x00 (Table 6.4). -/
theorem test_decode_integer : decodes [
    (0b10_000000_10001_00010_01100_000000_101, .add 17 2 12 5),
    (0b10_000000_10001_00010_01100_000001_101, .sub 17 2 12 5),
    (0b10_000000_10001_00010_01100_000010_101, .and_ 17 2 12 5),
    (0b10_000000_10001_00010_01100_000011_101, .or_ 17 2 12 5),
    (0b10_000000_10001_00010_01100_000100_101, .xor_ 17 2 12 5),
    (0b10_000000_10001_00010_01100_000101_101, .andn 17 2 12 5),
    (0b10_000000_10001_00010_01100_000110_101, .shl 17 2 12 5),
    (0b10_000000_10001_00010_01100_000111_101, .shr 17 2 12 5),
    (0b10_000000_10001_00010_01100_001000_101, .sar 17 2 12 5),
    (0b10_000000_10001_00010_01100_001001_101, .mul 17 2 12 5),
    (0b10_000000_10001_00010_01100_001010_101, .mulh 17 2 12 5),
    (0b10_000000_10001_00010_01100_001011_101, .mulhu 17 2 12 5),
    (0b10_000000_10001_00010_01100_001100_101, .div 17 2 12 5),
    (0b10_000000_10001_00010_01100_001101_101, .divu 17 2 12 5),
    (0b10_000000_10001_00010_01100_001110_101, .rem 17 2 12 5),
    (0b10_000000_10001_00010_01100_001111_101, .remu 17 2 12 5),
    (0b10_000000_10001_00010_01100_010000_101, .min 17 2 12 5),
    (0b10_000000_10001_00010_01100_010001_101, .max 17 2 12 5),
    (0b10_000000_10001_00010_01100_010010_101, .minu 17 2 12 5),
    (0b10_000000_10001_00010_01100_010011_101, .maxu 17 2 12 5),
    (0b10_000000_10001_00010_00000_010100_101, .clz 17 2 5),
    (0b10_000000_10001_00010_00000_010101_101, .ctz 17 2 5),
    (0b10_000000_10001_00010_00000_010110_101, .popc 17 2 5),
    (0b10_000000_10001_00010_01100_010111_101, .sel 17 2 12 5),
    (0b10_000000_10001_00010_01100_011000_101, .addsl1 17 2 12 5),
    (0b10_000000_10001_00010_01100_011001_101, .addsl2 17 2 12 5),
    (0b10_000000_10001_00010_01100_011010_101, .addsl3 17 2 12 5),
    (0b10_000000_10001_00010_01100_011011_101, .addsl4 17 2 12 5)] = true := by decide +kernel

/-- Major 0x01 (R119). -/
theorem test_decode_compares : decodes [
    (0b10_000001_00110_10010_00011_000000_001, .cmpeq 6 18 3 1),
    (0b10_000001_00110_10010_00011_000001_001, .cmpne 6 18 3 1),
    (0b10_000001_00110_10010_00011_000010_001, .cmplt 6 18 3 1),
    (0b10_000001_00110_10010_00011_000011_001, .cmple 6 18 3 1),
    (0b10_000001_00110_10010_00011_000100_001, .cmpltu 6 18 3 1),
    (0b10_000001_00110_10010_00011_000101_001, .cmpleu 6 18 3 1),
    (0b10_000001_00110_00010_00011_001000_001, .pand 6 2 3 1),
    (0b10_000001_00110_00010_00011_001001_001, .por 6 2 3 1),
    (0b10_000001_00110_00010_00011_001010_001, .pxor 6 2 3 1),
    (0b10_000001_00110_00010_00011_001011_001, .pandn 6 2 3 1)] = true := by decide +kernel

/-- Majors 0x02 to 0x0F (Table 6.5). -/
theorem test_decode_immediates : decodes [
    (0b10_000010_10001_00010_10000000000001, .addi 17 2 0x2001),
    (0b10_000011_10001_00010_10000000000001, .andi 17 2 0x2001),
    (0b10_000100_10001_00010_10000000000001, .ori 17 2 0x2001),
    (0b10_000101_10001_00010_10000000000001, .xori 17 2 0x2001),
    (0b10_000110_10001_00010_00000000_100001, .shli 17 2 33),
    (0b10_000111_10001_00010_00000000_100001, .shri 17 2 33),
    (0b10_001000_10001_00010_00000000_100001, .sari 17 2 33),
    (0b10_001001_10001_00000_10000000000001, .li 17 0x2001),
    (0b10_001010_10001_00010_10000000000001, .lis 17 2 0x2001),
    (0b10_001011_00110_10010_10000000000001, .cmpeqi 6 18 0x2001),
    (0b10_001100_00110_10010_10000000000001, .cmplti 6 18 0x2001),
    (0b10_001101_00110_10010_10000000000001, .cmpltui 6 18 0x2001),
    (0b10_001110_10001_00010_00_000111_100001, .bfx 17 2 7 33),
    (0b10_001111_10001_00010_00_000111_100001, .bfi 17 2 7 33)] = true := by decide +kernel

/-- Majors 0x10 and 0x11 (R121); fn[5] is 1 for single precision. -/
theorem test_decode_floats : decodes [
    (0b10_010000_10001_00010_01100_000000_101, .fadd 17 2 12 false 5),
    (0b10_010000_10001_00010_01100_100001_101, .fsub 17 2 12 true 5),
    (0b10_010000_10001_00010_01100_000010_101, .fmul 17 2 12 false 5),
    (0b10_010000_10001_00010_01100_100011_101, .fdiv 17 2 12 true 5),
    (0b10_010000_10001_00010_00000_000100_101, .fsqrt 17 2 false 5),
    (0b10_010000_10001_00010_01100_100101_101, .fmin 17 2 12 true 5),
    (0b10_010000_10001_00010_01100_000110_101, .fmax 17 2 12 false 5),
    (0b10_010000_10001_00010_01100_100111_101, .ffma 17 2 12 true 5),
    (0b10_010000_10001_00010_00000_001000_101, .fabs 17 2 false 5),
    (0b10_010000_10001_00010_00000_101001_101, .fneg 17 2 true 5),
    (0b10_010000_10001_00010_00000_001010_101, .fclass 17 2 false 5),
    (0b10_010000_10001_00010_00001_101011_101, .fcvti 17 2 true true 5),
    (0b10_010000_10001_00010_00001_001100_101, .fcvtf 17 2 true false 5),
    (0b10_010000_10001_00010_00000_101101_101, .fcvtp 17 2 true 5),
    (0b10_010001_00110_10010_00011_000000_001, .fcmpeq 6 18 3 false 1),
    (0b10_010001_00110_10010_00011_100001_001, .fcmplt 6 18 3 true 1),
    (0b10_010001_00110_10010_00011_000010_001, .fcmple 6 18 3 false 1),
    (0b10_010001_00110_10010_00011_100011_001, .fcmpun 6 18 3 true 1)] = true := by decide +kernel

/-- Majors 0x20 to 0x2F (R122). -/
theorem test_decode_blocks : decodes [
    (0b10_100000_100001_010001_001001_01_0010, .badd 33 17 9 1 2),
    (0b10_100001_100001_010001_001001_01_0010, .bsub 33 17 9 1 2),
    (0b10_100010_100001_010001_001001_01_0010, .bmul 33 17 9 1 2),
    (0b10_100011_100001_010001_001001_01_0010, .bfma 33 17 9 1 2),
    (0b10_100100_100001_010001_001001_01_0010, .bmin 33 17 9 1 2),
    (0b10_100101_100001_010001_001001_01_0010, .bmax 33 17 9 1 2),
    (0b10_100110_100001_010001_001001_01_0010, .band 33 17 9 1 2),
    (0b10_100111_100001_010001_001001_01_0010, .bor 33 17 9 1 2),
    (0b10_101000_100001_010001_001001_01_0010, .bxor 33 17 9 1 2),
    (0b10_101001_100001_010001_001001_11_0010, .bdot 33 17 9 3 2),
    (0b10_101010_100001_010001_000010_01_0010, .bred 33 17 2 1 2),
    (0b10_101011_100001_010001_001001_01_0010, .bcmplt 33 17 9 1 2),
    (0b10_101100_100001_010001_001001_01_0010, .bsel 33 17 9 1 2),
    (0b10_101101_100001_010001_000000_01_0010, .bmov 33 17 1 2),
    (0b10_101110_100001_010001_000000_01_0010, .bneg 33 17 1 2),
    (0b10_101110_100001_010001_000001_01_0010, .babs 33 17 1 2),
    (0b10_101110_100001_010001_000010_01_0010, .bexp2 33 17 1 2),
    (0b10_101110_100001_010001_000011_01_0010, .blog2 33 17 1 2),
    (0b10_101110_100001_010001_000100_01_0010, .brcp 33 17 1 2),
    (0b10_101110_100001_010001_000101_01_0010, .brsq 33 17 1 2),
    (0b10_101110_100001_010001_000110_01_0010, .bsigm 33 17 1 2),
    (0b10_101110_100001_010001_000111_01_0010, .btanh 33 17 1 2),
    (0b10_101110_100001_010001_001000_01_0010, .bsqrt 33 17 1 2),
    (0b10_101110_100001_010001_001001_01_0010, .brelu 33 17 1 2),
    (0b10_101111_100001_010001_000101_01_0010, .bcvt 33 17 5 1 2)] = true := by decide +kernel

/-- Majors 0x30 to 0x37 (Table 6.6). -/
theorem test_decode_scalars : decodes [
    (0b10_110000_100001_010001_10100_0_01_0010, .bscal 33 17 20 1 2),
    (0b10_110001_100001_010001_10100_0_01_0010, .badds 33 17 20 1 2),
    (0b10_110010_100001_000000_10100_0_01_0010, .bbcst 33 20 1 2),
    (0b10_110011_000011_010001_10100_0_00_0000, .bget 3 17 20 0 0),
    (0b10_110100_100001_000011_10100_0_00_0000, .bset 33 3 20 0 0),
    (0b10_110101_100001_010001_10100_0_01_0010, .bgnorm 33 17 20 1 2),
    (0b10_110110_100001_010001_10100_0_01_0010, .bshuf 33 17 20 1 2),
    (0b10_110111_100001_010001_10100_0_01_0010, .bscl 33 17 20 1 2)] = true := by decide +kernel

/-- Majors 0x00 to 0x03 of class C, RDC and WRC (Table 6.12, R130). -/
theorem test_decode_control : decodes [
    (0b01_000000_00000_00000_00000_000000_101, .nop 5),
    (0b01_000000_00000_00000_00000_000001_101, .halt 5),
    (0b01_000000_00000_00000_00000_000010_101, .brk 5),
    (0b01_000000_00000_00000_00000_000011_101, .syscall 5),
    (0b01_000000_00000_00000_00000_000100_101, .yield 5),
    (0b01_000000_00000_00000_00000_000101_101, .uiret 5),
    (0b01_000000_00000_00000_00000_000110_101, .ifence 5),
    (0b01_000000_00000_00000_00000_000111_101, .tret 5),
    (0b01_000001_110_0_10000000000000000001, .br 6 false 0x80001),
    (0b01_000010_10001_1000000000000000001, .jal 17 0x40001),
    (0b01_000011_10001_00010_01100_000000_101, .jalr 17 2 12 5),
    (0b01_100001_10001_00000_10000000000001, .rdc 17 0x2001),
    (0b01_100010_00000_10001_10000000000001, .wrc 17 0x2001)] = true := by decide +kernel

/-- Majors 0x04 to 0x10, FENCE and PREF (Table 6.12, R125, R127). -/
theorem test_decode_memory : decodes [
    (0b01_000100_10001_00010_10000001_1011_01, .ld8 17 2 0x81 11 1),
    (0b01_000101_10001_00010_10000001_1011_01, .ld8U 17 2 0x81 11 1),
    (0b01_000110_10001_00010_10000001_1011_01, .ld16 17 2 0x81 11 1),
    (0b01_000111_10001_00010_10000001_1011_01, .ld16U 17 2 0x81 11 1),
    (0b01_001000_10001_00010_10000001_1011_01, .ld32 17 2 0x81 11 1),
    (0b01_001001_10001_00010_10000001_1011_01, .ld32U 17 2 0x81 11 1),
    (0b01_001010_10001_00010_10000001_1011_01, .ld64 17 2 0x81 11 1),
    (0b00_001011_10001_00010_10000001_1011_10, .st8 17 2 0x81 11 2),
    (0b00_001100_10001_00010_10000001_1011_10, .st16 17 2 0x81 11 2),
    (0b00_001101_10001_00010_10000001_1011_10, .st32 17 2 0x81 11 2),
    (0b00_001110_10001_00010_10000001_1011_10, .st64 17 2 0x81 11 2),
    (0b01_001111_100001_10001_10001_01_0010_01, .ldv 33 17 0x11 1 2 1),
    (0b01_010000_100001_10001_10001_01_0010_10, .stv 33 17 0x11 1 2 2),
    (0b01_011100_001_1011_00000000000000000, .fence 1 11),
    (0b01_011101_00010_10001_10000001_0000_00, .pref 2 17 0x81)] = true := by decide +kernel

/-- Majors 0x11 to 0x1B, and HSIFT (R126, R128). -/
theorem test_decode_atomics : decodes [
    (0b01_010001_10001_00010_01100_1011_00_0_00, .aadd 17 2 12 11 0 false),
    (0b01_010010_10001_00010_01100_1011_01_1_00, .aaddf 17 2 12 11 1 true),
    (0b01_010011_10001_00010_01100_1011_10_0_00, .amin 17 2 12 11 2 false),
    (0b01_010100_10001_00010_01100_1011_11_1_00, .amax 17 2 12 11 3 true),
    (0b01_010101_10001_00010_01100_1011_00_0_00, .aminu 17 2 12 11 0 false),
    (0b01_010110_10001_00010_01100_1011_01_1_00, .amaxu 17 2 12 11 1 true),
    (0b01_010111_10001_00010_01100_1011_10_0_00, .aand 17 2 12 11 2 false),
    (0b01_011000_10001_00010_01100_1011_11_1_00, .aor 17 2 12 11 3 true),
    (0b01_011001_10001_00010_01100_1011_00_0_00, .axor 17 2 12 11 0 false),
    (0b01_011010_10001_00010_01100_1011_01_1_00, .aswp 17 2 12 11 1 true),
    (0b01_011011_10001_00010_01100_1011_10_0_00, .acas 17 2 12 11 2 false),
    (0b01_100011_00000_10001_00010_01100_1111, .hsift 17 2 12 15)] = true := by decide +kernel

/-- Major 0x1E (Table 6.7). -/
theorem test_decode_channels : decodes [
    (0b01_011110_00000_10001_00000_00111_0000, .send 17 7),
    (0b01_011110_00110_10001_00000_00111_0001, .sendt 6 17 7),
    (0b01_011110_10001_00000_00000_00111_0010, .recv 17 7),
    (0b01_011110_10001_00000_00110_00111_0011, .recvt 17 6 7),
    (0b01_011110_00000_10001_00000_00111_0100, .sendc 17 7),
    (0b01_011110_10001_00010_00000_00000_0101, .alt 17 2),
    (0b01_011110_00000_10001_00000_00111_0110, .chgrant 17 7),
    (0b01_011110_00000_10001_00101_00111_0111, .chbind 17 5 7),
    (0b01_011110_00000_00000_00000_00111_1000, .chunbind 7),
    (0b01_011110_10001_00000_00000_00111_1001, .chstat 17 7)] = true := by decide +kernel

/-- Majors 0x1F and 0x20 (Table 6.7). -/
theorem test_decode_tasks : decodes [
    (0b01_011111_00110_10001_00000_00000_0000, .spawn 6 17),
    (0b01_011111_00110_10001_00010_00000_0001, .spawnat 6 17 2),
    (0b01_011111_00000_10001_00000_00000_0010, .join 17),
    (0b01_011111_00000_00000_00000_00000_0011, .retire),
    (0b01_011111_00000_10001_00010_00000_0100, .bar 17 2),
    (0b01_011111_00000_00000_00000_00011_0101, .fmtsel 3),
    (0b01_011111_10001_00000_00000_00011_0110, .taskinfo 17 3),
    (0b01_100000_00000_10001_00000_00000_0000, .mwarm 17),
    (0b01_100000_10001_00010_00000_00000_0001, .mwait 17 2),
    (0b01_100000_00000_10001_00000_00000_0010, .mwdis 17),
    (0b01_100000_00000_10001_00010_00000_0011, .uisend 17 2),
    (0b01_100000_10001_00010_00000_00000_0100, .uimask 17 2),
    (0b01_100000_00110_10001_00000_00000_0101, .jpoll 6 17),
    (0b01_100000_10001_00010_00000_00000_0110, .jwait 17 2)] = true := by decide +kernel

/-- Majors 0x24 to 0x28 (Table 6.7). -/
theorem test_decode_engines : decodes [
    (0b01_100100_10001_00010_00000_00000_0000, .mxma 17 2),
    (0b01_100100_00000_10001_00000_00000_0001, .mxmab 17),
    (0b01_100100_00000_10001_00000_00011_0010, .mxld 17 3),
    (0b01_100100_00000_10001_00000_00011_0011, .mxst 17 3),
    (0b01_100100_00000_00000_00000_00011_0100, .mxzero 3),
    (0b01_100100_10001_00000_00000_00000_0101, .mxq 17),
    (0b01_100101_00000_10001_00000_01111_0000, .ringset 17 15),
    (0b01_100101_00000_10001_00000_01111_0001, .ringadv 17 15),
    (0b01_100101_10001_00000_00000_01111_0010, .ringq 17 15),
    (0b01_100110_10001_00010_00000_00000_0000, .cpy 17 2),
    (0b01_100110_00000_10001_00000_00111_0001, .cpys 17 7),
    (0b01_100110_10001_00010_00000_00000_0010, .cpym 17 2),
    (0b01_100110_10001_00010_00000_00000_0011, .cpyq 17 2),
    (0b01_100111_10001_00010_01100_00000_0000, .pfetch 17 2 12),
    (0b01_100111_00000_10001_00010_00000_0001, .pconf 17 2),
    (0b01_100111_00000_10001_00000_00000_0010, .pcanc 17),
    (0b01_100111_00000_10001_00010_00000_0011, .pfset 17 2),
    (0b01_100111_10001_00010_00000_00000_0100, .pfget 17 2),
    (0b01_100111_10001_00010_00000_00000_0101, .pfstat 17 2),
    (0b01_101000_10001_00010_00000_00000_0000, .aejob 17 2),
    (0b01_101000_10001_00010_00000_00000_0001, .aeres 17 2),
    (0b01_101000_00000_10001_00000_00000_0010, .aeabort 17)] = true := by decide +kernel

/-- Majors 0x29 to 0x2B, and 0x30 (Table 6.7). -/
theorem test_decode_residency : decodes [
    (0b01_101001_10001_00010_00000_00000_0000, .escreq 17 2),
    (0b01_101001_00000_10001_00000_00000_0001, .escpin 17),
    (0b01_101001_00000_10001_00000_00000_0010, .escunpin 17),
    (0b01_101001_00000_10001_00010_00001_0011, .eschist 17 2 1),
    (0b01_101001_10001_00010_00000_00000_0100, .escq 17 2),
    (0b01_101010_10001_00010_01100_00000_0000, .kvxl 17 2 12),
    (0b01_101010_10001_00010_01100_00000_0001, .kvins 17 2 12),
    (0b01_101010_10001_00010_01100_00000_0010, .kvdel 17 2 12),
    (0b01_101010_10001_00010_01100_00000_0011, .kvexp 17 2 12),
    (0b01_101010_10001_00010_00000_00000_0100, .kvimp 17 2),
    (0b01_101011_10001_00010_00000_00000_0000, .pcommit 17 2),
    (0b01_101011_10001_00010_00000_00000_0001, .pdecommit 17 2),
    (0b01_101011_10001_00010_00000_00000_0010, .pprobe 17 2),
    (0b01_110000_00000_10001_00000_00000_0000, .swapctx 17),
    (0b01_110000_00000_10001_00000_00000_0001, .slothand 17),
    (0b01_110000_00000_10001_00010_00000_0010, .divset 17 2),
    (0b01_110000_00000_10001_00000_00000_0011, .divclr 17),
    (0b01_110000_00000_10001_00010_00000_0100, .tlbinv 17 2),
    (0b01_110000_00000_10001_00000_00000_0101, .tlbinvc 17),
    (0b01_110000_00000_00000_00000_00000_0110, .pfclr)] = true := by decide +kernel

/-- Table 6.11. -/
theorem test_decode_worked : decodes [
    (0x51224CBC, .aadd 4 9 6 5 3 true), (0x5C4C0000, .fence 2 6), (0x5E280032, .recv 5 3), (0x63008647, .hsift 2 3 4 7),
    (0x61380001, .rdc 7 1), (0x8B084000, .cmpeqi 1 1 0), (0x90190B00, .fadd 3 4 5 true 0), (0xA9200133, .bdot 8 0 4 3 3)] = true := by
  decide +kernel

/-- Tables 7.8 and 8.7. -/
theorem test_decode_worked_arith : decodes [
    (0x80384408, .sub 7 1 2 0), (0x80425460, .div 8 9 10 0), (0x80190ABA, .sel 3 4 5 2), (0x81204010, .cmplt 4 1 0 0),
    (0x81088050, .pxor 1 2 0 0), (0x8A39E000, .lis 7 7 0x2000), (0x8E2981CC, .bfx 5 6 7 12), (0x9010C358, .fcvti 2 3 true true 0),
    (0x91110A08, .fcmplt 2 4 5 false 0), (0x41700002, .br 3 true 2), (0x43FFC000, .jalr 31 31 0 0), (0x40000008, .halt 0),
    (0x40000020, .yield 0), (0x62014003, .wrc 5 3), (0xA3100081, .bfma 4 0 2 0 1), (0xAA510083, .bred 20 16 2 0 3),
    (0xAE100081, .bexp2 4 0 0 1), (0xAF184180, .bcvt 6 4 6 0 0), (0xB0100281, .bscal 4 0 5 0 1), (0xB2400283, .bbcst 16 5 0 3),
    (0xB3083380, .bget 2 3 7 0 0), (0xB40C2380, .bset 3 2 7 0 0), (0xB530C180, .bgnorm 12 12 3 0 0), (0x5F000015, .fmtsel 1)] = true := by
  decide +kernel

/-- Table 9.10 and the encodings of "Memory, channel and task instructions". -/
theorem test_decode_worked_memory : decodes [
    (0x4A088099, .ld64 1 2 2 6 1), (0x4D193FC0, .st32 3 4 (-1) 0 0), (0x4D02401A, .st32 0 9 0 6 2), (0x4F40A20D, .ldv 16 5 2 0 3 1),
    (0x5D098080, .pref 1 6 2), (0x5B1A48C8, .acas 3 9 4 6 1 false), (0x5C0A0000, .fence 0 5), (0x5E014030, .send 5 3),
    (0x5E094031, .sendt 1 5 3), (0x5E280433, .recvt 5 2 3), (0x5E3A0005, .alt 7 8), (0x5E010207, .chbind 4 1 0),
    (0x5F088000, .spawn 1 2), (0x5F108601, .spawnat 2 2 3), (0x5F024002, .join 9), (0x5F000003, .retire), (0x5F008604, .bar 2 3),
    (0x5F280006, .taskinfo 5 0), (0x60008000, .mwarm 2), (0x60190001, .mwait 3 4), (0x60008603, .uisend 2 3), (0x60298006, .jwait 5 6),
    (0x6B214000, .pcommit 4 5)] = true := by decide +kernel

/-- The encodings of "Matrix, copy and predicted fetch", of "Routing and residency instructions" and of "Privileged state". -/
theorem test_decode_worked_engines : decodes [
    (0x64298000, .mxma 5 6), (0x64018001, .mxmab 6), (0x6401C022, .mxld 7 2), (0x6401C023, .mxst 7 2), (0x64000014, .mxzero 1),
    (0x64180005, .mxq 3), (0x65010030, .ringset 4 3), (0x65010031, .ringadv 4 3), (0x65280032, .ringq 5 3), (0x66298000, .cpy 5 6),
    (0x66018021, .cpys 6 2), (0x66298002, .cpym 5 6), (0x66394003, .cpyq 7 5), (0x67208600, .pfetch 4 2 3), (0x67010A01, .pconf 4 5),
    (0x67010002, .pcanc 4), (0x67008603, .pfset 2 3), (0x67308004, .pfget 6 2), (0x67310005, .pfstat 6 4), (0x68298000, .aejob 5 6),
    (0x68394001, .aeres 7 5), (0x68014002, .aeabort 5), (0x69298000, .escreq 5 6), (0x69018001, .escpin 6), (0x69018002, .escunpin 6),
    (0x69018E13, .eschist 6 7 1), (0x69398004, .escq 7 6), (0x6A298E00, .kvxl 5 6 7), (0x6A298004, .kvimp 5 6),
    (0x40000038, .tret 0), (0x70014000, .swapctx 5), (0x70014001, .slothand 5), (0x70014C02, .divset 5 6), (0x70014003, .divclr 5),
    (0x70014C04, .tlbinv 5 6), (0x70014005, .tlbinvc 5), (0x70000006, .pfclr)] = true := by decide +kernel

/-- Words that the encoding tables refuse, one for each reason, and one of role 11 (R5, R115, R118, R124, R125). A scope of 12 decodes: it is
an illegal operand (R85). -/
theorem test_decode_refuses :
    decodeWord 0xC0000000 = .error .badRole ∧ decodeWord 0x92000000 = .error .reservedMajor ∧
    decodeWord 0x6C000000 = .error .reservedMajor ∧ decodeWord 0x800000E0 = .error .reservedFunction ∧
    decodeWord 0x800802A0 = .error .mustBeZero ∧ decodeWord 0x81400000 = .error .predicateField ∧
    decodeWord 0x5E280082 = .error .endpointField ∧ decodeWord 0x4A000003 = .error (.illFormed .ordering) ∧
    decodeWord 0x4A000031 = .ok (.ld64 0 0 0 12 1) := by decide +kernel

/-! ## WellFormed refuses an ill-formed term for each of its checks -/

theorem test_defect_ordering : (Instr.ld64 1 2 0 3 2).defect = some .ordering := by decide
theorem test_defect_scopeOfPlain : (Instr.st8 1 2 0 4 0).defect = some .scopeOfPlain := by decide
theorem test_defect_fenceKind : (Instr.fence 3 5).defect = some .fenceKind := by decide
theorem test_defect_prefLevel : (Instr.pref 3 1 0).defect = some .prefLevel := by decide
theorem test_defect_reduction : (Instr.bred 0 0 3 0 0).defect = some .reduction := by decide
theorem test_wellFormed : (Instr.ld64 1 2 0 3 1).WellFormed = true := by decide

/-! ## What the hypotheses of many statements share -/

theorem witness_encode : (Instr.add 1 2 3 5).WellFormed = true ∧ encode .wordA (.add 1 2 3 5) = some 0x80088605 := by
  decide +kernel
theorem witness_encode_lone : (Instr.tret 0).WellFormed = true ∧ (encode .loneC (.tret 0)).isSome = true := by decide +kernel
theorem witness_decode_word : decodeWord 0x80088605 = .ok (.add 1 2 3 5) := rfl
theorem witness_decode_pair : decodeWord 0 = .ok (.nop 0) ∧ roleOf 0 = .pairC ∧ (Instr.nop 0).loneOnly = false := ⟨rfl, rfl, rfl⟩

theorem witness_issues (c : Instr) : Issues (issues plain (lone (some c) none)) 0 0 (lone (some c) none) none :=
  ⟨⟨rfl, rfl, rfl⟩, rfl⟩

theorem witness_issues_beside : Issues (issues plain (pair (.nop 0))) 0 0 (pair (.nop 0)) (some partnerOut) :=
  ⟨⟨rfl, rfl, rfl⟩, rfl⟩

theorem witness_waits : Waits (waits plain (lone (some (.ifence 0)) none) .ifence) 0 0 (lone (some (.ifence 0)) none) none :=
  ⟨rfl, rfl, rfl⟩

theorem witness_waits_beside : Waits (waits plain (pair (.ifence 0)) .ifence) 0 0 (pair (.ifence 0)) (some partnerOut) :=
  ⟨rfl, rfl, rfl⟩

theorem witness_waits_up : coreUp (waits plain (lone (some (.ifence 0)) none) .ifence) 0 = true ∧
    (waits plain (lone (some (.ifence 0)) none) .ifence).Canonical := by
  unfold State.Canonical
  decide +kernel

/-- A bundle about to issue; `witness_bundles` has one of each kind. -/
theorem witness_aboutToIssue :
    AboutToIssue (beginCycle (placed plain 0) 0 []) 0 0
      { ctx := 0, va := 0x800000, word0 := 0, word1 := 0x80000000, user := true } := by
  have hw : ∀ k, k < 16 → (slotAt (beginCycle (placed plain 0) 0 []) 0 k).wait = .none := by decide +kernel
  refine ⟨?_, ?_, ?_, ?_, ?_, ?_, ?_, ?_, ?_, ?_, ?_, ?_, ?_⟩
  · decide +kernel
  · intro k hk
    have h := hw k hk
    refine ⟨by simp [yieldDue, h], ?_, by simp [h]⟩
    revert k
    decide +kernel
  · decide +kernel
  · intro h a w p q
    simp [hw 0 (by decide)]
  · decide +kernel
  · rfl
  · decide +kernel
  · decide +kernel
  · decide +kernel
  · decide +kernel
  · decide +kernel
  · decide +kernel
  · intro _
    rfl

theorem witness_bundles :
    decodeBundle true 0x40000000 0x80000000 = .loneC (.ok (.nop 0)) ∧
    decodeBundle true 0x80088605 0x80000000 = .loneA (.ok (.add 1 2 3 5)) ∧
    decodeBundle true 0 0x80000000 = .pair (.ok (.nop 0)) (.ok (.add 0 0 0 0)) ∧ (Instr.nop 0).loneOnly = false ∧
    clash (.nop 0) (.add 0 0 0 0) = false := ⟨rfl, rfl, rfl, rfl, rfl⟩

theorem witness_event : (({ placed plain 0 with agenda := [.event (.tokenBucketRefill 0)] } : State).agenda =
    .event (.tokenBucketRefill 0) :: []) ∧ isEvent (.tokenBucketRefill 0) = true := ⟨rfl, rfl⟩
theorem witness_no_agenda : State.reset.agenda = [] := rfl

theorem witness_canonical_step : (placed plain 0x80088605).Canonical ∧
    (match step (placed plain 0x80088605) with | .next t => Memory.wf t.mem | _ => false) = true := by
  unfold State.Canonical
  decide +kernel

theorem witness_names : (placed plain 0x80088605).slots.map (fun x => x.1) = [0] ∧ (placed plain 0x80088605).jobs = [] ∧
    (placed plain 0x80088605).ctxs.all (fun x => x.2.slices.isEmpty) = true := by decide +kernel
/-! ## Arithmetic words -/

theorem witness_guard_off : (fun sl => Issuing (issues (fun v => pWrite v 5 false) (lone none (some (.div 1 2 3 5)))) 0 0
    (lone none (some (.div 1 2 3 5))) ∧ pRead sl 5 = false)
    (slotAt (issues (fun v => pWrite v 5 false) (lone none (some (.div 1 2 3 5)))) 0 0) := ⟨⟨rfl, rfl, rfl⟩, rfl⟩

/-- A field of 64 bits at 0 is taken, one at 1 is not. -/
theorem witness_field : (0 : Fin 64).val + ((63 : Fin 64).val + 1) ≤ 64 ∧ 64 < (1 : Fin 64).val + ((63 : Fin 64).val + 1) := by
  decide

/-- Slot 0's request leads the queue of core 0's long-operation unit. -/
def longWait : State := withCore (fun c => { c with longQ := [0] }) (atSlot 0 (fun sl => { sl with await := .long (.ofG 1 7) })
  (placed plain 0))

theorem witness_long : coreUp longWait 0 = true ∧ (slotAt longWait 0 0).issue = none ∧
    (slotAt longWait 0 0).await = .long (.ofG 1 7) ∧ longHead longWait 0 = some 0 := ⟨rfl, rfl, rfl, rfl⟩

/-- Slot 0's block operation is written at cycle 15, which is now. -/
def blockWait : State := atSlot 0 (fun sl => { sl with await := .block (.ofG 1 7) 15 }) (placed plain 0)

theorem witness_block : coreUp blockWait 0 = true ∧ (slotAt blockWait 0 0).issue = none ∧
    (slotAt blockWait 0 0).await = .block (.ofG 1 7) 15 ∧ 15 ≤ (coreAt blockWait 0).cycle := ⟨rfl, rfl, rfl, by decide +kernel⟩

/-- A DIV whose bundle's BAR still waits: the unit is free, and its writes are held (R6, R135). -/
theorem witness_long_beside : (let s := atSlot 0 (fun sl => { sl with issue := some (pair (.bar 1 2)) }) longWait
    coreUp s 0 = true ∧ longHead s 0 = some 0 ∧ longHead s 0 ≠ some 1 ∧
    (slotAt (next (exec (.longOpComplete 0 0) s)) 0 0).await = .kept (.ofG 1 7) ∧
    (coreAt (next (exec (.longOpComplete 0 0) s)) 0).longQ = []) := by decide +kernel

theorem witness_representable : isFloat .fp32 = true ∧ floatVal .fp32 0x3F800000 = .num false 0x800000 (-23) := by decide +kernel

/-- Numbers that round with no overflow, on a tie and in RSR, and that overflow (R60, R61). -/
theorem witness_rounds : isFloat .e5m2 = true ∧ (0xFFFF : Nat) < 2 ^ 16 ∧ toFloat .e5m2 false 0 0 (.num true 9 0) = { bits := 0xC8, flags := flagNX } ∧
    toFloat .e5m2 false 5 0x3FFF (.num false 9 0) = { bits := 0x49, flags := flagNX } ∧
    toFloat .e5m2 false 5 0x8000 (.num false 9 0) = { bits := 0x48, flags := flagNX } ∧
    toFloat .e5m2 false 1 0 (.num false 1 20) = { bits := 0x7B, flags := flagOF ||| flagNX } ∧
    toFloat .e4m3 false 0 0 (.num true 1 20) = { bits := 0xFF, flags := flagOF ||| flagNX } := by decide +kernel

/-- The block words' formats: FP32 by default, an integer format, a reserved one, and INT8 pairs for BDOT. -/
theorem witness_blockEnv : blockEnv 0 (slotAt (placed plain 0) 0 0) =
    some { core := 0, fmt := .fp32, sat := false, mode := 0, seed := 1 } := by decide +kernel

theorem witness_blockEnv_int : ∃ e, blockEnv 0 (formats 0x22 0x22 (slotAt (placed plain 0) 0 0)) = some e ∧ isInt e.fmt = true :=
  ⟨_, rfl, rfl⟩

theorem witness_format_reserved : 12 ≤ (descriptorAt (formats 0xC 0x55 (slotAt (placed plain 0) 0 0)) 0).toNat % 16 := by
  decide +kernel

theorem witness_dotFormats : ∃ fa fb n, dotFormats (formats 0x20 0x20 (slotAt (placed plain 0) 0 0)) = some (fa, fb, .int32, n) :=
  ⟨_, _, _, rfl⟩

theorem witness_grid : inGrid 0 (rows 3) (cols 15) = true ∧ inGrid 1 (rows 0) (cols 15) = false ∧
    inGrid 0 4 (cols 15) = true ∧ inGrid 15 4 1 = true := by decide +kernel

theorem witness_lanes : (3 : Fin 64).val < laneCount .fp32 ∧ laneCount .fp32 ≤ (4 : Fin 64).val := by decide +kernel

theorem witness_selectors : (∀ k, k < laneCount .fp32 → (0x3210 : Word).toNat / 2 ^ (4 * k) % 16 < laneCount .fp32) ∧
    laneCount .fp32 ≤ (0x4210 : Word).toNat / 2 ^ (4 * 3) % 16 := by decide +kernel

theorem witness_aEffect : aEffect 0 (slotAt (placed plain 0) 0 0) (.addi 9 0 5) = some (.ok partnerOut) := rfl
theorem witness_aEffect_fault : aEffect 0 (slotAt (placed plain 0) 0 0) (.bfx 1 2 63 1) = some (.error 0x04) := rfl

/-! ## Effects of A words, with the spec's worked results -/

/-- What an A word leaves of slot 0 of core 1,477, the core of Table 7.6. -/
def effect (f : Slot → Slot) (i : Instr) : Slot :=
  let sl := f (slotAt (placed plain 0) 0 0)
  match aEffect 1477 sl i with
  | some (.ok o) => applyEffect sl o.eff
  | _ => Slot.reset

/-- g3 after a word on g1 and g2. -/
def into3 (a b : Word) (i : Instr) : Word := (effect (fun sl => gWrite (args a b sl) 3 0) i).regs.g.get 3

/-- One step of a lone word: ADD g3, g1, g2 wraps, and the slot goes on after it (R136). -/
theorem test_add_step : (let v := slotAfter (args (-1) 2) 0b10_000000_00011_00001_00010_000000_000
    v.regs.g.get 3 = 1 ∧ v.regs.pc = 0x800004) := by decide +kernel

/-- The products of Table 7.2's example. -/
theorem test_products : into3 0x8000000000000000 2 (.mul 3 1 2 0) = 0 ∧ into3 0x8000000000000000 2 (.mulh 3 1 2 0) = -1 ∧
    into3 0x8000000000000000 2 (.mulhu 3 1 2 0) = 1 := by decide +kernel

/-- The quotients below Table 7.2. -/
theorem test_quotients : into3 (-7) 2 (.div 3 1 2 0) = -3 ∧ into3 (-7) 2 (.rem 3 1 2 0) = -1 ∧ into3 7 0 (.div 3 1 2 0) = -1 ∧
    into3 7 0 (.rem 3 1 2 0) = 7 ∧ into3 0x8000000000000000 (-1) (.div 3 1 2 0) = 0x8000000000000000 ∧
    into3 0x8000000000000000 (-1) (.rem 3 1 2 0) = 0 := by decide +kernel

/-- The bit fields of R138, and shifts that take six bits of their amount. -/
theorem test_fields : into3 0x12345678 0 (.bfx 3 1 7 12) = 0x45 ∧
    (effect (fun sl => gWrite (args 0xAB 0 sl) 3 0xFFFFFFFF) (.bfi 3 1 7 8)).regs.g.get 3 = 0xFFFFABFF ∧
    into3 1 0x41 (.shl 3 1 2 0) = 2 ∧ into3 0x8000000000000000 63 (.sar 3 1 2 0) = -1 ∧ into3 0 0 (.clz 3 1 0) = 64 := by decide +kernel

/-- CMPLTUI with −1 (Table 7.3), and PXOR with p0 (R140). -/
theorem test_predicates : (effect (args (-2) 0) (.cmpltui 1 1 (-1))).regs.p.get 1 = true ∧
    (effect (args (-1) 0) (.cmpltui 1 1 (-1))).regs.p.get 1 = false ∧ (effect plain (.pxor 1 2 0 0)).regs.p.get 1 = true := by decide +kernel

/-- g3 and FCTL's flags after a floating-point word in a mode. -/
def float3 (mode a b : Word) (i : Instr) : Word × Word :=
  let v := effect (fun sl => { args a b sl with ctl := { sl.ctl with fctl := mode } }) i
  (v.regs.g.get 3, v.ctl.fctl >>> 8)

/-- Table 7.6; flags are NX 1, UF 2, OF 4, DZ 8, NV 16. -/
theorem test_floats : float3 0 0x3F800000 0x33800000 (.fadd 3 1 2 true 0) = (0x3F800000, 1) ∧
    float3 2 0x3F800000 0x33800000 (.fadd 3 1 2 true 0) = (0x3F800001, 1) ∧
    float3 0 0x3FF0000000000000 0x8000000000000000 (.fdiv 3 1 2 false 0) = (0xFFF0000000000000, 8) ∧
    float3 0 0xBFF0000000000000 0 (.fsqrt 3 1 false 0) = (0x7FF8000000171400, 16) ∧
    float3 0 0x8000000000000000 0 (.fmin 3 1 2 false 0) = (0x8000000000000000, 0) ∧
    float3 0 0x7FC00001 0x40400000 (.fmax 3 1 2 true 0) = (0x40400000, 0) := by decide +kernel

theorem test_conversions : float3 0 0x4004000000000000 0 (.fcvti 3 1 false false 0) = (2, 1) ∧
    float3 4 0x4004000000000000 0 (.fcvti 3 1 false false 0) = (3, 1) ∧
    float3 0 0xBFC00000 0 (.fcvti 3 1 true true 0) = (0, 16) := by decide +kernel

/-- A block register of eight equal lanes of 16 bits. -/
def lanes (x : Nat) : Quad := BitVec.ofNat 128 (leNat (List.replicate 8 (leBytes 2 x)).flatten)

/-- BF16 lanes of 1 and 2^−8 (below R169): BADD gives 1 with NX; BFMA of 1 + 2^−7 by 1 − 2^−7 and −1 gives −2^−14 exactly. -/
theorem test_bf16 : (let regs := fun (x y z : Nat) (sl : Slot) => bWrite (bWrite (bWrite (formats 0x56 0x56 sl) 0 (lanes x)) 1 (lanes y)) 2 (lanes z)
    (effect (regs 0x3F80 0x3B80 0) (.badd 2 0 1 0 0)).regs.b.get 2 = lanes 0x3F80 ∧
    (effect (regs 0x3F80 0x3B80 0) (.badd 2 0 1 0 0)).ctl.fctl = 0x100 ∧
    (effect (regs 0x3F81 0x3F7E 0xBF80) (.bfma 2 0 1 0 0)).regs.b.get 2 = lanes 0xB880 ∧
    (effect (regs 0x3F81 0x3F7E 0xBF80) (.bfma 2 0 1 0 0)).ctl.fctl = 0) := by decide +kernel

/-- The BDOT worked out below R176: row i and column j give 4(i + 1)(j + 1). -/
theorem test_bdot : (let f := fun (sl : Slot) => (List.range 4).foldl (fun s i =>
      bWrite (bWrite s (Fin.ofNat 64 (16 * i)) (lanes ([0x3F80, 0x4000, 0x4040, 0x4080].getD i 0))) (Fin.ofNat 64 (16 * i + 4))
        (lanes ([0x3F00, 0x3F80, 0x3FC0, 0x4000].getD i 0))) (formats 0x56 0x56 sl)
    let v := effect f (.bdot 8 0 4 3 0)
    v.regs.b.get 8 = BitVec.ofNat 128 (leNat (numbers 4 [0x40800000, 0x41000000, 0x41400000, 0x41800000])) ∧
    v.regs.b.get 56 = BitVec.ofNat 128 (leNat (numbers 4 [0x41800000, 0x42000000, 0x42400000, 0x42800000])) ∧ v.ctl.fctl = 0) := by
  decide +kernel

/-- Terms that meet each hypothesis of the exact sums: finite ones, infinities of both signs and of one, a product of zero and infinity. -/
theorem witness_sums : (∀ v ∈ [Val.num false 1 0, Val.num true 3 1], Finite v) ∧
    (∀ v ∈ [Val.inf true, Val.inf false], v.isNaN = false) ∧ Val.inf (!true) ∉ [Val.inf true, Val.num false 1 0] ∧
    (elemVal .fp32 0x3F800000).isNaN = false ∧ valOf (elemVal .fp16 0) = 0 ∧ (elemVal .fp16 0x7C00).isInf = true := by
  refine ⟨?_, by decide, by decide, by decide +kernel, ?_, by decide +kernel⟩
  · intro v hv
    simp at hv
    rcases hv with rfl | rfl <;> exact ⟨_, _, _, rfl⟩
  · have h : elemVal .fp16 0 = .num false 0 (-24) := by decide +kernel
    simp [h, valOf, ratOf]

/-- Infinities of both signs create core 5's NaN of group 2, and a NaN of core 100 among the terms gives way to it (R64, R65). -/
theorem test_nan_in_sum :
    ([Val.inf true, Val.inf false].foldl (fun g x => g.addVal x) Gather.start).pre 5 2 0 =
      .ofVal (.nan false true (5 * 1024 + 2)) flagNV ∧
    ([Val.inf true, Val.nan false true (100 * 1024), Val.inf false].foldl (fun g x => g.addVal x) Gather.start).pre 5 2 0 =
      .ofVal (.nan false true (5 * 1024 + 2)) flagNV := by decide +kernel

/-- Zeros of opposite sign, and NaNs whose core fields or signs differ: FMAX gives the earliest in core order (R64, R143). -/
theorem test_nans : float3 0 0 0x8000000000000000 (.fmax 3 1 2 false 0) = (0, 0) ∧
    float3 0 0x7FC00800 0xFFC00400 (.fmax 3 1 2 true 0) = (0xFFC00400, 0) ∧
    float3 0 0xFFC00400 0x7FC00400 (.fmin 3 1 2 true 0) = (0x7FC00400, 0) := by decide +kernel

/-- BEXP2 of the LG6 element for −1/8 ends on a tie, which goes to the even code, ℓ = 0 (R51). -/
theorem test_lg6_tie : (exp2Pre (elemVal .lg6 0x34)).finish .lg6 false 0 0 = { bits := 0, flags := flagNX } := by decide +kernel
/-! ## Control flow, traps and registers -/

/-- A fault cause of U-mode code with a task's failure policy, and a frame. -/
def policy (n : Nat) (frame : Word) (sl : Slot) : Slot :=
  { sl with task := { sl.task with task := word (n * 2 ^ 32), frame := frame } }

theorem witness_jalr : gRead (slotAt (issues (args 0x800000 0x10) (lone (some (.jalr 3 1 2 0)) none)) 0 0) 1 + 0x10 &&& 3 = 0 ∧
    gRead (slotAt (issues (args 0x800000 0x12) (lone (some (.jalr 3 1 2 0)) none)) 0 0) 1 + 0x12 &&& 3 ≠ 0 := by decide +kernel

theorem witness_halt : ((args 0 0 (slotAt (placed plain 0) 0 0)).ctl.uimaskv = 0) ∧
    ({ (slotAt (placed plain 0) 0 0).ctl with uimaskv := 1 } : UserCtl).uimaskv ≠ 0 := by decide +kernel

theorem witness_ifence_ends : (waits plain (lone (some (.ifence 0)) none) .ifence).slots.length = 1 ∧
    (slotAt (waits plain (lone (some (.ifence 0)) none) .ifence) 0 0).wait = .ifence ∧
    (slotAt (waits plain (lone (some (.ifence 0)) none) .ifence) 0 0).sb = [] := ⟨rfl, rfl, rfl⟩

theorem witness_yield_ends : (slotAt (waits plain (lone none none) (.yield 15)) 0 0).wait = .yield 15 ∧
    15 ≤ (coreAt (waits plain (lone none none) (.yield 15)) 0).cycle := ⟨rfl, by decide +kernel⟩

/-- A SYSCALL in U mode with TVEC set, with it zero, and in S mode. -/
def vectored (s : State) : State := withCore (fun c => { c with tvec := c.tvec.set 0 0x900000 }) s

theorem witness_calls : Issues (vectored (issues plain (lone (some (.syscall 0)) none))) 0 0 (lone (some (.syscall 0)) none) none ∧
    (lone (some (.syscall 0)) none).muted = false ∧ tvecOf (coreAt (vectored (issues plain (lone none none))) 0) 0 ≠ 0 ∧
    tvecOf (coreAt (issues plain (lone none none)) 0) 0 = 0 ∧
    (slotAt (issues inS (lone (some (.syscall 0)) none)) 0 0).mode = .supervisor :=
  ⟨⟨⟨rfl, rfl, rfl⟩, rfl⟩, rfl, by decide +kernel, by decide +kernel, rfl⟩

/-- A handler about to return to a suspended wait. -/
def returning (x : Suspended) : State := issues (fun sl => { sl with mode := .supervisor, susp := x }) (lone (some (.tret 0)) none)

theorem witness_tret (x : Suspended) : Issues (returning x) 0 0 (lone (some (.tret 0)) none) none ∧
    (slotAt (returning x) 0 0).mode = .supervisor ∧ (slotAt (returning x) 0 0).susp = x ∧ pRead (slotAt (returning x) 0 0) 0 = true :=
  ⟨⟨⟨rfl, rfl, rfl⟩, rfl⟩, rfl, rfl, rfl⟩

theorem witness_privileged : (slotAt (issues plain (lone (some (.rdc 1 0x2000)) none)) 0 0).mode = .user ∧
    0x2000 ≤ (0x2000 : BitVec 14).toNat ∧ ¬0x2000 ≤ (0x1FFF : BitVec 14).toNat := ⟨rfl, by decide, by decide⟩

theorem witness_policies : ∀ n, n < 4 → (let s := issues (policy n 0x2000) (lone (some (.join 1)) none)
    policyOf (slotAt s 0 0) = n ∧ (slotAt s 0 0).task.frame ≠ 0 ∧ (slotAt s 0 0).mode = .user ∧
    (slotAt s 0 0).task.faultWord.toNat / 256 % 256 = 0 ∧ (lone (some (.join 1)) none).a = none) := by decide +kernel

theorem witness_root : policyOf (slotAt (vectored (issues (policy 3 0) (lone (some (.join 1)) none))) 0 0) = 3 ∧
    (slotAt (vectored (issues (policy 3 0) (lone (some (.join 1)) none))) 0 0).task.frame = 0 ∧
    tvecOf (coreAt (vectored (issues (policy 3 0) (lone (some (.join 1)) none))) 0) 0 ≠ 0 := by decide +kernel

theorem witness_second_fault : ({ (slotAt (placed (policy 1 0x2000) 0) 0 0).task with faultWord := 0x100 } : TaskRec).faultWord.toNat
    / 256 % 256 ≠ 0 := by decide +kernel

theorem witness_numbers : assigned 0x030 = false ∧ assigned 0x2063 = false ∧ assigned 0x005 = true ∧
    (residentOf (coreAt (placed plain 0) 0) 0).isSome = true := by decide +kernel

/-- Values at the edges of what the control registers take. -/
theorem witness_values : ((0x1F05 : Word) &&& ~~~0x1F07 = 0 ∧ (0x1F05 : Word).toNat % 8 ≤ 5) ∧ ¬(0x1F06 : Word).toNat % 8 ≤ 5 ∧
    (0xC0FF : Word) &&& ~~~0xC0FF = 0 ∧ (0x100 : Word) &&& ~~~0xC0FF ≠ 0 ∧
    ((0xFF : Word).toNat < 256 ∧ (0xF5 : Word).toNat / 2 % 4 ≠ 3 ∧ ¬(0xF6 : Word).toNat / 2 % 4 ≠ 3) ∧
    ((0x400000 : Word).toNat % 0x200000 = 0 ∧ 0x400000 ≤ (0x400000 : Word).toNat ∧ ¬0x400000 ≤ (0x200000 : Word).toNat) := by
  decide +kernel

/-- Where the clauses about addresses meet (R70, R73 to R75). -/
theorem test_address_edges : (let s := rooted (placed plain 0)
    [0x3FFF8, 0x40000, 0x5FFF8, 0x60000, 0x00DFFFFFFFFFFFF8, 0x00E0000000000000, 0x00E0800000000000, 0x00EFFFFFFFFFFFF8,
      0x00F000000003FFF8, 0x00F0000000040000, 0x00F0000000100000, 0x00F0000090000000, 0x3FFF4].map
      (fun a => checkAddr s 0 0 (BitVec.ofNat 64 a) 8 .read) =
    [.ok (.pad 0 0x3FFF8), .fault 6, .fault 6, .miss 0x60000, .miss 0x00DFFFFFFFFFFFF8, .fault 8, .fault 6, .fault 6,
      .ok (.pad 0 0x3FFF8), .fault 6, .fault 8, .fault 6, .fault 5]) := by decide +kernel

theorem test_translated : (let s := mapped id (placed plain 0)
    checkAddr s 0 0 0x80FFF8 8 .write = .ok (.phys 0x10FFF8 false) ∧ checkAddr s 0 0 0x810000 8 .read = .miss 0x810000 ∧
    checkAddr (mapped (fun t => { t with w := false }) s) 0 0 0x800000 8 .write = .fault 8 ∧
    checkAddr (mapped (fun t => { t with dSeen := false }) s) 0 0 0x800000 8 .write = .miss 0x800000 ∧
    checkAddr { placed plain 0 with ctxs := [] } 0 0 0x800000 8 .read = .fault 7) := by decide +kernel
/-! ## Memory -/

theorem witness_load_issue : Issues (mapped id (issues (args 0x800010 0) (lone (some (.ld64 3 1 0 0 0)) none))) 0 0
      (lone (some (.ld64 3 1 0 0 0)) none) none ∧
    checkAddr (mapped id (issues (args 0x800010 0) (lone (some (.ld64 3 1 0 0 0)) none))) 0 0 0x800010 8 .read =
      .ok (.phys 0x100010 false) ∧
    coverOf (slotAt (mapped id (issues (args 0x800010 0) (lone (some (.ld64 3 1 0 0 0)) none))) 0 0).sb 0x100010 8 = .none :=
  ⟨⟨⟨rfl, rfl, rfl⟩, rfl⟩, by decide +kernel, by decide +kernel⟩

/-- A buffered store of some, or all, of a load's bytes. -/
theorem witness_cover : coverOf [.store (.pad 0 0x100) [1, 2] none []] (bank0 + 0x100) 4 = .part ∧
    coverOf [.store (.pad 0 0x100) [1, 2] none []] (bank0 + 0x101) 1 = .all := by decide +kernel

theorem witness_ldv : inGrid 0 (rows 0) (cols 1) = true ∧
    checkAddr (placed plain 0) 0 0 0x100 16 .read = .ok (.pad 0 0x100) ∧
    checkAddr (placed plain 0) 0 0 0x110 16 .write = .ok (.pad 0 0x110) ∧ ([Target.pad 0 0x100, .pad 0 0x110]).length = rows 0 * cols 1 := by
  decide +kernel

/-- A load of core 0's own bank, about to return. -/
def loadWait (ps : List Piece) (d : Dest) : State :=
  withBytes (bank0 + 0x100) [0x80, 0x7F] (waits plain (lone (some (.ld16 3 1 0 0 0)) none) (loading 0x100 ps d none 0))

/-- Its piece is read from the bank, from where no write is remembered. -/
theorem witness_load_return : (let s := loadWait [{ tgt := .pad 0 0x100, size := 2 }] (.g 3 2 true)
    coreUp s 0 = true ∧ portClear s 0 0 = true ∧ PieceReads s 0 0 { tgt := .pad 0 0x100, size := 2 } (.plain [0x80, 0x7F]) false) := by
  refine ⟨by decide +kernel, by decide +kernel, .inr ⟨.inr ?_, .inr ⟨?_, ?_, ?_, ?_, ?_⟩⟩⟩ <;> decide +kernel

/-- One of LDV's pieces is read, the other is still to come. -/
theorem test_ldv_halves : (let s := loadWait [{ tgt := .pad 0 0x100, size := 8 }, { tgt := .pad 0 0x108, size := 8 }] (.block 0 1 1)
    (match (slotAt (next (exec (.loadDataReturn 0 0) s)) 0 0).wait with
     | .load l => (l.pieces, l.got.length)
     | _ => ([], 0)) = ([{ tgt := .pad 0 0x108, size := 8 }], 8)) := by decide +kernel

theorem test_load_signed : (slotAt (next (exec (.loadDataReturn 0 0) (loadWait [{ tgt := .pad 0 0x100, size := 1 }] (.g 3 1 true)))) 0
    0).regs.g.get 3 = 0xFFFFFFFFFFFFFF80 := by decide +kernel

theorem test_load_little_endian : (slotAt (next (exec (.loadDataReturn 0 0) (loadWait [{ tgt := .pad 0 0x100, size := 2 }]
    (.g 3 2 false)))) 0 0).regs.g.get 3 = 0x7F80 := by decide +kernel

theorem witness_load_poison : poisonedIn { loadWait [] (.g 3 2 true) with poison := [bank0 + 0x100] } (bank0 + 0x100) 2 = true := by
  decide +kernel

/-- A write that the order of writes remembers: it replaced a zero word at offset 0x100, and releases at scope 5. -/
def pastWrite (party n : Nat) : PastWrite :=
  let h : Head := { scope := 5, place := .slot 1 0, party := party, clock := [(party, n)] }
  { stamp := 1, key := bank0 + 0x100, was := [0, 0, 0, 0, 0, 0, 0, 0], heads := [h]
    by_ := { party := party, die := some 1, place := some (.slot 1 0), n := n, clock := [(party, n)], heads := [h], rmw := false } }

/-- A party of another die may miss that write, until it has read it or the write happens before its read. -/
theorem test_old_value : (let s := loadWait [] (.g 3 2 true)
    let s := { s with order := { s.order with writes := [pastWrite 99 1], count := 1 } }
    let missed := fun (r : Reader) =>
      ((writesTo s (bank0 + 0x100) 2).filter (fun w => !mustSee s r w (bank0 + 0x100) 2)).length
    let r : Reader := { slotReader s 0 0 with die := some 5 }
    missed r = 1 ∧ missed { r with die := some 1 } = 0 ∧ missed { r with party := 99 } = 0 ∧ missed { r with clock := [(99, 1)] } = 0 ∧
    missed { r with reads := [(bank0 + 0x101, 1)] } = 0 ∧ missed { r with reads := [(bank0 + 0x102, 1)] } = 1 ∧
    before (pastWrite 99 1) (bank0 + 0x106) [7, 7, 7] = [0, 0, 7]) := by decide +kernel

/-- The same, with the bytes in the slot's own buffer. -/
def forwarding : State := atSlot 0 (fun sl => { sl with sb := [.store (.pad 0 0x100) [7, 0] none []] })
  (loadWait [{ tgt := .pad 0 0x100, size := 2 }] (.g 3 2 false))

theorem witness_load_forward : (let s := forwarding
    portClear s 0 0 = true ∧ coverOf (slotAt s 0 0).sb (bank0 + 0x100) 2 = .all ∧
    (slotAt (next (exec (.loadDataReturn 0 0) s)) 0 0).regs.g.get 3 = 7) := by decide +kernel

theorem witness_answered : (slotAt (waits plain (lone none none) (.answered (some (3, 7)))) 0 0).wait = .answered (some (3, 7)) := rfl

theorem witness_store_room : (slotAt (placed plain 0) 0 0).sb.length < 8 ∧
    8 ≤ (List.replicate 8 (StoreEntry.fence 5 [])).length := by decide +kernel

/-- A store of core 0 to `t`, about to leave its buffer. -/
def storing (t : Target) : State := atSlot 0 (fun sl => { sl with sb := [.store t [1, 2] none []] }) (placed plain 0)

theorem witness_drain_own : (let s := storing (.pad 0 0x100)
    coreUp s 0 = true ∧ releasable s 0 0 = true ∧ padRoute (coreAt s 0) 0 0x100 = .bank ∧ dieBusy s 0 (bank0 + 0x100) 2 = false ∧
    memRead (next (exec (.storeBufferDrain 0 0) s)).mem (bank0 + 0x101) = 2) := by decide +kernel

theorem witness_drain_away : (let s := storing (.phys 0x100000 false)
    coreUp s 0 = true ∧ releasable s 0 0 = true ∧
    portTurn (flockAt s 0) (sliceOfLine (0x100000 / 128)) 0
      (decide (1 ≤ (bucketOf (flockAt s 0) 0 (sliceOfLine (0x100000 / 128))).count)) = true) := by
  unfold storing
  decide +kernel

theorem witness_drain_stv : (let s := atSlot 0 (fun sl => { sl with
      sb := .fence 5 [] :: List.replicate 7 (.store (.pad 0 0) [1] none [])
      wait := .storing [.store (.pad 0 0) [1] none [], .store (.pad 0 1) [1] none []] }) (placed plain 0)
    (slotAt s 0 0).sb.length = 8 ∧ (slotAt s 0 0).sb.head? = some (.fence 5 []) ∧ releasable s 0 5 = true) := by decide +kernel

/-- A register of an STV leaves in two halves. -/
theorem test_stv_halves : (
    let s := atSlot 0 (fun sl => { sl with sb := [.store (.pad 0 0x100) (List.replicate 16 3) none []] }) (placed plain 0)
    let t := next (exec (.storeBufferDrain 0 0) s)
    (slotAt t 0 0).sb = [.store (.pad 0 0x108) (List.replicate 8 3) none []] ∧ memNat t (bank0 + 0x108) 8 = 0) := by decide +kernel

/-- A write of core 0 in flight to an address of silo memory, and one to a package that no link reaches. -/
def request (t : Target) : Req :=
  { id := 7, core := 0, ctx := 0, home := homeOf t, kind := .write, tgt := t, bytes := cellsAt (keyOf t) [9], who := 0
    by_ := slotWriter (placed plain 0) 0 0 [] none false }

theorem witness_arrival : (let r := request (.phys 0x100000 false)
    let s := { placed plain 0 with reqs := [r] }
    s.reqs.find? (fun q => q.id == r.id) = some r ∧ running s = true ∧ mayArrive s r = true ∧ unreachable s r.tgt = false ∧
    mailboxOffset 0x100000 = none ∧ routeOf s 0 r.tgt = .bank ∧
    memRead (next (exec (.homeRequestArrival 7) s)).mem 0x100000 = 9) := by decide +kernel

theorem witness_arrival_lost : (let r := request (.phys 0x4010000000000 false)
    let s := { placed plain 0 with reqs := [r] }
    unreachable s r.tgt = true ∧ mayArrive s r = true ∧ running s = true) := by decide +kernel

/-! ## Atomics, fences and ports -/

/-- An atomic of core 0's own bank, about to be performed. -/
def atomicWait (op : AtomicOp) (size : Nat) : State :=
  withBytes (bank0 + 0x100) (numbers 4 [5, 1]) (waits plain (lone (some (.aadd 3 1 2 2 0 true)) none)
    (.atomic { addr := 0x100, tgt := .pad 0 0x100, size := size, op := op, operand := 7, d := 3, signed := false, scope := 2
               acq := false, rel := false, queued := false }))

theorem witness_atomic : (let s := atomicWait .add 8
    coreUp s 0 = true ∧ (slotAt s 0 0).sb = [] ∧ portClear s 0 0 = true ∧ dieBusy s 0 (bank0 + 0x100) 8 = false ∧
    routeClear s 0 (.pad 0 0x100) = true ∧ unreachable s (.pad 0 0x100) = false ∧ routeOf s 0 (.pad 0 0x100) = .bank ∧ poisonedIn s (bank0 + 0x100) 8 = false ∧
    memNat (next (exec (.atomicPerform 0 0) s)) (bank0 + 0x100) 8 = 0x10000000C ∧
    (slotAt (next (exec (.atomicPerform 0 0) s)) 0 0).wait = .answered (some (3, 0x100000005))) := by decide +kernel

/-- ACAS that fails writes nothing and returns the word (R188). -/
theorem test_acas_fails : (let t := next (exec (.atomicPerform 0 0) (atomicWait (.cas 4) 4))
    memNat t (bank0 + 0x100) 4 = 5 ∧ (slotAt t 0 0).wait = .answered (some (3, 5))) := by decide +kernel

theorem test_acas_holds : (let t := next (exec (.atomicPerform 0 0) (atomicWait (.cas 5) 4))
    memNat t (bank0 + 0x100) 4 = 7 ∧ (slotAt t 0 0).wait = .answered (some (3, 5))) := by decide +kernel

/-- The last arrival of a barrier of six: the count is 0 and the generation one more (R203). -/
theorem test_bar_completes : (let t := next (exec (.atomicPerform 0 0) (atomicWait (.arrive 6) 8))
    memNat t (bank0 + 0x100) 8 = 0x200000000 ∧ (slotAt t 0 0).wait = .answered none) := by decide +kernel

theorem test_bar_waits : (let t := next (exec (.atomicPerform 0 0) (atomicWait (.arrive 7) 8))
    memNat t (bank0 + 0x100) 8 = 0x100000006 ∧ (slotAt t 0 0).wait = .bar 0x100 1 2) := by decide +kernel

theorem witness_atomic_issue : checkAtomic (placed plain 0) 0 0 0x100 8 true = .ok (.pad 0 0x100) := by decide +kernel

/-- HSIFT's heap of 16 entries at the edges of the bank. -/
theorem witness_hsift : (0x3FF80 : Nat) % 8 = 0 ∧ 0x3FF80 + 8 * 16 ≤ 0x40000 ∧ 0x40000 < 0x3FF88 + 8 * 16 ∧
    (slotAt (placed plain 0) 0 0).pair ≠ .execute ∧
    bankPart (coreAt (placed plain 0) 0) (0x3FF80 / 0x4000) = partOf (coreAt (placed plain 0) 0) 0 := by decide +kernel

theorem witness_heap : (0 < 2 ∧ (numbers 4 [1, 0, 9, 1]).length = 8 * 2) := by decide +kernel

theorem witness_fence : ∀ c : Fin 16, (c.val < 12 ↔ ¬12 ≤ c.val) ∧ (c ≠ 0 → 0 < c.val) := by decide

theorem witness_fence_ends : (let s := waits plain (lone (some (.fence 0 5)) none) (.fenceFull 5)
    coreUp s 0 = true ∧ (slotAt s 0 0).sb = [] ∧ releasable s 0 5 = true ∧
    (slotAt (next (exec (.fenceComplete 0 0) s)) 0 0).regs.pc = 0x800004) := by decide +kernel

theorem witness_pref : regionOf 0x00EFFFFFFFFFFFC0 = .reserved ∧ regionOf 0x40000 = .parison ∧ regionOf 0x3FFC0 = .pad ∧
    (coreAt (placed plain 0) 0).parison.toList.getD 0 Parison.reset = Parison.reset ∧ Parison.reset.state = .free := by
  decide +kernel

/-- Two requests at a slice's port, of contexts 0 and 3. -/
def ported : State :=
  let s := placed plain 0
  { s with flocks := assign s.flocks 0 { flockAt s 0 with
      portQ := [{ slice := 0, ctx := 3, core := 0, slot := 1, line := 8, fill := false },
                { slice := 0, ctx := 0, core := 0, slot := 0, line := 8, fill := false }] } }

theorem witness_ports : flockUp ported 0 = true ∧ canPay (flockAt ported 0) 0 0 = true ∧ canPay (flockAt ported 0) 3 0 = true ∧
    (let g := flockAt (next (exec (.slicePortGrant 0 0) ported)) 0
     g.portLast.get 0 = 3 ∧ g.portQ.map (fun q => q.ctx) = [0]) := by
  decide +kernel

theorem witness_no_port : (flockAt (placed plain 0) 0).portQ = [] := rfl

/-! ## Walks and fetches -/

/-- A context's three-level tables: a leaf of a 64 KiB page would need five; here a 1 GiB leaf stands at the third level. -/
def tables (leaf : Nat) (s : State) : State :=
  withBytes 0x202000 (numbers 8 [leaf]) (withBytes 0x201000 (numbers 8 [0x202001]) (withBytes 0x200000 (numbers 8 [0x201001])
    { s with ctxs := assign s.ctxs 0 { ctxAt s 0 with ptbase := 0x200000 } }))

/-- V, R, W, X and U. -/
def leafBits : Nat := 0x1F

def walkWait (k : Access) (leaf : Nat) : State :=
  tables leaf (waits plain (lone (some (.ld64 3 1 0 0 0)) none) (.walk 0x800000 k 0x800008 true))

theorem witness_walk : (let s := walkWait .write leafBits
    coreUp s 0 = true ∧ (match walkTables s (slotWalker s 0 0) 0x800000 with
      | .ok w => w.entry.pa == 0 && refusal s w.entry .user .write 0x800000 == none && w.marks.length == 1 &&
          w.marks.all (fun e => !e.bits.testBit 5 && memNat s e.addr 8 == e.bits)
      | .error _ => false) = true ∧
    (slotAt (next (exec (.pageWalkComplete 0 0) s)) 0 0).wait = .none ∧
    memNat (next (exec (.pageWalkComplete 0 0) s)) 0x202000 8 = 0x7F) := by decide +kernel

theorem witness_walk_fails : (match walkTables (walkWait .read 0) (slotWalker (walkWait .read 0) 0 0) 0x800000 with
    | .ok _ => 0
    | .error c => c) = 0x07 ∧ (slotAt (walkWait .read 0) 0 0).fmtPending = false := by decide +kernel

theorem witness_fetch : (let s := mapped id (waits plain (lone none none) .fetch)
    (slotAt s 0 0).wait = .fetch ∧ (match tlbFind s 0 0 0x800000 with
      | some t => refusal s t .user .fetch 0x800000 == none && t.aSeen
      | none => false) = true ∧ poisonedIn s 0x100000 8 = false ∧ unreachable s (.phys 0x100000 false) = false ∧
    tlbFind (waits plain (lone none none) .fetch) 0 0 0x800000 = none ∧ (ctxAt s 0).ptbase ≠ 0) := by decide +kernel

/-- The way out of a flock is open: no request is before it, and its bucket has a token. -/
theorem witness_wayOut : WayOut (mapped id (waits plain (lone none none) .fetch)) 0 0 (.phys 0x100000 false) := by
  unfold WayOut
  decide +kernel

theorem witness_pte : (let e : Pte := { addr := 0x200000, bits := 0 }
    (0x200000 : Nat) < 0x00C000000000 ∧ poisonedIn (placed plain 0) 0x200000 8 = false ∧
    e.bits = leNat (viewBytes (placed plain 0) (slotReader (placed plain 0) 0 0) 0 0x200000 8 0x200000) ∧ Pte.malformed 1 { addr := 0, bits := 0x202001 } = false ∧
    Pte.malformed 2 { addr := 0, bits := leafBits } = false ∧ Pte.malformed 1 { addr := 0, bits := leafBits } = true) := by decide +kernel
/-! ## Channels -/

/-- A port of slot 0's thread, at endpoint q0, whose far end is port `far` of core 0. -/
def port (ep : Fin 8) (far : Nat) (recv : Bool) (queue : List ChWord) (allow : Nat) : Port :=
  { Port.reset with
    owner := some { ctx := 0, slot := 0, ep := ep }
    far := BitVec.ofNat 32 (far * 4096)
    recv := recv, queue := queue, allow := allow }

/-- A state in which q0 of slot 0 sends from port 3 to port 4, where q1 receives. -/
def channel (queue : List ChWord) (allow : Nat) (s : State) : State :=
  atSlot 0 (fun sl => { sl with q := (sl.q.set 0 (some 3)).set 1 (some 4) })
    (withCore (fun c => { c with ports := (c.ports.set 3 (port 0 4 false [] allow)).set 4 (port 1 3 true queue 0) }) s)

/-- A data word and a control word. -/
def dataWord : ChWord := { data := 0x77, ctl := false, poison := false, clock := [] }
def ctlWord : ChWord := { data := 0x55, ctl := true, poison := false, clock := [] }

theorem witness_send : (let s := channel [] 1 (issues (args 0x77 0) (lone (some (.send 1 0)) none))
    s.issuing = some (0, 0) ∧ (slotAt s 0 0).q.get 0 = some 3 ∧ (portAt s 0 3).recv = false ∧ 0 < (portAt s 0 3).allow ∧
    (portAt (channel [] 0 s) 0 3).allow = 0 ∧ live s 0 3 = true ∧ (slotAt s 0 0).q.get 2 = none) := by decide +kernel

theorem witness_receive : (let s := channel [dataWord] 0 (issues plain (lone (some (.recv 3 1)) none))
    s.issuing = some (0, 0) ∧ (slotAt s 0 0).q.get 1 = some 4 ∧ (portAt s 0 4).recv = true ∧ (portAt s 0 4).queue = [dataWord] ∧
    (portAt s 0 4).stream = none ∧ (portAt (channel [] 0 s) 0 4).queue = [] ∧ (slotAt s 0 0).handler = .none ∧
    (slotAt (next (exec (.recv 3 1) s)) 0 0).regs.g.get 3 = 0x77) := by decide +kernel

/-- A control word at the head enters the light handler, with the port and the endpoint in UCAUSE (R39). -/
theorem test_control_word : (let s := channel [ctlWord] 0 (issues (fun sl => { sl with ctl := { sl.ctl with lhvec := 0x900000 } })
      (lone (some (.recv 3 1)) none))
    let v := slotAt (next (exec (.recv 3 1) s)) 0 0
    v.handler = .light ∧ v.regs.pc = 0x900000 ∧ v.ctl.ulink = 0x800000 ∧ v.ctl.ucause = BitVec.ofNat 64 (0x55 * 256 + 4 * 8 + 1)) := by
  decide +kernel

/-- A poisoned word at the head, of either kind, and a control word where no light handler is set. -/
theorem witness_receive_faults : ({ dataWord with poison := true } : ChWord).ctl = false ∧ ({ ctlWord with poison := true } : ChWord).ctl = true ∧
    (slotAt (placed plain 0) 0 0).ctl.lhvec = 0 := by decide +kernel

theorem witness_alt : (0 : Word) = 0 ∧ 256 ≤ (0x100 : Word).toNat ∧ (0xFF : Word).toNat < 256 ∧
    (let s := channel [dataWord] 1 (issues (args 3 0) (lone (some (.alt 3 1)) none))
     (slotAt (next (exec (.alt 3 1) s)) 0 0).regs.g.get 3 = 0 ∧
     (slotAt (next (exec (.alt 3 1) (channel [dataWord] 0 s))) 0 0).regs.g.get 3 = 1 ∧
     (slotAt (next (exec (.alt 3 1) (channel [] 0 s))) 0 0).wait = .cond (.anyReady 3)) := by decide +kernel

theorem witness_chgrant : (let s := channel [dataWord] 0 (issues (args 20 0) (lone (some (.chgrant 1 1)) none))
    (portAt s 0 4).recv = true ∧ (portAt s 0 4).stream = none ∧ (portAt (next (exec (.chgrant 1 1) s)) 0 4).granted = 15) := by
  decide +kernel

theorem witness_chbind : (let s := issues (args (0x500003000) 0) (lone (some (.chbind 1 1 2)) none)
    (slotAt s 0 0).q.get 2 = none ∧ (portAt s 0 5).owner = none ∧ (gRead (slotAt s 0 0) 1).toNat < 2 ^ 37 ∧
    (gRead (slotAt s 0 0) 1).toNat % 2 ^ 32 < 2 ^ 17 ∧ (residentOf (coreAt s 0) 0).isSome = true ∧
    (portAt (next (exec (.chbind 1 1 2) s)) 0 5).recv = true) := by decide +kernel

theorem witness_chunbind : (let s := channel [] 0 (waits plain (lone (some (.chunbind 1)) none) (.unbind 1 4))
    (slotAt s 0 0).wait = .unbind 1 4 ∧ (portAt s 0 4).recv = true ∧ live s 0 4 = true ∧ (portAt s 0 3).saved = false ∧
    (portAt s 0 3).recv = false ∧ (portAt s 0 3).stream = none ∧
    (slotAt (next (exec (.chunbindAck 0 0) s)) 0 0).q.get 1 = none) := by decide +kernel

/-- A word on its way to port 4. -/
def inFlight (k : MsgKind) : Msg :=
  { id := 9, fromCore := 0, fromPort := 3, core := 0, port := 4, ctx := 0, slot := 0, mark := 0, kind := k }

theorem witness_arrives : (let s := { channel [] 0 (placed plain 0) with msgs := [inFlight (.word dataWord)] }
    s.msgs.find? (fun x => x.id == 9) = some (inFlight (.word dataWord)) ∧ mayLand s (inFlight (.word dataWord)) = true ∧
    (portAt s 0 4).saved = false ∧ (portAt (next (exec (.channelWordArrival 9) s)) 0 4).queue = [dataWord]) := by decide +kernel

theorem witness_grant : (let s := { channel [] 0 (placed plain 0) with msgs := [{ inFlight (.grant 2) with port := 3 }] }
    mayLand s { inFlight (.grant 2) with port := 3 } = true ∧ (portAt (next (exec (.grantArrival 9) s)) 0 3).allow = 2) := by
  decide +kernel

/-! ## Tasks -/

/-- A packet: entry, five arguments, no format block, and a control word. -/
def packet (ctl : Nat) : List Nat := [0x900000, 1, 2, 3, 4, 5, 0, ctl]

/-- A packet at 0x1000 of core 0's scratchpad, for the thread of slot 0. -/
def spawning (ctl : Nat) (s : State) : State := withBytes (bank0 + 0x1000) (numbers 8 (packet ctl)) s

/-- What a structure that is read whole in one piece needs. -/
theorem reads_struct_of {s : State} {core slot align n : Nat} {addr : Word} {t : Target} {bs : List Byte}
    (h1 : checkAddr s core slot addr align .read = .ok t)
    (h2 : (slotAt s core slot).sb.any (fun e => e.touches (keyOf t) n) = false)
    (h3 : badBytes s (slotAt s core slot).ctx t n = false)
    (h4 : routedBytes s (slotReader s core slot) core (slotAt s core slot).ctx t n = some bs)
    (h5 : (payRange core (slotAt s core slot).ctx t false n s).isSome = true) :
    ∃ us, ReadsStruct s core slot addr align n t bs us := by
  obtain ⟨f, hf, hb⟩ := Option.map_eq_some_iff.mp h4
  obtain ⟨pay, hp⟩ := Option.isSome_iff_exists.mp h5
  exact ⟨_, h1, h2, h3, f, pay, hf, hb, hp, rfl⟩

theorem witness_struct : (let s := spawning 0 (issues (args 0x1000 0) (lone (some (.spawn 1 1)) none))
    ∃ us, ReadsStruct s 0 0 0x1000 64 64 (.pad 0 0x1000) (numbers 8 (packet 0)) us) := by
  apply reads_struct_of <;> decide +kernel

theorem witness_spawn : (let s := spawning 0 (issues (args 0x1000 0) (lone (some (.spawn 1 1)) none))
    (match checkPacket 0 (packetWords (numbers 8 (packet 0))) with | .ok _ => true | .error _ => false) = true ∧
    (slotAt (next (exec (.spawn 1 1) s)) 0 0).wait = .spawn 1 0x1000) := by decide +kernel

/-- Control words at the edges of R22: domain 4 is the last, bit 56 is reserved; a frame in the parison window is no frame. -/
theorem test_packet_edges : (let cause := fun (ctl : Nat) =>
      (match checkPacket 0 (packetWords (numbers 8 (packet ctl))) with | .ok _ => 0 | .error (c, _) => c)
    [cause 0x10, cause 0x14, cause (2 ^ 56), cause 0x3FF00, cause 0x40000, cause 0x5FF00, cause 0x60000] = [0, 4, 4, 0, 6, 6, 0]) := by
  decide +kernel

theorem witness_spawnat : (let s := spawning 0 (issues (args 0x1000 0) (lone (some (.spawnat 1 1 2)) none))
    (gRead (slotAt s 0 0) 2).toNat < 2304 ∧ (residentOf (coreAt s 0) 0).isSome = true ∧ packetClear s 0 0 0 0 = true ∧
    (next (exec (.spawnat 1 1 2) s)).reqs.length = 1 ∧ 2304 ≤ (2304 : Word).toNat) := by decide +kernel

theorem witness_spawn_ends : (let s := spawning 0 (waits plain (lone (some (.spawn 1 1)) none) (.spawn 1 0x1000))
    coreUp s 0 = true ∧ (slotAt s 0 0).sb = [] ∧ releasable s 0 2 = true ∧
    (match residentOf (coreAt s 0) 0 with | some r => hasRoom s r | none => false) = true ∧
    pRead (slotAt (next (exec (.spawnComplete 0 0) s)) 0 0) 1 = true ∧
    ((residentOf (coreAt (next (exec (.spawnComplete 0 0) s)) 0) 0).map (fun r => (r.deque.length, r.spawns))) = some (1, 1)) := by
  decide +kernel

/-- A frame at 0x2000 with counts pending, failures, a reserved word and an escalation. -/
def framed (l : List Nat) (s : State) : State := withBytes (bank0 + 0x2000) (numbers 4 l) s

theorem witness_frame : (let s := framed [0xFFFFFFFE, 0, 0, 0] (placed plain 0)
    (match reachFrame s 0 0 0x2000 with | .ok (t, _) => t == .pad 0 0x2000 | .error _ => false) = true ∧
    dieBusy s 0 (bank0 + 0x2000) 16 = false ∧ memNat s (bank0 + 0x2000) 4 = 0xFFFFFFFE ∧ routeOf s 0 (.pad 0 0x2000) = .bank) := by
  decide +kernel

/-- A packet on its way to core 0's deque, from slot 0 of core 0. -/
def packetReq : Req := {
  id := 7, core := 0, ctx := 0, home := homeOf (.pad 0 0)
  kind := .packet 0 0 (packetWords (numbers 8 (packet 0))) [] none none, tgt := .pad 0 0, bytes := [], who := 0
  by_ := slotWriter (placed plain 0) 0 0 [] none false }

theorem witness_packet_arrives : (let r := packetReq
    let s := { waits plain (lone (some (.spawnat 1 1 2)) none) (.spawnAt 1 0x1000 0 0) with reqs := [r] }
    s.reqs.find? (fun q => q.id == r.id) = some r ∧ running s = true ∧ packetMayArrive s r 0 = true ∧
    (slotAt (next (exec (.spawnatPacketArrival 7) s)) 0 0).wait = .spawnAt 1 0x1000 0 1) := by decide +kernel

theorem witness_join : (let s := framed [0, 0, 0, 6] (issues (args 0x2000 0) (lone (some (.join 1)) none))
    checkAddr s 0 0 0x2000 256 .read = .ok (.pad 0 0x2000) ∧
    (match reach s (slotWalker s 0 0) 0 0 .user 0x2008 8 .write with | .ok (t, _) => t == .pad 0 0x2008 | .error _ => false) = true ∧
    memNat (next (exec (.join 1) s)) (bank0 + 0x200C) 4 = 0 ∧
    (slotAt (next (exec (.join 1) (framed [1, 0, 0, 0] s))) 0 0).wait = .join 0x2000) := by decide +kernel

theorem witness_join_wakes : (let s := framed [0, 1, 0, 0] (waits plain (lone (some (.join 1)) none) (.join 0x2000))
    coreUp s 0 = true ∧ badBytes s 0 (.pad 0 0x2000) 16 = false ∧ dieBusy s 0 (bank0 + 0x2000) 16 = false ∧
    (slotAt (next (exec (.joinWake 0 0) s)) 0 0).regs.pc = 0x800004) := by decide +kernel

/-- A task that has failed with cause 6 and passes it up to its frame (R31). -/
theorem test_retire_frame : (let s := framed [3, 1, 0, 0] (atSlot 0 (policy 3 0x2000)
      (waits plain (lone none none) (.retiring true 6 false)))
    coreUp s 0 = true ∧ (slotAt s 0 0).sb = [] ∧
    (let t := next (exec (.retireFrameUpdate 0 0) s)
     memBytes t (bank0 + 0x2000) 16 = numbers 4 [2, 2, 0, 6] ∧ (slotAt t 0 0).wait = .leaving)) := by decide +kernel

theorem witness_slot_free : (let s := waits plain (lone none none) .leaving
    (slotAt s 0 0).wait = .leaving ∧ (slotAt s 0 0).sb = [] ∧ portClear s 0 0 = true ∧
    (slotAt (next (exec (.retireSlotFree 0 0) s)) 0 0).occupied = false) := by decide +kernel

/-- A packet in the deque of context 0. -/
def queued : State := withCore (fun c => { c with residents := c.residents.map (fun r => { r with
  deque := [{ words := packetWords (numbers 8 (packet 0x60)), note := { id := 0x123, heads := [], pad := none } }] }) }) (placed plain 0)

theorem witness_dispatch : coreUp queued 0 = true ∧ firstFree queued 0 1 = true ∧ offers queued 0 0 ≠ [] ∧
    firstFree queued 0 2 = false := by decide +kernel

/-- Dispatch puts the arguments into g1 to g5 and the task id into g6 and RSEED (R28). -/
theorem test_dispatch : (let v := slotAt (next (exec (.taskDispatch 0 1) queued)) 0 1
    v.regs.pc = 0x900000 ∧ v.regs.g.toList.take 8 = [0, 1, 2, 3, 4, 5, 0x123, 0] ∧ v.ctl.rseed = 0x123) := by decide +kernel

theorem witness_bar : ∀ v ∈ ([0, 2 ^ 36, 12 * 2 ^ 32 + 1] : List Nat), v % 2 ^ 32 = 0 ∨ 2 ^ 36 ≤ v ∨ 12 ≤ v / 2 ^ 32 % 16 := by decide

theorem witness_bar_wakes : (let s := withBytes (bank0 + 0x100) (numbers 4 [0, 2]) (waits plain (lone (some (.bar 1 2)) none) (.bar 0x100 1 2))
    (match reach s (slotWalker s 0 0) 0 0 .user 0x100 8 .read with | .ok (t, _) => t == .pad 0 0x100 | .error _ => false) = true ∧
    dieBusy s 0 (bank0 + 0x100) 8 = false ∧ memNat s (bank0 + 0x104) 4 = 2 ∧
    (slotAt (next (exec (.barWake 0 0) s)) 0 0).wait = .none) := by decide +kernel
/-! ## Watches, interrupts, handles, entries -/

/-- A watch of a slot on 0x100 of core 0's bank, with an event or none. -/
def watch (slot : Nat) (e : Option Nat) : Watch := { slot := slot, tgt := .pad 0 0x100, event := e, stolen := false }

def watched (ws : List Watch) (s : State) : State := withCore (fun c => { c with watches := ws }) s

theorem witness_mwarm :
    (let s := watched ((List.range 8).map (fun k => watch (k + 1) none)) <|
      issues (args 0x100 0) (lone (some (.mwarm 1)) none)
    checkAddr s 0 0 0x100 8 .read = .ok (.pad 0 0x100) ∧ regionOf 0x100 = .pad ∧
    8 ≤ ((coreAt s 0).watches.filter (fun w => w.slot != 0 || w.stolen)).length ∧
    (coreAt (next (exec (.mwarm 1) s)) 0).watches.length = 9 ∧
    ((coreAt (next (exec (.mwarm 1) s)) 0).watches.head?.map (fun w => (w.stolen, w.event))) = some (true, some 2)) := by decide +kernel

theorem witness_lowest : LowestEvent (watched [watch 0 (some 2), watch 1 (some 0)] (placed plain 0)) 0 0 2 :=
  ⟨⟨watch 0 (some 2), by decide +kernel, rfl, rfl⟩, by decide +kernel⟩

theorem witness_mwait : (let s := watched [watch 0 none] (issues (args 0 0) (lone (some (.mwait 3 2)) none))
    (slotAt (next (exec (.mwait 3 2) s)) 0 0).wait = .mwait 3 0 16 ∧
    (slotAt (next (exec (.mwait 3 2) (watched [watch 0 (some 0)] s))) 0 0).regs.pc = 0x800004) := by decide +kernel

theorem witness_mwdis : watchedPlace (placed plain 0) 0 0 0x100 = some (.pad 0 0x100) ∧
    watchedPlace (placed plain 0) 0 0 0x800000 = none := by decide +kernel

theorem witness_watch_ends : (let s := watched [watch 0 (some 0)] (waits plain (lone (some (.mwait 3 2)) none) (.mwait 3 4 11))
    (4 ≠ 0 ∧ 11 + 4 ≤ (coreAt s 0).cycle) ∧ (slotAt (next (exec (.mwaitWake 0 0) s)) 0 0).regs.g.get 3 = 0 ∧
    (slotAt (next (exec (.mwaitTimeout 0 0) (watched [watch 0 none] s))) 0 0).regs.g.get 3 = 1) := by decide +kernel

theorem witness_uisend : (let s := issues (args 0x1000 7) (lone (some (.uisend 1 2)) none)
    (gRead (slotAt s 0 0) 1).toNat < 2 ^ 48 ∧ (gRead (slotAt s 0 0) 2).toNat < 8 ∧ (residentOf (coreAt s 0) 0).isSome = true ∧
    (next (exec (.uisend 1 2) s)).msgs.length = 1 ∧ (0x500001000 : Nat) / 2 ^ 32 % 2 ^ 16 ≠ (slotAt s 0 0).ctx) := by decide +kernel

theorem witness_interrupt : (let s := { placed plain 0 with msgs := [{ inFlight (.interrupt 5) with port := 0 }] }
    coreUp s 0 = true ∧ absentEntry (coreAt s 0) 0 = none ∧ (slotAt s 0 0).occupied = true ∧ (slotAt s 0 0).ctx = 0 ∧
    (slotAt (next (exec (.uisendArrival 9) s)) 0 0).ctl.uipend = 32 ∧ parkedAt (coreAt s 0) 0 0 = none) := by decide +kernel

theorem witness_stall :
    (let s := atSlot 0 (fun sl => { sl with stall := some { code := 2, start := 5, limit := 10, posted := false } }) <|
      placed plain 0
    coreUp s 0 = true ∧ 5 + 10 ≤ (coreAt s 0).cycle ∧ (next (exec (.stallReport 0 0) s)).records.map (fun r => (r.cause, r.wait)) =
      [(0x12, 2)]) := by decide +kernel

/-- A job of the context of slot 0, with its sequence, kind, state and body. -/
def job (n kind : Nat) (st : JobState) (b : JobBody) : Job :=
  { newJob (placed plain 0) 0 0 kind n b with state := st, order := 100 + n }

/-- Jobs started so far, with those of them whose records are kept. -/
def withJobs (count : Nat) (l : List Job) (s : State) : State :=
  { withCore (fun c => { c with residents := c.residents.map (fun r => { r with jobs := count }) }) s with jobs := l, tick := 1000 }

theorem witness_handles :
    (let s := withJobs 1 [{ job 0 2 .done (.accZero 0 0) with status := 5, faulted := true, cause := 6 }] <|
      issues (args 0x20000 0) (lone (some (.jwait 3 1)) none)
    startedJobs s 0 0 = 1 ∧ (0x20000 : Nat) / 65536 % 16 = 2 ∧ (0x20000 : Nat) % 65536 < 1 ∧
    (slotAt (next (exec (.jwait 3 1) s)) 0 0).regs.g.get 3 = 6 * 1024 + 512 + 5 ∧
    (slotAt (next (exec (.jwait 3 1) (withJobs 1 [] s))) 0 0).regs.g.get 3 = 256 ∧
    (slotAt (next (exec (.jwait 3 1) (withJobs 1 [job 0 2 .running (.accZero 0 0)] s))) 0 0).wait = .cond (.jobDone 0)) := by
  decide +kernel

/-- A slot about to issue, with what comes before its bundle. -/
def entryState (f : Slot → Slot) : State := vectored (placed (fun sl => f { sl with ctl := { sl.ctl with uimaskv := 0xFF } }) 0)

theorem witness_entries : (let e : EngineFault := { cause := 6, value := 0x40, write := false, handle := 0x20000, ctx := 0 }
    let s := entryState (fun sl => { sl with engineFaults := [e] })
    coreUp s 0 = true ∧ (coreAt s 0).spent = false ∧ chosenSlot s 0 = some 0 ∧ (slotAt s 0 0).fmtPending = false ∧ (slotAt s 0 0).dispatchFault = none ∧
    (slotAt s 0 0).mode = .user ∧ (slotAt s 0 0).engineFaults.find? (fun f => f.ctx == 0) = some e) := by decide +kernel

theorem witness_event_entry : (let v := slotAt (next (exec (.trapEntry 0 0) (entryState (fun sl => { sl with asyncEvents := [(0, 0x55)] })))) 0 0
    v.mode = .supervisor ∧ v.regs.pc = 0x900000 ∧ v.trap.tval = 0x55 ∧ v.trap.tcause = 0x8010) := by decide +kernel

theorem witness_completion_entry : (let v := slotAt (next (exec (.copyCompletionEntry 0 0) (entryState (fun sl => { sl with
      ccq := [{ handler := 0xA00000, xfrid := 3, clock := [] }] })))) 0 0;
    v.handler = .user ∧ v.regs.pc = 0xA00000 ∧ v.ctl.xfrid = 3 ∧ v.ctl.ulink = 0x800000) := by decide +kernel

/-- Vector 1 pending, its entry read from UIVEC + 8 (R210). -/
theorem witness_vector_entry : (let s := withBytes (bank0 + 0x108) (numbers 8 [0xB00000]) (entryState (fun sl => { sl with
      ctl := { sl.ctl with uipend := 2, uivec := 0x100 } }));
    checkAddr s 0 0 0x108 8 .read = .ok (.pad 0 0x108) ∧ coverOf (slotAt s 0 0).sb (bank0 + 0x108) 8 = .none ∧
    (let v := slotAt (next (exec (.userInterruptEntry 0 0) s)) 0 0
     v.handler = .user ∧ v.regs.pc = 0xB00000 ∧ v.ctl.uipend = 0)) := by decide +kernel

/-- A switch request at slot 0's home cycle, for a thread that waits for a barrier. -/
theorem witness_switch : (let s := withCore (fun c => { c with cycle := 16 }) (vectored (atSlot 0 (fun sl => { sl with switchReq := true })
      (waits plain (lone (some (.bar 1 2)) none) (.bar 0x100 1 2))));
    coreUp s 0 = true ∧ (coreAt s 0).spent = false ∧ (coreAt s 0).cycle % 16 = 0 ∧ switchable s 0 0 = true ∧ (slotAt s 0 0).await = .none ∧
    (let v := slotAt (next (exec (.switchRequestTaken 0 0) s)) 0 0
     v.mode = .supervisor ∧ v.susp = .bar 1 0x100 2 ∧ v.trap.tcause = 0x8011 ∧ v.trap.tpc = 0x800004)) := by decide +kernel

/-! ## The matrix engine and copies -/

/-- A ring record of four tiles of 256 bytes at 0x8000, head 1 and tail 3 (Table 4.2). -/
def ringRecord : List Byte := numbers 4 [0x8000, 0x100] ++ numbers 2 [4, 1, 3, 0]

theorem witness_ringset : (let s := withBytes (bank0 + 0x1000) ringRecord (issues (args 0x1000 0) (lone (some (.ringset 1 2)) none))
    ringOf (coreAt s 0) 0 ringRecord = some { base := 0x8000, size := 0x100, count := 4, head := 1, tail := 3, marks := [] } ∧
    ringBusy s 0 0 2 = false ∧ ringAt s 0 0 2 = none ∧ ringAt (next (exec (.ringset 1 2) s)) 0 0 2 =
      some { base := 0x8000, size := 0x100, count := 4, head := 1, tail := 3, marks := [] }) := by decide +kernel

/-- A push of two fills the ring, and one of three does not fit (R231). -/
theorem test_ringadv : (let r : Ring := { base := 0x8000, size := 0x100, count := 4, head := 1, tail := 3, marks := [] }
    let s := withRing (issues (args 2 0) (lone (some (.ringadv 1 2)) none)) 0 0 2 r
    (ringAt (next (exec (.ringadv 1 2) s)) 0 0 2).map (fun x => (x.head, x.tail)) = some (1, 5) ∧
    (ringAt (next (exec (.ringadv 1 2) (atSlot 0 (args 3 0) s))) 0 0 2).map (fun x => x.tail) = some 3) := by decide +kernel

/-- A shape record: A, B and C in the bank, one group, 2 by 2 values, memory feeds, no flags. -/
def shapeRecord : List Byte := numbers 8 [0x2000, 0x3000, 0x4000] ++ numbers 4 [32, 32, 0, 1] ++ numbers 2 [2, 2] ++
  numbers 1 [0xFF, 0xFF, 0, 0] ++ List.replicate 16 0

theorem witness_mxma : (let s := withBytes (bank0 + 0x1000) shapeRecord (issues (fun sl => args 0x1000 0 (formats 0x20 0x20 sl))
      (lone (some (.mxma 3 1)) none));
    (matFormats 0x20 0x20).isSome = true ∧ shapeBad s 0 0 0 (shapeOf 0x1000 shapeRecord) shapeRecord .int8 .int8 = false ∧
    (slotAt (next (exec (.mxma 3 1) s)) 0 0).regs.g.get 3 = 0x10000 ∧ (next (exec (.mxma 3 1) s)).jobs.length = 1) := by
  decide +kernel

theorem witness_shape_bad : shapeBad (placed plain 0) 0 0 0 { shapeOf 0x1000 shapeRecord with m := 65 } shapeRecord .int8 .int8 = true ∧
    matFormats 0x55 0x20 = none := by decide +kernel

/-- A matrix job of that shape. -/
def matJob : MatJob := {
  shape := shapeOf 0x1000 shapeRecord, fdA := 0x20, fdB := 0x20, mode := 0, step := 0, fedA := 0, fedB := 0
  rowsA := 0, rowsB := 0, opened := false, rseed := 1, failed := false, rows := 0 }

def matState (st : JobState) (m : MatJob) : State := withJobs 1 [job 0 1 st (.matrix m)] (placed plain 0)

theorem witness_matrix_start : (let s := matState .queued matJob
    flockUp s 0 = true ∧ runningJob s 0 = none ∧ (nextEngineJob s 0).isSome = true ∧
    ((next (exec (.matrixJobStart 0) s)).jobs.map (fun j => j.state)) = [.running]) := by decide +kernel

theorem witness_tile : matFormats 0x20 0x20 = some (.int8, .int8, .int32, 32) ∧ (0x20 : Word).getLsbD 9 = false ∧
    ((List.replicate 2 (List.replicate 32 1, 127) : Panel).length = matJob.shape.m) ∧
    (stepTile 0 matJob { vals := [], tag := .int32, owner := some 0 } (List.replicate 2 (List.replicate 32 1, 127))
      (List.replicate 2 (List.replicate 32 255, 127))).1 = List.replicate 4 0xFFFFFFE0 := by decide +kernel

/-- A step of a running job reads its panels from the bank and adds their products: rows of ones times rows of twos. -/
def stepState : State := withBytes (bank0 + 0x2000) (List.replicate 64 1) (withBytes (bank0 + 0x3000) (List.replicate 64 2)
  (matState .running matJob))

theorem witness_matrix_step : (let s := stepState
    (runningJob s 0).isSome = true ∧ matJob.step < matJob.shape.groups ∧ matJob.operands.length = 2 ∧
    (matJob.operands.map (fun o => (o.stepRows s (job 0 1 .running (.matrix matJob)) 0).isSome)) = [true, true] ∧
    (let t := next (exec (.matrixStep 0 false false) s)
     (t.jobs.map (fun j => match j.body with | .matrix m => m.step | _ => 0)) = [1] ∧
     (jobAccum t (job 0 1 .running (.matrix matJob)) 0).at 1 1 = 64)) := by decide +kernel

theorem witness_matrix_end : (let s := matState .running { matJob with step := 1 }
    (runningJob s 0).isSome = true ∧ (s.jobs.map (fun j => j.order)).Nodup ∧
    ((next (exec (.matrixJobComplete 0) s)).jobs.map (fun j => j.state)) = [.done]) := by decide +kernel

theorem witness_mxzero : (let s := withJobs 1 [job 0 1 .running (.accZero 1 2)] (placed plain 0)
    (runningJob s 0).isSome = true ∧ jobAccum (next (exec (.mxzeroJob 0) s)) (job 0 1 .running (.accZero 1 2)) 1 =
      { vals := [], tag := .int32, owner := some 0 }) := by decide +kernel

/-- A parameter block: one row of eight FP32 elements from 0x2000 to 0x3000 (Table 10.4). -/
def copyRecord : List Byte := numbers 8 [0x2000, 0x3000] ++ numbers 4 [1, 8, 32, 32] ++ numbers 1 [5, 5, 0, 0] ++
  List.replicate 28 0

theorem witness_cpy : (let s := withBytes (bank0 + 0x1000) copyRecord (issues (args 0x1000 0) (lone (some (.cpy 3 1)) none))
    copyRecord.length = 64 ∧ elemOf 5 = some .fp32 ∧
    copyBad .plain (copyBlockOf 0x1000 copyRecord) copyRecord .fp32 .fp32 = false ∧
    copyBad .stream (copyBlockOf 0x1000 copyRecord) copyRecord .fp32 .fp32 = true ∧
    (slotAt (next (exec (.cpy 3 1) s)) 0 0).regs.g.get 3 = 0x20000) := by decide +kernel

def copyJob : CopyJob := { blk := copyBlockOf 0x1000 copyRecord, flocks := none, port := none, row := 0, elem := 0, rseed := 1 }

def copying (st : JobState) (c : CopyJob) : State := withJobs 1 [job 0 2 st (.copy c)] (placed plain 0)

theorem witness_copy_start : (let s := copying .queued copyJob
    coreUp s 0 = true ∧ ((next (exec (.copyStart 0 0 0) s)).jobs.map (fun j => j.state)) = [.running]) := by decide +kernel

theorem witness_copy_turn : (let s := withBytes (bank0 + 0x2000) (numbers 4 [1, 2, 3, 4, 5, 6, 7, 8]) (copying .running copyJob)
    flockUp s 0 = true ∧
    (match nextMover s 0 with | some (.copy j c) => c.row == 0 && j.order == 100 | _ => false) = true ∧
    memBytes (next (exec (.copyTurn 0) s)) (bank0 + 0x3000) 32 = numbers 4 [1, 2, 3, 4, 5, 6, 7, 8]) := by decide +kernel

theorem witness_copy_end : (let s := copying .running { copyJob with row := 1 }
    ((next (exec (.copyComplete 0 0 0) s)).jobs.map (fun j => j.state)) = [.done] ∧ threadPlace s 0 0 = .slot 0) := by decide +kernel

theorem witness_cpyq :
    (let s := withJobs 1 [job 0 2 .running (.copy { copyJob with row := 1 })] <|
      issues (args 0x20000 0) (lone (some (.cpyq 3 1)) none)
    startedJobs s 0 0 = 1 ∧ (slotAt (next (exec (.cpyq 3 1) s)) 0 0).regs.g.get 3 = 1) := by decide +kernel

/-- The other structures that instructions read, each read whole. -/
theorem witness_structs :
    (∃ us, ReadsStruct (withBytes (bank0 + 0x1000) ringRecord (placed plain 0)) 0 0 0x1000 16 16 (.pad 0 0x1000) ringRecord us) ∧
    (∃ us, ReadsStruct (withBytes (bank0 + 0x1000) shapeRecord (placed plain 0)) 0 0 0x1000 64 64 (.pad 0 0x1000) shapeRecord us) ∧
    (∃ us, ReadsStruct (withBytes (bank0 + 0x1000) copyRecord (placed plain 0)) 0 0 0x1000 64 64 (.pad 0 0x1000) copyRecord us) ∧
    (∃ us, ReadsStruct (framed [0, 0, 0, 6] (placed plain 0)) 0 0 0x2000 256 16 (.pad 0 0x2000) (numbers 4 [0, 0, 0, 6]) us) := by
  refine ⟨?_, ?_, ?_, ?_⟩ <;> apply reads_struct_of <;> decide +kernel

/-- A step that can be made whole in a state: it has its tokens, and its work does not wait or fault. -/
def wholeIn {α : Type} (s : State) (j : Job) (spans : List Span) (f : Eng α) : Bool :=
  match payLines j.party (spans.flatMap (fun x => (piecesOf x.addr x.len).map (fun q => (q.1, q.2, x.kind)))) j.paid s with
  | (true, _, us) =>
    (match f (applyAll s us) with
     | .done _ _ => true
     | _ => false)
  | _ => false

theorem whole_of {α : Type} {s : State} {j : Job} {spans : List Span} {f : Eng α} (h : wholeIn s j spans f = true) :
    ∃ v u, Whole s j spans f v u := by
  unfold wholeIn at h
  split at h
  · next p us hp =>
    split at h
    · next v vs hv => exact ⟨v, _, p, us, vs, hp, hv, rfl⟩
    · simp at h
  · simp at h

/-- The panels of a step, and a row of a panel, that are read in the core's own bank. -/
theorem witness_whole : ∃ v u, Whole stepState (job 0 1 .running (.matrix matJob)) [{ addr := 0x2000, len := 64, kind := .read }]
    (eRead (job 0 1 .running (.matrix matJob)).party 0x2000 64) v u := whole_of (by decide +kernel)

/-- A write of an engine that can be made whole. -/
theorem witness_whole_write : ∃ v u, Whole stepState (job 0 1 .running (.matrix matJob)) [{ addr := 0x4000, len := 8, kind := .write }]
    (eWrite (job 0 1 .running (.matrix matJob)).party 0x4000 (List.replicate 8 1)) v u := whole_of (by decide +kernel)

/-- A queued job whose A panels the copy unit moves into ring 2, which has room. -/
def panelState : State :=
  withRing (withBytes (bank0 + 0x2000) (List.replicate 64 1) (matState .queued { matJob with shape := { matJob.shape with ringA := 2 } })) 0 0 2
    { base := 0x8000, size := 0x100, count := 4, head := 1, tail := 1, marks := [] }

/-- A panel's turn moves its rows to the ring's tail tile and pushes them; the job has not taken its accumulator (R218, R221, R236). -/
theorem witness_panel : (let s := panelState
    (match nextMover s 0 with | some (.panel j m o k r) => j.order == 100 && m.rowsA == 0 && o.isA && k == 2 && r.tail == 1 | _ => false) = true ∧
    (let t := next (exec (.matrixPanelFetch 0) s)
     memBytes t (bank0 + 0x8100) 64 = List.replicate 64 1 ∧ (ringAt t 0 0 2).map (fun r => r.tail) = some 2 ∧
     (t.jobs.map (fun j => match j.body with | .matrix m => (m.fedA, m.rowsA, m.opened) | _ => (0, 0, true))) = [(1, 0, false)])) := by
  decide +kernel

/-- The oldest queued job is waited for, while its thread's stores have not left. -/
theorem witness_job_waits : nextEngineJob (withJobs 2
    [{ job 0 1 .queued (.matrix matJob) with mark := 5 }, job 1 1 .queued (.accZero 1 2)] (placed plain 0)) 0 = none := by
  decide +kernel

/-- An accumulator of another context, or of another format, as a job finds it. -/
theorem witness_accums : (Accum.reset).owner ≠ some 0 ∧ ({ Accum.reset with owner := some 0, tag := .fp64 } : Accum).tag ≠ .int32 := by
  decide +kernel

/-- The waits that a switch request may suspend or give up, with no bundle and with one. -/
theorem witness_switch_waits :
    (let at_ := fun (i : Option Issue) (w : Wait) => withCore (fun c => { c with cycle := 16 }) (vectored (atSlot 0 (fun sl =>
      { sl with issue := i, switchReq := true, wait := w }) (placed plain 0)))
    (∀ w ∈ [Wait.none, .fetch, .halt, .replay, .retiring false 0 true, .bar 0x100 1 2, .job 0], switchable (at_ none w) 0 0 = true) ∧
    ∀ w ∈ [Wait.replay, .cond .storeRoom, .join 0x2000, .retiring true 6 true, .storing [.store (.pad 0 0) [1] none []], .bar 0x100 1 2,
      .job 0, .mwait 3 0 4], switchable (at_ (some (lone (some (.join 1)) none)) w) 0 0 = true) := by decide +kernel

/-- What an STV has still to store goes with its slot. -/
theorem test_switch_stv : (
    let s := withCore (fun c => { c with cycle := 16 }) (vectored (atSlot 0 (fun sl => { sl with
      issue := some (lone (some (.stv 0 1 0 0 0 0)) none), switchReq := true, wait := .storing [.store (.pad 0 0) [1] none []] })
      (placed plain 0)))
    (slotAt (next (exec (.switchRequestTaken 0 0) s)) 0 0).stv = some (0x800000, 1)) := by decide +kernel

/-- A slot whose core has spent its cycle, or that is not chosen in it, takes no entry. -/
theorem witness_no_entry : (coreAt (withCore (fun c => { c with spent := true }) (placed plain 0)) 0).spent = true ∧
    chosenSlot (placed plain 0) 0 ≠ some 3 := by decide +kernel

/-- A stream that feeds a port, and a record that is gone. -/
theorem witness_stream : copyBad .stream { copyBlockOf 0x1000 copyRecord with completion := 1, dst := 0 } copyRecord .fp32 .fp32 = false ∧
    (withJobs 1 [] (placed plain 0)).jobs = [] := by decide +kernel

/-! ## The faults of bundles -/

/-- A pair whose A word reports its fault, in a thread that goes on (R33, R113). -/
def mutedPair : Issue := { pair (.join 1) with muted := true }

theorem witness_bundle_faults :
    (slotAt (issues (policy 0 0x2000) (pair (.join 1))) 0 0).issue = some (pair (.join 1)) ∧
    (slotAt (issues (policy 0 0x2000) mutedPair) 0 0).issue = some mutedPair ∧ (pair (.join 1)).muted = false ∧
    (slotAt (issues (policy 0 0x2000) (pair (.join 1))) 0 0).await = .none ∧
    (match companion 0 (slotAt (issues (policy 0 0x2000) (pair (.join 1))) 0 0) (pair (.join 1)) with
     | .ok o => o.isSome | .error _ => false) = true ∧
    -- CLZ with a field that must be zero: the A word's own fault
    (match companion 0 (slotAt (issues plain { pair (.join 1) with aBad := true }) 0 0) { pair (.join 1) with aBad := true } with
     | .ok _ => 0 | .error k => k) = 0x01 := by decide +kernel

/-- An illegal bundle of a thread under IGNORE is a NOP of its size, and its first word is the value of the fault (Table 16.7). -/
theorem witness_illegal_bundle : (let s := issues (policy 0 0x2000) (pair (.join 1))
    (slotAt s 0 0).mode = .user ∧ policyOf (slotAt s 0 0) = 0 ∧ (slotAt s 0 0).passed = none ∧ (slotAt s 0 0).await = .none ∧
    (pair (.join 1)).aOver = none ∧ (pair (.join 1)).aBad = false ∧
    (slotAt (after (illegalBundle 0 0 (pair (.join 1))) s) 0 0).regs.pc = 0x800008 ∧
    -- in S mode it is posted (R303)
    ((after (illegalBundle 0 0 (pair (.join 1))) (issues inS (pair (.join 1)))).records.map (fun r => (r.cause, r.value))) =
      [(0x02, 0x12345678)]) := by decide +kernel

/-- Addresses that no bundle is fetched at (R74, R149). -/
theorem witness_fetch_causes : regionOf 0x00F0000090000000 = .reserved ∧ regionOf 0x800002 ≠ .reserved ∧ regionOf 0x800002 = .ordinary ∧
    (regionOf 0 ≠ .reserved ∧ regionOf 0 ≠ .ordinary) ∧ fetchCause 0x800002 = some 0x05 ∧ fetchCause 0 = some 0x06 ∧
    (slotAt (issues (policy 2 0) (pair (.join 1))) 0 0).task.frame = 0 ∧
    (after (killSelf 0 0) (issues (policy 2 0) (pair (.join 1)))).records.map (fun r => r.cause) = [0x15] := by decide +kernel

/-! ## The predictor and the parison buffers -/

/-- The descriptor of 128 bytes from 0x800040 for index 0, and every 128 for the next (Table 10.7), of a site. -/
def fetchRecord (count site : Nat) : List Byte := numbers 8 [0x800040, 128] ++ numbers 4 [count] ++ numbers 2 [site, 0] ++ numbers 8 [0]

/-- A state with parison buffer 0 of core 0 replaced, and the context allowed buffers 0 and 7. -/
def buffered (p : Parison) (s : State) : State := withCore (fun c => { c with
  parison := c.parison.set 0 p
  residents := c.residents.map (fun r => { r with bufmask := 0x81, pfthr := 2 }) }) s

/-- Entry 5 of core 0's predictor. -/
def predicts (x : PredEntry) (s : State) : State := withCore (fun c => { c with predictor := c.predictor.set 5 x }) s

/-- Site 0 and key 5 select entry 5; its confidence is the threshold's. -/
theorem witness_pfetch :
    (let s := predicts { owner := some 0, valid := true, conf := 2, tag := 5, pred := 9 } <|
      buffered Parison.reset <| withBytes (bank0 + 0x1000) (fetchRecord 128 0) (issues (args 5 0x1000) (lone (some (.pfetch 3 1 2)) none))
    (fetchRecord 128 0).length = 32 ∧ (bufferAt s 0 0).state = .free ∧
    (let t := next (exec (.pfetch 3 1 2) s)
     (slotAt t 0 0).regs.g.get 3 = 0 ∧ (bufferAt t 0 0).state = .predicted ∧ (bufferAt t 0 0).index = 9)) := by decide +kernel

/-- Buffer 0 is taken: the next of the context is 7; the entry is another key's and is claimed. -/
theorem witness_pfetch_unpredicted :
    (let s := predicts { owner := some 0, valid := true, conf := 7, tag := 7, pred := 9 } <|
      buffered { Parison.reset with state := .void } <| withBytes (bank0 + 0x1000) (fetchRecord 0x4000 0xFFFF) <|
      issues (args 6 0x1000) (lone (some (.pfetch 3 1 2)) none)
    let t := next (exec (.pfetch 3 1 2) s)
    (slotAt t 0 0).regs.g.get 3 = 7 ∧ (bufferAt t 0 7).state = .unpredicted ∧ (bufferAt t 0 7).entry = 5 ∧
    (predEntry t 0 5).conf = 0) := by decide +kernel

theorem witness_pfetch_none :
    (let s := buffered { Parison.reset with state := .void } <| withCore (fun c => { c with parison := c.parison.set 7 { Parison.reset with state := .landed } }) <|
      withBytes (bank0 + 0x1000) (fetchRecord 8 0) <| issues (args 6 0x1000) (lone (some (.pfetch 3 1 2)) none)
    (slotAt (next (exec (.pfetch 3 1 2) s)) 0 0).regs.g.get 3 = 0xFFFFFFFFFFFFFFFF) := by decide +kernel

/-- A buffer of slot 0 that fetches 128 bytes at the index 9. -/
def parison (st : BufState) : Parison := { Parison.reset with
  state := st, key := 5, entry := 5, desc := { base := 0x800040, stride := 128, count := 128, site := 0 }, index := 9 }

def confirming (v : Word) (p : Parison) : State :=
  predicts { owner := some 0, valid := true, conf := 7, tag := 5, pred := 9 } <| buffered p <|
    issues (args 0 v) (lone (some (.pconf 1 2)) none)

theorem witness_pconf : (let s := confirming 9 (parison .predicted)
    s.mem = [] ∧ s.poison = [] ∧ (parison .predicted).ctx = (slotAt s 0 0).ctx ∧
    (let t := next (exec (.pconf 1 2) s)
     (bufferAt t 0 0).state = .inFlight ∧ (bufferAt t 0 0).hit = true ∧ (predEntry t 0 5).conf = 7)) := by decide +kernel

theorem witness_pconf_miss : (let t := next (exec (.pconf 1 2) (confirming 0xFFFF { parison .predicted with got := [1] }))
    (bufferAt t 0 0).state = .inFlight ∧ (bufferAt t 0 0).hit = false ∧ (bufferAt t 0 0).got = [] ∧ (bufferAt t 0 0).index = 0xFFFF ∧
    (predEntry t 0 5).conf = 6) := by decide +kernel

/-- A page that the predicted fetch has read, and that still stands. -/
theorem witness_pconf_page : (let s := tables leafBits (confirming 9 { parison .predicted with pages := [(0x800000, 0x800000, 15)], arrived := true })
    (match walkTables s (slotWalker s 0 0) 0x800000 with
      | .ok w => w.entry.pa == 0 && pageBits w.entry == 15
      | .error _ => false) = true ∧ (bufferAt (next (exec (.pconf 1 2) s)) 0 0).state = .landed) := by decide +kernel

theorem witness_predictor :
    (let s := predicts { owner := some 0, valid := true, conf := 7, tag := 5, pred := 9 } <|
      buffered (parison .landed) <| issues (args 0 0xF00050009) (lone (some (.pfget 3 1)) none)
    (∀ m, m < 16 → bufferLoad (slotAt s 0 m) 0 = none) ∧ (coreAt s 0).parked = [] ∧
    (bufferAt (next (exec (.pcanc 1) s)) 0 0).state = .free ∧
    (slotAt (next (exec (.pfstat 3 1) s)) 0 0).regs.g.get 3 = 0x90005 ∧
    (slotAt (next (exec (.pfget 3 1) (atSlot 0 (args 5 0) s))) 0 0).regs.g.get 3 = 0xF00050009 ∧
    (slotAt (next (exec (.pfget 3 1) s)) 0 0).regs.g.get 3 = 0 ∧
    (predEntry (next (exec (.pfset 1 2) s)) 0 0).tag = 5 ∧
    (predEntry (next (exec .pfclr (atSlot 0 inS s))) 0 5) = PredEntry.reset) := by decide +kernel

/-- The buffer's first line: 64 bytes to the end of the line. -/
def fetching (p : Parison) (f : TlbEntry → TlbEntry) : State := mapped f (buffered p (placed plain 0))

theorem witness_fetch_line : (let p := { parison .predicted with index := 0 }
    let s := withBytes 0x100040 [1, 2, 3] (fetching p id)
    coreUp s 0 = true ∧ p.mark ≤ (slotAt s 0 p.slot).sbOut ∧ p.desc.count - p.got.length = 128 ∧
    specPlace s 0 0x800040 = some 0x800040 ∧ tlbFind s 0 0 0x800040 = some (page id) ∧
    refusal s (page id) .user .read 0x800040 = none ∧ routedBytes s p.reader 0 0 (.phys 0x100040 false) 64 =
      some ([1, 2, 3] ++ List.replicate 61 0) ∧ badBytes s 0 (.phys 0x100040 false) 64 = false ∧
    insideFlock s 0 0 (.phys 0x100040 false) = false ∧
    (bucketOf (flockAt s 0) 0 (sliceOfLine (0x100040 / 128))).spec = 8 ∧
    portTurn (flockAt s 0) (sliceOfLine (0x100040 / 128)) 0 true = true ∧
    (let t := next (exec (.speculativeFetchLine 0 0) s)
     (bufferAt t 0 0).got = [1, 2, 3] ++ List.replicate 61 0 ∧ (bufferAt t 0 0).pages = [(0x800000, 0x100000, 15)])) := by
  decide +kernel

theorem witness_fetch_forbidden : (let p := { parison .predicted with index := 0 }
    specPlace (placed plain 0) 0 0x40000 = none ∧
    (bufferAt (next (exec (.speculativeFetchLine 0 0) (fetching p (fun e => { e with spec := false })))) 0 0).state = .void ∧
    (bufferAt (next (exec (.speculativeFetchLine 0 0) (fetching p (fun e => { e with spec := true })))) 0 0).state = .predicted) := by
  decide +kernel

theorem witness_lands : (let p := { parison .inFlight with index := 0, got := List.replicate 120 7 ++ List.replicate 8 9 }
    let t := next (exec (.parisonDataLand 0 0) (fetching p id))
    p.got.length = p.desc.count ∧ (bufferAt t 0 0).state = .landed ∧
    memBytes t (keyOf (.parison 0 0 120)) 8 = List.replicate 8 9) := by decide +kernel

theorem witness_refetch : (let p := { parison .inFlight with index := 0 }
    let s := withBytes 0x100040 [1, 2, 3] (fetching p id)
    (let w : Party := { core := 0, ctx := 0, part := 0, mode := .user, who := .fetch p.clock }
     (match w.reach s 0x800040 .read with
      | .ok (t, _) => t == .phys 0x100040 false && (payOut s 0 0 t false).isSome
      | .error _ => false) = true ∧
     (match eRead w 0x800040 64 s with
      | .done bs _ => bs.length
      | _ => 0) = 64) ∧
    ((bufferAt (next (exec (.parisonDataLand 0 0) s)) 0 0).got.take 3) = [1, 2, 3] ∧
    (bufferAt (next (exec (.parisonDataLand 0 0) (fetching p (fun e => { e with r := false })))) 0 0).state = .faulted) := by
  decide +kernel

/-! ## The drover -/

/-- Two rows and two columns, scores from 0x2000, capacities at 0x2100, prices at 0x2200, results at 0x2300, status at 0x2400. -/
def droverRecord (n m stride : Nat) : List Byte := numbers 8 [0x2000, 0x2100, 0x2200, 0x2300, 0x2400] ++ numbers 2 [n, m] ++
  numbers 4 [stride] ++ List.replicate 16 0

def auctioneer (sl : Slot) : Slot := args 0x1000 0 { sl with ctl := { sl.ctl with aeeps := 1 } }

theorem witness_aejob : (let s := withBytes (bank0 + 0x1000) (droverRecord 256 64 256) (issues auctioneer (lone (some (.aejob 3 1)) none))
    (droverRecord 256 64 256).length = 64 ∧ (slotAt (next (exec (.aejob 3 1) s)) 0 0).regs.g.get 3 = 0x30000 ∧
    droverBad (droverDesc 0x1000 (droverRecord 257 64 256) (slotAt s 0 0)) (droverRecord 257 64 256) = true ∧
    droverBad (droverDesc 0x1000 (droverRecord 2 2 4) (slotAt s 0 0)) (droverRecord 2 2 4) = true) := by decide +kernel

def auction : DroverJob := {
  desc := droverDesc 0x1000 (droverRecord 2 2 8) (auctioneer Slot.reset), score := [], cap := [], price := [], held := [none, none]
  rounds := 0, abort := false, started := false, loaded := false, wrote := 0, refusal := none }

/-- Its vectors: the two rows both want column 0 most, and each column takes one row. -/
def vectors : DroverJob := { auction with
  started := true, loaded := true, score := [[10, 4], [8, 1]], cap := [1, 1], price := [0, 0] }

def withAuction (st : JobState) (d : DroverJob) (s : State) : State := withJobs 1 [job 0 3 st (.drover d)] s

theorem witness_aeres : (let s := withAuction .running { vectors with rounds := 7 } (issues (args 0x30000 0) (lone (some (.aeres 3 1)) none))
    startedJobs s 0 0 = 1 ∧ (slotAt (next (exec (.aeres 3 1) s)) 0 0).regs.g.get 3 = 0x200020007 ∧
    (slotAt (next (exec (.aeres 3 1) { s with jobs := [] })) 0 0).regs.g.get 3 = 0x700000000 ∧
    ((next (exec (.aeabort 1) s)).jobs.map (fun j => (j.drover.map (fun d => d.abort)))) = [some true]) := by decide +kernel

/-- One, a third, infinity and a NaN in Q15.16 (R259). -/
theorem witness_scores : floatVal .fp32 0x3F800000 = .num false (2 ^ 23) (-23) ∧ toQ 0x3F800000 = 0x10000 ∧
    floatVal .fp32 0x7F800000 = .inf false ∧ toQ 0x7F800000 = 0x7FFFFFFF ∧ toQ 0xFF800000 = -0x80000000 ∧
    toQ 0x7FC00000 = -0x80000000 ∧ toQ 0x37000000 = 0 ∧ toQ 0x37C00000 = 2 := by decide +kernel

/-- Row 0 bids 7, row 1 bids 8, both for column 0, which keeps row 1's and asks 8; then row 0 takes column 1 at 0 + 2 + 1 (R260). -/
theorem witness_round : auction.desc.n = 2 ∧ vectors.held.length = 2 ∧ (∀ x ∈ vectors.held, x = none) ∧
    vectors.round.held = [none, some (0, 8)] ∧ vectors.round.price = [8, 0] ∧
    vectors.round.round.held = [some (1, 3), some (0, 8)] ∧ vectors.round.round.price = [8, 3] := by decide +kernel

def auctionState : State := withBytes (bank0 + 0x2000) (numbers 4 [0x3F800000, 0, 0, 0x3F800000]) <|
  withBytes (bank0 + 0x2100) [1, 1] <| withBytes (bank0 + 0x2200) (numbers 4 [3, 0xFFFFFFFF]) <|
  withAuction .queued auction (placed plain 0)

theorem witness_drover_start : (let s := auctionState
    coreUp s 0 = true ∧ runningDrover s 0 = none ∧ (nextDrover s 0).isSome = true ∧ (s.jobs.map (fun j => j.order)).Nodup ∧
    (s.jobs.all (fun j => j.ready s))) := by decide +kernel

theorem witness_drover_loads : (let t := next (exec (.droverJobStart 0) auctionState)
    (t.jobs.map (fun j => j.drover.map (fun d => d.score))) = [some [[0x10000, 0], [0, 0x10000]]] ∧
    (t.jobs.map (fun j => j.drover.map (fun d => (d.loaded, d.cap)))) = [some (true, [1, 1])] ∧
    (t.jobs.map (fun j => j.drover.map (fun d => d.price))) = [some [3, -1]] ∧
    ((next (exec (.droverRound 0) t)).jobs.map (fun j => j.info)) = [1]) := by decide +kernel

theorem witness_drover_refuses :
    (let s := withAuction .queued { auction with desc := { auction.desc with eps := 0 } } (placed plain 0)
    ((next (exec (.droverJobStart 0) s)).jobs.map (fun j => j.drover.map (fun d => d.refusal))) = [some (some 3)] ∧
    (let s := withAuction .running { auction with started := true } (placed plain 0)
     ((next (exec (.droverJobStart 0) s)).jobs.map (fun j => j.drover.map (fun d => d.refusal))) = [some (some 2)])) := by
  decide +kernel

theorem witness_drover_end : (let d := { vectors with held := [some (1, 3), none], price := [8, -1], rounds := 1024 }
    let t := next (exec (.droverJobEnd 0) (withAuction .running d (placed plain 0)))
    memBytes t (bank0 + 0x2200) 8 = numbers 4 [8, 0xFFFFFFFF] ∧ memBytes t (bank0 + 0x2300) 2 = [1, 255] ∧
    memNat t (bank0 + 0x2400) 8 = 0x104000001 ∧ t.jobs.map (fun j => (j.state, j.status, j.info)) = [(.done, 1, 1024)]) := by
  decide +kernel

/-- A job aborted in the queue writes its status word only (R263). -/
theorem witness_drover_dropped :
    (let t := next (exec (.droverJobEnd 0) (withAuction .queued { auction with abort := true } (placed plain 0)))
    memNat t (bank0 + 0x2400) 8 = 0x200000101 ∧ t.mem.length = 3) := by decide +kernel

/-! ## Expert slices -/

/-- A context whose counters lie in the page at 0x800000, with a quota in slices. -/
def slices (quota : Nat) (l : List Slice) (s : State) : State :=
  let s := mapped id s
  { s with
    ctxs := assign s.ctxs 0 { ctxAt s 0 with escbase := 0xA00000, slices := l }
    pkg := { s.pkg with quotas := [(0, quota)] } }

def slice (tag : Nat) (st : SliceState) : Slice := { tag := tag, state := st, pins := 0, used := 0, pinned := 0, victim := none, evictAt := 0 }

/-- Slices 64 and 128 are of experts 1 and 2 of layer 0, whose counters are 9 and 4. -/
def requesting (quota : Nat) (l : List Slice) : State :=
  withBytes 0x100000 (numbers 2 [0, 9, 4]) <| slices quota l <| { issues (args 192 0) (lone (some (.escreq 3 1)) none) with tick := 500 }

def statesAfter (i : Instr) (s : State) : List (Nat × SliceState × Nat) :=
  (ctxAt (next (exec i s)) 0).slices.map (fun x => (x.tag, x.state, x.pins))

theorem witness_slice_words : (let s := requesting 2 [slice 64 .resident]
    (ctxAt s 0).escbase ≠ 0 ∧ ((ctxAt s 0).slices.map (fun x => x.tag)).Nodup ∧ s.jobs = [] ∧ (sliceAt s 0 192).pins < 65535 ∧
    (slotAt (next (exec (.escreq 3 1) s)) 0 0).regs.g.get 3 = 0x40000 ∧
    statesAfter (.escreq 3 1) s = [(64, .resident, 0), (192, .filling, 0)] ∧
    statesAfter (.escpin 1) s = [(64, .resident, 0), (192, .filling, 1)] ∧
    statesAfter (.escunpin 1) s = [(64, .resident, 0)]) := by decide +kernel

/-- With a full quota the slice of the lower counter goes; with a pin on it, the other; with both pinned the request is refused. -/
theorem witness_victims :
    statesAfter (.escreq 3 1) (requesting 2 [slice 64 .resident, slice 128 .resident]) =
      [(64, .resident, 0), (128, .evicting, 0), (192, .filling, 0)] ∧
    statesAfter (.escreq 3 1) (requesting 2 [slice 64 .resident, { slice 128 .resident with pins := 1 }]) =
      [(128, .resident, 1), (64, .evicting, 0), (192, .filling, 0)] ∧
    ((next (exec (.escreq 3 1) (requesting 1 [{ slice 64 .resident with pins := 1 }]))).jobs.map (fun j => (j.state, j.status))) =
      [(.done, 5)] ∧
    ((next (exec (.escreq 3 1) (requesting 0 []))).jobs.map (fun j => (j.state, j.status))) = [(.done, 5)] := by decide +kernel

/-- Requests and pins of a slice in each of the other states. -/
theorem witness_slice_states :
    ((next (exec (.escreq 3 1) (requesting 1 [slice 192 .resident]))).jobs.map (fun j => (j.state, j.status))) = [(.done, 0)] ∧
    ((next (exec (.escreq 3 1) (requesting 1 [slice 192 .filling]))).jobs.map (fun j => j.state)) = [.queued] ∧
    statesAfter (.escreq 3 1) (requesting 1 [slice 192 .evicting]) = [(192, .resident, 0)] ∧
    statesAfter (.escpin 1) (requesting 1 [slice 192 .evicting]) = [(192, .resident, 1)] ∧
    statesAfter (.escunpin 1) (requesting 1 [{ slice 192 .resident with pins := 65535 }]) = [(192, .resident, 65534)] := by
  decide +kernel

theorem witness_escq : (let s := requesting 3 [{ slice 128 .resident with pins := 2 }]
    routedBytes s (slotReader s 0 0) 0 0 (.phys 0x100004 false) 2 = some (numbers 2 [4]) ∧
    (slotAt (next (exec (.escq 3 1) (atSlot 0 (args 128 0) s))) 0 0).regs.g.get 3 = 0x400020002 ∧
    (slotAt (next (exec (.escq 3 1) (atSlot 0 (args 0x100000000 0) s))) 0 0).regs.g.get 3 = 0x100010003) := by decide +kernel

/-- Two counts at 0x1000, for layer 0. -/
def histogram (w : Wait) : State :=
  withBytes (bank0 + 0x1000) (numbers 2 [5, 0xFFFF]) <| withBytes 0x100000 (numbers 2 [8, 9]) <| slices 1 [] <|
    waits plain (lone (some (.eschist 1 2 1)) none) w

theorem witness_eschist_issue : (let s := requesting 1 []
    (checkPieces s 0 0 0x1000 2 .read 2).toOption.isSome = true ∧
    (slotAt (next (exec (.eschist 1 2 1) (atSlot 0 (args 0x1000 0x203FF) s))) 0 0).wait = .eschist 0x1000 1023 2 true [] ∧
    (slotAt (next (exec (.eschist 1 2 1) (atSlot 0 (args 0x1000 0x20005) s))) 0 0).wait = .eschist 0x1000 5 2 true []) := by
  decide +kernel

/-- Counters of 8 and 9, whose line is paid for, and counts of 5 and 65535: they add, and saturate (R269). -/
theorem witness_eschist : (let s := histogram (.eschist 0x1000 0 2 false [0x100000 / 128])
    coreUp s 0 = true ∧ releasable s 0 6 = true ∧ (slotAt s 0 0).sb = [] ∧
    memBytes (next (exec (.loadDataReturn 0 0) s)) 0x100000 4 = numbers 2 [13, 0xFFFF] ∧
    (slotAt (next (exec (.loadDataReturn 0 0) s)) 0 0).wait = .none) := by decide +kernel

/-- A fill of slice 192 that has read `line` lines, for a request and for a pin. -/
def filling (line : Nat) (x : Slice) : State :=
  slices 1 [x] (withJobs 2 [job 0 4 .queued (.slice 192 false line), job 1 4 .queued (.slice 192 true 0)] (placed plain 0))

theorem witness_fill : (let s := filling 16384 (slice 192 .filling)
    running s = true ∧ ((fillJob s 0 192).map (fun p => p.1.n)) = some 0 ∧
    (readSlice (job 0 4 .queued (.slice 192 false 16384)) 192 16384 16384 s).fault = none ∧
    statesAfter (.sliceFillComplete 0 192) s = [(192, .resident, 0)] ∧
    ((next (exec (.sliceFillComplete 0 192) s)).jobs.map (fun j => j.state)) = [.done, .done]) := by decide +kernel

/-- A read of a line that the context's tokens do not reach ends the turn. -/
theorem witness_fill_goes_on : (let s := mapped (fun e => { e with va := 0xC00000, pa := 0x100000 }) (filling 0 (slice 192 .filling))
    let s := { s with flocks := assign s.flocks 0 { flockAt s 0 with
      buckets := (List.range 8).map (fun k => { Bucket.reset 0 k with count := 0 }) } }
    let r := readSlice (job 0 4 .queued (.slice 192 false 0)) 192 16384 0 { s with ctxs := assign s.ctxs 0 { ctxAt s 0 with
      escbase := 0xC00000 - 192 * 0x200000 } }
    r.line ≤ 16384) := by decide +kernel

theorem witness_eviction : (let s := slices 2 [slice 128 .evicting, { slice 192 .filling with victim := some 128 }] (placed plain 0)
    sliceRead s 0 128 = false ∧
    ((ctxAt (next (exec (.sliceEvictionComplete 0 128) s)) 0).slices.map (fun x => (x.tag, x.victim))) = [(192, none)]) := by
  decide +kernel

/-! ## The KV translator -/

/-- A table of eight home entries and one more, at 0x300000, for tenant 0 (Table 11.7): entry k is as `e` says, and the ninth is free. -/
def kvTable (e : Nat → List Nat) (s : State) : State :=
  withBytes 0x300040 ((List.range 9).flatMap (fun k => numbers 4 (e k))) <|
  withBytes 0x300000 (numbers 4 [8, 1, 8]) { s with ctxs := assign s.ctxs 0 { ctxAt s 0 with kvtable := 0x300000 } }

/-- The lines of the table, as a job or a thread that has paid for them names them (R333). -/
def kvLines : List Nat := [0x6000, 0x6001]

/-- No entry in use. -/
def kvFree (_ : Nat) : List Nat := [0, 0, 0, 0xFFFFFFFF]

/-- Every home entry in use, for block 7 of sequence 9. -/
def kvFull (k : Nat) : List Nat := if k < 8 then [9, 7, 0x10000, 0xFFFFFFFF] else kvFree k

/-- Entry 6 maps block 3 of sequence 5, with a count of uses. -/
def kvOne (n k : Nat) : List Nat := if k = 6 then [5, 3, n * 0x10000, 0xFFFFFFFF] else kvFree k

def kvState (e : Nat → List Nat) : State := kvTable e (placed plain 0)

def kvOutcome (e : Nat → List Nat) (op : Nat) : Int :=
  match (kvOperation (kvState e) 0 op 5 3).result with
  | .ok v => v.1
  | .error c => -100 - c.1

theorem witness_kv_header : (kvHeader (kvState kvFree) 0).result.toOption =
    some { base := 0x300000, home := 8, beyond := 1, free := 8, tenant := 0 } := by decide +kernel

/-- An empty table: the block is not found, and takes the first free probe of its bucket. -/
theorem witness_kv_empty : kvOutcome kvFree 0 = -1 ∧ kvOutcome kvFree 2 = -1 ∧
    kvOutcome kvFree 1 = (((5 * 2 ^ 32 + 3) * 0x9E3779B97F4A7C15 % 2 ^ 64 / 2 ^ 32 % 8 + 2 ^ 32 : Nat) : Int) := by decide +kernel

/-- A block found, at counts of 1, 2 and the greatest. -/
theorem witness_kv_hit : kvOutcome (kvOne 1) 0 = 6 ∧ kvOutcome (kvOne 1) 1 = 0x200000006 ∧ kvOutcome (kvOne 1) 2 = 6 ∧
    kvOutcome (kvOne 2) 2 = 0x100000006 ∧ kvOutcome (kvOne 0xFFFF) 1 = -2 := by decide +kernel

/-- A bucket whose probes are all in use takes the free list's entry, or refuses. -/
theorem witness_kv_full : kvOutcome kvFull 1 = 0x100000008 ∧
    (match (kvOperation (withBytes 0x300008 (numbers 4 [0xFFFFFFFF]) (kvState kvFull)) 0 1 5 3).result with
      | .ok v => v.1
      | .error _ => 0) = -1 ∧ (kvOperation (placed plain 0) 0 0 5 3).result.toOption = none := by decide +kernel

theorem witness_kv_words : (let s := issues (args 5 3) (lone (some (.kvxl 3 1 2)) none)
    (slotAt (next (exec (.kvxl 3 1 2) s)) 0 0).wait = .kv 0 3 5 3 [] ∧
    (slotAt (next (exec (.kvexp 3 1 2) (atSlot 0 (args 0x1000 0x100000000000) s))) 0 0).regs.g.get 3 = 0x50000 ∧
    (slotAt (next (exec (.kvexp 3 1 2) (atSlot 0 (args 0x1000 0x100100000000) s))) 0 0).regs.g.get 3 = 0 ∧
    (slotAt (next (exec (.kvimp 3 1) (atSlot 0 (args 0x1000 0) s))) 0 0).regs.g.get 3 = 0x50000) := by decide +kernel

theorem witness_kv_runs : (let s := kvTable (kvOne 1) (waits plain (lone (some (.kvins 3 1 2)) none) (.kv 1 3 5 3 kvLines))
    coreUp s 0 = true ∧ (slotAt s 0 0).sb = [] ∧ dieSettled s (dieOf 0) = true ∧
    (payKeys 0 0 (kvOperation s 0 1 5 3).lines kvLines s).1 = true ∧
    (slotAt (next (exec (.kvTranslatorOp 0 0) s)) 0 0).regs.g.get 3 = 0x200000006 ∧
    memNat (next (exec (.kvTranslatorOp 0 0) s)) 0x3000AA 2 = 2) := by decide +kernel

/-- The digest of "abc", from the standard that R277 names. -/
theorem test_sha256 : sha256 [0x61, 0x62, 0x63] = numbers 1 [0xBA, 0x78, 0x16, 0xBF, 0x8F, 0x01, 0xCF, 0xEA, 0x41, 0x41, 0x40, 0xDE,
    0x5D, 0xAE, 0x22, 0x23, 0xB0, 0x03, 0x61, 0xA3, 0x96, 0x17, 0x7A, 0x9C, 0xB4, 0x10, 0xFF, 0x61, 0xF2, 0x00, 0x15, 0xAD] := by
  decide +kernel

def sessionKey : Vector Word 4 := Vector.replicate 4 0x0123456789ABCDEF

/-- The record of one block, entry 6, of sequence 5. -/
def prefixBody : List Byte := recordBytes Ctx.reset 5 [6]

/-- Entry 6 maps block 0 of sequence 5. -/
def prefixTable (k : Nat) : List Nat := if k = 6 then [5, 0, 0x10000, 0xFFFFFFFF] else kvFree k

def prefixState (b : JobBody) : State := withJobs 1 [{ job 0 5 .queued b with paid := kvLines }] (kvState prefixTable)

/-- Block 0 of sequence 5 is at entry 6 of the bucket's probes whatever its bucket: there are eight of both. -/
theorem witness_export : (let s := prefixState (.kvExport 0x1000 5 1 (some sessionKey))
    (kvJob s 0 0 0).isSome = true ∧ (exportBlocks s 0 5 1).result.toOption = some [6] ∧
    (let j := job 0 5 .queued (.kvExport 0x1000 5 1 (some sessionKey))
     (payLines j.party ((piecesOf 0x1000 128).map (fun q => (q.1, q.2, .write))) [] s).1 = true)) := by decide +kernel

theorem witness_export_ends : (let t := next (exec (.kvExportJob 0 0 0) (prefixState (.kvExport 0x1000 5 1 (some sessionKey))))
    (t.jobs.map (fun j => (j.state, j.status, j.info))) = [(.done, 0, 1)] ∧
    memBytes t (bank0 + 0x1000) 128 = prefixBody ++ hmac (keyBytes sessionKey) prefixBody) := by decide +kernel

theorem witness_export_refused :
    ((next (exec (.kvExportJob 0 0 0) (prefixState (.kvExport 0x1000 5 1 none)))).jobs.map (fun j => j.status)) = [5] ∧
    ((next (exec (.kvExportJob 0 0 0) (prefixState (.kvExport 0x1000 9 1 (some sessionKey))))).jobs.map (fun j => j.status)) = [4] := by
  decide +kernel

theorem witness_import : (let t := next (exec (.kvImportJob 0 0 0) (withBytes (bank0 + 0x1000)
      (prefixBody ++ hmac (keyBytes sessionKey) prefixBody) (prefixState (.kvImport 0x1000 (some sessionKey)))))
    (t.jobs.map (fun j => (j.state, j.status, j.info))) = [(.done, 0, 1)] ∧ memNat t 0x3000AA 2 = 2) := by decide +kernel

/-- A MAC of zeros, another key, and an entry that no longer maps the block. -/
theorem witness_import_refused : (let mac := hmac (keyBytes sessionKey) prefixBody
    (importWrites (kvState prefixTable) 0 sessionKey prefixBody (List.replicate 32 0)).result.toOption = some none ∧
    (importWrites (kvState prefixTable) 0 (Vector.replicate 4 0) prefixBody mac).result.toOption = some none ∧
    (importWrites (kvState kvFree) 0 sessionKey prefixBody mac).result.toOption = some none ∧
    (kvEntry (kvState kvFree) { base := 0x300000, home := 8, beyond := 1, free := 8, tenant := 0 } 6).result.toOption.isSome = true ∧
    leNat ((prefixBody.drop 0x40).take 4) = 6 ∧ leNat ((prefixBody.drop 0x2C).take 4) = 1) := by decide +kernel

/-! ## Tile pages -/

/-- Five levels of tables whose last holds the sixteen leaves of the page at 0x800000. -/
def tileTables (leaf : Nat → Nat) (s : State) : State :=
  withBytes 0x204000 (numbers 8 ((List.range 16).map leaf)) <| withBytes 0x203020 (numbers 8 [0x204001]) <|
    withBytes 0x202000 (numbers 8 [0x203001]) (withBytes 0x201000 (numbers 8 [0x202001]) (withBytes 0x200000 (numbers 8 [0x201001])
      { s with ctxs := assign s.ctxs 0 { ctxAt s 0 with ptbase := 0x200000, poolbase := 0x300000 } }))

/-- Leaves with the tile bit and R, W, X and U: without a frame, with one, and freed. -/
def bareLeaf (_ : Nat) : Nat := 0x41E
def heldLeaf (k : Nat) : Nat := 0x47F + 0x400000 + 4096 * k
def freedLeaf (k : Nat) : Nat := 0xC1E + 0x400000 + 4096 * k

/-- A pool of two frames, with room for four. -/
def pool (top : Nat) (s : State) : State :=
  withBytes 0x310000 (numbers 8 [0x500000, 0x510000]) (withBytes 0x300000 (numbers 4 [top, 4] ++ numbers 8 [0x310000] ++ numbers 4 [7]) s)

def tileState (leaf : Nat → Nat) : State := pool 2 (tileTables leaf (issues (args 0x800000 0) (lone (some (.pprobe 3 1)) none)))

theorem witness_tile_words : (let s := tileState heldLeaf
    (tileLeaves s (slotWalker s 0 0) 0x800000).toOption = some { addr := 0x204000, bits := (List.range 16).map heldLeaf } ∧
    (poolOf s 0).map (fun p => p.header) = some 0x300000 ∧ (∀ b ∈ (List.range 16).map heldLeaf, b < 2 ^ 64) ∧
    (slotAt (next (exec (.pcommit 3 1) s)) 0 0).wait = .pcommit 3 0x800000 [] ∧
    (slotAt (next (exec (.pprobe 3 1) s)) 0 0).regs.g.get 3 = 0x20000000D ∧
    (let t := next (exec (.pdecommit 3 1) s)
     memNat t 0x204078 8 = 0xC1E + 0x40F000 ∧ memNat t 0x300010 4 = 8 ∧ (ctxAt t 0).freeing.map (fun f => (f.page, f.slot, f.mark)) = [(0x800000, 0, 0)])) := by decide +kernel

theorem witness_tile_states :
    (slotAt (next (exec (.pprobe 3 1) (tileState bareLeaf))) 0 0).regs.g.get 3 = 0x200000000 ∧
    (slotAt (next (exec (.pprobe 3 1) (tileState freedLeaf))) 0 0).regs.g.get 3 = 0x200000002 ∧
    (slotAt (next (exec (.pdecommit 3 1) (tileState bareLeaf))) 0 0).regs.g.get 3 = 1 ∧
    (tileLeaves (tileState (fun _ => 0x1E)) (slotWalker (tileState (fun _ => 0x1E)) 0 0) 0x800000).toOption = none := by decide +kernel

/-- A PCOMMIT that has paid for some lines. -/
def committing (leaf : Nat → Nat) (top : Nat) (paid : List Nat) : State :=
  pool top (tileTables leaf (waits plain (lone (some (.pcommit 3 1)) none) (.pcommit 3 0x800000 paid)))

/-- The lines of the frame at 0x510000. -/
def paidFrame : List Nat := (List.range 512).map (fun k => 0x510000 / 128 + k)

/-- Lines all paid for cost nothing more. -/
theorem payKeys_paid (flock ctx : Nat) (l paid : List Nat) (s : State) (h : ∀ x ∈ l, paid.contains x = true) :
    payKeys flock ctx l paid s = (true, paid, []) := by
  induction l with
  | nil => rfl
  | cons x t ih =>
    rw [payKeys, if_pos (h x (by simp))]
    exact ih (fun y hy => h y (by simp [hy]))

theorem witness_commit_paid : payKeys 0 0 paidFrame paidFrame (committing bareLeaf 2 paidFrame) = (true, paidFrame, []) :=
  payKeys_paid _ _ _ _ _ (fun x hx => by simpa using hx)

theorem witness_commit : (let s := committing bareLeaf 2 paidFrame
    coreUp s 0 = true ∧ dieBusy s 0 0x204000 128 = false ∧ poisonedIn s 0x300000 64 = false ∧
    memNat s (0x310000 + 8 * 1) 8 = 0x510000 ∧ (0x51FFFF : Nat) < siloEnd ∧
    (∀ b ∈ (List.range 16).map bareLeaf, b < 2 ^ 64)) := by decide +kernel

theorem witness_commit_answers :
    (slotAt (next (exec (.pcommitComplete 0 0) (committing heldLeaf 2 []))) 0 0).regs.g.get 3 = 1 ∧
    (slotAt (next (exec (.pcommitComplete 0 0) (committing bareLeaf 0 []))) 0 0).regs.g.get 3 = 2 ∧
    (slotAt (next (exec (.pcommitComplete 0 0) (committing freedLeaf 2 []))) 0 0).wait ≠ .none := by decide +kernel

theorem witness_decommit_ends : (let s := pool 2 (tileTables freedLeaf (placed plain 0))
    let s := { s with ctxs := assign s.ctxs 0 { ctxAt s 0 with freeing := [Freeing.of s 0 0 0x800000] } }
    running s = true ∧ (Freeing.of s 0 0 0x800000).released s = true ∧ stillUsed s 0 [] = false ∧ (tileLeaves s (homeWalker s 0) 0x800000).toOption.isSome = true ∧
    (let t := next (exec (.pdecommitInvalidationDone 0 0x800000) s)
     memNat t 0x310010 8 = 0x400000 ∧ memNat t 0x300000 4 = 3 ∧ memNat t 0x300010 4 = 6 ∧ memNat t 0x204078 8 = 0x41E ∧
     (ctxAt t 0).freeing = [])) := by decide +kernel

/-! ## More of what the statements about prediction, the drover, slices and pages assume -/

/-- A predicted fetch in a page that no TLB holds: its tables' entries are five lines, of which it has paid `paid`. -/
def specWalking (paid : List Nat) : State :=
  tables 0x9F (buffered { parison .predicted with index := 0, paid := paid } (placed plain 0))

/-- Its walk reads entries in three lines, none of which the flock holds; once they are paid for, the die holds the page (R352). -/
theorem witness_spec_walk : (let s := specWalking [0x4000, 0x4020, 0x4040]
    tlbFind s 0 0 0x800040 = none ∧ walkRoom s 0 0 0x800040 48 = true ∧
    (match walkTables s (partyWalker 0 0 (bufferAt s 0 0).reader) 0x800040 with
     | .ok r => (r.reads, r.entry.spec)
     | .error _ => ([], false)) = ([0x200000, 0x201000, 0x202000], true) ∧
    (let t := next (exec (.speculativeFetchLine 0 0) s)
     (dieAt t 0).tlb.map (fun e => (e.va, e.aSeen)) = [(0, false)] ∧ (bufferAt t 0 0).paid = [] ∧ (bufferAt t 0 0).state = .predicted)) := by
  decide +kernel

theorem witness_spec_pays : l2Holds (flockAt (specWalking []) 0) 0x4000 = false ∧ (0x200000 / 128 : Nat) ∉ (bufferAt (specWalking []) 0 0).paid := by
  decide +kernel

/-- What has landed ends where its bytes end: the buffer's other bytes read as zero (R75). -/
theorem test_buffer_tail : (let p := { parison .inFlight with index := 0, got := List.replicate 128 7 }
    let s := withBytes (keyOf (.parison 0 0 128)) [5, 5] (fetching p id)
    memBytes (next (exec (.parisonDataLand 0 0) s)) (keyOf (.parison 0 0 127)) 3 = [7, 0, 0]) := by decide +kernel

/-- The end of an auction whose results lie in a page that is not present: its prices are written, and are not written again (R243). -/
theorem witness_drover_aside : (let s := withAuction .running { vectors with
      held := [some (1, 3), some (0, 2)], price := [8, 2], desc := { vectors.desc with results := 0x800000 } } (placed plain 0);
    let t := next (exec (.droverJobEnd 0) s)
    t.jobs.map (fun j => (j.state, (j.drover.map (fun d => d.wrote)).getD 9)) = [(.aside, 1)] ∧
    memBytes t (bank0 + 0x2200) 8 = numbers 4 [8, 2] ∧ memNat t (bank0 + 0x2400) 8 = 0) := by decide +kernel

/-- A request of a thread whose stores have not left waits for them, and its fill then seeks room (R100). -/
theorem witness_slice_waits :
    (let s := atSlot 0 (fun sl => { sl with sbIn := 1 }) (requesting 2 [])
     ((next (exec (.escreq 3 1) s)).jobs.map (fun j => j.state)) = [.queued] ∧ statesAfter (.escreq 3 1) s = []) ∧
    (let s := slices 1 [] (withJobs 1 [job 0 4 .queued (.slice 192 false 0)] (placed plain 0))
     ((fillJob s 0 192).map (fun p => p.1.released s)) = some true ∧ statesAfter (.sliceFillComplete 0 192) s = [(192, .filling, 0)]) := by
  decide +kernel

/-- A load that began before a slice's eviction, and has still to read from it, holds the eviction up (R271). -/
theorem witness_slice_read : (let s := slices 2 [{ slice 128 .evicting with evictAt := 4 }] (waits plain (lone (some (.ld64 3 1 0 0 0)) none)
      (loading (0x00E0000000000000 + 128 * 0x200000) [{ tgt := .phys 0x100000 false, size := 8 }] (.g 3 8 true) none 3))
    sliceRead s 0 128 = true ∧ sliceRead s 0 129 = false) := by decide +kernel

/-- A tile page whose leaves the thread itself is storing to, in its buffer, and on its way. -/
theorem witness_tile_stores :
    (let s := atSlot 0 (fun sl => { sl with sb := [.store (.phys 0x204000 false) [1] none []] }) (tileState heldLeaf)
     (match tileLeaves s (slotWalker s 0 0) 0x800000 with | .error c => c | .ok _ => 99) = 0) ∧
    dieBusy { tileState heldLeaf with reqs := [request (.phys 0x204000 false)] } 0 0x204000 128 = true := by decide +kernel

/-! ## The privileged words, exchanges, and diversion -/

/-- In S mode, with the page at 0x800000 held by the die. -/
def ruling (v w : Word) (i : Instr) : State := mapped id (issues (fun sl => inS (args v w sl)) (lone (some i) none))

theorem witness_swapctx : checkAddr (ruling 0x800801 0 (.swapctx 1)) 0 0 0x800800 2048 .update = .ok (.phys 0x100800 false) ∧
    (slotAt (next (exec (.swapctx 1) (ruling 0x800801 0 (.swapctx 1)))) 0 0).wait = .exchange false 0x800800 true [] [] ∧
    (slotAt (next (exec (.slothand 1) (ruling 0x800000 0 (.slothand 1)))) 0 0).wait = .exchange true 0x800000 false [] [] ∧
    (slotAt (next (exec (.swapctx 1) (ruling 0x800002 0 (.swapctx 1)))) 0 0).wait = .held := by decide +kernel

/-- A state with entry 7 of core 0 replaced. -/
def entry7 (d : Divert) (s : State) : State := withCore (fun c => { c with divert := c.divert.set 7 d }) s

/-- An entry of context 0 over banks 0 and 15, with its image at 0x600000. -/
def entryOf (st : DivState) : Divert := Divert.begun 0 0x8001 0x600000 st

/-- DIVSET's operands for that entry. -/
def divWord (op : Nat) : Word := BitVec.ofNat 64 (0x600007 + 8 * op)

theorem witness_divset : (let s := ruling (divWord 1) 0x8001 (.divset 1 2)
    ((coreAt s 0).divert.toList.all (fun d => d.state == .off)) = true ∧
    (let t := next (exec (.divset 1 2) s)
     entryAt t 0 7 = entryOf .saving ∧ (slotAt t 0 0).wait = .divert 7)) := by decide +kernel

theorem witness_divset_restores : (let s := entry7 (entryOf .diverted) (ruling (divWord 2) 0x8001 (.divset 1 2))
    entryAt (next (exec (.divset 1 2) s)) 0 7 = entryOf .restoring ∧
    -- no bank, another bank, an entry in use, an operation of 3
    ([((divWord 2 : Word), (0 : Word)), (divWord 2, 0x8002), (divWord 1, 0x8001), (divWord 3, 0x8001)].map (fun p =>
      (slotAt (next (exec (.divset 1 2) (atSlot 0 (args p.1 p.2) s))) 0 0).wait)) = List.replicate 4 .held) := by decide +kernel

theorem witness_divclr : (let s := entry7 (entryOf .diverted) (ruling 7 0 (.divclr 1))
    (entryAt (next (exec (.divclr 1) s)) 0 7).state = .off ∧
    (slotAt (next (exec (.divclr 1) (atSlot 0 (args 0 0) s))) 0 0).wait = .none ∧
    (slotAt (next (exec (.divclr 1) (atSlot 0 (args 8 0) s))) 0 0).wait = .held ∧
    (slotAt (next (exec (.divclr 1) (entry7 (entryOf .saving) s))) 0 0).wait = .held) := by decide +kernel

theorem witness_tlbinv :
    (slotAt (next (exec (.tlbinv 1 2) (ruling 0x801234 0x300000001 (.tlbinv 1 2)))) 0 0).wait = .tlbinv 3 (some 0x801000) true ∧
    (slotAt (next (exec (.tlbinvc 1) (ruling 0x300000000 0 (.tlbinvc 1)))) 0 0).wait = .tlbinv 3 none false ∧
    (slotAt (next (exec (.tlbinvc 1) (ruling 0x300000001 0 (.tlbinvc 1)))) 0 0).wait = .held := by decide +kernel

/-- A thread's image and what is loaded from it: an MWAIT's register reads 2 (Table 16.11). -/
theorem witness_image : (let s := placed (fun sl => args 5 6 { sl with wait := .mwait 2 0 9, handler := .user }) 0
    let v := loadedSlot (imageOf s 0 (slotAt s 0 0) 0x800004) (parkedOf 0x100000 0 (slotAt s 0 0)) 9 Slot.reset
    (slotAt s 0 0).ctx < 2 ^ 16 ∧ (slotAt s 0 0).ccq.length ≤ 16 ∧ (imageOf s 0 (slotAt s 0 0) 0x800004).length = 256 ∧
    v.regs.g.get 1 = 5 ∧ v.regs.g.get 2 = 2 ∧ v.regs.pc = 0x800004 ∧ v.handler = .user ∧
    (residentOf (coreAt s 0) 0).map (fun r => r.part) = some (partOf (coreAt s 0) 0)) := by decide +kernel

/-- What R307 asks of an image holds of that one; one whose reserved fields are not zero is refused. -/
theorem witness_image_good : (let s := placed (fun sl => args 5 6 { sl with handler := .user }) 0
    let img := imageOf s 0 (slotAt s 0 0) 0x800004
    (imageWord img 0x1C0).toNat / 16 % 16 < 6 ∧ (imageWord img 0x1C0).toNat / 2 % 4 ≠ 3 ∧ imageZeros img = true ∧
    imageBad (coreAt s 0) 0 none 0 img = false ∧ imageBad (coreAt s 0) 0 none 0 (img.set (0x250 / 8) 1) = true) := by decide +kernel

theorem witness_image_waits : loadedWait ([(0 : Word)] ++ List.replicate 37 0 ++ [waitWord (.bar 0x100 3 15), waitAddr (.bar 0x100 3 15)]) =
      .bar 0x100 3 15 ∧
    loadedWait (List.replicate 38 (0 : Word) ++ [waitWord .halt]) = .halt ∧
    loadedWait (List.replicate 38 (0 : Word) ++ [waitWord (.job 65535)]) = .job 65535 := by decide +kernel

/-- The lines of the image at 0x100000. -/
def imageKeys : List Nat := (List.range 16).map (fun k => 0x100000 / 128 + k)

/-- A SWAPCTX of slot 0 that is due, at cycle 16, with an image at 0x100000 whose STATE word is as given; its lines are paid for, to be read
and to be written back. -/
def exchanging (hand back : Bool) (st : Nat) : State :=
  withBytes 0x100128 (numbers 8 [st]) <| withCore (fun c => { c with cycle := 16 }) <| mapped id <|
    waits (fun sl => inS (args 5 6 sl)) (lone (some (.swapctx 1)) none)
      (.exchange hand 0x800000 back imageKeys imageKeys)

theorem witness_exchange : (let s := exchanging false false 5
    (slotAt s 0 0).sb = [] ∧ portClear s 0 0 = true ∧ (slotAt s 0 0).await = .none ∧ (slotAt s 0 0).pair = .unpaired ∧
    (coreAt s 0).spent = false ∧ chosenSlot s 0 = some 0 ∧ checkAddr s 0 0 0x800000 2048 .update = .ok (.phys 0x100000 false) ∧
    (coreAt s 0).images = [] ∧ badBytes s 0 (.phys 0x100000 false) 2048 = false) := by decide +kernel

theorem witness_exchanged : (let t := next (exec (.contextExchange 0 0) (exchanging true false 5))
    ((coreAt t 0).images.map (fun i => (i.addr, imageWord i.words 8, imageWord i.words 0x120))) = [(0x100000, 5, 0x800004)] ∧
    (slotAt t 0 0).mode = .supervisor ∧ (slotAt t 0 0).regs.g.get 1 = 0 ∧ (slotAt t 0 0).wait = .none) := by decide +kernel

/-- An empty image leaves an empty slot; one of another context faults. -/
theorem witness_exchange_ends : (slotAt (next (exec (.contextExchange 0 0) (exchanging false true 0))) 0 0).occupied = false ∧
    (coreAt (next (exec (.contextExchange 0 0) (exchanging false true 0))) 0).images = [] ∧
    (slotAt (next (exec (.contextExchange 0 0) (exchanging false false 0x1000000000001))) 0 0).wait = .held := by decide +kernel

/-- An image in the cache, whose memory has not been written since. -/
theorem witness_cached : (let i : CachedImage := { addr := 0x100000, words := List.replicate 256 7, under := List.replicate 256 0 }
    let s := withCore (fun c => { c with images := [i] }) (placed plain 0)
    i.words.length = 256 ∧ (coreAt s 0).images.find? (fun x => x.addr == keyOf (.phys 0x100000 false)) = some i ∧
    (imageWords s (slotReader s 0 0) 0 0 (.phys 0x100000 false)).map (fun l => l.getD 255 0) = some 7) := by decide +kernel

theorem witness_tlbinv_ends : (let s := mapped id (waits plain (lone (some (.tlbinvc 1)) none) (.tlbinv 0 none false))
    (slotAt s 0 0).sb = [] ∧ dieSettled s (dieOf 0) = true ∧ stillUsed s 0 (heldGone s [0] 0 (removalOf none false)) = false ∧ (dieAt s 0).tlb.length = 1 ∧
    (dieAt (next (exec (.tlbinvComplete 0 0) s)) 0).tlb = []) := by decide +kernel

/-- Port 3 holds a receiver of context 0. -/
def saving (f : Port → Port) (d : Divert) : State :=
  let p : Port := f { Port.reset with
    owner := some { ctx := 0, slot := 2, ep := 5 }, far := 0x123, recv := true
    queue := [{ data := 0x77, ctl := true, poison := false, clock := [] }], granted := 4 }
  withCore (fun c => { c with ports := c.ports.set 3 p }) (entry7 d (placed plain 0))

/-- The port's state (Table 17.6): FAR, flags, HEAD, COUNT, the allowance, TAGS, and the owner. -/
theorem witness_port_save : (let s := saving id (entryOf .saving)
    portBytes s 0 3 = numbers 1 [0x23, 1, 0, 0, 3, 0, 1, 4, 1, 0, 0x52, 0, 0, 0, 0, 0] ∧ coreUp s 0 = true ∧
    next (exec (.saveStep 0 7) s) = s ∧
    (let t := next (exec (.portSaveStep 0 7) s)
     (portAt t 0 3).saved = true ∧ (portAt t 0 3).queue = [] ∧ (entryAt t 0 7).port = 4 ∧
     (coreAt t 0).lehrQ.head? = some (.write (cellsAt (0x640000 + 128 * 3) (numbers 8 [0x77])) none))) := by decide +kernel

/-- The last line of the last bank that is not done. -/
def lastLine (st : DivState) : Divert :=
  { entryOf st with banks := ((entryOf st).banks.set 0 { BankCursor.reset with cursor := 255 }).set 15 { BankCursor.reset with done := true } }

theorem witness_save : (let s := withBytes (bank0 + 0x3FC0) [9] (saving (fun p => { p with saved := true }) (lastLine .saving))
    nextHeld s 0 (lastLine .saving) = none ∧
    (let t := next (exec (.saveStep 0 7) s)
     (entryAt t 0 7).state = .diverted ∧ (coreAt t 0).lehrQ = [.write (cellsAt 0x603FC0 ([9] ++ List.replicate 63 0)) none]) ∧
    ((entryAt (next (exec (.saveStep 0 7) (saving (fun p => { p with saved := true }) (entryOf .saving)))) 0 7).banks.get 0).cursor = 1) := by
  decide +kernel

theorem witness_save_wakes : (let s := entry7 (lastLine .saving) (waits plain (lone (some (.divset 1 2)) none) (.divert 7))
    (∀ n, n < 16 → n ≠ 0 → (slotAt s 0 n).wait ≠ .divert 7) ∧
    (slotAt (next (exec (.saveStep 0 7) s)) 0 0).regs.pc = 0x800004) := by decide +kernel

theorem witness_restore_reads : (let s := entry7 (entryOf .restoring) (placed plain 0)
    pendingLines (coreAt s 0) = 0 ∧ (mayRead (coreAt s 0) (entryOf .restoring) 0) = true ∧
    (coreAt (next (exec (.restoreReadIssue 0 7) s)) 0).lehrQ = [.restore 7 0 0]) := by decide +kernel

/-- A line whose data has returned, of a bank that is not the last. -/
theorem witness_restore_writes :
    (let s := entry7 { entryOf .restoring with
        banks := (entryOf .restoring).banks.set 15 { BankCursor.reset with cursor := 255, pending := [(255, some (List.replicate 64 7))] } } <|
      placed plain 0
    (let t := next (exec (.restoreLineWrite 0 7 15) s)
     memBytes t (bank0 + 15 * 0x4000 + 255 * 64) 64 = List.replicate 64 7 ∧ ((entryAt t 0 7).banks.get 15).done = true ∧
     (entryAt t 0 7).state = .restoring)) := by decide +kernel

/-- Every line is restored, and the image at 0x600000 holds port 3: two words, from place 15 on. -/
def portRestoring (flags : Nat) : State :=
  withBytes (0x641000 + 16 * 3) (numbers 4 [0x123] ++ numbers 1 [flags, 15, 2, 4, 1, 0, 0x52]) <|
    withBytes (0x640000 + 128 * 3) (numbers 8 [0x88]) <| withBytes (0x640000 + 128 * 3 + 120) (numbers 8 [0x77]) <|
    saving (fun p => { p with saved := true, queue := [] }) { entryOf .restoring with
      banks := (entryOf .restoring).banks.map (fun b => { b with done := true }) }

theorem witness_port_restore : (let s := portRestoring 3
    nextSaved s 0 (entryAt s 0 7) = some 3 ∧
    (let p := portAt (next (exec (.portRestoreStep 0 7) s)) 0 3
     p.recv = true ∧ p.granted = 4 ∧ p.far = 0x123 ∧ p.saved = false ∧
     p.queue = [{ data := 0x77, ctl := false, poison := false, clock := [] }, { data := 0x88, ctl := true, poison := false, clock := [] }])) := by decide +kernel

theorem witness_restore_ends : (let s := portRestoring 0
    portAt (next (exec (.portRestoreStep 0 7) s)) 0 3 = Port.reset ∧
    (let s := entry7 { entryOf .restoring with banks := (entryOf .restoring).banks.map (fun b => { b with done := true }) }
      (waits plain (lone (some (.divset 1 2)) none) (.divert 7))
     nextSaved s 0 (entryAt s 0 7) = none ∧ (entryAt (next (exec (.portRestoreStep 0 7) s)) 0 7).state = .off ∧
     (slotAt (next (exec (.portRestoreStep 0 7) s)) 0 0).regs.pc = 0x800004)) := by decide +kernel

/-- A core's route with one access in it. -/
def routed (op : LehrOp) (s : State) : State := withCore (fun c => { c with lehrQ := [op] }) s

def queuedLoad : LoadReq :=
  { addr := 0, pieces := [{ tgt := .pad 0 0, size := 2 }], got := [], bad := false, dest := .g 3 2 false, acq := none, met := []
    begun := 0, queued := true }

theorem witness_route : memNat (next (exec (.lehrAccess 0) (routed (.write (cellsAt 0x600000 [5]) none) (placed plain 0)))) 0x600000 1 = 5 ∧
    (((entryAt (next (exec (.lehrAccess 0) (routed (.restore 7 15 0) (entry7 { entryOf .restoring with
      banks := (entryOf .restoring).banks.set 15 { BankCursor.reset with pending := [(0, none)] } } (placed plain 0))))) 0 7).banks.get
      15).pending.map (fun p => p.2.isSome)) = [true] ∧
    (slotAt (next (exec (.lehrAccess 0) (withBytes 0x600000 [1, 2] (routed (.load 0 0 0x600000 2)
      (waits plain (lone (some (.ld64 3 1 0 0 0)) none) (.load queuedLoad)))))) 0 0).wait =
      .load { queuedLoad with queued := false, pieces := [], got := [1, 2] } := by decide +kernel

theorem witness_route_atomic : (let a : AtomicReq := { addr := 0x100, tgt := .pad 0 0x100, size := 8, op := .add, operand := 7, d := 3
                                                       signed := false, scope := 2, acq := false, rel := false, queued := true }
    let s := routed (.atomic 0 0 [(0, 8, 0x600100)]) (waits plain (lone (some (.aadd 3 1 2 2 0 true)) none) (.atomic a))
    coreUp s 0 = true ∧ (slotAt s 0 0).wait = .atomic a ∧ memNat (next (exec (.lehrAccess 0) s)) 0x600100 8 = 7) := by decide +kernel

/-- A word for port 3, which has been saved: it is written at place 15 + 2 − 16. -/
theorem witness_channel_image : (let s := portRestoring 3
    let m : Msg := { id := 9, fromCore := 1, fromPort := 3, core := 0, port := 3, ctx := 0, slot := 0, mark := 0
                     kind := .word { data := 0x99, ctl := true, poison := false, clock := [] } }
    let s := { entry7 (entryOf .diverted) s with msgs := [m] }
    mayLand s m = true ∧ (portAt s 0 3).saved = true ∧ absentEntry (coreAt s 0) 0 = some (entryOf .diverted) ∧
    (coreAt (next (exec (.lehrChannelWrite 9) s)) 0).lehrQ = [
      .write (cellsAt (0x640000 + 128 * 3 + 8) (numbers 8 [0x99]) ++ cellsAt (0x641030 + 6) [3, 3, 3, 0]) none] ∧
    (coreAt (next (exec (.lehrChannelWrite 9) { s with msgs := [{ m with kind := .grant 5 }] })) 0).lehrQ =
      [.write (cellsAt (0x641030 + 7) [9]) none]) := by decide +kernel

theorem witness_quantum : (let s := placed plain 0
    s.pkg.powered = true ∧ s.pkg.started = true ∧ s.pkg.stage = .service ∧ 0 ∈ partitionSpan s 0 0 ∧
    (slotAt (next (exec (.quantumEnd 0 0) s)) 0 0).switchReq = true ∧
    (slotAt (next (exec (.quantumEnd 0 1) s)) 0 0).switchReq = false) := by decide +kernel

/-- A stream copy whose context is absent feeds the image of its port, which holds two words (R240, R328). -/
theorem witness_stream_image :
    (let s := withBytes (bank0 + 0x2000) (numbers 4 [1, 2, 3, 4, 5, 6, 7, 8]) <| withJobs 1
      [job 0 2 .running (.copy { copyJob with port := some 3 })] (entry7 (entryOf .diverted) (portRestoring 3))
    (portAt s 0 3).saved = true ∧ absentEntry (coreAt s 0) 0 = some (entryOf .diverted) ∧
    (match nextMover s 0 with | some (.copy j _) => j.order == 100 | _ => false) = true ∧
    (coreAt (next (exec (.copyTurn 0) s)) 0).lehrQ.length = 8) := by decide +kernel

/-- A poisoned word of a port goes into its image with its poison. -/
theorem test_port_poison :
    (let s := saving (fun p => { p with queue := [{ data := 0x77, ctl := false, poison := true, clock := [] }] }) (entryOf .saving)
    (next (exec (.portSaveStep 0 7) s)).poison = [poisonUnit (0x640000 + 128 * 3)]) := by decide +kernel

/-- A port whose image says that it is not held, and one that the core does not count as saved. -/
theorem witness_ports_left : lehrNat (portRestoring 0) 0 (0x641000 + 16 * 3 + 4) 1 % 2 = 0 ∧
    nextSaved (saving id (entryOf .restoring)) 0 (entryOf .restoring) = none := by decide +kernel

/-! ## The package, the links, the hearth windows, the core windows -/

/-- The package in a stage of its start, with its registers changed. -/
def starting (stage : Stage) (f : Pkg → Pkg) : State :=
  { State.reset with pkg := f { Pkg.reset with powered := true, started := true, stage := stage } }

theorem witness_start : Booted (starting .safe id) ∧ ¬Stopped (starting .safe id).pkg ∧ Booted (placed plain 0) ∧
    State.reset.pkg.powered = false ∧ (next (exec .powerGood State.reset)).pkg.powered = true ∧
    (next (exec .powerLoss (placed plain 0))).slots = [(0, Slot.reset)] ∧
    (next (exec (.safeStageEntry true true) (next (exec .powerGood State.reset)))).pkg.started = true ∧
    (next (exec (.safeStageEntry false true) (next (exec .powerGood State.reset)))).pkg.error = 2 := by
  refine ⟨⟨rfl, rfl⟩, fun h => h.1 rfl, ⟨rfl, rfl⟩, ?_⟩
  decide +kernel

/-- 128 channels are enough and 127 are not; a map with a unit that the record lacks is reported (R360, Table 20.3). -/
theorem witness_inventory : (let s := starting .safe (fun p => { p with repairRecord := [3] })
    let t := next (exec (.inventoryStageEntry [5] 128 true) s)
    t.pkg.repairMap = [5, 3] ∧ t.pkg.repairChg = true ∧ t.pkg.error = 0 ∧ t.pkg.events = [.statusChange] ∧
    (next (exec (.inventoryStageEntry [3] 127 true) s)).pkg.error = 3 ∧
    (next (exec (.inventoryStageEntry [3] 128 false) s)).pkg.error = 7) := by decide +kernel

theorem witness_kernel : (next (exec (.kernelStageEntry true false true true) (starting .inventory id))).pkg.stage = .kernel ∧
    (next (exec (.kernelStageEntry true false false true) (starting .inventory id))).pkg.error = 5 ∧
    (next (exec (.kernelStageEntry false true false true) (starting .inventory (fun p => { p with error := 7 })))).pkg.error = 4 ∧
    (next (exec (.dieEntersService 3 true) (starting .kernel id))).pkg.dies = 8 ∧
    (next (exec (.dieEntersService 4 true) (starting .kernel id))).pkg.stage = .kernel := by decide +kernel

/-- STATUS of the last stage with every bit (Table 20.2). -/
theorem test_status : statusWord { Pkg.reset with stage := .service, error := 6, dies := 5, repairChg := true, trip := true } = 0x550603 := by
  decide +kernel

/-- A count that stands at the threshold goes past it with one error more. -/
theorem witness_scrub : (let s := starting .service (fun p => { p with corrected := [(Config.rowOf 64, Config.scrubThreshold)] })
    Booted s ∧ poisonUnit 64 = 64 ∧ lookup 0 s.pkg.corrected (Config.rowOf 64) = Config.scrubThreshold ∧
    Config.scrubThreshold < lookup 0 s.pkg.corrected (Config.rowOf 64) + 1) := by
  refine ⟨⟨rfl, rfl⟩, rfl, ?_, ?_⟩ <;> simp [starting, lookup]

/-- With a threshold of at least one, the first error of a cycle is only counted. -/
theorem witness_scrub_counts (h : 0 < Config.scrubThreshold) : (let s := starting .service id
    Booted s ∧ lookup 0 s.pkg.corrected (Config.rowOf (poisonUnit 0)) + 1 ≤ Config.scrubThreshold) :=
  ⟨⟨rfl, rfl⟩, h⟩

theorem witness_doorbell : (next (exec (.doorbell 32 5) (starting .kernel id))).pkg.events = [.doorbell 32 5] ∧
    (next (exec (.doorbell 33 5) (starting .kernel id))).pkg.events = [] ∧
    (next (exec (.doorbell 1 5) (starting .inventory id))).pkg.events = [] ∧
    (next (exec (.hostPostedWrite 0x12FF8 8 5) (starting .kernel id))).mem = [(0x1000020012FF8, 5)] ∧
    (next (exec (.hostPostedWrite 0x12FFC 8 5) (starting .kernel id))).mem = [] ∧
    (next (exec (.hostPostedWrite 0x10008 8 5) (starting .kernel id))).pkg.events = [.doorbell 1 5] := by decide +kernel

/-- Link 15, changed. -/
def linked (f : Link → Link) : State := starting .service (fun p => { p with links := p.links.set 15 (f Link.reset) })

def linkAfter (i : Instr) (f : Link → Link) : Link := linkAt (next (exec i (linked f))) 15

theorem witness_links : (let up := fun (n : Nat) (l : Link) => { l with up := true, tries := n }
    linkAfter (.linkFlitReceive 15 false 1 2) (up 16) = { Link.reset with up := true, tries := 17, crcfail := 1, feccorr := 1, fecuncorr := 2 } ∧
    (linkAfter (.linkFlitReceive 15 false 0 0) (up 15)).retries = 1 ∧ (linkAfter (.linkFlitReceive 15 true 0 0) (up 16)).tries = 0 ∧
    (linkAfter (.linkFlitReceive 15 true 0 0) (up 17)).tries = 17 ∧
    (linkAfter (.linkRetrain 15) (up 17)).training = true ∧ (linkAfter (.linkRetrain 15) (up 16)).training = false ∧
    (linkAfter (.linkRetrainCmd 15) id).retrains = 1 ∧ (linkAfter (.linkEnable 15 false) (up 0)).up = false ∧
    (linkAfter (.linkTrainingDone 15 true 7 3) id).peer = 7 ∧ (linkAfter (.linkTrainingDone 15 false 7 3) id).down = true ∧
    (linkAfter (.linkFlitReceive 15 true 1 0) (fun l => { l with up := true, feccorr := 2 ^ 64 - 1 })).feccorr = 2 ^ 64 - 1) := by
  decide +kernel

/-- Where the silo memory of package 5 begins, for package 0. -/
def peer5 : Target := .phys 0x4050000000000 false

theorem witness_peer_lost : (let s := { placed plain 0 with reqs := [request peer5, { request (.phys 0x100000 false) with id := 8 }] }
    Booted s ∧ (s.reqs.map (fun r => r.id)).Nodup ∧ unreachable s peer5 = true ∧ (lostAccess s (slotAt s 0 0)) = none ∧
    s.slots.length = 1 ∧
    (let t := next (exec (.peerLost 5) s)
     t.reqs.map (fun r => r.id) = [8] ∧ t.pkg.lost = [5] ∧ t.records.map (fun r => (r.cause, r.flags)) = [(0x0A, 16)])) := by
  refine ⟨⟨rfl, rfl⟩, ?_⟩
  decide +kernel

theorem witness_peer_load :
    (let s := waits plain (lone (some (.ld64 3 1 0 0 0)) none) <| .load { queuedLoad with pieces := [{ tgt := peer5, size := 8 }] }
    (s.slots.map (fun x => x.1)).Nodup ∧ unreachable s peer5 = true ∧ s.reqs = []) := by decide +kernel

theorem witness_power : (next (exec .thermalTrip (starting .service id))).pkg.trip = true ∧
    (next (exec .thermalTrip (starting .kernel id))).pkg.error = 6 ∧ coreUp (next (exec .thermalTrip (placed plain 0))) 0 = false ∧
    (next (exec (.clockChange 287 1200) (placed plain 0))).pkg.capped = true ∧
    (flockAt (next (exec (.clockChange 287 2601) (placed plain 0))) 287).clock = 2250 ∧
    (flockAt (next (exec (.junctionThrottle 0 2250) (placed plain 0))) 0).clock = 2250 ∧
    (next (exec (.pwrcap 599) (placed plain 0))).pkg.pwrcap = 600 ∧ (next (exec (.pwrcap 2401) (placed plain 0))).pkg.pwrcap = 2400 ∧
    (next (exec (.sesskey 2 5) (placed plain 0))).pkg.key = none ∧ (next (exec (.sesskey 3 5) (placed plain 0))).pkg.key = some #v[0, 0, 0, 5] ∧
    (next (exec (.escways 0 9) (placed plain 0))).pkg.escways = 8 ∧
    (next (exec (.escways 0 9) (slices 1 [slice 5 .resident] (placed plain 0)))).pkg.escways = 0 := by decide +kernel

theorem witness_registers : (coreAt (next (exec (.deviceRegisterWrite 0x10 5) (placed plain 0))) 0).window.op0 = 5 ∧
    (next (exec (.deviceRegisterWrite 0x09030018 5) (placed plain 0))).pkg.hearths.get 3 = { Hearth.reset with arg := 5 } ∧
    (next (exec (.deviceRegisterWrite 0x10000010 0xFFFFFFFFFFFFFFFF) (placed plain 0))).pkg.grpbase = 0x00FFFFFFFF800000 ∧
    (linkAt (next (exec (.deviceRegisterWrite 0x3000F030 5) (placed plain 0))) 15).fecuncorr = 5 ∧
    memNat (next (exec (.deviceRegisterWrite 0x20202FF8 5) (placed plain 0))) 0x1000020202FF8 8 = 5 := by decide +kernel

/-- Hearth 0's window with a command. -/
def hearth (w : Hearth) (s : State) : State := { s with pkg := { s.pkg with hearths := s.pkg.hearths.set 0 w } }

theorem witness_hearth : (let s := hearth { Hearth.reset with cmd := 6, addr := 64, data := Vector.replicate 8 1 } <|
      { placed plain 0 with poison := [64] }
    Booted s ∧ (64 : Nat) / 256 % 12 / 3 = 0 ∧
    (let t := next (exec (.hearthScrubLine 0) s)
     t.mem.length = 8 ∧ t.poison = [] ∧ (t.pkg.hearths.get 0).cmd = 0) ∧
    ((next (exec (.hearthCmdReserved 0) (hearth { Hearth.reset with cmd := 0x101 } s))).pkg.hearths.get 0).result = 1 ∧
    ((next (exec (.hearthCmdIdle 0) (hearth { Hearth.reset with cmd := 0x100 } s))).pkg.hearths.get 0).cmd = 0 ∧
    -- a line of the next hearth
    ((next (exec (.hearthScrubLine 0) (hearth { Hearth.reset with cmd := 6, addr := 768 } s))).pkg.hearths.get 0).result = 1) := by
  refine ⟨⟨rfl, rfl⟩, ?_⟩
  decide +kernel

/-- A quota below what is resident: the unpinned slice goes. One way gives room for 32 slices. -/
theorem witness_quota : (let s := slices 2 [{ slice 64 .resident with pins := 1 }, slice 128 .resident] (placed plain 0)
    let s := { s with pkg := { s.pkg with escways := 1 } }
    let ask := fun (ctx quota : Word) => hearth { Hearth.reset with cmd := 8, addr := ctx, arg := quota } s
    ((ctxAt (next (exec (.hearthSliceQuota 0) (ask 0 1))) 0).slices.map (fun x => (x.tag, x.state))) =
      [(64, .resident), (128, .evicting)] ∧
    (next (exec (.hearthSliceQuota 0) (ask 0 32))).pkg.quotas = [(0, 32)] ∧
    ((next (exec (.hearthSliceQuota 0) (ask 0 33))).pkg.hearths.get 0).result = 1) := by decide +kernel

/-- Core 0's window with a command and its operands. -/
def commands (cmd op0 op1 : Word) (s : State) : State :=
  withCore (fun c => { c with window := { Window.reset with cmd := cmd, op0 := op0, op1 := op1 } }) s

/-- RESULT of a command performed on a state, and CMD. -/
def answers (i : Instr) (cmd op0 op1 : Word) (s : State) : Word × Word :=
  let w := (coreAt (next (exec i (commands cmd op0 op1 s))) 0).window
  (w.result, w.cmd)

/-- The thread of slot 0 held for Calben. -/
def heldState (w : Wait) : State := waits (args 5 6) (lone (some (.nop 0)) none) w

theorem witness_commanded : (let s := commands 0x101 0 0 (heldState .replay)
    coreUp s 0 = true ∧ (coreAt s 0).window.cmd ≠ 0 ∧ (coreAt s 0).window.cmd.toNat % 256 = 1 ∧
    (0x101 : Nat) / 2 ^ 8 % 16 = 1 ∧ (slotAt s 0 1).occupied = false) := by decide +kernel

theorem witness_resume :
    (slotAt (next (exec (.coreCmdResume 0) (commands 1 0x900000 0 (heldState .held)))) 0 0).regs.pc = 0x900000 ∧
    (slotAt (next (exec (.coreCmdResume 0) (commands 1 0 0 (heldState .replay)))) 0 0).wait = .none ∧
    (slotAt (next (exec (.coreCmdResume 0) (commands 1 0 0x0A (heldState .replay)))) 0 0).replaceCause.isSome = true ∧
    (slotAt (next (exec (.coreCmdResume 0) (commands 1 0 0 (heldState (.retiring true 3 true))))) 0 0).wait = .retiring true 3 false ∧
    answers (.coreCmdResume 0) 1 0 7 (heldState .replay) = (1, 0) ∧ answers (.coreCmdResume 0) 1 0 6 (heldState .held) = (1, 0) ∧
    answers (.coreCmdResume 0) 1 0 0 (heldState .halt) = (1, 0) := by decide +kernel

theorem witness_retire :
    (slotAt (next (exec (.coreCmdRetireAsFailed 0) (commands 2 0 0 (heldState .halt)))) 0 0).wait = .retiring true 0 false ∧
    (slotAt (next (exec (.coreCmdRetireAsFailed 0) (commands 2 0 0 (heldState (.retiring false 3 true))))) 0 0).wait =
      .retiring true 3 false ∧
    answers (.coreCmdRetireAsFailed 0) 0x102 0 0 (heldState .halt) = (1, 0) ∧
    (slotAt (next (exec (.coreCmdSwitchRequest 0) (commands 10 0 0 (heldState .halt)))) 0 0).switchReq = true ∧
    answers (.coreCmdReserved 0) 0xFF 0 0 (placed plain 0) = (1, 0) ∧ answers (.coreCmdIdle 0) 0x100 0 0 (placed plain 0) = (0, 0) := by
  decide +kernel

/-- A spill header at 0x300000 of four packets at 0x310000 (R25). -/
def spillHeader (s : State) : State := withBytes 0x300000 (numbers 8 [0x310000] ++ numbers 4 [4, 0, 2, 3]) s

theorem witness_residency : (let s := spillHeader (placed plain 0)
    spillOk s 0x300000 = true ∧ spillOk s 0 = true ∧ spillOk (withBytes 0x300008 [3] s) 0x300000 = false ∧
    (residentOf (coreAt (next (exec (.coreCmdMakeResident 0) (commands 0x500000003 1 0x300000 s))) 0) 5).map
      (fun r => (r.part, r.bufmask, r.spill, r.pfthr)) = some (1, 0, 0x300000, 2) ∧
    answers (.coreCmdMakeResident 0) 3 0 0 s = (1, 0) ∧ answers (.coreCmdMakeResident 0) 0x500000003 4 0 s = (1, 0)) := by decide +kernel

theorem witness_remove : (let s := withCore (fun c => { c with residents := c.residents ++ [Resident.new 5 1 0 0] }) (placed plain 0)
    residentOf (coreAt (next (exec (.coreCmdRemove 0) (commands 0x500000004 0 0 s))) 0) 5 = none ∧
    answers (.coreCmdRemove 0) 4 0 0 s = (1, 0) ∧
    (coreAt (next (exec (.coreCmdWriteMasks 0) (commands 5 0xC0000000 4 s))) 0).slotmask = 0xC0000000 ∧
    (coreAt (next (exec (.coreCmdWriteMasks 0) (commands 5 0xC0000000 4 s))) 0).bankmask = 4 ∧
    answers (.coreCmdWriteMasks 0) 5 1 0 s = (1, 0) ∧ answers (.coreCmdWriteMasks 0) 5 0 1 (entry7 (entryOf .diverted) s) = (1, 0)) := by
  decide +kernel

theorem witness_divert_commands : (let s := placed plain 0
    let t := next (exec (.coreCmdDivert 0) (commands 6 (divWord 1) 0x8001 s))
    entryAt t 0 7 = entryOf .saving ∧ (coreAt t 0).window.begun = some 7 ∧ (coreAt t 0).window.cmd = 6 ∧
    next (exec (.coreCmdDivert 0) t) = t ∧
    ((coreAt (next (exec (.coreCmdDivert 0) (entry7 (entryOf .diverted) t))) 0).window.cmd = 0) ∧
    (entryAt (next (exec (.coreCmdInstallEntry 0) (commands 8 (divWord 1) 0x8001 s))) 0 7).state = .diverted ∧
    answers (.coreCmdInstallEntry 0) 8 (divWord 2) 0x8001 (entry7 (entryOf .diverted) s) = (1, 0) ∧
    (entryAt (next (exec (.coreCmdClearEntry 0) (commands 7 7 0 (entry7 (entryOf .diverted) s)))) 0 7).state = .off ∧
    answers (.coreCmdClearEntry 0) 7 7 0 (entry7 (entryOf .saving) s) = (1, 0)) := by decide +kernel

theorem witness_hand_over :
    (let s := withCore (fun c => { c with cycle := 16 }) <| withBytes 0x100128 (numbers 8 [1]) (commands 9 0x100000 0 (heldState .held))
    (imageWords s (plainReader s) 0 0 (.phys 0x100000 false)).isSome = true ∧ (coreAt s 0).images = [] ∧ (coreAt s 0).cycle % 16 = 0 ∧
    (coreAt s 0).spent = false ∧
    (slotAt s 0 0).pair = .unpaired ∧
    (let t := next (exec (.coreCmdHandOver 0) s)
     (coreAt t 0).spent = true ∧ (coreAt t 0).window.cmd = 0 ∧ (slotAt t 0 0).regs.pc = 0 ∧ (slotAt t 0 0).wait = .none ∧
     ((coreAt t 0).images.map (fun i => imageWord i.words 8)) = [5])) := by decide +kernel

theorem witness_hand_over_refused : (let s := withBytes 0x100128 (numbers 8 [1]) (heldState .held)
    answers (.coreCmdHandOver 0) 9 0x100002 0 s = (1, 0) ∧ answers (.coreCmdHandOver 0) 9 0x100000 0 (heldState .halt) = (1, 0) ∧
    answers (.coreCmdHandOver 0) 9 0x100000 0 (withBytes 0x100128 (numbers 8 [3]) s) = (1, 0) ∧
    answers (.coreCmdHandOver 0) 9 0x100000 0 (withCore (fun c => { c with cycle := 1 }) s) = (0, 9)) := by decide +kernel

theorem witness_register_commands : (let s := placed plain 0
    let writes := fun (n v : Word) => next (exec (.coreCmdWriteRegister 0) (commands 0x50000000B n v s))
    (slotAt (writes 0x2001 0x8011) 0 0).trap.tcause = 0x8011 ∧ (ctxAt (writes 0x2061 0x400000) 5).escbase = 0x400000 ∧
    (ctxAt (writes 0x2062 0x4000) 5).mcbase = 0x4000 ∧ (coreAt (writes 0x2000 0x900000) 0).tvec.get 0 = 0x900000 ∧
    answers (.coreCmdWriteRegister 0) 11 0x2061 0x200000 s = (1, 0) ∧ answers (.coreCmdWriteRegister 0) 11 0x2021 0 s = (1, 0) ∧
    (coreAt (next (exec (.coreCmdReadRegister 0) (commands 0x50000000C 0x2030 0 s))) 0).window.value = 8) := by decide +kernel

/-- A deque of one packet, moved to place 3 of the spill area. -/
theorem witness_spill : (let r : Resident := { Resident.new 0 0 0 0x300000 with
      deque := [{ words := Vector.replicate 8 9, note := { id := 77, heads := [], pad := none } }]
      spilled := [{ id := 76, heads := [], pad := none }] }
    let s := commands 13 0 0 (spillHeader (withCore (fun c => { c with residents := [r] }) (placed plain 0)))
    (spillOf s r).map (fun a => (a.head, a.tail, a.count)) = some (2, 3, 1) ∧ (0x310000 + 64 * 4 : Nat) < siloEnd ∧
    (let t := next (exec (.coreCmdSpillDeque 0) s)
     memNat t 0x300014 4 = 4 ∧ memNat t (0x310000 + 64 * 3) 8 = 9 ∧
     (residentOf (coreAt t 0) 0).map (fun x => (x.deque.length, x.spilled.map (fun n => n.id))) = some (0, [76, 77]))) := by decide +kernel

theorem witness_release : (let s := withJobs 1 [{ job 0 2 .aside (.copy copyJob) with value := 0x40 }] (placed plain 0)
    ((next (exec (.coreCmdReleaseJob 0) (commands 14 0x20000 0 s))).jobs.map (fun j => j.state)) = [.queued] ∧
    ((next (exec (.coreCmdReleaseJob 0) (commands 14 0x20000 8 s))).jobs.map (fun j => (j.state, j.cause, j.value))) = [(.done, 8, 0x40)] ∧
    answers (.coreCmdReleaseJob 0) 14 0x20000 7 s = (1, 0) ∧ answers (.coreCmdReleaseJob 0) 14 0x20001 0 s = (1, 0)) := by
  decide +kernel

/-- Flash that cannot be read, and the host endpoint of a stage that has failed (R358, R361). -/
theorem witness_failed_stage : (let s := starting .safe (fun p => { p with flashOk := false })
    (next (exec (.inventoryStageEntry [] 128 true) s)).pkg.error = 2 ∧
    (let t := { starting .safe id with pkg := { (starting .safe id).pkg with started := false, error := 2 } }
     Stopped t.pkg ∧ t.pkg.powered = true ∧ (next (exec (.hostPostedWrite 0x2FF8 8 5) t)).mem = [(0x1000020002FF8, 5)] ∧
     (next (exec (.doorbell 0 5) t)).pkg.events = [.doorbell 0 5])) := by
  refine ⟨by decide +kernel, ⟨by decide, by decide⟩, rfl, ?_⟩
  decide +kernel

/-- The first core of the package with a fault in its first two cores, and a band of which two flocks have failed (R3, R359, R360). -/
theorem witness_repair : builtCore [] 0 = some 0 ∧ builtCore [0] 0 = some 1 ∧ builtCore [] 2303 ≠ none ∧
    dieRepairable [0] 0 = true ∧ dieRepairable [0, 1, 9, 10] 0 = false ∧ dieRepairable [0, 1] 0 = true := by decide +kernel

/-- A retire request of a silo row that the host answers (R362). -/
theorem witness_retire_answer : (let s := starting .service (fun p => { p with retires := [(9, true), (8, false)], corrected := [(9, 5)] })
    Booted s ∧ s.pkg.retires.find? (fun x => x.1 == 9) = some (9, true) ∧
    (let t := runMove (.answerRetire 9) s
     (next t).pkg.retires = [(8, false)] ∧ (next t).pkg.remapped = [9] ∧ (next t).pkg.corrected = [])) := by
  refine ⟨⟨rfl, rfl⟩, ?_⟩
  decide +kernel

/-- A word of a channel queue that scrub finds uncorrectable, and the scrub command that writes it. -/
theorem witness_scrub_channel :
    (let s := withPort (placed plain 0) 0 3 { Port.reset with queue := [{ data := 7, ctl := false, poison := false, clock := [] }] }
     channelWord (bank0 + 0x60180) = some (0, 3, 0) ∧ channelWord 64 = none ∧ poisonUnit (bank0 + 0x60180) = bank0 + 0x60180 ∧
     (portAt (next (exec (.scrubRead (bank0 + 0x60180) false true) s)) 0 3).queue.map (fun w => w.poison) = [true] ∧
     ((next (exec (.scrubRead 64 false true) s)).poison, (next (exec (.scrubRead 64 false true) s)).records.map (fun r => r.value)) =
       ([64], [64])) := by decide +kernel

/-- What the windows read, word by word (R364 to R369, R372, Tables 20.4 to 20.9). -/
theorem test_register_reads : (let s := entry7 (entryOf .diverted) (commands 0x101 5 6 (placed (args 0x77 8) 0))
    registerRead s 0x10 = some 5 ∧ registerRead s 0x2C0 = some 0x280010000 ∧ registerRead s 0x2C8 = some 0x600000 ∧
    registerRead s 0x400 = some 0xFF000000 ∧ registerRead s 0x808 = some 0x77 ∧ registerRead s 0x1008 = some 0 ∧
    registerRead s 0x10000040 = some 0 ∧ registerRead s 0x09000108 = some 0 ∧ registerRead s 4 = none ∧
    registerRead s 0x09040000 = none ∧ registerRead (linked (fun l => { l with up := true, peer := 7, peerLink := 3 })) 0x3000F000 =
      some 0x730000001 ∧ registerRead (linked id) 0x3000F008 = some 1) := by decide +kernel

/-- An entry installed over an image whose port 3 is held for endpoint 1 of slot 0, where the core's port 3 is free, and where it is that
context's already (R325). -/
theorem witness_install_ports :
    (let s := withBytes (0x641000 + 16 * 3) [9, 0, 0, 0, 3, 0, 0, 0, 0, 0, 16] (commands 8 (divWord 1) 0x8001 (placed plain 0))
     let t := next (exec (.coreCmdInstallEntry 0) s)
     portAt t 0 3 = { Port.reset with owner := some { ctx := 0, slot := 0, ep := 1 }, far := 9, recv := true, saved := true } ∧
     portAt t 0 4 = Port.reset ∧
     (portAt (next (exec (.coreCmdInstallEntry 0) (withPort s 0 3 { Port.reset with owner := some { ctx := 0, slot := 2, ep := 0 } }))) 0 3) =
       { Port.reset with owner := some { ctx := 0, slot := 2, ep := 0 }, saved := true }) := by decide +kernel

/-- A context that has a parison buffer in use is not removed (R315). -/
theorem witness_remove_buffer : (let s := withCore (fun c => { c with
      residents := c.residents ++ [Resident.new 5 1 1 0], parison := c.parison.set 0 { Parison.reset with state := .landed, ctx := 5 } }) (placed plain 0)
    answers (.coreCmdRemove 0) 0x500000004 0 0 s = (1, 0)) := by decide +kernel

/-! ## Spans, ways, tokens, and what fences have shown -/

/-- A set span names core 1 and not core 2; without one a core is in the span where the context is resident in the same partition; and a
core of a die out of service is in no span but its own (R74, R358). -/
theorem witness_span : (let set := { placed plain 0 with pkg := { (placed plain 0).pkg with spans := [(0, [0, 1])] } }
    let on := fun (part : Nat) => { placed plain 0 with cores := assign (placed plain 0).cores 1 { coreAt (placed plain 0) 1 with
      residents := [Resident.new 0 part 0 0] } }
    inSpan set 0 0 0 1 = true ∧ inSpan set 0 0 0 2 = false ∧ inSpan (on 0) 0 0 0 1 = true ∧ inSpan (on 1) 0 0 0 1 = false ∧
    inSpan (placed plain 0) 0 0 0 0 = true) := by decide +kernel

theorem witness_span_has : SpanHas (placed plain 0) 0 0 0 0 ∧
    SpanHas { placed plain 0 with pkg := { (placed plain 0).pkg with spans := [(0, [0, 1])] } } 0 0 0 1 :=
  ⟨Or.inl rfl, Or.inr ⟨by decide +kernel, (by decide : (1 : Nat) ∈ [0, 1])⟩⟩

/-- A request on the way to a home, or to the same bytes, holds back a read-modify-write there (R105). -/
theorem witness_home_clear : homeClear [] 0 0 (.pad 0 0x100) 4 = true ∧ homeClear [request (.pad 0 0x100)] 0 0 (.pad 0 0x100) 4 = false ∧
    homeClear [request (.phys 0x100000 false)] 0 0 (.pad 0 0x100) 4 = true := by decide +kernel

/-- A release at SYSTEM holds back the thread's later write to a device register of the package, and one at DIE does not (R110). -/
theorem witness_before_host : (let rel := fun (sc : Nat) => let q := request (.phys 0x100000 false)
      { q with by_ := slotWriter (placed plain 0) 0 0 [] (some sc) false }
    let me := (request (.pad 0 0)).by_.party
    (rel scopeSystem).beforeHost me (.phys 0x1000010000000 true) = true ∧
    (rel scopeDie).beforeHost me (.phys 0x1000010000000 true) = false ∧
    (rel scopeSystem).beforeHost me (.phys 0x100000 false) = false ∧
    (request (.phys 0x100000 false)).beforeHost me (.phys 0x1000010000000 true) = false) := by decide +kernel

/-- A context whose deque is full, with a spill area at 0x300000, and whose buckets hold `n` tokens. -/
def fullDeque (n : Int) : State :=
  let s := spillHeader queued
  let p : Packet := { words := Vector.replicate 8 9, note := { id := 77, heads := [], pad := none } }
  let s := withCore (fun c => { c with residents := [{ Resident.new 0 0 0 0x300000 with deque := List.replicate 64 p }] }) s
  { s with flocks := assign s.flocks 0 { flockAt s 0 with
      buckets := (List.range 8).map (fun k => { Bucket.reset 0 k with count := n }) } }

/-- Packets are placed and taken at no cost in the core's own store; where the spill area does, a context that can pay for no line waits,
whatever slices its lines are in (R25, R333). -/
theorem witness_packet_cost : (placeCost (placed plain 0) 0 0).map (fun l => l.length) = some 0 ∧
    (takeCost (fullDeque 0) 0 0 0 .newest).isSome = true ∧
    (((residentOf (coreAt (fullDeque 0) 0) 0).bind (spillOf (fullDeque 0))).map (fun a => (a.header, a.tail))) = some (0x300000, 3) := by
  decide +kernel

theorem witness_no_token (line : Nat) :
    (payNow (fullDeque (-1000)) 0 0 line).isNone = true ∧ (payNow (fullDeque 1) 0 0 line).isSome = true := by
  have h : sliceOfLine line < 8 := Nat.mod_lt _ (by decide)
  unfold payNow
  generalize sliceOfLine line = k at h
  interval_cases k <;> exact ⟨by decide +kernel, by decide +kernel⟩

/-- A job whose record has been dropped: what it wrote is acquired by JPOLL (R101, R212). -/
theorem witness_ended_record : (let s := withJobs 1 [] (issues (args 0x20000 0) (lone (some (.jpoll 3 1)) none))
    let s := { s with order := { s.order with ended := [((0, 0, 0), [(99, 4)])] } }
    let t := next (exec (.jpoll 3 1) s)
    Clock.at (threadKnows t 0 0).clock 99 = 4 ∧ pRead (slotAt t 0 0) 3 = true) := by decide +kernel

/-- A predicted page whose table entry the thread is itself storing to: PCONF waits for the store (R348, R352). -/
theorem witness_pconf_waits : (let s := tables leafBits (confirming 9 { parison .predicted with pages := [(0x800000, 0x800000, 15)] })
    let s := atSlot 0 (fun sl => { sl with sb := [.store (.phys 0x202000 false) [1] none []] }) s
    pageWaits s 0 0 (0x800000, 0x800000, 15) = true ∧
    (slotAt (next (exec (.pconf 1 2) s)) 0 0).wait = .cond .tablesClear) := by decide +kernel

/-- A FULL fence at SYSTEM shows the thread's writes to every thread; one at CORE, to the core's (R98). -/
theorem witness_shown : (let s := placed plain 0
    let w := { pastWrite (slotParty s 0 0) 0 with stamp := 1 }
    let after := fun (sc : Nat) => applyAll s (showWrites 0 0 sc s)
    let far : Reader := { slotReader s 0 0 with party := 99, die := some 5, place := some (.slot 500 0) }
    shownTo (after scopeSystem) far w = true ∧ shownTo (after 0) far w = false ∧ shownTo s far w = false ∧
    shownTo (after scopeSystem) far { w with by_ := { w.by_ with n := 1 } } = false) := by decide +kernel

/-- A write that an engine lays in an image, and one that it brings to a place of its own (R325, R326). -/
theorem witness_route_placed : (let w := pastWrite 99 1
    let s := routed (.write (cellsAt 0x600000 [5]) (some (0x600000, w.by_))) (placed plain 0)
    let t := next (exec (.lehrAccess 0) s)
    memNat t 0x600000 1 = 5 ∧ (t.order.writes.map (fun x => (x.key, x.by_.party))) = [(0x600000, 99)]) := by decide +kernel

/-- The A word of a pair that faults at the end of its C word, and one that does not (R113). -/
theorem witness_companion : companionFault 0 (slotAt (issues plain (pair (.join 1))) 0 0) = none ∧
    companionFault 0 (slotAt (issues plain (issueOf 0x800000 0x12345678 0 8 (some (.join 1)) (some (.bfx 3 2 63 2)))) 0 0) = some 0x04 := by
  decide +kernel

/-- The copy of a thread that waits at a barrier continues after it, and a load's begins with its bundle (Tables 16.11, 20.4). -/
theorem witness_slot_image : imageWord (slotImage (waits plain (lone (some (.bar 1 2)) none) (.bar 0x100 1 2)) 0 0) 0x120 = 0x800004 ∧
    imageWord (slotImage (waits plain (lone (some (.halt 0)) none) .halt) 0 0) 0x120 = 0x800000 := by decide +kernel

/-- A switch request waits for an access that goes on, and takes a fetch's walk (R298). -/
theorem witness_switchable : (let at_ := fun (w : Wait) => (atSlot 0 (fun sl => { sl with switchReq := true })
      (waits plain (lone (some (.ld64 3 1 0 0 0)) none) w))
    switchable (at_ (.cond (.drained (.pad 0 0) 8))) 0 0 = false ∧ switchable (at_ (.walk 0x800000 .fetch 0x800000 true)) 0 0 = true ∧
    switchable (at_ (.walk 0x800000 .read 0x800000 true)) 0 0 = false ∧ switchable (at_ (.cond (.received 3))) 0 0 = true) := by decide +kernel

end Sys2Proof.Tests
end

/-! PROOF. Encoding and decoding: the lemmas of PerInstr.lean put together. -/

namespace Sys2Proof.Laws.WordOrStep

/-- Every word of every instruction reads back as it (R111, R114): by its constructor's lemma for each instruction word, and since no
role encodes a step that no word stands for. -/
theorem statement_of_instr (i : Instr) : Statement i := by
  cases i with
  | add d a b gp => exact add d a b gp
  | sub d a b gp => exact sub d a b gp
  | and_ d a b gp => exact and_ d a b gp
  | or_ d a b gp => exact or_ d a b gp
  | xor_ d a b gp => exact xor_ d a b gp
  | andn d a b gp => exact andn d a b gp
  | shl d a b gp => exact shl d a b gp
  | shr d a b gp => exact shr d a b gp
  | sar d a b gp => exact sar d a b gp
  | mul d a b gp => exact mul d a b gp
  | mulh d a b gp => exact mulh d a b gp
  | mulhu d a b gp => exact mulhu d a b gp
  | div d a b gp => exact div d a b gp
  | divu d a b gp => exact divu d a b gp
  | rem d a b gp => exact rem d a b gp
  | remu d a b gp => exact remu d a b gp
  | min d a b gp => exact min d a b gp
  | max d a b gp => exact max d a b gp
  | minu d a b gp => exact minu d a b gp
  | maxu d a b gp => exact maxu d a b gp
  | clz d a gp => exact clz d a gp
  | ctz d a gp => exact ctz d a gp
  | popc d a gp => exact popc d a gp
  | sel d a b s => exact sel d a b s
  | addsl1 d a b gp => exact addsl1 d a b gp
  | addsl2 d a b gp => exact addsl2 d a b gp
  | addsl3 d a b gp => exact addsl3 d a b gp
  | addsl4 d a b gp => exact addsl4 d a b gp
  | cmpeq d a b gp => exact cmpeq d a b gp
  | cmpne d a b gp => exact cmpne d a b gp
  | cmplt d a b gp => exact cmplt d a b gp
  | cmple d a b gp => exact cmple d a b gp
  | cmpltu d a b gp => exact cmpltu d a b gp
  | cmpleu d a b gp => exact cmpleu d a b gp
  | pand d a b gp => exact pand d a b gp
  | por d a b gp => exact por d a b gp
  | pxor d a b gp => exact pxor d a b gp
  | pandn d a b gp => exact pandn d a b gp
  | addi d a i => exact addi d a i
  | andi d a i => exact andi d a i
  | ori d a i => exact ori d a i
  | xori d a i => exact xori d a i
  | shli d a i => exact shli d a i
  | shri d a i => exact shri d a i
  | sari d a i => exact sari d a i
  | li d i => exact li d i
  | lis d a i => exact lis d a i
  | cmpeqi d a i => exact cmpeqi d a i
  | cmplti d a i => exact cmplti d a i
  | cmpltui d a i => exact cmpltui d a i
  | bfx d a l p => exact bfx d a l p
  | bfi d a l p => exact bfi d a l p
  | fadd d a b z gp => exact fadd d a b z gp
  | fsub d a b z gp => exact fsub d a b z gp
  | fmul d a b z gp => exact fmul d a b z gp
  | fdiv d a b z gp => exact fdiv d a b z gp
  | fsqrt d a z gp => exact fsqrt d a z gp
  | fmin d a b z gp => exact fmin d a b z gp
  | fmax d a b z gp => exact fmax d a b z gp
  | ffma d a b z gp => exact ffma d a b z gp
  | fabs d a z gp => exact fabs d a z gp
  | fneg d a z gp => exact fneg d a z gp
  | fclass d a z gp => exact fclass d a z gp
  | fcvti d a u z gp => exact fcvti d a u z gp
  | fcvtf d a u z gp => exact fcvtf d a u z gp
  | fcvtp d a z gp => exact fcvtp d a z gp
  | fcmpeq d a b z gp => exact fcmpeq d a b z gp
  | fcmplt d a b z gp => exact fcmplt d a b z gp
  | fcmple d a b z gp => exact fcmple d a b z gp
  | fcmpun d a b z gp => exact fcmpun d a b z gp
  | badd d a b h w => exact badd d a b h w
  | bsub d a b h w => exact bsub d a b h w
  | bmul d a b h w => exact bmul d a b h w
  | bfma d a b h w => exact bfma d a b h w
  | bmin d a b h w => exact bmin d a b h w
  | bmax d a b h w => exact bmax d a b h w
  | band d a b h w => exact band d a b h w
  | bor d a b h w => exact bor d a b h w
  | bxor d a b h w => exact bxor d a b h w
  | bdot d a b h w => exact bdot d a b h w
  | bred d a o h w => exact bred d a o h w
  | bcmplt d a b h w => exact bcmplt d a b h w
  | bsel d a b h w => exact bsel d a b h w
  | bmov d a h w => exact bmov d a h w
  | bneg d a h w => exact bneg d a h w
  | babs d a h w => exact babs d a h w
  | bexp2 d a h w => exact bexp2 d a h w
  | blog2 d a h w => exact blog2 d a h w
  | brcp d a h w => exact brcp d a h w
  | brsq d a h w => exact brsq d a h w
  | bsigm d a h w => exact bsigm d a h w
  | btanh d a h w => exact btanh d a h w
  | bsqrt d a h w => exact bsqrt d a h w
  | brelu d a h w => exact brelu d a h w
  | bcvt d a f h w => exact bcvt d a f h w
  | bscal d a g h w => exact bscal d a g h w
  | badds d a g h w => exact badds d a g h w
  | bbcst d g h w => exact bbcst d g h w
  | bget l a g h w => exact bget l a g h w
  | bset d l g h w => exact bset d l g h w
  | bgnorm d a g h w => exact bgnorm d a g h w
  | bshuf d a g h w => exact bshuf d a g h w
  | bscl d a g h w => exact bscl d a g h w
  | nop gp => exact nop gp
  | halt gp => exact halt gp
  | brk gp => exact brk gp
  | syscall gp => exact syscall gp
  | yield gp => exact yield gp
  | uiret gp => exact uiret gp
  | ifence gp => exact ifence gp
  | tret gp => exact tret gp
  | br p s d => exact br p s d
  | jal l d => exact jal l d
  | jalr d a b gp => exact jalr d a b gp
  | ld8 t s o c k => exact ld8 t s o c k
  | ld8U t s o c k => exact ld8U t s o c k
  | ld16 t s o c k => exact ld16 t s o c k
  | ld16U t s o c k => exact ld16U t s o c k
  | ld32 t s o c k => exact ld32 t s o c k
  | ld32U t s o c k => exact ld32U t s o c k
  | ld64 t s o c k => exact ld64 t s o c k
  | st8 t s o c k => exact st8 t s o c k
  | st16 t s o c k => exact st16 t s o c k
  | st32 t s o c k => exact st32 t s o c k
  | st64 t s o c k => exact st64 t s o c k
  | ldv v s o h w k => exact ldv v s o h w k
  | stv v s o h w k => exact stv v s o h w k
  | aadd d s b c k w => exact aadd d s b c k w
  | aaddf d s b c k w => exact aaddf d s b c k w
  | amin d s b c k w => exact amin d s b c k w
  | amax d s b c k w => exact amax d s b c k w
  | aminu d s b c k w => exact aminu d s b c k w
  | amaxu d s b c k w => exact amaxu d s b c k w
  | aand d s b c k w => exact aand d s b c k w
  | aor d s b c k w => exact aor d s b c k w
  | axor d s b c k w => exact axor d s b c k w
  | aswp d s b c k w => exact aswp d s b c k w
  | acas d s b c k w => exact acas d s b c k w
  | fence k c => exact fence k c
  | pref l s o => exact pref l s o
  | send a q => exact send a q
  | sendt p a q => exact sendt p a q
  | recv d q => exact recv d q
  | recvt d p q => exact recvt d p q
  | sendc a q => exact sendc a q
  | alt d a => exact alt d a
  | chgrant a q => exact chgrant a q
  | chbind a f q => exact chbind a f q
  | chunbind q => exact chunbind q
  | chstat d q => exact chstat d q
  | spawn p a => exact spawn p a
  | spawnat p a b => exact spawnat p a b
  | join a => exact join a
  | retire => exact retire
  | bar a b => exact bar a b
  | fmtsel n => exact fmtsel n
  | taskinfo d n => exact taskinfo d n
  | mwarm a => exact mwarm a
  | mwait d a => exact mwait d a
  | mwdis a => exact mwdis a
  | uisend a b => exact uisend a b
  | uimask d a => exact uimask d a
  | jpoll p a => exact jpoll p a
  | jwait d a => exact jwait d a
  | rdc d n => exact rdc d n
  | wrc a n => exact wrc a n
  | hsift a b c k => exact hsift a b c k
  | mxma d a => exact mxma d a
  | mxmab a => exact mxmab a
  | mxld a n => exact mxld a n
  | mxst a n => exact mxst a n
  | mxzero n => exact mxzero n
  | mxq d => exact mxq d
  | ringset a n => exact ringset a n
  | ringadv a n => exact ringadv a n
  | ringq d n => exact ringq d n
  | cpy d a => exact cpy d a
  | cpys a q => exact cpys a q
  | cpym d a => exact cpym d a
  | cpyq d a => exact cpyq d a
  | pfetch d a b => exact pfetch d a b
  | pconf a b => exact pconf a b
  | pcanc a => exact pcanc a
  | pfset a b => exact pfset a b
  | pfget d a => exact pfget d a
  | pfstat d a => exact pfstat d a
  | aejob d a => exact aejob d a
  | aeres d a => exact aeres d a
  | aeabort a => exact aeabort a
  | escreq d a => exact escreq d a
  | escpin a => exact escpin a
  | escunpin a => exact escunpin a
  | eschist a b n => exact eschist a b n
  | escq d a => exact escq d a
  | kvxl d a b => exact kvxl d a b
  | kvins d a b => exact kvins d a b
  | kvdel d a b => exact kvdel d a b
  | kvexp d a b => exact kvexp d a b
  | kvimp d a => exact kvimp d a
  | pcommit d a => exact pcommit d a
  | pdecommit d a => exact pdecommit d a
  | pprobe d a => exact pprobe d a
  | swapctx a => exact swapctx a
  | slothand a => exact slothand a
  | divset a b => exact divset a b
  | divclr a => exact divclr a
  | tlbinv a b => exact tlbinv a b
  | tlbinvc a => exact tlbinvc a
  | pfclr => exact pfclr
  | _ => exact step fun _ => rfl

end Sys2Proof.Laws.WordOrStep

namespace Sys2Proof.Proofs

/-- Settles O2, from the statement that PerInstr.lean proves of each constructor. -/
theorem decodeOfEncode : Obligations.DecodeOfEncode := by
  intro role i w hi hw
  obtain ⟨hlt, hrole, hdec⟩ := Laws.WordOrStep.statement_of_instr i role w hw
  exact ⟨hlt, hrole, hdec hi⟩

end Sys2Proof.Proofs

/-! PROOF. The words of Tables 6.1 and 6.2. -/

namespace Sys2Proof.Proofs

/-- Settles O1: the decoder computes, so each written-out word is decoded by evaluation. -/
theorem wordsDecodeAsTheTablesSay : Obligations.WordsDecodeAsTheTablesSay := by
  unfold Obligations.WordsDecodeAsTheTablesSay
  refine ⟨?stream0, ?stream1, ?stream2, ?stream3, ?stream4, ?stream5, ?ar, ?ai, ?ab, ?af, ?cr, ?cb, ?cj, ?ci, ?cm, ?ca,
    ?cx, ?reserved⟩ <;> rfl

end Sys2Proof.Proofs

/-! PROOF. A core's cycle that issues a bundle (R5, R15, R111). -/

namespace Sys2Proof.Proofs

open Sys2Proof.Machine Sys2Proof.Certificates

variable {s t : State} {core slot : Nat}

/-! ## The parts of a cycle -/

/-- Pieces that each leave a state as it is leave it so together. -/
theorem after_forAll_of_fixed {α : Type} {f : α → Micro} {s : State} {l : List α} (h : ∀ x ∈ l, after (f x) s = s) :
    after (forAll l f) s = s := by
  induction l with
  | nil => rfl
  | cons x l ih =>
    rw [after_forAll_cons, h x (by simp)]
    exact ih fun y hy => h y (by simp [hy])

/-- The timed ends of a cycle change nothing where none is due. -/
theorem after_dueEnds (h : ∀ k, k < 16 → yieldDue (coreAt t core) (slotAt t core k) = false ∧
    blockDue (coreAt t core) (slotAt t core k) = false ∧ ∀ n, (slotAt t core k).wait ≠ .job n) :
    after (dueEnds core) t = t := by
  refine after_forAll_of_fixed fun k hk => ?_
  obtain ⟨hy, hb, hj⟩ := h k (List.mem_range.mp hk)
  -- `hj` rules out the arm of a job's wait.
  simp [hy, hb]

/-- What is left of a cycle once it has begun. -/
theorem after_cycleStep (s : State) (core : Nat) (rest : List Move) {slot : Nat} {u : CodeUnit}
    (h : AboutToIssue (beginCycle s core rest) core slot u) :
    after (cycleStep core) { s with agenda := rest } = after (issueSlot core slot) (beginCycle s core rest) := by
  have hbegin : after (modCore core fun c => { c with cycle := c.cycle + 1, spent := false }) { s with agenda := rest } =
      beginCycle s core rest := rfl
  simp only [cycleStep, after_doAll_cons, hbegin, after_dueEnds h.noEnds, after_ask, h.noWindow, h.noSwitch, h.noHand,
    h.chosen, after_doAll_nil, Bool.false_eq_true, if_false]

/-! ## A slot's issue -/

/-- A slot that leaves the wait that held it to issue in a cycle. -/
def wokenSlot (sl : Slot) (cycle : Nat) : Slot := { sl with last := some cycle, issue := none, wait := .none }

section
variable (sl : Slot) (n : Nat)

@[simp] theorem wokenSlot_mode : (wokenSlot sl n).mode = sl.mode := rfl
@[simp] theorem wokenSlot_ctx : (wokenSlot sl n).ctx = sl.ctx := rfl
@[simp] theorem wokenSlot_regs : (wokenSlot sl n).regs = sl.regs := rfl
@[simp] theorem wokenSlot_wait : (wokenSlot sl n).wait = .none := rfl
@[simp] theorem wokenSlot_fmtPending : (wokenSlot sl n).fmtPending = sl.fmtPending := rfl
@[simp] theorem wokenSlot_dispatchFault : (wokenSlot sl n).dispatchFault = sl.dispatchFault := rfl
@[simp] theorem wokenSlot_replaceCause : (wokenSlot sl n).replaceCause = sl.replaceCause := rfl
@[simp] theorem dueEngineFault_wokenSlot : dueEngineFault (wokenSlot sl n) = dueEngineFault sl := rfl
@[simp] theorem dueEvent_wokenSlot : dueEvent (wokenSlot sl n) = dueEvent sl := rfl
@[simp] theorem dueCompletion_wokenSlot : dueCompletion (wokenSlot sl n) = dueCompletion sl := rfl
@[simp] theorem dueVector_wokenSlot : dueVector (wokenSlot sl n) = dueVector sl := rfl

end

/-- A state in which a slot has taken the core's cycle and left the wait that held it. -/
def woken (t : State) (core slot : Nat) : State :=
  after (wake core slot) (after (takeCycle core slot) t)

@[simp] theorem slotAt_woken (t : State) (core slot : Nat) :
    slotAt (woken t core slot) core slot = wokenSlot (slotAt t core slot) (coreAt t core).cycle := by
  simp [woken, wake, takeCycle, wokenSlot]

@[simp] theorem coreAt_woken (t : State) (core slot : Nat) :
    coreAt (woken t core slot) core = { coreAt t core with spent := true } := by
  simp [woken, wake, takeCycle]

@[simp] theorem ctxAt_woken (t : State) (core slot k : Nat) : ctxAt (woken t core slot) k = ctxAt t k := rfl

/-- Formats have no read due in a slot about to issue. -/
theorem noFormats_of_aboutToIssue {u : CodeUnit} (h : AboutToIssue t core slot u) :
    ((slotAt t core slot).fmtPending && (slotAt t core slot).mode == .user) = false := by
  cases hm : (slotAt t core slot).mode with
  | user => simp [(h.formats hm).1]
  | supervisor => simp

/-- No fault of the dispatch is due in a slot about to issue. -/
theorem noDispatchFault_of_aboutToIssue {u : CodeUnit} (h : AboutToIssue t core slot u) :
    (if (slotAt t core slot).mode = .user then (slotAt t core slot).dispatchFault else none) = none := by
  split
  · rename_i hm
    exact (h.formats hm).2
  · rfl

/-- Nothing comes before the bundle of a slot about to issue. -/
theorem after_issueFirst {u : CodeUnit} (h : AboutToIssue t core slot u) :
    after (issueFirst core slot) (woken t core slot) = after (issueAtPc core slot) (woken t core slot) := by
  obtain ⟨hreplace, hengine, hevent, hcompletion, hvector⟩ := h.noFault
  have hfmt := noFormats_of_aboutToIssue h
  have hdisp := noDispatchFault_of_aboutToIssue h
  simp only [issueFirst, issueNow, after_ask, slotAt_woken, wokenSlot_fmtPending, wokenSlot_mode, wokenSlot_dispatchFault,
    wokenSlot_replaceCause, dueEngineFault_wokenSlot, dueEvent_wokenSlot, dueCompletion_wokenSlot, dueVector_wokenSlot,
    hfmt, hdisp, hengine, hevent, hcompletion, hvector, hreplace, Bool.false_eq_true, if_false]

/-- The bundle at the pc of a woken slot whose words have been fetched is the one that the unit holds there. -/
theorem after_issueAtPc {u : CodeUnit} (h : AboutToIssue t core slot u) :
    let pc := (slotAt t core slot).regs.pc
    after (issueAtPc core slot) (woken t core slot) =
      after (issueBundle core slot pc (u.at pc.toNat).1 (u.at pc.toNat).2) (woken t core slot) := by
  have hw : fetched { coreAt t core with spent := true } (slotAt t core slot).ctx (slotAt t core slot).regs.pc.toNat = some u :=
    h.words
  have hu : ¬((slotAt t core slot).mode = .user ∧ u.user = false) := fun ⟨hm, hf⟩ => by simp [h.user hm] at hf
  simp only [issueAtPc, after_ask, slotAt_woken, wokenSlot_regs, wokenSlot_ctx, wokenSlot_mode, coreAt_woken, ctxAt_woken, h.pc,
    h.tables, hw, hu, if_false]

/-- A slot about to issue comes to the bundle at its pc. -/
theorem after_issueSlot {u : CodeUnit} (h : AboutToIssue t core slot u) :
    let pc := (slotAt t core slot).regs.pc
    after (issueSlot core slot) t =
      after (issueBundle core slot pc (u.at pc.toNat).1 (u.at pc.toNat).2) (woken t core slot) := by
  intro pc
  rw [← after_issueAtPc h, ← after_issueFirst h, issueSlot, after_ask]
  split
  · rename_i hx
    exact absurd hx (h.noSwap _ _ _ _ _)
  · have hwoken : after (wake core slot) (after (takeCycle core slot) t) = woken t core slot := rfl
    simp only [after_doAll_cons, after_doAll_nil, hwoken, noFormats_of_aboutToIssue h, Bool.false_and, after_onlyIf_false,
      after_ask, slotAt_woken, wokenSlot_wait, wokenSlot_fmtPending, wokenSlot_mode, bne_self_eq_false, Bool.false_eq_true, if_false]

/-! ## The bundle handed over -/

/-- A bundle is put into a slot as it is issued: with R33's writes in its A word's place where that word's fault has been reported. -/
theorem after_putIssue (t : State) (core slot : Nat) (iss : Issue) : after (putIssue core slot iss) t =
    applyUpd t (.slot core slot { slotAt t core slot with issue := some (issuedAs core (slotAt t core slot) iss) }) := by
  have hig : ignored core { slotAt t core slot with issue := some iss } = ignored core (slotAt t core slot) := rfl
  simp only [putIssue, after_andThen, after_modSlot, after_ask, slotAt_slot_same, after_onlyIf, issuedAs, beq_iff_eq]
  split
  · simp only [overrideA, after_modSlot, slotAt_slot_same, applyUpd_slot_slot, hig]
  · rfl

/-- A bundle put into a woken slot and handed over is being issued. -/
theorem after_putIssue_handOver (t : State) (core slot : Nat) (iss : Issue) :
    after (andThen (putIssue core slot iss) (handOver core slot)) (woken t core slot) = issuingState t core slot iss := by
  have hwoken : woken t core slot = applyUpd (applyUpd t (.core core { coreAt t core with spent := true }))
      (.slot core slot (wokenSlot (slotAt t core slot) (coreAt t core).cycle)) := by
    simp [woken, wake, takeCycle, wokenSlot]
  rw [after_andThen, after_putIssue, slotAt_woken, hwoken, applyUpd_slot_slot]
  rfl

/-- A cycle in which a bundle is handed over runs the word at its head. -/
theorem runCycle_of_issuing {s : State} {core slot : Nat} {iss : Issue} {i : Instr} (hup : coreUp s core = true)
    (h : after (cycleStep core) s = issuingState t core slot iss) (hi : iss.head = some i) :
    runCycle core s = exec i (issuingState t core slot iss) := by
  have hhead : (issuedAs core (slotAt t core slot) iss).head = iss.head := by
    unfold issuedAs
    split <;> rfl
  have hhand : handedWord (issuingState t core slot iss) = some i := by
    simp [handedWord, issuingState, slotAt, ← hi, ← hhead]
  change applyAll s (cycleStep core s) = _ at h
  simp [runCycle, hup, h, hhand]

/-! ## The bundles that are handed over -/

section
variable {pc : Word} {w0 w1 : W32} {c a : Instr}

/-- A lone C word is handed over. -/
theorem issueBundle_loneC (hd : decodeBundle (pc.toNat % 8 == 0) w0.toNat w1.toNat = .loneC (.ok c)) :
    issueBundle core slot pc w0 w1 = andThen (putIssue core slot (issueOf pc w0 w1 4 (some c) none)) (handOver core slot) := by
  simp only [issueBundle, hd]

/-- A lone A word is handed over. -/
theorem issueBundle_loneA (hd : decodeBundle (pc.toNat % 8 == 0) w0.toNat w1.toNat = .loneA (.ok a)) :
    issueBundle core slot pc w0 w1 = andThen (putIssue core slot (issueOf pc w0 w1 4 none (some a))) (handOver core slot) := by
  simp only [issueBundle, hd]

/-- A pair is handed over when its C word may stand in a pair and its words have no destination in common (R6, R112). -/
theorem issueBundle_pair (hd : decodeBundle (pc.toNat % 8 == 0) w0.toNat w1.toNat = .pair (.ok c) (.ok a))
    (hlone : c.loneOnly = false) (hclash : clash c a = false) : issueBundle core slot pc w0 w1 =
      andThen (putIssue core slot (issueOf pc w0 w1 8 (some c) (some a))) (handOver core slot) := by
  simp only [issueBundle, hd, hlone, hclash, Bool.or_self, Bool.false_eq_true, if_false]

end

/-- A step whose move is a core's cycle in which a slot is about to issue runs the word at the head of the bundle that is handed
over. -/
theorem step_of_handOver {rest : List Move} {iss : Issue} {i : Instr} {u : CodeUnit} (ha : s.agenda = .cycle core :: rest)
    (h : AboutToIssue (beginCycle s core rest) core slot u)
    (hb : let pc := (slotAt (beginCycle s core rest) core slot).regs.pc
      issueBundle core slot pc (u.at pc.toNat).1 (u.at pc.toNat).2 = andThen (putIssue core slot iss) (handOver core slot))
    (hi : iss.head = some i) : step s = exec i (issuingState (beginCycle s core rest) core slot iss) := by
  have hcycle : after (cycleStep core) { s with agenda := rest } = issuingState (beginCycle s core rest) core slot iss := by
    rw [after_cycleStep s core rest h, after_issueSlot h, hb, after_putIssue_handOver]
  have hstep : step s = runCycle core { s with agenda := rest } := by simp [step, nextMove, ha, runMove]
  have hup : coreUp { s with agenda := rest } core = true := h.up
  rw [hstep, runCycle_of_issuing hup hcycle hi]

/-- Settles O4: nothing comes before the bundle, which decodes to a legal one and is handed over with its first word at its head. -/
theorem stepRunsTheDecodedBundle : Obligations.StepRunsTheDecodedBundle := by
  intro s core slot u rest ha t pc w h
  exact ⟨fun c hd => step_of_handOver ha h (issueBundle_loneC hd) rfl,
    fun a hd => step_of_handOver ha h (issueBundle_loneA hd) rfl,
    fun c a hd hlone hclash => step_of_handOver ha h (issueBundle_pair hd hlone hclash) rfl⟩

end Sys2Proof.Proofs

/-! PROOF. A words alone and beside a C word (R5, R6, R113). -/

namespace Sys2Proof.Proofs

open Sys2Proof.Machine

variable {s : State} {core slot : Nat} {iss : Issue} {i : Instr}

/-- The effect of an A word, as its lone meaning takes it. -/
def loneEffect (i : Instr) (core : Nat) (sl : Slot) : ARes := (aEffect core sl i).getD (aNow AEffect.nothing)

theorem loneEffect_of_aEffect {sl : Slot} {r : ARes} (h : aEffect core sl i = some r) : loneEffect i core sl = r := by
  simp [loneEffect, h]

/-- The meaning of an instruction that has an A word's effect is that effect's alone (R5, R6). -/
theorem exec_of_aEffect {sl : Slot} {r : ARes} (h : aEffect core sl i = some r) (s : State) :
    exec i s = loneA s (loneEffect i) := by
  cases i <;> cases h <;> rfl

/-- A lone A word that raises no fault ends its bundle with its writes, or its unit's start. -/
theorem exec_aWord_ok (h : Issuing s core slot iss) {out : AOut}
    (hi : aEffect core (slotAt s core slot) i = some (.ok out)) :
    exec i s = .next (ended s core slot (some out) (slotAt s core slot) iss.after) :=
  (exec_of_aEffect hi s).trans (loneA_ok h (loneEffect_of_aEffect hi))

/-- A lone A word that faults raises its fault. -/
theorem exec_aWord_fault (h : Issuing s core slot iss) {c : Nat}
    (hi : aEffect core (slotAt s core slot) i = some (.error c)) :
    exec i s = .next (stepEnd s (raiseA core slot c (finishPlain core slot))) :=
  (exec_of_aEffect hi s).trans (loneA_fault h (loneEffect_of_aEffect hi))

/-- The companion of a bundle with a legal A word that has not been overridden is what that word does. -/
theorem companion_of_aEffect {sl : Slot} {r : ARes} (ha : iss.a = some i) (ho : iss.aOver = none) (hb : iss.aBad = false)
    (hi : aEffect core sl i = some r) : companion core sl iss = r.map some := by
  unfold companion
  simp only [ho, hb, ha, hi]
  cases r <;> rfl

/-- A NOP does nothing but end its bundle, whether its guard is on or off (R150). -/
theorem exec_nop (gp : Fin 8) (s : State) :
    exec (.nop gp) s = Machine.cWord s (fun core slot _ => .act (finishPlain core slot)) := by
  have hk : ∀ core slot t, cGuarded gp core slot t (.act (finishPlain core slot)) = .act (finishPlain core slot) := by
    intro core slot t
    unfold cGuarded
    split <;> rfl
  change Machine.cWord s (fun core slot t => cGuarded gp core slot t (.act (finishPlain core slot))) = _
  simp only [hk]

/-- A C word that acts, beside an A word that faults: the A word's fault is raised before the C word's effect (R113). -/
theorem cWord_act_aFault (h : Issuing s core slot iss) (hb : iss.aBad = false) {c : Nat}
    (hc : companion core (slotAt s core slot) iss = .error c) {k : Nat → Nat → State → CRes} {f : Micro}
    (hk : k core slot s = .act f) : Machine.cWord s k = .next (stepEnd s (raiseA core slot c f)) := by
  have hbad : (slotAt s core slot).badA = false := by simp [Slot.badA, h.bundle, hb]
  have hfault : companionFault core (slotAt s core slot) = some c := by simp [companionFault, h.bundle, hc]
  simp [Machine.cWord, onIssue_stepEnd h, runC, hbad, runLegal, hk, unlessA, hfault]

/-- Settles O26: alone by `loneA`, beside a NOP by the end of a bundle with its companion, both of which come to `ended` or to
`raiseA`. -/
theorem aWordAloneAndInPair : Obligations.AWordAloneAndInPair := by
  intro s core slot iss i h
  refine ⟨fun out hi => ⟨exec_aWord_ok h hi, fun ha ho hb gp => ?_⟩,
    fun c hi => ⟨exec_aWord_fault h hi, fun ha ho hb gp => ?_⟩⟩
  · have hs : Issues s core slot iss (some out) := { toIssuing := h, partner := companion_of_aEffect ha ho hb hi }
    rw [exec_nop, cWord_act hs rfl, finishPlain_ended hs]
  · rw [exec_nop, cWord_act_aFault h hb (companion_of_aEffect ha ho hb hi) rfl]

end Sys2Proof.Proofs

/-! PROOF. The frame of the A words: where each word's writes go, and what making them leaves as it was (R6, R134, R156). -/

namespace Sys2Proof.Proofs

open Sys2Proof.Machine Sys2Proof.Certificates

/-! ## Making a word's writes -/

/-- A word's writes of registers, without those of FCTL and RSEED. -/
def writeRegs (sl : Slot) (e : AEffect) : Slot :=
  e.b.foldl (fun s x => bWrite s x.1 x.2) (e.p.foldl (fun s x => pWrite s x.1 x.2) (e.g.foldl (fun s x => gWrite s x.1 x.2) sl))

theorem applyEffect_eq (sl : Slot) (e : AEffect) : applyEffect sl e = { writeRegs sl e with
    ctl := { (writeRegs sl e).ctl with
      fctl := orFlags (writeRegs sl e).ctl.fctl e.flags, rseed := e.rseed.getD (writeRegs sl e).ctl.rseed } } := rfl

/-- What each of a list of changes leaves as it was, they leave so together. -/
theorem foldl_keeps {σ β γ : Type} (obs : σ → γ) {f : σ → β → σ} {l : List β} (h : ∀ s, ∀ x ∈ l, obs (f s x) = obs s) (s : σ) :
    obs (l.foldl f s) = obs s :=
  List.foldlRecOn l f (motive := fun t => obs t = obs s) rfl fun t ht x hx => (h t x hx).trans ht

/-- What no register write of a word changes, the word's writes of registers leave as it was. -/
theorem writeRegs_keeps {γ : Type} (obs : Slot → γ) {e : AEffect} (hg : ∀ s, ∀ x ∈ e.g, obs (gWrite s x.1 x.2) = obs s)
    (hp : ∀ s, ∀ x ∈ e.p, obs (pWrite s x.1 x.2) = obs s) (hb : ∀ s, ∀ x ∈ e.b, obs (bWrite s x.1 x.2) = obs s) (sl : Slot) :
    obs (writeRegs sl e) = obs sl :=
  (foldl_keeps obs hb _).trans ((foldl_keeps obs hp _).trans (foldl_keeps obs hg sl))

variable (sl : Slot) (e : AEffect)

theorem gRead_applyEffect {r : Fin 32} (h : r ∉ e.g.map Prod.fst) : gRead (applyEffect sl e) r = gRead sl r :=
  writeRegs_keeps (fun s => gRead s r)
    (fun s _ hx => gRead_gWrite_other s _ fun hr => h (hr ▸ List.mem_map_of_mem hx)) (by simp) (by simp) sl

theorem pRead_applyEffect {r : Fin 8} (h : r ∉ e.p.map Prod.fst) : pRead (applyEffect sl e) r = pRead sl r :=
  writeRegs_keeps (fun s => pRead s r) (by simp)
    (fun s _ hx => pRead_pWrite_other s _ fun hr => h (hr ▸ List.mem_map_of_mem hx)) (by simp) sl

theorem bRead_applyEffect {r : Fin 64} (h : r ∉ e.b.map Prod.fst) : bRead (applyEffect sl e) r = bRead sl r :=
  writeRegs_keeps (fun s => bRead s r) (by simp) (by simp)
    (fun s _ hx => bRead_bWrite_other s _ fun hr => h (hr ▸ List.mem_map_of_mem hx)) sl

theorem applyEffect_pc : (applyEffect sl e).regs.pc = sl.regs.pc :=
  writeRegs_keeps (fun s => s.regs.pc) (by simp) (by simp) (by simp) sl

theorem writeRegs_ctl : (writeRegs sl e).ctl = sl.ctl :=
  writeRegs_keeps Slot.ctl (by simp) (by simp) (by simp) sl

/-- A write of a register changes nothing of its slot but the registers. -/
theorem gWrite_regs_only (r : Fin 32) (v : Word) (q : Regs) : { gWrite sl r v with regs := q } = { sl with regs := q } := by
  unfold gWrite
  split
  · rfl
  · split <;> rfl

theorem pWrite_regs_only (r : Fin 8) (v : Bool) (q : Regs) : { pWrite sl r v with regs := q } = { sl with regs := q } := by
  unfold pWrite
  split <;> rfl

theorem writeRegs_regs_only : { writeRegs sl e with regs := sl.regs } = sl :=
  writeRegs_keeps (fun s => { s with regs := sl.regs }) (fun s _ _ => gWrite_regs_only s _ _ _)
    (fun s _ _ => pWrite_regs_only s _ _ _) (fun _ _ _ => rfl) sl

/-- A word's writes change nothing of its slot but registers and control registers. -/
theorem applyEffect_regs_ctl_only : { applyEffect sl e with regs := sl.regs, ctl := sl.ctl } = sl := by
  have h := writeRegs_regs_only sl e
  rw [← writeRegs_ctl sl e]
  exact h

/-- The control registers after a word's writes: flags and RSEED alone. -/
theorem applyEffect_ctl : (applyEffect sl e).ctl =
    { sl.ctl with fctl := orFlags sl.ctl.fctl e.flags, rseed := e.rseed.getD sl.ctl.rseed } := by
  rw [applyEffect_eq, writeRegs_ctl]

/-- Flags are ORed into FCTL[12:8] and no other bit. -/
theorem orFlags_outside (x : Word) (f : Flags) : orFlags x f &&& ~~~0x1F00 = x &&& ~~~0x1F00 := by
  have h : f.zeroExtend 64 <<< 8 &&& ~~~(0x1F00 : Word) = 0 := by revert f; decide
  rw [orFlags, BitVec.and_or_distrib_right, h]
  exact BitVec.or_zero

/-- No bit of FCTL is cleared by ORing flags. -/
theorem orFlags_keeps (x : Word) (f : Flags) : x &&& ~~~orFlags x f = 0 := by
  ext k
  cases h : x[k] <;> simp [orFlags, h]

/-- Making a word's writes leaves what it does not name as it was. -/
theorem applyEffect_frame :
    let t := applyEffect sl e
    (∀ r, r ∉ e.g.map Prod.fst → gRead t r = gRead sl r) ∧ (∀ r, r ∉ e.p.map Prod.fst → pRead t r = pRead sl r) ∧
    (∀ r, r ∉ e.b.map Prod.fst → bRead t r = bRead sl r) ∧ t.regs.pc = sl.regs.pc ∧
    { t with regs := sl.regs, ctl := sl.ctl } = sl ∧
    { t.ctl with fctl := sl.ctl.fctl, rseed := sl.ctl.rseed } = sl.ctl ∧
    t.ctl.fctl &&& ~~~0x1F00 = sl.ctl.fctl &&& ~~~0x1F00 ∧ sl.ctl.fctl &&& ~~~t.ctl.fctl = 0 ∧
    (e.rseed = none → t.ctl.rseed = sl.ctl.rseed) := by
  intro t
  have hctl : t.ctl = _ := applyEffect_ctl sl e
  refine ⟨fun r => gRead_applyEffect sl e, fun r => pRead_applyEffect sl e, fun r => bRead_applyEffect sl e,
    applyEffect_pc sl e, applyEffect_regs_ctl_only sl e, ?_, ?_, ?_, ?_⟩
  · rw [hctl]
  · rw [hctl, orFlags_outside]
  · rw [hctl, orFlags_keeps]
  · intro h
    simp [hctl, h]

end Sys2Proof.Proofs

/-! PROOF. Where the writes of each A word go (R6, R11, R134), by the shared form of its effect. -/

namespace Sys2Proof.Proofs

open Sys2Proof.Machine

/-- Every register that an effect writes lies in one of the destinations `ds`, and RSEED advances in RSR alone (R61). -/
structure WithinDests (sl : Slot) (ds : List Dst) (e : AEffect) : Prop where
  general   : ∀ x ∈ e.g, Dst.g x.1 ∈ ds
  predicate : ∀ x ∈ e.p, Dst.p x.1 ∈ ds
  block     : ∀ x ∈ e.b, ∃ l, Dst.b l ∈ ds ∧ x.1 ∈ l
  seed      : modeOf sl ≠ 5 → e.rseed = none

/-- An A word's effect, if it has one, writes within the destinations `ds`. -/
def WritesWithin (sl : Slot) (ds : List Dst) (r : ARes) : Prop := ∀ out, r = .ok out → WithinDests sl ds out.eff

variable {sl : Slot} {ds : List Dst} {core : Nat}

/-! ## Effects -/

theorem withinDests_nothing : WithinDests sl ds AEffect.nothing :=
  ⟨by simp [AEffect.nothing], by simp [AEffect.nothing], by simp [AEffect.nothing], fun _ => rfl⟩

theorem withinDests_g (d : Fin 32) (v : Word) (fl : Flags) {seed : Option Word} (hs : modeOf sl ≠ 5 → seed = none) :
    WithinDests sl [.g d] { g := [(d, v)], p := [], b := [], flags := fl, rseed := seed } :=
  ⟨by simp, by simp, by simp, hs⟩

theorem withinDests_p (d : Fin 8) (v : Bool) (fl : Flags) :
    WithinDests sl [.p d] { g := [], p := [(d, v)], b := [], flags := fl, rseed := none } :=
  ⟨by simp, by simp, by simp, fun _ => rfl⟩

/-- Writes of the registers of an operand. -/
theorem withinDests_zip {l m : List (Fin 64)} (h : ∀ x ∈ l, x ∈ m) (vs : List Quad) (fl : Flags) {seed : Option Word}
    (hs : modeOf sl ≠ 5 → seed = none) :
    WithinDests sl [.b m] { g := [], p := [], b := l.zip vs, flags := fl, rseed := seed } :=
  ⟨by simp, by simp, fun x hx => ⟨m, by simp, h _ (List.of_mem_zip hx).1⟩, hs⟩

/-- Writes of a general register and of the registers of an operand. -/
theorem withinDests_g_zip (d : Fin 32) (v : Word) {l m : List (Fin 64)} (h : ∀ x ∈ l, x ∈ m) (vs : List Quad) (fl : Flags)
    {seed : Option Word} (hs : modeOf sl ≠ 5 → seed = none) :
    WithinDests sl [.g d, .b m] { g := [(d, v)], p := [], b := l.zip vs, flags := fl, rseed := seed } :=
  ⟨by simp, by simp, fun x hx => ⟨m, by simp, h _ (List.of_mem_zip hx).1⟩, hs⟩

/-! ## Results -/

theorem writesWithin_ok {e : AEffect} (k : AKind) (h : WithinDests sl ds e) :
    WritesWithin sl ds (.ok { eff := e, kind := k }) := by
  rintro _ ⟨⟩
  exact h

theorem writesWithin_error (c : Nat) : WritesWithin sl ds (.error c) := nofun

/-- A word guarded off writes nothing. -/
theorem writesWithin_guarded (gp : Fin 8) {r : ARes} (h : WritesWithin sl ds r) : WritesWithin sl ds (guarded gp sl r) := by
  unfold guarded
  split
  · exact h
  · exact writesWithin_ok .now withinDests_nothing

/-! ## Scalar forms -/

theorem intOp_within (f : Word → Word → Word) (d a b : Fin 32) (gp : Fin 8) : WritesWithin sl [.g d] (intOp f d a b gp sl) :=
  writesWithin_guarded gp (writesWithin_ok _ (withinDests_g d _ _ fun _ => rfl))

theorem intOp1_within (f : Word → Word) (d a : Fin 32) (gp : Fin 8) : WritesWithin sl [.g d] (intOp1 f d a gp sl) :=
  writesWithin_guarded gp (writesWithin_ok _ (withinDests_g d _ _ fun _ => rfl))

theorem longOp_within (f : Word → Word → Word) (d a b : Fin 32) (gp : Fin 8) : WritesWithin sl [.g d] (longOp f d a b gp sl) :=
  writesWithin_guarded gp (writesWithin_ok _ (withinDests_g d _ _ fun _ => rfl))

theorem immOp_within (f : Word → Word → Word) (d a : Fin 32) (v : Word) : WritesWithin sl [.g d] (immOp f d a v sl) :=
  writesWithin_ok _ (withinDests_g d _ _ fun _ => rfl)

theorem cmpOp_within (f : Word → Word → Bool) (d : Fin 8) (a b : Fin 32) (gp : Fin 8) :
    WritesWithin sl [.p d] (cmpOp f d a b gp sl) :=
  writesWithin_guarded gp (writesWithin_ok _ (withinDests_p d _ _))

theorem cmpImm_within (f : Word → Word → Bool) (d : Fin 8) (a : Fin 32) (v : Word) :
    WritesWithin sl [.p d] (cmpImm f d a v sl) :=
  writesWithin_ok _ (withinDests_p d _ _)

theorem predOp_within (f : Bool → Bool → Bool) (d a b gp : Fin 8) : WritesWithin sl [.p d] (predOp f d a b gp sl) :=
  writesWithin_guarded gp (writesWithin_ok _ (withinDests_p d _ _))

theorem effSel_within (d a b : Fin 32) (p : Fin 8) : WritesWithin sl [.g d] (effSel d a b p sl) :=
  writesWithin_ok _ (withinDests_g d _ _ fun _ => rfl)

theorem effLi_within (d : Fin 32) (i : BitVec 14) : WritesWithin sl [.g d] (effLi d i sl) :=
  writesWithin_ok _ (withinDests_g d _ _ fun _ => rfl)

theorem effBfx_within (d a : Fin 32) (l p : Fin 64) : WritesWithin sl [.g d] (effBfx d a l p sl) := by
  unfold effBfx
  split
  · exact writesWithin_error _
  · exact writesWithin_ok _ (withinDests_g d _ _ fun _ => rfl)

theorem effBfi_within (d a : Fin 32) (l p : Fin 64) : WritesWithin sl [.g d] (effBfi d a l p sl) := by
  unfold effBfi
  split
  · exact writesWithin_error _
  · exact writesWithin_ok _ (withinDests_g d _ _ fun _ => rfl)

/-! ## Floating-point forms -/

/-- Random bits are taken in RSR alone (R141). -/
theorem slotDraw_seed (h : modeOf sl ≠ 5) : (slotDraw sl).2 = none := by simp [slotDraw, h]

/-- A word that puts a rounded result in `d`. -/
theorem fpResult_within (z : Bool) (d : Fin 32) (p : Pre) (gp : Fin 8) (k : AKind) :
    WritesWithin sl [.g d] (guarded gp sl (.ok { eff := fpResult z d p sl, kind := k })) :=
  writesWithin_guarded gp (writesWithin_ok _ (withinDests_g d _ _ slotDraw_seed))

theorem fpMinMax_within (less : Bool) (d a b : Fin 32) (z : Bool) (gp : Fin 8) :
    WritesWithin sl [.g d] (fpMinMax less d a b z gp sl) :=
  writesWithin_guarded gp (writesWithin_ok _ (withinDests_g d _ _ fun _ => rfl))

theorem effFabs_within (d a : Fin 32) (z : Bool) (gp : Fin 8) : WritesWithin sl [.g d] (effFabs d a z gp sl) :=
  writesWithin_guarded gp (writesWithin_ok _ (withinDests_g d _ _ fun _ => rfl))

theorem effFneg_within (d a : Fin 32) (z : Bool) (gp : Fin 8) : WritesWithin sl [.g d] (effFneg d a z gp sl) :=
  writesWithin_guarded gp (writesWithin_ok _ (withinDests_g d _ _ fun _ => rfl))

theorem effFclass_within (d a : Fin 32) (z : Bool) (gp : Fin 8) : WritesWithin sl [.g d] (effFclass d a z gp sl) :=
  writesWithin_guarded gp (writesWithin_ok _ (withinDests_g d _ _ fun _ => rfl))

theorem effFcvti_within (d a : Fin 32) (u z : Bool) (gp : Fin 8) : WritesWithin sl [.g d] (effFcvti d a u z gp sl) :=
  writesWithin_guarded gp (writesWithin_ok _ (withinDests_g d _ _ slotDraw_seed))

theorem effFcvtp_within (d a : Fin 32) (z : Bool) (gp : Fin 8) : WritesWithin sl [.g d] (effFcvtp d a z gp sl) := by
  refine writesWithin_guarded gp (writesWithin_ok _ (withinDests_g d _ _ fun h => ?_))
  cases z with
  | false => rfl
  | true => exact slotDraw_seed h

theorem fpCmp_within (f : Int → Bool) (onNaN quietNV : Bool) (d : Fin 8) (a b : Fin 32) (z : Bool) (gp : Fin 8) :
    WritesWithin sl [.p d] (fpCmp f onNaN quietNV d a b z gp sl) :=
  writesWithin_guarded gp (writesWithin_ok _ (withinDests_p d _ _))

/-! ## Block forms -/

/-- The registers of an operand inside the grid are those of the destination (R11, R129). -/
theorem blockRegs_destBlock {v : Fin 64} {h w : Nat} (hv : inGrid v h w = true) : ∀ x ∈ blockRegs v h w, x ∈ destBlock v h w := by
  simp only [inGrid, Bool.and_eq_true, decide_eq_true_eq] at hv
  simp only [blockRegs, destBlock, List.mem_flatMap, List.mem_map, List.mem_filterMap, List.mem_range]
  rintro x ⟨i, hi, j, hj, rfl⟩
  exact ⟨i, hi, j, hj, if_pos (by omega)⟩

/-- An operand's first register is one of its destination's. -/
theorem mem_destBlock_self (v : Fin 64) (h : Fin 4) (w : Fin 16) : v ∈ destBlock v (rows h) (cols w) := by
  simp only [destBlock, List.mem_flatMap, List.mem_filterMap, List.mem_range]
  refine ⟨0, by simp [rows], 0, by simp [cols], ?_⟩
  rw [if_pos (by omega)]
  congr 1
  ext
  simp only [gridReg, Fin.ofNat]
  omega

/-- A block word works under its slot's rounding mode. -/
theorem blockEnv_mode {e : BEnv} (h : blockEnv core sl = some e) : e.mode = modeOf sl := by
  simp only [blockEnv, Option.map_eq_some_iff] at h
  obtain ⟨f, -, rfl⟩ := h
  rfl

/-- A block word advances RSEED in RSR alone (R61). -/
theorem seedWrite_none {e : BEnv} (he : blockEnv core sl = some e) (n : Nat) (h : modeOf sl ≠ 5) : seedWrite e n = none := by
  simp [seedWrite, blockEnv_mode he, h]

/-- A block word writes what its computation does, its operands being in the grid (R129). -/
theorem blockWord_within {ok : Elem → Bool} {ops : List (Fin 64)} {h : Fin 4} {w : Fin 16} {occ : Nat}
    {k : BEnv → Except Nat AEffect} (hk : ∀ e eff, blockEnv core sl = some e →
      (∀ v ∈ ops, inGrid v (rows h) (cols w) = true) → k e = .ok eff → WithinDests sl ds eff) :
    WritesWithin sl ds (blockWord core sl ok ops h w occ k) := by
  unfold blockWord
  split
  · exact writesWithin_error _
  · rename_i e he
    split
    · rename_i hg
      simp only [Bool.and_eq_true, List.all_eq_true] at hg
      cases hr : k e with
      | error c => exact writesWithin_error _
      | ok eff => exact writesWithin_ok _ (hk e eff he hg.2 hr)
    · exact writesWithin_error _

/-- A word that computes lane by lane writes its destination. -/
theorem lanewise_within (f : BEnv → Nat → Nat → Nat → LaneRes) (ok : Elem → Bool) (d a b : Fin 64) (h : Fin 4) (w : Fin 16)
    (occ : Nat) : WritesWithin sl [.b (destBlock d (rows h) (cols w))] (lanewise f ok d a b h w occ core sl) := by
  refine blockWord_within fun e eff he hg hr => ?_
  cases hr
  exact withinDests_zip (blockRegs_destBlock (hg d (by simp))) _ _ (seedWrite_none he _)

theorem effBcvt_within (d a : Fin 64) (f : Fin 16) (h : Fin 4) (w : Fin 16) :
    WritesWithin sl [.b (destBlock d (rows h) (cols w))] (effBcvt d a f h w core sl) := by
  refine blockWord_within fun e eff he hg hr => ?_
  split at hr
  · cases hr
  · cases hr
    exact withinDests_zip (blockRegs_destBlock (hg d (by simp))) _ _ (seedWrite_none he _)

theorem effBget_within (l a : Fin 64) (g : Fin 32) (h : Fin 4) (w : Fin 16) :
    WritesWithin sl [.g g] (effBget l a g h w core sl) := by
  refine blockWord_within fun e eff he hg hr => ?_
  cases hr
  exact withinDests_g g _ _ fun _ => rfl

theorem effBset_within (d l : Fin 64) (g : Fin 32) (h : Fin 4) (w : Fin 16) :
    WritesWithin sl [.b (destBlock d (rows h) (cols w))] (effBset d l g h w core sl) := by
  refine blockWord_within fun e eff he hg hr => ?_
  cases hr
  exact withinDests_zip (l := [d]) (by simpa using mem_destBlock_self d h w) [_] _ fun _ => rfl

theorem effBshuf_within (d a : Fin 64) (g : Fin 32) (h : Fin 4) (w : Fin 16) :
    WritesWithin sl [.b (destBlock d (rows h) (cols w))] (effBshuf d a g h w core sl) := by
  unfold effBshuf
  refine blockWord_within fun e eff he hg hr => ?_
  cases hr
  exact withinDests_zip (blockRegs_destBlock (hg d (by simp))) _ _ fun _ => rfl

theorem effBdot_within (d a b : Fin 64) (h : Fin 4) (w : Fin 16) :
    WritesWithin sl [.b (destBlock d 4 1)] (effBdot d a b h w core sl) := by
  unfold effBdot
  split
  · rename_i he
    split
    · rename_i hg
      exact writesWithin_ok _ (withinDests_zip (blockRegs_destBlock hg.2.1) _ _ (seedWrite_none he _))
    · exact writesWithin_error _
  · exact writesWithin_error _

theorem effBred_within (d a o : Fin 64) (h : Fin 4) (w : Fin 16) :
    WritesWithin sl [.b (destBlock d (rows h) 1)] (effBred d a o h w core sl) := by
  refine blockWord_within fun e eff he hg hr => ?_
  have hd : inGrid d (rows h) 1 = true := by
    have := hg d (by simp)
    simp only [inGrid, cols, Bool.and_eq_true, decide_eq_true_eq] at this ⊢
    omega
  cases hr
  exact withinDests_zip (blockRegs_destBlock hd) _ _ (seedWrite_none he _)

theorem effBgnorm_within (d a : Fin 64) (g : Fin 32) (h : Fin 4) (w : Fin 16) :
    WritesWithin sl [.g g, .b (destBlock d (rows h) (cols w))] (effBgnorm d a g h w core sl) := by
  refine blockWord_within fun e eff he hg hr => ?_
  cases hr
  exact withinDests_g_zip g _ (blockRegs_destBlock (hg d (by simp))) _ _ (seedWrite_none he _)

/-! ## Every A word -/

/-- What a word writes lies within the destinations it names. -/
theorem aEffect_within {i : Instr} {r : ARes} (h : aEffect core sl i = some r) : WritesWithin sl (destsOf i) r := by
  cases i with cases h
  | add | sub | and_ | or_ | xor_ | andn | shl | shr | sar | mul | mulh | mulhu | min | max | minu | maxu | addsl1
  | addsl2 | addsl3 | addsl4 => apply intOp_within
  | div | divu | rem | remu => apply longOp_within
  | clz | ctz | popc => apply intOp1_within
  | sel => apply effSel_within
  | cmpeq | cmpne | cmplt | cmple | cmpltu | cmpleu => apply cmpOp_within
  | pand | por | pxor | pandn => apply predOp_within
  | addi | andi | ori | xori | shli | shri | sari | lis => apply immOp_within
  | li => apply effLi_within
  | cmpeqi | cmplti | cmpltui => apply cmpImm_within
  | bfx => apply effBfx_within
  | bfi => apply effBfi_within
  | fadd | fsub | fmul | fdiv | fsqrt | ffma | fcvtf => apply fpResult_within
  | fmin | fmax => apply fpMinMax_within
  | fabs => apply effFabs_within
  | fneg => apply effFneg_within
  | fclass => apply effFclass_within
  | fcvti => apply effFcvti_within
  | fcvtp => apply effFcvtp_within
  | fcmpeq | fcmplt | fcmple | fcmpun => apply fpCmp_within
  | badd | bsub | bmul | bfma | bmin | bmax | band | bor | bxor | bcmplt | bsel | bmov | bneg | babs | bexp2 | blog2
  | brcp | brsq | bsigm | btanh | bsqrt | brelu | bscal | badds | bbcst | bscl => apply lanewise_within
  | bdot => apply effBdot_within
  | bred => apply effBred_within
  | bcvt => apply effBcvt_within
  | bget => apply effBget_within
  | bset => apply effBset_within
  | bgnorm => apply effBgnorm_within
  | bshuf => apply effBshuf_within

end Sys2Proof.Proofs

/-! PROOF. What a step that ends a bundle with an A word leaves as it was (R6, R135, R163). -/

namespace Sys2Proof.Proofs

open Sys2Proof.Machine Sys2Proof.Certificates

/-- The end of a bundle changes its slot alone and, where a unit takes its A word, the core's queues for its units. -/
theorem ended_frame (s : State) (core slot : Nat) (out : AOut) (v : Slot) (next : Word) :
    let t := ended s core slot (some out) v next
    SameOutside s t ∧ SameSlots s t core slot ∧ SameMemory s t ∧ (∀ c, c ≠ core → coreAt t c = coreAt s c) ∧
    { coreAt t core with longQ := (coreAt s core).longQ, blockFree := (coreAt s core).blockFree } = coreAt s core := by
  have hslots : ∀ w, ∀ k, k ≠ core * 16 + slot → lookup Slot.reset (assign s.slots (core * 16 + slot) w) k =
      lookup Slot.reset s.slots k := fun w k hk => lookup_assign_other _ _ w hk
  have hcores : ∀ w, ∀ c, c ≠ core → lookup Core.reset (assign s.cores core w) c = coreAt s c :=
    fun w c hc => lookup_assign_other _ _ w hc
  rcases out with ⟨e, _ | _ | occ⟩
  case now =>
    exact ⟨by simp [SameOutside, ended, withUnit], hslots _, ⟨rfl, fun _ => rfl⟩, fun _ _ => rfl, rfl⟩
  case long =>
    exact ⟨by simp [SameOutside, ended, withUnit], hslots _, ⟨rfl, fun _ => rfl⟩, hcores _, by simp [ended, withUnit, coreAt]⟩
  case block =>
    exact ⟨by simp [SameOutside, ended, withUnit], hslots _, ⟨rfl, fun _ => rfl⟩, hcores _, by simp [ended, withUnit, coreAt]⟩

/-- Settles O27: the destinations by the form of each word's effect, the writes by what each write of a register keeps, and the step
by the end of the bundle. -/
theorem aWordFrame : Obligations.AWordFrame := by
  refine ⟨fun core sl i out hi => ?_, applyEffect_frame, fun s t core slot iss i out h hi ht => ?_⟩
  · obtain ⟨hg, hp, hb, hseed⟩ := aEffect_within hi out rfl
    exact ⟨hg, hp, hb, hseed⟩
  · rw [exec_aWord_ok h hi] at ht
    cases ht
    exact ended_frame s core slot out _ _

end Sys2Proof.Proofs

/-! PROOF. Results before rounding (R63, R142): sums and products are exact, and quotients and roots are known to more bits than any
rounding asks for. -/

namespace Sys2Proof.Proofs

open Sys2Proof.Machine Sys2Proof.Certificates

/-- A power of two as a shift of a lower one. -/
theorem two_zpow_eq_shift {d e : Int} (h : d ≤ e) : (2 : ℚ) ^ e = 2 ^ (e - d).toNat * (2 : ℚ) ^ d := by
  rw [← zpow_natCast, ← zpow_add₀ two_ne_zero]; congr 1; omega

/-! ## Exact sums and products -/

/-- The number that a dyadic number is. -/
def dyadicRat (d : Machine.Dyadic) : ℚ := d.m * (2 : ℚ) ^ d.e

theorem dyadicRat_dyadicOf (neg : Bool) (m : Nat) (e : Int) : dyadicRat (dyadicOf neg m e) = ratOf neg m e := by
  cases neg <;> simp [dyadicRat, dyadicOf, ratOf]

theorem shiftUp_mul_zpow (m : Int) {d e : Int} (h : d ≤ e) : (shiftUp m (e - d) : ℚ) * (2 : ℚ) ^ d = m * (2 : ℚ) ^ e := by
  rw [shiftUp, two_zpow_eq_shift h]; push_cast; ring

theorem dyadicRat_add (a b : Machine.Dyadic) : dyadicRat (a.add b) = dyadicRat a + dyadicRat b := by
  unfold Machine.Dyadic.add
  split
  case isTrue ha => simp [dyadicRat, ha]
  split
  case isTrue hb => simp [dyadicRat, hb]
  split
  case isTrue hle =>
    simp only [dyadicRat, Int.cast_add, add_mul, shiftUp_mul_zpow _ hle]
  case isFalse hlt =>
    simp only [dyadicRat, Int.cast_add, add_mul, shiftUp_mul_zpow _ (le_of_not_ge hlt)]

/-- A sum put into a value, with its zero's sign: addition and fused products end in it. -/
theorem exact_sum (a b : Machine.Dyadic) (mode : Nat) (allNeg : Bool) :
    ∃ n m e, (if (a.add b).m = 0 then Pre.ofVal (zeroSum mode allNeg) noFlags else .ofVal (dyadicVal (a.add b)) noFlags).val =
        .num n m e ∧ ratOf n m e = dyadicRat a + dyadicRat b ∧ (m = 0 → n = decide (allNeg = true ∨ mode = 3)) := by
  rw [← dyadicRat_add]
  generalize a.add b = s
  split
  case isTrue h => exact ⟨_, _, _, rfl, by simp [dyadicRat, ratOf, h], fun _ => by rw [Bool.eq_iff_iff]; simp⟩
  case isFalse h =>
    refine ⟨_, _, _, rfl, ?_, fun hm => absurd (Int.natAbs_eq_zero.mp hm) h⟩
    rw [← dyadicRat_dyadicOf]
    rcases lt_or_ge s.m 0 with hneg | hpos
    · simp [dyadicRat, dyadicOf, hneg, abs_of_neg]
    · simp [dyadicRat, dyadicOf, hpos.not_gt, abs_of_nonneg hpos]

theorem ratOf_not (neg : Bool) (m : Nat) (e : Int) : ratOf (!neg) m e = -ratOf neg m e := by cases neg <;> simp [ratOf]

theorem ratOf_product (na nb : Bool) (ma mb : Nat) (ea eb : Int) :
    ratOf (na != nb) (ma * mb) (ea + eb) = ratOf na ma ea * ratOf nb mb eb := by
  cases na <;> cases nb <;> simp [ratOf, zpow_add₀] <;> ring

section Sums

variable (core mode : Nat) (na nb nc : Bool) (ma mb mc : Nat) (ea eb ec : Int)

/-- The exact sum of two numbers, and the sign of a zero sum (R63). -/
theorem addPre_num : ∃ n m e, (addPre core mode (.num na ma ea) (.num nb mb eb)).val = .num n m e ∧
    ratOf n m e = ratOf na ma ea + ratOf nb mb eb ∧
    (m = 0 → n = decide ((ma = 0 ∧ na = true ∧ mb = 0 ∧ nb = true) ∨ mode = 3)) := by
  obtain ⟨n, m, e, hval, hrat, hzero⟩ := exact_sum (dyadicOf na ma ea) (dyadicOf nb mb eb) mode (ma == 0 && mb == 0 && na && nb)
  rw [dyadicRat_dyadicOf, dyadicRat_dyadicOf] at hrat
  refine ⟨n, m, e, hval, hrat, fun hm => ?_⟩
  rw [hzero hm, decide_eq_decide]
  simp only [Bool.and_eq_true, beq_iff_eq]
  tauto

/-- The exact fused product of numbers, and the sign of a zero one (R63, R142). -/
theorem fmaPre_num : ∃ n m e, (fmaPre core mode (.num na ma ea) (.num nb mb eb) (.num nc mc ec)).val = .num n m e ∧
    ratOf n m e = ratOf na ma ea * ratOf nb mb eb + ratOf nc mc ec ∧
    (m = 0 → n = decide (((ma = 0 ∨ mb = 0) ∧ na ≠ nb ∧ mc = 0 ∧ nc = true) ∨ mode = 3)) := by
  obtain ⟨n, m, e, hval, hrat, hzero⟩ := exact_sum (dyadicOf (na != nb) (ma * mb) (ea + eb)) (dyadicOf nc mc ec) mode
    (ma * mb == 0 && mc == 0 && (na != nb) && nc)
  rw [dyadicRat_dyadicOf, dyadicRat_dyadicOf, ratOf_product] at hrat
  refine ⟨n, m, e, hval, hrat, fun hm => ?_⟩
  rw [hzero hm, decide_eq_decide]
  simp only [Bool.and_eq_true, beq_iff_eq, bne_iff_ne, mul_eq_zero]
  tauto

end Sums

/-! ## Quotients -/

/-- The quotient of a dividend shifted up by 140 bits and the divisor's length, with what is left over as `sticky` (R142). -/
theorem quotient_bounds {ma mb : Nat} (neg : Bool) (ha : ma ≠ 0) (hb : mb ≠ 0) (ea eb : Int) :
    let x := quotient neg ma ea mb eb
    let q := ratOf false ma ea / ratOf false mb eb
    2 ^ 128 ≤ x.m ∧ x.m * (2 : ℚ) ^ x.e ≤ q ∧ q < (x.m + 1) * (2 : ℚ) ^ x.e ∧ (x.sticky = false ↔ x.m * (2 : ℚ) ^ x.e = q) := by
  intro x q
  set k := 140 + Nat.log2 mb with hk
  set n := ma * 2 ^ k with hn
  have hxm : x.m = n / mb := rfl
  have hpos : (0 : ℚ) < 2 ^ x.e := by positivity
  have hb0 : (0 : ℚ) < mb := by exact_mod_cast Nat.pos_of_ne_zero hb
  -- the quotient in units of the last place
  have hq : q = n / mb * (2 : ℚ) ^ x.e := by
    have hxe : x.e = ea - eb - (k : Int) := rfl
    rw [hxe, hn, zpow_sub₀ two_ne_zero, zpow_sub₀ two_ne_zero, zpow_natCast]
    simp only [q, ratOf]
    push_cast
    field_simp
  have hdm : (n : ℚ) = mb * x.m + (n % mb : Nat) := by rw [hxm]; exact_mod_cast (Nat.div_add_mod n mb).symm
  have hmod : ((n % mb : Nat) : ℚ) < mb := by exact_mod_cast Nat.mod_lt n (Nat.pos_of_ne_zero hb)
  have hmod0 : (0 : ℚ) ≤ (n % mb : Nat) := by positivity
  refine ⟨?_, ?_, ?_, ?_⟩
  · rw [hxm, Nat.le_div_iff_mul_le (Nat.pos_of_ne_zero hb)]
    calc 2 ^ 128 * mb ≤ 2 ^ 128 * 2 ^ (Nat.log2 mb + 1) := by gcongr; exact Nat.lt_log2_self.le
      _ ≤ 1 * 2 ^ k := by rw [← pow_add, one_mul]; exact Nat.pow_le_pow_right two_pos (by omega)
      _ ≤ n := Nat.mul_le_mul_right _ (Nat.one_le_iff_ne_zero.mpr ha)
  · rw [hq]
    gcongr
    rw [le_div_iff₀ hb0]
    linarith
  · rw [hq]
    gcongr
    rw [div_lt_iff₀ hb0]
    linarith
  · have hsticky : x.sticky = decide (n % mb ≠ 0) := rfl
    rw [hq, mul_left_inj' hpos.ne', eq_div_iff hb0.ne', hdm, hsticky]
    simp [mul_comm]

/-! ## Roots -/

/-- A root is taken of a magnitude brought to an even exponent. -/
theorem even_exponent (m : Nat) (e : Int) :
    ∃ h : Int, (if e % 2 = 0 then e else e - 1) = 2 * h ∧
      ((if e % 2 = 0 then m else 2 * m : Nat) : ℚ) * (2 : ℚ) ^ (2 * h) = m * (2 : ℚ) ^ e := by
  split
  case isTrue h => exact ⟨e / 2, by omega, by rw [show 2 * (e / 2) = e by omega]⟩
  case isFalse h =>
    refine ⟨e / 2, by omega, ?_⟩
    rw [show e = 2 * (e / 2) + 1 by omega, zpow_add_one₀ two_ne_zero, show (2 * (e / 2) + 1) / 2 = e / 2 by omega]
    push_cast; ring

/-- The bits of a root found so far, below it by less than the place of the next. -/
theorem isqrtBits_spec (k n r : Nat) (hlo : r * r ≤ n) (hhi : n < (r + 2 ^ k) * (r + 2 ^ k)) :
    isqrtBits k n r * isqrtBits k n r ≤ n ∧ n < (isqrtBits k n r + 1) * (isqrtBits k n r + 1) := by
  induction k generalizing r with
  | zero => exact ⟨hlo, hhi⟩
  | succ k ih =>
    rw [isqrtBits]
    have hnext : r + 2 ^ (k + 1) = r + 2 ^ k + 2 ^ k := by rw [pow_succ]; ring
    split
    case isTrue h => exact ih _ h (hnext ▸ hhi)
    case isFalse h => exact ih _ hlo (not_le.mp h)

theorem isqrt_spec (n : Nat) : isqrt n * isqrt n ≤ n ∧ n < (isqrt n + 1) * (isqrt n + 1) := by
  refine isqrtBits_spec _ n 0 (Nat.zero_le _) ?_
  calc n < 2 ^ (Nat.log2 n + 1) := Nat.lt_log2_self
    _ ≤ 2 ^ (Nat.log2 n / 2 + 1 + (Nat.log2 n / 2 + 1)) := Nat.pow_le_pow_right two_pos (by omega)
    _ = _ := by rw [pow_add, Nat.zero_add]

/-- The integer root of a magnitude shifted up by 256 bits, with what is left over as `sticky` (R142). -/
theorem root_bounds {m : Nat} (hm : m ≠ 0) (e : Int) :
    let x := rootOf m e
    let v := ratOf false m e
    2 ^ 128 ≤ x.m ∧ (x.m * (2 : ℚ) ^ x.e) ^ 2 ≤ v ∧ v < ((x.m + 1) * (2 : ℚ) ^ x.e) ^ 2 ∧
      (x.sticky = false ↔ (x.m * (2 : ℚ) ^ x.e) ^ 2 = v) := by
  intro x v
  obtain ⟨h, he1, hm1⟩ := even_exponent m e
  set n := (if e % 2 = 0 then m else 2 * m) * 2 ^ 256 with hn
  have hxm : x.m = isqrt n := rfl
  have hxe : x.e = h - 128 := by
    have : x.e = (if e % 2 = 0 then e else e - 1) / 2 - 128 := rfl
    omega
  have hpos : (0 : ℚ) < ((2 : ℚ) ^ x.e) ^ 2 := by positivity
  have hv : v = n * ((2 : ℚ) ^ x.e) ^ 2 := by
    have hpow : ((2 : ℚ) ^ x.e) ^ 2 * 2 ^ 256 = (2 : ℚ) ^ (2 * h) := by
      rw [← zpow_natCast, ← zpow_natCast, ← zpow_mul, ← zpow_add₀ two_ne_zero, hxe]; congr 1; push_cast; ring
    calc v = m * (2 : ℚ) ^ e := by simp [v, ratOf]
      _ = _ := by rw [← hm1, ← hpow, hn]; push_cast; ring
  have hbig : 2 ^ 256 ≤ n := Nat.le_mul_of_pos_left _ (by split <;> omega)
  obtain ⟨hlo, hhi⟩ := isqrt_spec n
  rw [hv]
  refine ⟨?_, ?_, ?_, ?_⟩
  · by_contra hlt
    have hsmall : x.m + 1 ≤ 2 ^ 128 := not_le.mp hlt
    have := Nat.mul_le_mul hsmall hsmall
    rw [hxm] at this
    omega
  · rw [mul_pow]
    gcongr
    rw [hxm, sq]
    exact_mod_cast hlo
  · rw [mul_pow]
    gcongr
    rw [hxm, sq]
    exact_mod_cast hhi
  · have hsticky : x.sticky = decide (isqrt n * isqrt n ≠ n) := rfl
    rw [mul_pow, mul_left_inj' hpos.ne', hxm, hsticky, sq]
    norm_cast
    simp

/-! ## Created NaNs and the operands that are not rounded -/

/-- What a word creates: its core's quiet NaN of group 0, with NV (R63). -/
theorem created_group_zero (core : Nat) :
    let p := Pre.created core 0 noFlags
    p.val = .nan false true (core % 4096 * 1024) ∧ p.approx = none ∧ p.flags = flagNV :=
  ⟨by simp [Pre.created, Pre.ofVal, createdNaN, createdPayload], rfl, rfl⟩

/-- FDIV and FSQRT (R142): the bounds above, and their special operands by the arms that take them. -/
theorem quotientsAndRoots : QuotientsAndRoots := by
  intro core na nb ma mb ea eb
  have hcreated := created_group_zero core
  refine ⟨fun ha hb => ?quotient, fun ha => ?byZero, fun hb => ?ofZero, hcreated, hcreated, rfl, rfl, fun ha => ?root,
    fun ha => ?negative, hcreated, ?rootOfZero, rfl⟩
  case quotient =>
    exact ⟨quotient (na != nb) ma ea mb eb, by simp [divPre, meetNaN, ha, hb], rfl, quotient_bounds _ ha hb ea eb⟩
  case byZero => simp [divPre, meetNaN, ha]
  case ofZero => simp [divPre, meetNaN, hb]
  case root => exact ⟨rootOf ma ea, by simp [sqrtPre, ha], rfl, root_bounds ha ea⟩
  case negative =>
    have hpre : sqrtPre core (.num true ma ea) = .created core 0 noFlags := by simp [sqrtPre, ha]
    exact hpre ▸ hcreated
  case rootOfZero => rfl

/-- Settles O17: sums and fused products by `exact_sum`, a difference as the sum with the other sign, products by their definition. -/
theorem floatResultsAreExact : Obligations.FloatResultsAreExact := by
  refine ⟨quotientsAndRoots, fun core mode na nb nc ma mb mc ea eb ec => ?_⟩
  obtain ⟨hval, -, hflags⟩ := created_group_zero core
  refine ⟨?add, ?sub, ?mul, ?fma, hval, hflags, hval, hflags⟩
  case add => exact addPre_num core mode na nb ma mb ea eb
  case sub =>
    obtain ⟨n, m, e, hval, hrat, hzero⟩ := addPre_num core mode na (!nb) ma mb ea eb
    refine ⟨n, m, e, hval, ?_, ?_⟩
    · rw [hrat, ratOf_not, sub_eq_add_neg]
    · simpa using hzero
  case mul => exact ⟨_, _, _, rfl, ratOf_product na nb ma mb ea eb, rfl⟩
  case fma => exact fmaPre_num core mode na nb nc ma mb mc ea eb ec

end Sys2Proof.Proofs

/-! PROOF. Rounding into a floating format (R60–R62, R67). A magnitude of a format is named by its code, which is its bits without the
sign: the magnitudes rise with the codes, so that neighbours are codes that differ by one, and rounding picks one of two such codes. -/

namespace Sys2Proof.Proofs

open Sys2Proof.Machine Sys2Proof.Certificates

/-! ## Codes and the magnitudes they name -/

/-- The magnitude that a code of `F` fraction bits names, in units of the last place of a subnormal: the exponent field over
1 counts the places that the significand is shifted up. -/
def codeUnits (F c : Nat) : Nat := (c - (c / 2 ^ F - 1) * 2 ^ F) * 2 ^ (c / 2 ^ F - 1)

/-- A significand of at most `F + 1` bits, and the one above them, shifted up by `j` places: a carry out of the significand moves
to the next exponent by itself. -/
theorem codeUnits_shifted {F j n : Nat} (hj : j = 0 ∨ 2 ^ F ≤ n) (hn : n ≤ 2 * 2 ^ F) :
    codeUnits F (j * 2 ^ F + n) = n * 2 ^ j := by
  have hpos : 0 < 2 ^ F := Nat.two_pow_pos F
  have hdiv : (j * 2 ^ F + n) / 2 ^ F = j + n / 2 ^ F := by rw [Nat.add_comm, Nat.add_mul_div_right _ _ hpos, Nat.add_comm]
  unfold codeUnits
  rw [hdiv]
  rcases lt_or_ge n (2 ^ F) with hlt | hge
  · obtain rfl : j = 0 := hj.resolve_right (by omega)
    simp [Nat.div_eq_of_lt hlt]
  rcases hn.lt_or_eq with hlt | rfl
  · have h1 : n / 2 ^ F = 1 := Nat.div_eq_of_lt_le (by omega) (by omega)
    simp [h1]
  · have h2 : 2 * 2 ^ F / 2 ^ F = 2 := Nat.mul_div_cancel _ hpos
    have hsub : j * 2 ^ F + 2 * 2 ^ F - (j + 1) * 2 ^ F = 2 ^ F := by
      rw [← Nat.add_mul, ← Nat.sub_mul]; simp
    rw [h2, show j + 2 - 1 = j + 1 from rfl, hsub, pow_succ]
    ring

/-- A code with a nonzero exponent field has a significand of `F + 1` bits. -/
theorem code_of_normal {F c : Nat} (h : c / 2 ^ F ≠ 0) : (c / 2 ^ F - 1) * 2 ^ F + (2 ^ F + c % 2 ^ F) = c := by
  obtain ⟨k, hk⟩ := Nat.exists_eq_succ_of_ne_zero h
  have hdm := Nat.div_add_mod' c (2 ^ F)
  rw [hk, Nat.succ_mul] at hdm
  rw [hk, Nat.succ_sub_one]
  omega

theorem codeUnits_lt_succ (F c : Nat) : codeUnits F c < codeUnits F (c + 1) := by
  have hmod := Nat.mod_lt c (Nat.two_pow_pos F)
  obtain ⟨j, n, rfl, hj, hn⟩ : ∃ j n, c = j * 2 ^ F + n ∧ (j = 0 ∨ 2 ^ F ≤ n) ∧ n < 2 * 2 ^ F := by
    by_cases h0 : c / 2 ^ F = 0
    · exact ⟨0, c, by simp, .inl rfl, by have := (Nat.div_eq_zero_iff_lt (Nat.two_pow_pos F)).mp h0; omega⟩
    · exact ⟨_, _, (code_of_normal h0).symm, .inr (by omega), by omega⟩
  rw [Nat.add_assoc, codeUnits_shifted hj hn.le, codeUnits_shifted (by omega) hn]
  exact Nat.mul_lt_mul_of_pos_right (Nat.lt_succ_self n) (Nat.two_pow_pos j)

/-- The magnitude that a code names in a format. -/
def mag (p : FloatFmt) (c : Nat) : ℚ := codeUnits p.fbits c * (2 : ℚ) ^ p.qmin

theorem mag_strictMono (p : FloatFmt) : StrictMono (mag p) :=
  strictMono_nat_of_lt_succ fun c =>
    mul_lt_mul_of_pos_right (Nat.cast_lt.mpr (codeUnits_lt_succ p.fbits c)) (by positivity)

theorem mag_nonneg (p : FloatFmt) (c : Nat) : 0 ≤ mag p c := by unfold mag; positivity

@[simp] theorem mag_zero (p : FloatFmt) : mag p 0 = 0 := by simp [mag, codeUnits]

/-- A significand with its last place at 2^q, as rounding gives it. -/
theorem mag_significand {p : FloatFmt} {n : Nat} {q : Int} (hq : p.qmin ≤ q) (hn : q = p.qmin ∨ 2 ^ p.fbits ≤ n)
    (hle : n ≤ 2 * 2 ^ p.fbits) : mag p ((q - p.qmin).toNat * 2 ^ p.fbits + n) = n * (2 : ℚ) ^ q := by
  rw [mag, codeUnits_shifted (hn.imp (by omega) id) hle]
  rw [two_zpow_eq_shift hq]; push_cast; ring

/-! ## The bits of a code under a sign -/

/-- The bits of a code with a sign. -/
def signed (p : FloatFmt) (neg : Bool) (c : Nat) : Nat := (if neg then p.signBit else 0) + c

section Fields

variable {p : FloatFmt} {c : Nat} (neg : Bool) (hc : c < p.signBit)
include hc

theorem signed_lt : signed p neg c < 2 * p.signBit := by
  cases neg <;> simp [signed] <;> omega

theorem signed_sign : (signed p neg c / p.signBit % 2 == 1) = neg := by
  have hpos : 0 < p.signBit := by omega
  cases neg
  · simp [signed, Nat.div_eq_of_lt hc]
  · simp [signed, Nat.add_div_left _ hpos, Nat.div_eq_of_lt hc]

theorem signed_exponent : signed p neg c / 2 ^ p.fbits % 2 ^ p.ebits = c / 2 ^ p.fbits := by
  have hex : c / 2 ^ p.fbits < 2 ^ p.ebits := by
    rwa [Nat.div_lt_iff_lt_mul (Nat.two_pow_pos _), ← pow_add]
  cases neg
  · simp [signed, Nat.mod_eq_of_lt hex]
  · simp only [signed, if_true, FloatFmt.signBit]
    rw [pow_add, Nat.mul_comm, Nat.add_comm, Nat.add_mul_div_left _ _ (Nat.two_pow_pos _), Nat.add_mod_right,
      Nat.mod_eq_of_lt hex]

omit hc in
theorem signed_fraction : signed p neg c % 2 ^ p.fbits = c % 2 ^ p.fbits := by
  cases neg
  · simp [signed]
  · simp only [signed, if_true, FloatFmt.signBit]
    rw [pow_add, Nat.mul_comm, Nat.add_comm, Nat.add_mul_mod_self_left]

end Fields

/-- Every number of bits of a format is a code under a sign. -/
theorem exists_signed {p : FloatFmt} {b : Nat} (hb : b < 2 * p.signBit) : ∃ neg c, c < p.signBit ∧ b = signed p neg c := by
  rcases lt_or_ge b p.signBit with h | h
  · exact ⟨false, b, h, by simp [signed]⟩
  · exact ⟨true, b - p.signBit, by omega, by simp [signed]; omega⟩

/-- The parity of a code is that of its bits. -/
theorem signed_mod_two {p : FloatFmt} (hp : 0 < p.fbits) (neg : Bool) (c : Nat) : signed p neg c % 2 = c % 2 := by
  have : p.signBit % 2 = 0 := Nat.mod_eq_zero_of_dvd (dvd_pow_self 2 (by omega))
  cases neg <;> simp only [signed, if_true, Bool.false_eq_true, if_false] <;> omega

/-! ## The formats -/

theorem laneBits_of_isFloat {f : Elem} (hf : isFloat f = true) : 2 ^ laneBits f = 2 * (floatFmt f).signBit := by
  cases f <;> simp [isFloat, isInt, laneBits, floatFmt, FloatFmt.signBit] at hf ⊢

theorem fbits_pos (f : Elem) : 0 < (floatFmt f).fbits := by cases f <;> decide

theorem inf_iff_ne_e4m3 (f : Elem) : (floatFmt f).inf = true ↔ f ≠ .e4m3 := by cases f <;> decide

/-- The code above the finite ones: an infinity's, or the NaN's of a format that has none. -/
theorem maxBits_succ (f : Elem) : (floatFmt f).maxBits + 1 =
    if (floatFmt f).inf then (2 ^ (floatFmt f).ebits - 1) * 2 ^ (floatFmt f).fbits else (floatFmt f).signBit - 1 := by
  cases f <;> decide

theorem maxBits_lt_signBit (f : Elem) : (floatFmt f).maxBits + 1 < (floatFmt f).signBit := by cases f <;> decide

/-! ## The values of a format -/

/-- The exponent and fraction fields of a finite code are not those of infinities and NaNs. -/
theorem finite_fields {f : Elem} {c : Nat} (hc : c ≤ (floatFmt f).maxBits) :
    ¬((floatFmt f).inf = true ∧ c / 2 ^ (floatFmt f).fbits = 2 ^ (floatFmt f).ebits - 1) ∧
    ¬((floatFmt f).inf = false ∧ c / 2 ^ (floatFmt f).fbits = 2 ^ (floatFmt f).ebits - 1 ∧
      c % 2 ^ (floatFmt f).fbits = 2 ^ (floatFmt f).fbits - 1) := by
  have hmax := maxBits_succ f
  have hpos := Nat.two_pow_pos (floatFmt f).fbits
  constructor
  · rintro ⟨hinf, hex⟩
    rw [hinf, if_pos rfl] at hmax
    have hlt : c < (2 ^ (floatFmt f).ebits - 1) * 2 ^ (floatFmt f).fbits := by omega
    have := (Nat.div_lt_iff_lt_mul hpos).mpr hlt
    omega
  · rintro ⟨hinf, hex, hfr⟩
    have hdm := Nat.div_add_mod' c (2 ^ (floatFmt f).fbits)
    rw [hinf, FloatFmt.signBit, pow_add] at hmax
    rw [hex, hfr, Nat.sub_mul] at hdm
    have := Nat.le_mul_of_pos_left (2 ^ (floatFmt f).fbits) (Nat.two_pow_pos (floatFmt f).ebits)
    simp only [Bool.false_eq_true, if_false] at hmax
    omega

/-- A finite code's bits are a number of its sign and its magnitude. -/
theorem floatVal_finite {f : Elem} {c : Nat} (neg : Bool) (hc : c ≤ (floatFmt f).maxBits) :
    ∃ k i, floatVal f (signed (floatFmt f) neg c) = .num neg k i ∧ (k : ℚ) * (2 : ℚ) ^ i = mag (floatFmt f) c := by
  have hlt : c < (floatFmt f).signBit := by have := maxBits_lt_signBit f; omega
  obtain ⟨hinf, hnan⟩ := finite_fields hc
  have hval : floatVal f (signed (floatFmt f) neg c) =
      if c / 2 ^ (floatFmt f).fbits = 0 then .num neg (c % 2 ^ (floatFmt f).fbits) (floatFmt f).qmin
      else .num neg (2 ^ (floatFmt f).fbits + c % 2 ^ (floatFmt f).fbits)
        ((floatFmt f).qmin + (c / 2 ^ (floatFmt f).fbits : Nat) - 1) := by
    simp only [floatVal, signed_sign neg hlt, signed_exponent neg hlt, signed_fraction neg]
    rw [if_neg (by simpa using hinf), if_neg (by simpa [and_assoc] using hnan)]
    simp
  have hmod := Nat.mod_lt c (Nat.two_pow_pos (floatFmt f).fbits)
  rw [hval]
  by_cases h0 : c / 2 ^ (floatFmt f).fbits = 0
  · have hsmall := (Nat.div_eq_zero_iff_lt (Nat.two_pow_pos _)).mp h0
    refine ⟨_, _, if_pos h0, ?_⟩
    rw [Nat.mod_eq_of_lt hsmall, ← mag_significand le_rfl (.inl rfl) (by omega)]
    simp
  · refine ⟨_, _, if_neg h0, ?_⟩
    have hcode := code_of_normal h0
    generalize c / 2 ^ (floatFmt f).fbits = ex at h0 hcode ⊢
    have hq : (floatFmt f).qmin ≤ (floatFmt f).qmin + (ex : Int) - 1 := by omega
    have hplaces : ((floatFmt f).qmin + (ex : Int) - 1 - (floatFmt f).qmin).toNat = ex - 1 := by omega
    rw [← mag_significand hq (.inr (by omega)) (by omega), hplaces, hcode]

/-- The exponent and fraction fields of a code above the finite ones are those of an infinity or a NaN. -/
theorem special_fields {f : Elem} {c : Nat} (hc : (floatFmt f).maxBits < c) (hlt : c < (floatFmt f).signBit) :
    (floatFmt f).inf = true ∧ c / 2 ^ (floatFmt f).fbits = 2 ^ (floatFmt f).ebits - 1 ∨
    (floatFmt f).inf = false ∧ c / 2 ^ (floatFmt f).fbits = 2 ^ (floatFmt f).ebits - 1 ∧
      c % 2 ^ (floatFmt f).fbits = 2 ^ (floatFmt f).fbits - 1 := by
  have hmax := maxBits_succ f
  have hpos := Nat.two_pow_pos (floatFmt f).fbits
  rw [FloatFmt.signBit, pow_add] at hmax hlt
  cases hinf : (floatFmt f).inf with
  | true =>
    rw [hinf, if_pos rfl] at hmax
    have hexlt : c / 2 ^ (floatFmt f).fbits < 2 ^ (floatFmt f).ebits := (Nat.div_lt_iff_lt_mul hpos).mpr hlt
    have hex : 2 ^ (floatFmt f).ebits - 1 ≤ c / 2 ^ (floatFmt f).fbits := (Nat.le_div_iff_mul_le hpos).mpr (by omega)
    exact .inl ⟨rfl, by omega⟩
  | false =>
    simp only [hinf, Bool.false_eq_true, if_false] at hmax
    have hc' : c = (2 ^ (floatFmt f).fbits - 1) + (2 ^ (floatFmt f).ebits - 1) * 2 ^ (floatFmt f).fbits := by
      have := Nat.le_mul_of_pos_left (2 ^ (floatFmt f).fbits) (Nat.two_pow_pos (floatFmt f).ebits)
      rw [Nat.sub_mul]
      omega
    refine .inr ⟨rfl, ?_, ?_⟩ <;> rw [hc']
    · rw [Nat.add_mul_div_right _ _ hpos, Nat.div_eq_of_lt (by omega), Nat.zero_add]
    · rw [Nat.add_mul_mod_self_right, Nat.mod_eq_of_lt (by omega)]

/-- Above the finite codes there are no numbers. -/
theorem floatVal_ne_num {f : Elem} {c : Nat} (neg : Bool) (hc : (floatFmt f).maxBits < c) (hlt : c < (floatFmt f).signBit)
    (n : Bool) (k : Nat) (i : Int) : floatVal f (signed (floatFmt f) neg c) ≠ .num n k i := by
  simp only [floatVal, signed_sign neg hlt, signed_exponent neg hlt, signed_fraction neg]
  rcases special_fields hc hlt with ⟨hinf, hex⟩ | ⟨hinf, hex, hfr⟩
  · rw [if_pos (by simp [hinf, hex])]
    split <;> simp
  · rw [if_neg (by simp [hinf]), if_pos (by simp [hinf, hex, hfr])]
    simp

/-- The sign as a factor. -/
def sgn (neg : Bool) : ℚ := if neg then -1 else 1

theorem ratOf_eq_sgn_mul (neg : Bool) (m : Nat) (e : Int) : ratOf neg m e = sgn neg * (m * (2 : ℚ) ^ e) := by
  cases neg <;> simp [ratOf, sgn]

@[simp] theorem abs_sgn_mul (neg : Bool) (v : ℚ) : |sgn neg * v| = |v| := by cases neg <;> simp [sgn]

@[simp] theorem sgn_mul_sgn_mul (neg : Bool) (v : ℚ) : sgn neg * (sgn neg * v) = v := by cases neg <;> simp [sgn]

/-- The numbers that a format has. -/
def IsValue (f : Elem) (v : ℚ) : Prop := ∃ b n k i, b < 2 ^ laneBits f ∧ floatVal f b = .num n k i ∧ v = ratOf n k i

/-- Bits that are a number are a finite code under the number's sign. -/
theorem code_of_floatVal_num {f : Elem} (hf : isFloat f = true) {b k : Nat} {n : Bool} {i : Int} (hb : b < 2 ^ laneBits f)
    (h : floatVal f b = .num n k i) :
    ∃ c, c ≤ (floatFmt f).maxBits ∧ b = signed (floatFmt f) n c ∧ (k : ℚ) * (2 : ℚ) ^ i = mag (floatFmt f) c := by
  obtain ⟨neg, c, hlt, rfl⟩ := exists_signed (laneBits_of_isFloat hf ▸ hb)
  have hc : c ≤ (floatFmt f).maxBits := not_lt.mp fun hc => floatVal_ne_num neg hc hlt n k i h
  obtain ⟨k', i', hval, hmag⟩ := floatVal_finite neg hc
  obtain ⟨rfl, rfl, rfl⟩ := Val.num.inj (hval.symm.trans h)
  exact ⟨c, hc, rfl, hmag⟩

theorem IsValue.abs_eq_mag {f : Elem} (hf : isFloat f = true) {v : ℚ} (hv : IsValue f v) :
    ∃ c, c ≤ (floatFmt f).maxBits ∧ |v| = mag (floatFmt f) c := by
  obtain ⟨b, n, k, i, hb, hval, rfl⟩ := hv
  obtain ⟨c, hc, -, hmag⟩ := code_of_floatVal_num hf hb hval
  exact ⟨c, hc, by rw [ratOf_eq_sgn_mul, abs_sgn_mul, hmag, abs_of_nonneg (mag_nonneg _ c)]⟩

theorem signed_lt_laneBits {f : Elem} (hf : isFloat f = true) (neg : Bool) {c : Nat} (hc : c < (floatFmt f).signBit) :
    signed (floatFmt f) neg c < 2 ^ laneBits f := by
  rw [laneBits_of_isFloat hf]; exact signed_lt neg hc

theorem isValue_mag {f : Elem} (hf : isFloat f = true) {c : Nat} (hc : c ≤ (floatFmt f).maxBits) :
    IsValue f (mag (floatFmt f) c) := by
  obtain ⟨k, i, hval, hmag⟩ := floatVal_finite false hc
  have := maxBits_lt_signBit f
  exact ⟨_, _, k, i, signed_lt_laneBits hf false (by omega), hval, by simp [ratOf, hmag]⟩

/-! ## Rounding picks a code -/

/-- `X` has gone r / 2^d of the way from a code's magnitude to the next one's. -/
structure Cut (p : FloatFmt) (X : ℚ) (c r d : Nat) : Prop where
  lt : r < 2 ^ d
  eq : X = mag p c + r / 2 ^ d * (mag p (c + 1) - mag p c)

/-- The code that rounding picks. -/
def roundedCode (mode : Nat) (neg : Bool) (rnd c r d : Nat) : Nat := if roundsUp mode neg c r d false rnd then c + 1 else c

/-- Of the magnitude below, rounding looks at the parity alone. -/
theorem roundsUp_congr_parity {n c : Nat} (h : n % 2 = c % 2) (mode : Nat) (neg : Bool) (r d : Nat) (sticky : Bool) (rnd : Nat) :
    roundsUp mode neg n r d sticky rnd = roundsUp mode neg c r d sticky rnd := by
  unfold roundsUp; rw [h]

theorem roundsUp_zero (mode : Nat) (neg : Bool) (c d rnd : Nat) : roundsUp mode neg c 0 d false rnd = false := by
  unfold roundsUp; split <;> simp [(Nat.two_pow_pos d).ne]

theorem roundedCode_of_up {mode rnd c r d : Nat} {neg : Bool} (h : roundsUp mode neg c r d false rnd = true) :
    roundedCode mode neg rnd c r d = c + 1 := if_pos h

theorem roundedCode_of_not_up {mode rnd c r d : Nat} {neg : Bool} (h : roundsUp mode neg c r d false rnd = false) :
    roundedCode mode neg rnd c r d = c := by simp [roundedCode, h]

@[simp] theorem roundedCode_zero (mode rnd c d : Nat) (neg : Bool) : roundedCode mode neg rnd c 0 d = c :=
  roundedCode_of_not_up (roundsUp_zero ..)

theorem underflowFlags_exact (tiny : Bool) : underflowFlags tiny false = noFlags := by cases tiny <;> rfl

/-- A cut to a multiple of 2^q, of an exact magnitude. -/
theorem roundAt_exact (mode rnd : Nat) (neg : Bool) (m : Nat) (e q : Int) :
    ∃ n r d : Nat, r < 2 ^ d ∧ (m : ℚ) * (2 : ℚ) ^ e = (n + r / 2 ^ d) * (2 : ℚ) ^ q ∧
      roundAt mode rnd (.exact neg m e) q = (if roundsUp mode neg n r d false rnd then n + 1 else n, decide (r ≠ 0)) := by
  by_cases hq : q ≤ e
  · refine ⟨m * 2 ^ (e - q).toNat, 0, 0, by simp, ?_, by simp [roundAt, Approx.exact, hq, roundsUp_zero]⟩
    rw [two_zpow_eq_shift hq]; push_cast; ring
  · refine ⟨m / 2 ^ (q - e).toNat, m % 2 ^ (q - e).toNat, (q - e).toNat, Nat.mod_lt _ (Nat.two_pow_pos _), ?_,
      by simp only [roundAt, Approx.exact, hq, if_false, Bool.or_false]; rfl⟩
    have hm : (m : ℚ) = (m / 2 ^ (q - e).toNat : Nat) * 2 ^ (q - e).toNat + (m % 2 ^ (q - e).toNat : Nat) := by
      exact_mod_cast (Nat.div_add_mod' m _).symm
    rw [two_zpow_eq_shift (le_of_not_ge hq)]
    conv_lhs => rw [hm]
    field_simp

/-- The last place of a result of `F + 1` bits, but not below a subnormal's (R60). -/
def lastPlace (p : FloatFmt) (m : Nat) (e : Int) : Int :=
  if (Nat.log2 m : Int) + e - p.fbits < p.qmin then p.qmin else (Nat.log2 m : Int) + e - p.fbits

theorem qmin_le_lastPlace (p : FloatFmt) (m : Nat) (e : Int) : p.qmin ≤ lastPlace p m e := by
  unfold lastPlace; split <;> omega

/-- A magnitude cut to `n` units of 2^q has at least these and not one more. -/
theorem units_of_cut {m n r d : Nat} {e q : Int} (hr : r < 2 ^ d)
    (h : (m : ℚ) * (2 : ℚ) ^ e = (n + r / 2 ^ d) * (2 : ℚ) ^ q) :
    (n : ℚ) ≤ m * (2 : ℚ) ^ (e - q) ∧ (m : ℚ) * (2 : ℚ) ^ (e - q) < n + 1 := by
  have hscaled : (m : ℚ) * (2 : ℚ) ^ (e - q) = n + r / 2 ^ d := by
    rw [zpow_sub₀ two_ne_zero, ← mul_div_assoc, h, mul_div_cancel_right₀ _ (by positivity)]
  have hfrac : (r : ℚ) / 2 ^ d < 1 := (div_lt_one (by positivity)).mpr (by exact_mod_cast hr)
  have hfrac0 : (0 : ℚ) ≤ r / 2 ^ d := by positivity
  exact ⟨by linarith, by linarith⟩

/-- Cut at its last place, a magnitude has at least `F + 1` bits unless it is subnormal. -/
theorem significand_ge {p : FloatFmt} {m n : Nat} {e : Int} (hm : m ≠ 0)
    (h : (m : ℚ) * (2 : ℚ) ^ (e - lastPlace p m e) < n + 1) : lastPlace p m e = p.qmin ∨ 2 ^ p.fbits ≤ n := by
  by_cases hsub : lastPlace p m e = p.qmin
  · exact .inl hsub
  right
  have hexp : (Nat.log2 m : Int) + (e - lastPlace p m e) = p.fbits := by
    unfold lastPlace at hsub ⊢; split at hsub <;> omega
  have hlow : (2 : ℚ) ^ (Nat.log2 m) ≤ m := by exact_mod_cast Nat.log2_self_le hm
  have : (2 : ℚ) ^ p.fbits < n + 1 :=
    calc (2 : ℚ) ^ p.fbits = 2 ^ (Nat.log2 m) * (2 : ℚ) ^ (e - lastPlace p m e) := by
          rw [← zpow_natCast, ← zpow_natCast, ← zpow_add₀ two_ne_zero, hexp]
      _ ≤ m * (2 : ℚ) ^ (e - lastPlace p m e) := by gcongr
      _ < n + 1 := h
  exact Nat.lt_succ_iff.mp (by exact_mod_cast this)

/-- Cut at its last place, a magnitude has at most `F + 1` bits. -/
theorem significand_lt {p : FloatFmt} {m n : Nat} {e : Int} (h : (n : ℚ) ≤ m * (2 : ℚ) ^ (e - lastPlace p m e)) :
    n < 2 * 2 ^ p.fbits := by
  have hexp : (Nat.log2 m + 1 : Int) + (e - lastPlace p m e) ≤ p.fbits + 1 := by unfold lastPlace; split <;> omega
  have hhigh : (m : ℚ) < 2 ^ (Nat.log2 m + 1) := by exact_mod_cast Nat.lt_log2_self
  have : (n : ℚ) < 2 ^ (p.fbits + 1) :=
    calc (n : ℚ) ≤ m * (2 : ℚ) ^ (e - lastPlace p m e) := h
      _ < 2 ^ (Nat.log2 m + 1) * (2 : ℚ) ^ (e - lastPlace p m e) := by gcongr
      _ = (2 : ℚ) ^ ((Nat.log2 m + 1 : Int) + (e - lastPlace p m e)) := by
          rw [← zpow_natCast, ← zpow_add₀ two_ne_zero]; push_cast; rfl
      _ ≤ (2 : ℚ) ^ (p.fbits + 1 : Int) := zpow_le_zpow_right₀ one_le_two hexp
      _ = 2 ^ (p.fbits + 1) := by rw [← zpow_natCast]; push_cast; rfl
  rw [← Nat.pow_succ']
  exact_mod_cast this

/-- The bits of a number that is not zero, as R60 rounds it. -/
theorem roundTo_of_ne_zero {m : Nat} (hm : m ≠ 0) (f : Elem) (sat : Bool) (mode rnd : Nat) (neg : Bool) (e : Int) :
    ∃ tiny, roundTo f sat mode rnd (.exact neg m e) =
      let p := floatFmt f
      let q := lastPlace p m e
      let cut := roundAt mode rnd (.exact neg m e) q
      let bits := if cut.1 < 2 ^ p.fbits then cut.1 else (q - p.qmin).toNat * 2 ^ p.fbits + cut.1
      if p.maxBits < bits then { bits := overflowBits f sat mode neg, flags := flagOF ||| flagNX }
      else { bits := signed p neg bits, flags := underflowFlags tiny cut.2 } := by
  simp only [roundTo, Approx.exact]
  rw [if_neg fun h => hm h.1]
  exact ⟨_, rfl⟩

section Significand

variable {p : FloatFmt} {n r d : Nat} {q : Int} (hnorm : q = p.qmin ∨ 2 ^ p.fbits ≤ n)
include hnorm

/-- A significand and what is cut off below it, as a code and the part of its gap. -/
theorem cut_of_significand (hq : p.qmin ≤ q) (hn : n < 2 * 2 ^ p.fbits) (hr : r < 2 ^ d) :
    Cut p ((n + r / 2 ^ d) * (2 : ℚ) ^ q) ((q - p.qmin).toNat * 2 ^ p.fbits + n) r d := by
  have hmag := mag_significand hq hnorm hn.le
  have hmag' := mag_significand hq (hnorm.imp_right fun h => h.trans n.le_succ) (Nat.succ_le_of_lt hn)
  refine ⟨hr, ?_⟩
  rw [Nat.add_assoc, hmag, hmag']; push_cast; ring

/-- The bits that `roundTo` makes of a rounded significand are the code picked. -/
theorem bits_of_rounded_significand (hp : 0 < p.fbits) (mode : Nat) (neg : Bool) (rnd : Nat) :
    let k := if roundsUp mode neg n r d false rnd then n + 1 else n
    (if k < 2 ^ p.fbits then k else (q - p.qmin).toNat * 2 ^ p.fbits + k) =
      roundedCode mode neg rnd ((q - p.qmin).toNat * 2 ^ p.fbits + n) r d := by
  intro k
  have hk : n ≤ k := by simp only [k]; split <;> omega
  have hparity : n % 2 = ((q - p.qmin).toNat * 2 ^ p.fbits + n) % 2 := by
    have : 2 ∣ (q - p.qmin).toNat * 2 ^ p.fbits := Dvd.dvd.mul_left (dvd_pow_self 2 hp.ne') _
    omega
  rw [roundedCode, ← roundsUp_congr_parity hparity, Nat.add_assoc, ← apply_ite ((q - p.qmin).toNat * 2 ^ p.fbits + ·)]
  split
  · rw [hnorm.resolve_right (by omega)]
    simp [k]
  · rfl

end Significand

theorem toFloat_zero (f : Elem) (sat : Bool) (mode rnd : Nat) (neg : Bool) (e : Int) :
    toFloat f sat mode rnd (.num neg 0 e) = { bits := signed (floatFmt f) neg 0, flags := noFlags } := by
  unfold toFloat roundTo
  exact if_pos ⟨rfl, rfl⟩

/-- Rounding a number cuts its magnitude between two codes and picks one: its bits, unless it is above the finite ones (R60, R62). -/
theorem toFloat_num (f : Elem) (sat : Bool) (mode rnd : Nat) (neg : Bool) (m : Nat) (e : Int) :
    ∃ c r d tiny, Cut (floatFmt f) (m * (2 : ℚ) ^ e) c r d ∧ toFloat f sat mode rnd (.num neg m e) =
      if (floatFmt f).maxBits < roundedCode mode neg rnd c r d
      then { bits := overflowBits f sat mode neg, flags := flagOF ||| flagNX }
      else { bits := signed (floatFmt f) neg (roundedCode mode neg rnd c r d), flags := underflowFlags tiny (decide (r ≠ 0)) } := by
  by_cases hm : m = 0
  · subst hm
    refine ⟨0, 0, 0, false, ⟨by simp, by simp⟩, ?_⟩
    rw [toFloat_zero]
    simp [underflowFlags_exact]
  obtain ⟨n, r, d, hr, hX, hround⟩ := roundAt_exact mode rnd neg m e (lastPlace (floatFmt f) m e)
  obtain ⟨hle, hlt⟩ := units_of_cut hr hX
  have hnorm := significand_ge hm hlt
  obtain ⟨tiny, hto⟩ := roundTo_of_ne_zero hm f sat mode rnd neg e
  simp only [hround] at hto
  rw [bits_of_rounded_significand hnorm (fbits_pos f)] at hto
  exact ⟨_, r, d, tiny, hX ▸ cut_of_significand hnorm (qmin_le_lastPlace _ m e) (significand_lt hle) hr, hto⟩

/-! ## Where the picked code stands -/

section Cut

variable {p : FloatFmt} {X : ℚ} {c r d : Nat}

theorem Cut.sub_eq (h : Cut p X c r d) : X - mag p c = r / 2 ^ d * (mag p (c + 1) - mag p c) := by rw [h.eq]; ring

theorem mag_gap_pos (p : FloatFmt) (c : Nat) : 0 < mag p (c + 1) - mag p c := sub_pos.mpr (mag_strictMono p c.lt_succ_self)

theorem Cut.le (h : Cut p X c r d) : mag p c ≤ X := by
  rw [← sub_nonneg, h.sub_eq]
  have := mag_gap_pos p c
  positivity

theorem Cut.lt_succ (h : Cut p X c r d) : X < mag p (c + 1) := by
  have hfrac : (r : ℚ) / 2 ^ d < 1 := (div_lt_one (by positivity)).mpr (by exact_mod_cast h.lt)
  have := mul_lt_of_lt_one_left (mag_gap_pos p c) hfrac
  linarith [h.sub_eq]

theorem Cut.eq_mag_iff (h : Cut p X c r d) : X = mag p c ↔ r = 0 := by
  rw [← sub_eq_zero, h.sub_eq]
  simp [(mag_gap_pos p c).ne']

/-- A number between the neighbours is above, below or on their middle as its part of the gap is more, less or just one half. -/
theorem Cut.twice_sub (h : Cut p X c r d) :
    2 * X - (mag p c + mag p (c + 1)) = ((2 * r : Nat) - (2 ^ d : Nat)) * ((mag p (c + 1) - mag p c) / 2 ^ d) := by
  rw [h.eq]; push_cast; field_simp; ring

theorem Cut.le_middle (h : Cut p X c r d) (hr : 2 * r ≤ 2 ^ d) : 2 * X ≤ mag p c + mag p (c + 1) := by
  have hhalf : ((2 * r : Nat) : ℚ) - (2 ^ d : Nat) ≤ 0 := sub_nonpos.mpr (by exact_mod_cast hr)
  have := mul_nonpos_of_nonpos_of_nonneg hhalf (div_nonneg (mag_gap_pos p c).le (pow_nonneg zero_le_two d))
  linarith [h.twice_sub]

theorem Cut.middle_le (h : Cut p X c r d) (hr : 2 ^ d ≤ 2 * r) : mag p c + mag p (c + 1) ≤ 2 * X := by
  have hhalf : 0 ≤ ((2 * r : Nat) : ℚ) - (2 ^ d : Nat) := sub_nonneg.mpr (by exact_mod_cast hr)
  have := mul_nonneg hhalf (div_nonneg (mag_gap_pos p c).le (pow_nonneg zero_le_two d))
  linarith [h.twice_sub]

theorem Cut.eq_middle (h : Cut p X c r d) (hX : 2 * X = mag p c + mag p (c + 1)) : 2 * r = 2 ^ d := by
  have hzero := h.twice_sub
  rw [hX, sub_self] at hzero
  have := (mul_eq_zero.mp hzero.symm).resolve_right (div_pos (mag_gap_pos p c) (by positivity)).ne'
  exact_mod_cast sub_eq_zero.mp this

end Cut

/-- Rounding picks the code below, or the one above a magnitude that is not the lower one's. -/
theorem roundedCode_cases (mode rnd c r d : Nat) (neg : Bool) :
    roundedCode mode neg rnd c r d = c ∨ roundedCode mode neg rnd c r d = c + 1 ∧ r ≠ 0 := by
  cases h : roundsUp mode neg c r d false rnd with
  | false => exact .inl (roundedCode_of_not_up h)
  | true => exact .inr ⟨roundedCode_of_up h, by rintro rfl; rw [roundsUp_zero] at h; contradiction⟩

/-- No number of a format is between two neighbours, of either sign. -/
theorem le_or_ge_of_abs_eq_mag {p : FloatFmt} {w : ℚ} {k : Nat} (hw : |w| = mag p k) (c : Nat) :
    w ≤ mag p c ∨ mag p (c + 1) ≤ w := by
  have hmono := (mag_strictMono p).monotone
  rcases abs_choice w with hsign | hsign
  · rw [← hsign, hw]
    exact (le_or_gt k c).imp (hmono ·) (hmono ·)
  · exact .inl (by linarith [abs_nonneg w, mag_nonneg p c])

/-- Of two neighbours the one on the number's side of their middle is the nearest, and only the other one can be as near. -/
theorem nearest_of_neighbours {L H X Y w : ℚ} (hL : L ≤ X) (hH : X < H) (hw : w ≤ L ∨ H ≤ w)
    (hY : Y = L ∧ 2 * X ≤ L + H ∨ Y = H ∧ L + H ≤ 2 * X) :
    |Y - X| ≤ |w - X| ∧ (|w - X| = |Y - X| → w ≠ Y → 2 * X = L + H ∧ w = L + H - Y) := by
  have hwX : w ≤ L ∧ |w - X| = X - w ∨ H ≤ w ∧ |w - X| = w - X :=
    hw.imp (fun h => ⟨h, by rw [abs_of_nonpos (by linarith), neg_sub]⟩) fun h => ⟨h, abs_of_nonneg (by linarith)⟩
  rcases hY with ⟨rfl, hmid⟩ | ⟨rfl, hmid⟩
  · rw [abs_of_nonpos (by linarith : Y - X ≤ 0)]
    rcases hwX with ⟨hle, habs⟩ | ⟨hge, habs⟩ <;> rw [habs]
    · exact ⟨by linarith, fun heq hne => absurd (by linarith) hne⟩
    · exact ⟨by linarith, fun heq _ => ⟨by linarith, by linarith⟩⟩
  · rw [abs_of_nonneg (by linarith : 0 ≤ Y - X)]
    rcases hwX with ⟨hle, habs⟩ | ⟨hge, habs⟩ <;> rw [habs]
    · exact ⟨by linarith, fun heq _ => ⟨by linarith, by linarith⟩⟩
    · exact ⟨by linarith, fun heq hne => absurd (by linarith) hne⟩

theorem sgn_mul_inj {neg : Bool} {a b : ℚ} : sgn neg * a = sgn neg * b ↔ a = b := by cases neg <;> simp [sgn]

theorem abs_sub_sgn_mul (neg : Bool) (v X : ℚ) : |v - sgn neg * X| = |sgn neg * v - X| := by
  rw [← abs_sgn_mul neg (sgn neg * v - X), mul_sub, sgn_mul_sgn_mul]

/-- What is between two numbers of one sign is between their magnitudes when that sign is taken off. -/
theorem between_of_between_sgn_mul {neg : Bool} {Y X v : ℚ} (hlo : min (sgn neg * Y) (sgn neg * X) < v)
    (hhi : v < max (sgn neg * Y) (sgn neg * X)) : min Y X < sgn neg * v ∧ sgn neg * v < max Y X := by
  cases neg
  · simpa [sgn] using And.intro hlo hhi
  · simp only [sgn, if_true, neg_one_mul, min_neg_neg, max_neg_neg] at hlo hhi ⊢
    exact ⟨by linarith, by linarith⟩

theorem le_or_ge_of_isValue {f : Elem} (hf : isFloat f = true) {v : ℚ} (hv : IsValue f v) (neg : Bool) (c : Nat) :
    sgn neg * v ≤ mag (floatFmt f) c ∨ mag (floatFmt f) (c + 1) ≤ sgn neg * v := by
  obtain ⟨k, -, hk⟩ := hv.abs_eq_mag hf
  exact le_or_ge_of_abs_eq_mag (by rw [abs_sgn_mul, hk]) c

section Rounded

variable {f : Elem} {X : ℚ} {c r d rnd : Nat} {neg : Bool} (hf : isFloat f = true) (h : Cut (floatFmt f) X c r d)
include h

theorem exact_iff_rounded_eq (mode : Nat) :
    r = 0 ↔ sgn neg * mag (floatFmt f) (roundedCode mode neg rnd c r d) = sgn neg * X := by
  rw [sgn_mul_inj]
  constructor
  · rintro rfl
    rw [roundedCode_zero, h.eq_mag_iff.mpr rfl]
  · intro heq
    rcases roundedCode_cases mode rnd c r d neg with hc | ⟨hc, -⟩ <;> rw [hc] at heq
    · exact h.eq_mag_iff.mp heq.symm
    · exact absurd heq h.lt_succ.ne'

include hf

/-- No number of the format is between a number and its rounding, and one that is the number itself is the rounding. -/
theorem rounded_is_neighbour (mode : Nat) {v : ℚ} (hv : IsValue f v) :
    let y := sgn neg * mag (floatFmt f) (roundedCode mode neg rnd c r d)
    ¬(min y (sgn neg * X) < v ∧ v < max y (sgn neg * X)) ∧ (v = sgn neg * X → y = sgn neg * X) := by
  have hgap := le_or_ge_of_isValue hf hv neg c
  have hlow := h.le
  have hhigh := h.lt_succ
  constructor
  · rintro ⟨hlo, hhi⟩
    obtain ⟨hlo, hhi⟩ := between_of_between_sgn_mul hlo hhi
    rcases roundedCode_cases mode rnd c r d neg with hc | ⟨hc, -⟩ <;> rw [hc] at hlo hhi
    · rw [min_eq_left hlow] at hlo
      rw [max_eq_right hlow] at hhi
      rcases hgap with hle | hge <;> linarith
    · rw [min_eq_right hhigh.le] at hlo
      rw [max_eq_left hhigh.le] at hhi
      rcases hgap with hle | hge <;> linarith
  · rintro rfl
    rw [sgn_mul_sgn_mul] at hgap
    have hX := le_antisymm (hgap.resolve_right hhigh.not_ge) hlow
    exact (exact_iff_rounded_eq h mode).mp (h.eq_mag_iff.mp hX)

/-- Rounding to nearest: the rounding is no farther than any number of the format, and one that is as near is the other neighbour. -/
theorem rounded_is_nearest {mode : Nat} {v : ℚ} (hv : IsValue f v)
    (hdown : roundsUp mode neg c r d false rnd = false → 2 * r ≤ 2 ^ d)
    (hup : roundsUp mode neg c r d false rnd = true → 2 ^ d ≤ 2 * r) :
    let Y := mag (floatFmt f) (roundedCode mode neg rnd c r d)
    |sgn neg * Y - sgn neg * X| ≤ |v - sgn neg * X| ∧
    (|v - sgn neg * X| = |sgn neg * Y - sgn neg * X| → v ≠ sgn neg * Y →
      2 * r = 2 ^ d ∧ sgn neg * v = mag (floatFmt f) c + mag (floatFmt f) (c + 1) - Y) := by
  intro Y
  have hY : Y = mag (floatFmt f) c ∧ 2 * X ≤ mag (floatFmt f) c + mag (floatFmt f) (c + 1) ∨
      Y = mag (floatFmt f) (c + 1) ∧ mag (floatFmt f) c + mag (floatFmt f) (c + 1) ≤ 2 * X := by
    cases hr : roundsUp mode neg c r d false rnd with
    | false => exact .inl ⟨congrArg (mag _) (roundedCode_of_not_up hr), h.le_middle (hdown hr)⟩
    | true => exact .inr ⟨congrArg (mag _) (roundedCode_of_up hr), h.middle_le (hup hr)⟩
  obtain ⟨hnear, htie⟩ := nearest_of_neighbours h.le h.lt_succ (le_or_ge_of_isValue hf hv neg c) hY
  rw [abs_sub_sgn_mul neg v, abs_sub_sgn_mul neg (sgn neg * Y), sgn_mul_sgn_mul]
  refine ⟨hnear, fun heq hne => ?_⟩
  obtain ⟨hmid, hw⟩ := htie heq fun hw => hne (by rw [← hw, sgn_mul_sgn_mul])
  exact ⟨h.eq_middle hmid, hw⟩

omit hf in
/-- RTZ. -/
theorem abs_rounded_toward_zero_le :
    |sgn neg * mag (floatFmt f) (roundedCode 1 neg rnd c r d)| ≤ |sgn neg * X| := by
  have hX : 0 ≤ X := (mag_nonneg _ c).trans h.le
  rw [abs_sgn_mul, abs_sgn_mul, roundedCode_of_not_up rfl, abs_of_nonneg (mag_nonneg _ c), abs_of_nonneg hX]
  exact h.le

omit hf in
/-- RUP. -/
theorem le_rounded_up : sgn neg * X ≤ sgn neg * mag (floatFmt f) (roundedCode 2 neg rnd c r d) := by
  cases neg with
  | true =>
    rw [roundedCode_of_not_up (by simp [roundsUp])]
    simpa [sgn] using h.le
  | false =>
    by_cases hr : r = 0
    · subst hr
      simp [sgn, (h.eq_mag_iff.mpr rfl).le]
    · rw [roundedCode_of_up (by simp [roundsUp, hr])]
      simpa [sgn] using h.lt_succ.le

omit hf in
/-- RDN. -/
theorem rounded_down_le : sgn neg * mag (floatFmt f) (roundedCode 3 neg rnd c r d) ≤ sgn neg * X := by
  cases neg with
  | false =>
    rw [roundedCode_of_not_up (by simp [roundsUp])]
    simpa [sgn] using h.le
  | true =>
    by_cases hr : r = 0
    · subst hr
      simp [sgn, (h.eq_mag_iff.mpr rfl).le]
    · rw [roundedCode_of_up (by simp [roundsUp, hr])]
      simpa [sgn] using h.lt_succ.le

/-- RNE: of two nearest numbers the one with an even last bit. -/
theorem rounded_nearest_even {v : ℚ} (hv : IsValue f v) :
    let code := roundedCode 0 neg rnd c r d
    let y := sgn neg * mag (floatFmt f) code
    |y - sgn neg * X| ≤ |v - sgn neg * X| ∧ (|v - sgn neg * X| = |y - sgn neg * X| → v ≠ y → code % 2 = 0) := by
  have hdown : roundsUp 0 neg c r d false rnd = false → 2 * r ≤ 2 ^ d := by simp [roundsUp]; omega
  have hup : roundsUp 0 neg c r d false rnd = true → 2 ^ d ≤ 2 * r := by simp [roundsUp]; omega
  obtain ⟨hnear, htie⟩ := rounded_is_nearest hf h hv hdown hup
  refine ⟨hnear, fun heq hne => ?_⟩
  have hhalf := (htie heq hne).1
  have heven : roundsUp 0 neg c r d false rnd = (c % 2 == 1) := by simp [roundsUp, hhalf]
  unfold roundedCode
  rw [heven]
  split <;> simp at * <;> omega

/-- RNA: of two nearest numbers the one farther from zero. -/
theorem rounded_nearest_away {v : ℚ} (hv : IsValue f v) :
    let y := sgn neg * mag (floatFmt f) (roundedCode 4 neg rnd c r d)
    |y - sgn neg * X| ≤ |v - sgn neg * X| ∧ (|v - sgn neg * X| = |y - sgn neg * X| → |v| ≤ |y|) := by
  have hdown : roundsUp 4 neg c r d false rnd = false → 2 * r ≤ 2 ^ d := by simp [roundsUp]; omega
  have hup : roundsUp 4 neg c r d false rnd = true → 2 ^ d ≤ 2 * r := by simp [roundsUp]
  obtain ⟨hnear, htie⟩ := rounded_is_nearest hf h hv hdown hup
  refine ⟨hnear, fun heq => ?_⟩
  by_cases hne : v = sgn neg * mag (floatFmt f) (roundedCode 4 neg rnd c r d)
  · rw [hne]
  obtain ⟨hhalf, hw⟩ := htie heq hne
  have hcode : roundedCode 4 neg rnd c r d = c + 1 := roundedCode_of_up (by simp [roundsUp, hhalf])
  rw [hcode, add_sub_cancel_right] at hw
  rw [hcode, ← abs_sgn_mul neg v, hw, abs_sgn_mul, abs_of_nonneg (mag_nonneg _ _), abs_of_nonneg (mag_nonneg _ _)]
  exact (mag_strictMono _).monotone c.le_succ

/-- Two numbers of the format that enclose a magnitude with none between them are the codes that it is cut between. -/
theorem neighbours_of_magnitude {t u : ℚ} (ht : IsValue f t) (hu : IsValue f u) (ht0 : 0 ≤ t) (htX : t ≤ X) (hXu : X < u)
    (hnone : ∀ v, IsValue f v → ¬(t < v ∧ v < u)) : t = mag (floatFmt f) c ∧ u = mag (floatFmt f) (c + 1) := by
  have hmono := mag_strictMono (floatFmt f)
  obtain ⟨i, hi, hti⟩ := ht.abs_eq_mag hf
  obtain ⟨k, hk, huk⟩ := hu.abs_eq_mag hf
  rw [abs_of_nonneg ht0] at hti
  rw [abs_of_nonneg (by linarith)] at huk
  subst hti huk
  have hic : i ≤ c := Nat.lt_succ_iff.mp (hmono.lt_iff_lt.mp (htX.trans_lt h.lt_succ))
  have hck : c < k := hmono.lt_iff_lt.mp (h.le.trans_lt hXu)
  have hc := hnone _ (isValue_mag hf (hck.le.trans hk))
  have hc' := hnone _ (isValue_mag hf (Nat.succ_le_of_lt hck |>.trans hk))
  simp only [hmono.lt_iff_lt] at hc hc'
  exact ⟨congrArg (mag _) (by omega), congrArg (mag _) (by omega)⟩

/-- RSR: the next number away from zero just when the random bits are below the part of the gap covered, in units of 2^-16. -/
theorem rounded_stochastic {t u : ℚ} (ht : IsValue f t) (hu : IsValue f u) (ht0 : 0 ≤ t) (htX : t ≤ X) (hXu : X < u)
    (hnone : ∀ v, IsValue f v → ¬(t < v ∧ v < u)) :
    mag (floatFmt f) (roundedCode 5 neg rnd c r d) = if (rnd : Int) < ⌊(X - t) / (u - t) * 65536⌋ then u else t := by
  obtain ⟨rfl, rfl⟩ := neighbours_of_magnitude hf h ht hu ht0 htX hXu hnone
  have hpart : (X - mag (floatFmt f) c) / (mag (floatFmt f) (c + 1) - mag (floatFmt f) c) * 65536 =
      ((r * 65536 : Nat) : ℚ) / ((2 ^ d : Nat) : ℚ) := by
    rw [h.sub_eq, mul_div_cancel_right₀ _ (mag_gap_pos _ c).ne']; push_cast; ring
  have hfloor : ((rnd : Int) < ⌊((r * 65536 : Nat) : ℚ) / ((2 ^ d : Nat) : ℚ)⌋) ↔
      roundsUp 5 neg c r d false rnd = true := by
    rw [Rat.floor_natCast_div_natCast, ← Int.natCast_div, Nat.cast_lt]
    simp [roundsUp]
  rw [hpart, roundedCode, apply_ite (mag (floatFmt f))]
  exact if_congr hfloor.symm rfl rfl

/-- A magnitude whose rounding overflows is above every number of the format. -/
theorem abs_lt_of_overflow {mode : Nat} (hover : (floatFmt f).maxBits < roundedCode mode neg rnd c r d) {v : ℚ}
    (hv : IsValue f v) : |v| < X := by
  obtain ⟨k, hk, hvk⟩ := hv.abs_eq_mag hf
  have hmono := mag_strictMono (floatFmt f)
  rw [hvk]
  rcases roundedCode_cases mode rnd c r d neg with hc | ⟨hc, hr⟩ <;> rw [hc] at hover
  · exact (hmono (hk.trans_lt hover)).trans_le h.le
  · exact (hmono.monotone (hk.trans (Nat.lt_succ_iff.mp hover))).trans_lt
      (h.le.lt_of_ne' fun heq => hr (h.eq_mag_iff.mp heq))

end Rounded

/-! ## Overflow and flags -/

/-- An overflow gives the largest number (R60, R67). -/
def Saturates (f : Elem) (sat : Bool) (mode : Nat) (neg : Bool) : Prop :=
  sat = true ∨ (f ≠ .e4m3 ∧ (mode = 1 ∨ (mode = 2 ∧ neg = true) ∨ (mode = 3 ∧ neg = false)))

theorem overflowBits_of_saturates {f : Elem} {sat : Bool} {mode : Nat} {neg : Bool} (h : Saturates f sat mode neg) :
    overflowBits f sat mode neg = signed (floatFmt f) neg (floatFmt f).maxBits := by
  unfold overflowBits signed
  rcases h with rfl | ⟨hf, rfl | ⟨rfl, rfl⟩ | ⟨rfl, rfl⟩⟩
  · simp
  all_goals simp [(inf_iff_ne_e4m3 f).mpr hf]

theorem overflowBits_of_not_saturates {f : Elem} {sat : Bool} {mode : Nat} {neg : Bool} (h : ¬Saturates f sat mode neg) :
    overflowBits f sat mode neg = signed (floatFmt f) neg ((floatFmt f).maxBits + 1) := by
  obtain ⟨hsat, hmode⟩ := not_or.mp h
  unfold overflowBits signed
  rw [maxBits_succ f]
  cases hinf : (floatFmt f).inf with
  | false =>
    have hpos : 0 < (floatFmt f).signBit := Nat.two_pow_pos _
    simp only [hsat, hinf, if_false, Bool.not_false, Bool.false_eq_true, if_true]
    exact Nat.add_sub_assoc hpos _
  | true =>
    simp only [not_and, not_or] at hmode
    obtain ⟨hrtz, hrup, hrdn⟩ := hmode ((inf_iff_ne_e4m3 f).mp hinf)
    simp only [hsat, hinf, if_false, Bool.not_true, Bool.false_eq_true, if_true]
    split
    · exact absurd rfl hrtz
    · rw [if_neg (hrup rfl)]
    · rw [if_pos (by simpa using hrdn rfl)]
    · rfl

theorem floatVal_infinity {f : Elem} (hf : isFloat f = true) (hne : f ≠ .e4m3) (neg : Bool) :
    floatVal f (signed (floatFmt f) neg ((floatFmt f).maxBits + 1)) = .inf neg := by
  revert hf hne neg
  cases f <;> decide

theorem floatVal_e4m3_nan (neg : Bool) :
    floatVal .e4m3 (signed (floatFmt .e4m3) neg ((floatFmt .e4m3).maxBits + 1)) = .nan neg true 0 := by
  cases neg <;> decide

theorem overflow_sets_flag : (flagOF ||| flagNX) &&& flagOF ≠ 0 := by decide

theorem underflowFlags_no_overflow (tiny inexact : Bool) : underflowFlags tiny inexact &&& flagOF = 0 := by
  cases tiny <;> cases inexact <;> decide

theorem underflowFlags_inexact_iff (tiny inexact : Bool) : underflowFlags tiny inexact &&& flagNX = 0 ↔ inexact = false := by
  cases tiny <;> cases inexact <;> decide

theorem overflowBits_lt {f : Elem} (hf : isFloat f = true) (sat : Bool) (mode : Nat) (neg : Bool) :
    overflowBits f sat mode neg < 2 ^ laneBits f := by
  have hlt := maxBits_lt_signBit f
  by_cases h : Saturates f sat mode neg
  · rw [overflowBits_of_saturates h]
    exact signed_lt_laneBits hf neg (by omega)
  · rw [overflowBits_of_not_saturates h]
    exact signed_lt_laneBits hf neg hlt

/-- Round is faithful to R60, R61 and R67: a number that is picked stands as the lemmas above say of its code; an overflow is above
every number. -/
theorem roundIsFaithful : RoundIsFaithful := by
  intro f sat mode rnd neg m e hf _
  obtain ⟨c, rem, d, tiny, hcut, hr⟩ := toFloat_num f sat mode rnd neg m e
  have hlt := maxBits_lt_signBit f
  have hX0 : (0 : ℚ) ≤ m * (2 : ℚ) ^ e := by positivity
  have habs : |sgn neg * (m * (2 : ℚ) ^ e)| = m * (2 : ℚ) ^ e := by rw [abs_sgn_mul, abs_of_nonneg hX0]
  rw [ratOf_eq_sgn_mul]
  by_cases hover : (floatFmt f).maxBits < roundedCode mode neg rnd c rem d
  · rw [if_pos hover] at hr
    rw [hr]
    refine ⟨overflowBits_lt hf sat mode neg, fun hOF => absurd hOF overflow_sets_flag, fun _ => ⟨?_, ?_, ?_, ?_⟩⟩
    · rw [habs]
      exact fun v hv => abs_lt_of_overflow hf hcut hover hv
    · intro hsat
      obtain ⟨k, i, hval, hmag⟩ := floatVal_finite neg le_rfl
      refine ⟨k, i, overflowBits_of_saturates hsat ▸ hval, fun v hv => ?_⟩
      obtain ⟨j, hj, hvj⟩ := IsValue.abs_eq_mag hf hv
      rw [hvj, ratOf_eq_sgn_mul, abs_sgn_mul, hmag, abs_of_nonneg (mag_nonneg _ _)]
      exact (mag_strictMono _).monotone hj
    · exact fun hsat hne => overflowBits_of_not_saturates hsat ▸ floatVal_infinity hf hne neg
    · rintro hsat rfl
      exact overflowBits_of_not_saturates hsat ▸ floatVal_e4m3_nan neg
  · rw [if_neg hover] at hr
    rw [hr]
    obtain ⟨k, i, hval, hmag⟩ := floatVal_finite neg (not_lt.mp hover)
    refine ⟨signed_lt_laneBits hf neg (by omega), fun _ => ⟨k, i, hval, ?_⟩,
      fun hOF => absurd (underflowFlags_no_overflow _ _) hOF⟩
    rw [ratOf_eq_sgn_mul, hmag]
    refine ⟨?inexact, fun v hv => ?neighbour, ?rne, ?rtz, ?rup, ?rdn, ?rna, ?rsr⟩
    case inexact =>
      rw [← exact_iff_rounded_eq hcut, underflowFlags_inexact_iff]
      simp
    case neighbour => exact rounded_is_neighbour hf hcut mode hv
    case rne =>
      rintro rfl v hv
      rw [signed_mod_two (fbits_pos f)]
      exact rounded_nearest_even hf hcut hv
    case rtz =>
      rintro rfl
      exact abs_rounded_toward_zero_le hcut
    case rup =>
      rintro rfl
      exact le_rounded_up hcut
    case rdn =>
      rintro rfl
      exact rounded_down_le hcut
    case rna =>
      rintro rfl v hv
      exact rounded_nearest_away hf hcut hv
    case rsr =>
      rintro rfl t u ht hu ht0 htX hXu hnone
      rw [habs] at htX hXu ⊢
      rw [abs_sgn_mul, abs_of_nonneg (mag_nonneg _ _)]
      exact rounded_stochastic hf hcut ht hu ht0 htX hXu hnone

/-- Settles O18: a representable number is a code's magnitude, so nothing of it is cut off; `roundIsFaithful` has all the others. -/
theorem roundKeepsRepresentable : Obligations.RoundKeepsRepresentable := by
  refine ⟨roundIsFaithful, fun f sat mode rnd b neg m e hf hb hval => ?_⟩
  obtain ⟨code, hcode, rfl, hmag⟩ := code_of_floatVal_num hf hb hval
  obtain ⟨c, r, d, tiny, hcut, hround⟩ := toFloat_num f sat mode rnd neg m e
  rw [hmag] at hcut
  have hmono := mag_strictMono (floatFmt f)
  obtain rfl : code = c := le_antisymm (Nat.lt_succ_iff.mp (hmono.lt_iff_lt.mp hcut.lt_succ)) (hmono.le_iff_le.mp hcut.le)
  obtain rfl : r = 0 := hcut.eq_mag_iff.mp rfl
  rw [hround, roundedCode_zero, if_neg hcode.not_gt]
  simp [underflowFlags_exact]

end Sys2Proof.Proofs

/-! PROOF. Memory stays canonical: whatever moves, the state changes by updates alone, and every update keeps the form. -/

namespace Sys2Proof.Proofs

open Sys2Proof.Machine

variable {s t : State}

/-- The steps that no word encodes commit a list of updates; every word commits its own in the slot that issues. -/
theorem exec_canonical (i : Instr) (h : s.Canonical) (ht : exec i s = .next t) : t.Canonical := by
  cases i with
  | taskDispatch | ifetchFill | loadDataReturn | storeBufferDrain | homeRequestArrival | atomicPerform | longOpComplete
  | blockOpComplete | fenceComplete | ifenceComplete | yieldExpiry | userInterruptEntry | copyCompletionEntry
  | channelWordArrival | grantArrival | chunbindAck | spawnComplete | spawnatPacketArrival | spawnatAck | joinWake
  | retireFrameUpdate | retireSlotFree | barWake | mwaitWake | mwaitTimeout | stallReport | uisendArrival | trapEntry
  | switchRequestTaken | contextExchange | engineFaultDelivery | matrixJobStart | matrixPanelFetch | matrixStep
  | matrixJobComplete | accumTransferComplete | mxzeroJob | copyStart | copyTurn | copyComplete | droverJobStart
  | droverRound | droverJobEnd | sliceFillComplete | sliceEvictionComplete | kvTranslatorOp | kvExportJob | kvImportJob
  | speculativeFetchLine | parisonDataLand | pageWalkComplete | tlbinvComplete | pcommitComplete | pdecommitInvalidationDone
  | tokenBucketRefill | slicePortGrant | portSaveStep | saveStep | restoreReadIssue | restoreLineWrite | portRestoreStep
  | lehrAccess | lehrChannelWrite | quantumEnd | powerGood | safeStageEntry | inventoryStageEntry | kernelStageEntry
  | dieEntersService | scrubRead | doorbell | hostPostedWrite | linkFlitReceive | linkRetrain | peerLost | thermalTrip
  | thermalResume | junctionThrottle | clockChange | pwrcap | sesskey | escways | linkRetrainCmd | linkEnable
  | deviceRegisterWrite | hearthCmdIdle | hearthScrubLine | hearthScrubWord | hearthSliceQuota | hearthCmdReserved
  | coreCmdIdle | coreCmdResume | coreCmdRetireAsFailed | coreCmdMakeResident | coreCmdRemove | coreCmdWriteMasks
  | coreCmdDivert | coreCmdClearEntry | coreCmdInstallEntry | coreCmdHandOver | coreCmdSwitchRequest | coreCmdWriteRegister
  | coreCmdReadRegister | coreCmdSpillDeque | coreCmdReleaseJob | coreCmdReserved | linkTrainingDone | powerLoss =>
    exact commit_canonical h _ ht
  | _ => exact onIssue_canonical h _ ht

/-- A cycle commits its own updates, and then those of the word that it hands over. -/
theorem runCycle_canonical {core : Nat} (h : s.Canonical) (ht : runCycle core s = .next t) : t.Canonical := by
  simp only [runCycle] at ht
  split at ht
  · have hc : (applyAll s (cycleStep core s)).Canonical := applyAll_canonical h _
    split at ht
    · exact exec_canonical _ hc ht
    · cases ht
      exact hc
  · cases ht
    exact h

/-- Every move keeps memory canonical. -/
theorem runMove_canonical (m : Move) (h : s.Canonical) (ht : runMove m s = .next t) : t.Canonical := by
  cases m with
  | cycle core => exact runCycle_canonical h ht
  | event i =>
    rw [runMove] at ht
    split at ht
    · exact exec_canonical i h ht
    · cases ht
      exact h
  | _ => exact commit_canonical h _ ht

/-- Settles O7: the next move is taken without a change of memory, and every move keeps memory canonical. -/
theorem stepKeepsMemoryCanonical : Obligations.StepKeepsMemoryCanonical := by
  intro s t h ht
  have hm : (nextMove s).2.mem = s.mem := by
    unfold nextMove
    split <;> rfl
  exact runMove_canonical (nextMove s).1 (s := (nextMove s).2) (by rw [State.Canonical, hm]; exact h) ht

end Sys2Proof.Proofs

/-! PROOF. The address map and the checks of an access, in their order (R70, R73 to R75, R83, R180). -/

namespace Sys2Proof.Proofs

open Sys2Proof.Machine Sys2Proof.Certificates

variable {s : State} {core slot size : Nat} {addr : Word} {k : Access}

/-! ## The regions of Table 4.1 -/

theorem regionOf_reserved_iff (va : Nat) : regionOf va = .reserved ↔
    (0x00E0800000000000 ≤ va ∧ va < 0x00F0000000000000) ∨ 0x00F0000090000000 ≤ va := by
  unfold regionOf expertBase apertureBase
  split_ifs <;> simp <;> omega

theorem regionOf_pad {va : Nat} (h : va < 0x40000) : regionOf va = .pad := by
  simp [regionOf, h]

theorem regionOf_parison {va : Nat} (hlo : 0x40000 ≤ va) (hhi : va < 0x60000) : regionOf va = .parison := by
  simp [regionOf, hlo.not_gt, hhi]

theorem regionOf_ordinary {va : Nat} (hlo : 0x60000 ≤ va) (hhi : va < 0x00E0000000000000) : regionOf va = .ordinary := by
  simp [regionOf, expertBase, hlo.not_gt, hhi, show ¬va < 0x40000 by omega]

theorem regionOf_expert {va : Nat} (hlo : 0x00E0000000000000 ≤ va) (hhi : va < 0x00E0800000000000) : regionOf va = .expert := by
  simp [regionOf, expertBase, hlo.not_gt, hhi, show ¬va < 0x40000 by omega, show ¬va < 0x60000 by omega]

theorem regionOf_aperture {va : Nat} (hlo : 0x00F0000000000000 ≤ va) (hhi : va < 0x00F0000090000000) :
    regionOf va = .aperture := by
  simp [regionOf, expertBase, apertureBase, hlo.not_gt, hhi, show ¬va < 0x40000 by omega, show ¬va < 0x60000 by omega,
    show ¬va < 0x00E0000000000000 by omega, show ¬va < 0x00E0800000000000 by omega]

/-- The regions that an execute slot may not use. -/
theorem regionOf_slot_iff (va : Nat) : (regionOf va = .pad ∨ regionOf va = .parison ∨ regionOf va = .aperture) ↔
    va < 0x60000 ∨ (0x00F0000000000000 ≤ va ∧ va < 0x00F0000090000000) := by
  unfold regionOf expertBase apertureBase
  split_ifs <;> simp <;> omega

/-! ## The three checks that come before a region's own rule -/

/-- An access barred to an execute slot (R83). -/
abbrev Barred (s : State) (core slot va : Nat) : Prop :=
  (slotAt s core slot).pair = .execute ∧ (regionOf va = .pad ∨ regionOf va = .parison ∨ regionOf va = .aperture)

theorem checkAddr_reserved (h : regionOf addr.toNat = .reserved) : checkAddr s core slot addr size k = .fault 0x06 := by
  simp [checkAddr, h]

theorem checkAddr_barred (h : Barred s core slot addr.toNat) : checkAddr s core slot addr size k = .fault 0x06 := by
  unfold checkAddr
  simp only [if_pos (show _ ∧ _ from h), ite_self]

theorem checkAddr_misaligned (hr : regionOf addr.toNat ≠ .reserved) (hb : ¬Barred s core slot addr.toNat)
    (ha : addr.toNat % size ≠ 0) : checkAddr s core slot addr size k = .fault 0x05 := by
  unfold checkAddr
  rw [if_neg hr, if_neg hb, if_pos ha]

/-- An aligned access that no earlier check refuses comes to its region's own rule. -/
structure Admitted (s : State) (core slot : Nat) (addr : Word) (size : Nat) : Prop where
  notBarred : ¬Barred s core slot addr.toNat
  aligned : addr.toNat % size = 0

section
variable (h : Admitted s core slot addr size)
include h

theorem Admitted.pad (hr : regionOf addr.toNat = .pad) :
    checkAddr s core slot addr size k = padCheck s core (partOf (coreAt s core) slot) addr.toNat := by
  unfold checkAddr
  rw [if_neg (by simp [hr]), if_neg h.notBarred, if_neg (not_not.mpr h.aligned)]
  simp [hr]

theorem Admitted.aperture (hr : regionOf addr.toNat = .aperture) : checkAddr s core slot addr size k =
    apertureCheck s core (slotAt s core slot).ctx (partOf (coreAt s core) slot) addr.toNat := by
  unfold checkAddr
  rw [if_neg (by simp [hr]), if_neg h.notBarred, if_neg (not_not.mpr h.aligned)]
  simp [hr]

theorem Admitted.parison_write (hr : regionOf addr.toNat = .parison) (hk : k ≠ .read) :
    checkAddr s core slot addr size k = .fault 0x08 := by
  unfold checkAddr
  rw [if_neg (by simp [hr]), if_neg h.notBarred, if_neg (not_not.mpr h.aligned)]
  simp [hr, hk]

theorem Admitted.parison_read (hr : regionOf addr.toNat = .parison) {r : TRes}
    (hp : parisonCheck s core (slotAt s core slot).ctx addr.toNat = r) (hne : ∀ c j b f, r ≠ .refetch c j b f) :
    checkAddr s core slot addr size .read = r := by
  unfold checkAddr
  rw [if_neg (by simp [hr]), if_neg h.notBarred, if_neg (not_not.mpr h.aligned)]
  cases r with
  | refetch c j b f => exact absurd rfl (hne c j b f)
  | _ => simp only [hr, if_true, hp]

theorem Admitted.ordinary (hr : regionOf addr.toNat = .ordinary) : checkAddr s core slot addr size k =
    Machine.translate s core (slotAt s core slot).ctx (slotAt s core slot).mode addr.toNat k := by
  unfold checkAddr
  rw [if_neg (by simp [hr]), if_neg h.notBarred, if_neg (not_not.mpr h.aligned)]
  simp [hr]

theorem Admitted.expert_refused (hr : regionOf addr.toNat = .expert)
    (hk : k ≠ .read ∨ (ctxAt s (slotAt s core slot).ctx).escbase = 0) : checkAddr s core slot addr size k = .fault 0x08 := by
  unfold checkAddr
  rw [if_neg (by simp [hr]), if_neg h.notBarred, if_neg (not_not.mpr h.aligned)]
  simp only [hr, if_pos hk]

theorem Admitted.expert_past (hr : regionOf addr.toNat = .expert) (hbase : (ctxAt s (slotAt s core slot).ctx).escbase ≠ 0)
    {c : Nat} (hb : backing (ctxAt s (slotAt s core slot).ctx).escbase addr.toNat = .error c) :
    checkAddr s core slot addr size .read = .fault c := by
  unfold checkAddr
  rw [if_neg (by simp [hr]), if_neg h.notBarred, if_neg (not_not.mpr h.aligned)]
  simp only [hr, hbase, ne_eq, not_true_eq_false, or_self, if_false, hb]

theorem Admitted.expert_backed (hr : regionOf addr.toNat = .expert) (hbase : (ctxAt s (slotAt s core slot).ctx).escbase ≠ 0)
    {a : Nat} (hb : backing (ctxAt s (slotAt s core slot).ctx).escbase addr.toNat = .ok a) :
    checkAddr s core slot addr size .read =
      Machine.translate s core (slotAt s core slot).ctx (slotAt s core slot).mode a .read := by
  unfold checkAddr
  rw [if_neg (by simp [hr]), if_neg h.notBarred, if_neg (not_not.mpr h.aligned)]
  simp only [hr, hbase, ne_eq, not_true_eq_false, or_self, if_false, hb]

end

/-! ## Each region's own rule -/

/-- A backing address past the translated space is no address (log entry 86). -/
theorem backing_of_past {base : Word} {va : Nat} (h : 0x00E0000000000000 ≤ base.toNat + (va - 0x00E0000000000000)) :
    backing base va = .error 0x06 := by
  unfold backing expertBase
  exact if_pos h

theorem backing_of_before {base : Word} {va : Nat} (h : base.toNat + (va - 0x00E0000000000000) < 0x00E0000000000000) :
    backing base va = .ok (base.toNat + (va - 0x00E0000000000000)) := by
  unfold backing expertBase
  exact if_neg h.not_ge

/-- The span in which an aperture access finds a core, as `SpanHas` says it. -/
theorem inSpan_iff (s : State) (core part ctx n : Nat) : inSpan s core part ctx n = true ↔ SpanHas s core part ctx n := by
  unfold inSpan SpanHas spanOf
  cases hspan : s.pkg.spans.find? (fun x => x.1 == part && x.2.contains core) with
  | some x => simp
  | none => simp [Option.any_eq_true]

section
variable {ctx va : Nat} {m : Mode} {t : TlbEntry} (hpt : (ctxAt s ctx).ptbase ≠ 0) (ht : tlbFind s core ctx va = some t)
include hpt ht

theorem translate_of_refused {c : Nat} (h : refusal s t m k va = some c) : Machine.translate s core ctx m va k = .fault c := by
  simp only [Machine.translate, if_neg hpt, ht, h]

/-- A translation that is held and refuses nothing is used once A, and D for a write, have been seen (R348). -/
theorem translate_of_allowed (h : refusal s t m k va = none) : Machine.translate s core ctx m va k =
    if t.aSeen && (!setsDirty k || t.dSeen) then .ok (.phys (t.phys va) t.dev) else .miss va := by
  simp only [Machine.translate, if_neg hpt, ht, h]

end

theorem setsDirty_iff (k : Access) : setsDirty k = true ↔ k = .write ∨ k = .update ∨ ∃ pcie, k = .atomic pcie := by
  cases k <;> simp [setsDirty]

theorem refusal_of_not_permits {t : TlbEntry} {m : Mode} {va : Nat} (h : permits t m k = false) :
    refusal s t m k va = some 0x08 := by
  simp [refusal, h]

/-- What Table 9.1 says of an access to ordinary memory, of the model's translation. -/
theorem translate_rules (s : State) (core ctx : Nat) (m : Mode) (va : Nat) (k : Access) :
    let r := Machine.translate s core ctx m va k
    ((ctxAt s ctx).ptbase = 0 → r = .fault 0x07) ∧
    ((ctxAt s ctx).ptbase ≠ 0 → tlbFind s core ctx va = none → r = .miss va) ∧
    (∀ t, (ctxAt s ctx).ptbase ≠ 0 → tlbFind s core ctx va = some t →
      (permits t m k = false → r = .fault 0x08) ∧
      (∀ c, refusal s t m k va = some c → r = .fault c) ∧
      (refusal s t m k va = none →
        r = if t.aSeen = true ∧ ((k = .write ∨ k = .update ∨ ∃ pcie, k = .atomic pcie) → t.dSeen = true)
          then .ok (.phys (t.pa + va % t.size) t.dev) else .miss va)) := by
  refine ⟨fun h => by simp [Machine.translate, h], fun h hn => by rw [Machine.translate, if_neg h, hn], fun t hpt ht => ⟨fun hp => ?_, fun c hc => ?_,
    fun hn => ?_⟩⟩
  · exact translate_of_refused hpt ht (refusal_of_not_permits hp)
  · exact translate_of_refused hpt ht hc
  · rw [translate_of_allowed hpt ht hn]
    simp only [← setsDirty_iff]
    cases setsDirty k <;> simp [TlbEntry.phys]

/-- What R75 says of a read of the parison region, where the slot may use it. -/
theorem Admitted.parison_rules (h : Admitted s core slot addr size) (hr : regionOf addr.toNat = .parison) :
    let sl := slotAt s core slot
    let r := checkAddr s core slot addr size k
    let buf := (addr.toNat - 0x40000) / 0x4000
    let p := (coreAt s core).parison.toList.getD buf Parison.reset
    (k ≠ .read → r = .fault 0x08) ∧
    (k = .read → p.state = .free ∨ p.ctx ≠ sl.ctx → r = .fault 0x06) ∧
    (k = .read → p.ctx = sl.ctx → p.state = .predicted ∨ p.state = .unpredicted ∨ p.state = .void → r = .fault 0x09) ∧
    (k = .read → p.ctx = sl.ctx → p.state = .landed → r = .ok (.parison core buf ((addr.toNat - 0x40000) % 0x4000))) := by
  intro sl r buf p
  refine ⟨fun hk => h.parison_write hr hk, ?free, ?quarantined, ?landed⟩
  case free =>
    rintro rfl hp
    exact h.parison_read hr (if_pos hp) (by simp)
  case quarantined =>
    rintro rfl hctx hstate
    have hp : ¬(p.state = .free ∨ p.ctx ≠ sl.ctx) := by rcases hstate with hq | hq | hq <;> simp [hq, hctx]
    have hq : quarantined p.state = true := by rcases hstate with hq | hq | hq <;> simp [hq, quarantined]
    exact h.parison_read hr ((if_neg hp).trans (if_pos hq)) (by simp)
  case landed =>
    rintro rfl hctx hstate
    have hp : ¬(p.state = .free ∨ p.ctx ≠ sl.ctx) := by simp [hstate, hctx]
    have hq : ¬quarantined p.state = true := by simp [hstate, quarantined]
    exact h.parison_read hr ((if_neg hp).trans ((if_neg hq).trans (if_pos hstate))) (by simp)

/-- What R74 says of an access through the aperture, where the slot may use it. -/
theorem apertureCheck_rules (s : State) (core ctx part : Nat) {va : Nat} (hlo : 0x00F0000000000000 ≤ va) :
    let n := (va - 0x00F0000000000000) / 0x100000
    let off := va % 0x100000
    let r := apertureCheck s core ctx part va
    (0x40000 ≤ off → r = .fault 0x06) ∧
    (off < 0x40000 → ¬SpanHas s core part ctx n → r = .fault 0x08) ∧
    (off < 0x40000 → SpanHas s core part ctx n → r = padCheck s n part off) := by
  intro n off r
  have hbase : apertureBase = 0x00F0000000000000 := rfl
  have hoff : (va - 0x00F0000000000000) % 0x100000 = off := by omega
  have hr : r = if 0x40000 ≤ off then .fault 0x06 else if !inSpan s core part ctx n then .fault 0x08 else padCheck s n part off := by
    simp only [r, apertureCheck, hbase, hoff]
    rfl
  refine ⟨fun h => by rw [hr, if_pos h], fun h hn => ?_, fun h hn => ?_⟩
  · rw [← inSpan_iff, Bool.not_eq_true] at hn
    rw [hr, if_neg (by omega), hn]
    rfl
  · rw [← inSpan_iff] at hn
    rw [hr, if_neg (by omega), hn]
    rfl

/-- Settles O37: the three checks that every access meets, in the order of Table 9.1, and then its region's own rule. -/
theorem addressChecks : Obligations.AddressChecks := by
  intro s core slot addr size k sl va r part pad reserved barred
  have hres : reserved ↔ regionOf va = .reserved := (regionOf_reserved_iff va).symm
  have hbar : barred ↔ Barred s core slot va := and_congr_right fun _ => (regionOf_slot_iff va).symm
  refine ⟨fun h => checkAddr_reserved (hres.mp h), fun h => checkAddr_barred (hbar.mp h),
    fun hr hb ha => checkAddr_misaligned (mt hres.mpr hr) (mt hbar.mpr hb) ha, fun _ hb ha => ?_⟩
  have h : Admitted s core slot addr size := ⟨mt hbar.mpr hb, ha⟩
  refine ⟨fun hhi => h.pad (regionOf_pad hhi), fun hlo hhi => h.parison_rules (regionOf_parison hlo hhi),
    fun hlo hhi => ?expert, fun hlo hhi => ?aperture, fun hlo hhi => ?ordinary⟩
  case expert =>
    have hr := regionOf_expert hlo hhi
    refine ⟨fun hk => h.expert_refused hr hk, ?_, ?_⟩
    · rintro rfl hbase ha
      exact h.expert_past hr hbase (backing_of_past ha)
    · rintro rfl hbase ha
      exact h.expert_backed hr hbase (backing_of_before ha)
  case aperture =>
    have hr : r = _ := h.aperture (regionOf_aperture hlo hhi)
    rw [hr]
    exact apertureCheck_rules s core sl.ctx part hlo
  case ordinary =>
    have hr : r = _ := h.ordinary (regionOf_ordinary hlo hhi)
    rw [hr]
    exact translate_rules s core sl.ctx sl.mode va k

end Sys2Proof.Proofs

/-! PROOF. What the end of a walk marks and installs (R341, R345, R348), and the entries it reads (R338, R339). -/

namespace Sys2Proof.Proofs

open Sys2Proof.Machine

variable {s : State} {core slot : Nat}

/-! ## Bits of an entry -/

theorem Pte.has_iff (e : Pte) (k : Nat) : e.has k = true ↔ e.bits / 2 ^ k % 2 = 1 := by
  simp [Pte.has]

theorem Pte.has_eq_testBit (e : Pte) (k : Nat) : e.has k = e.bits.testBit k := by
  simp [Pte.has, Nat.testBit_eq_decide_div_mod_eq, Bool.beq_eq_decide_eq]

theorem Pte.lacks_iff (e : Pte) (d : Bool) :
    e.lacks d = true ↔ e.bits.testBit 5 = false ∨ (d = true ∧ e.bits.testBit 6 = false) := by
  simp [Pte.lacks, Pte.has_eq_testBit]

theorem Pte.stale_iff (s : State) (e : Pte) : e.stale s = true ↔
    (e.bits % 2 = 1 ∧ memNat s e.addr 8 % 2 = 0) ∨ memNat s e.addr 8 / 2 ^ 12 % 2 ^ 40 ≠ e.bits / 2 ^ 12 % 2 ^ 40 := by
  have hv : ∀ n : Nat, (n % 2 == 1) = true ↔ n % 2 = 1 := fun n => by simp
  simp only [Pte.stale, Pte.v, Pte.has, Pte.frame, pow_zero, Nat.div_one, Bool.or_eq_true, Bool.and_eq_true, hv,
    Bool.not_eq_true', beq_eq_false_iff_ne, bne_iff_ne, ne_eq, Nat.mod_two_not_eq_one]
  refine or_congr Iff.rfl (not_congr ⟨fun h => ?_, fun h => by rw [h]⟩)
  exact Nat.eq_of_mul_eq_mul_right (by norm_num) h

/-! ## The entries that a walk marks -/

/-- An entry is due a mark, D with it or not, as R344 and R348 say (log entry 108). -/
def Due (w : Walked) (dirty : Bool) (e : Pte) (d : Bool) : Prop :=
  e.lacks d = true ∧ ((e ∈ w.marks ∧ d = dirty) ∨ (e ∈ w.through ∧ d = false) ∨
    (e ∈ w.under ∧ d = true ∧ ∃ m ∈ w.marks.head?, m.lacks dirty = true))

/-- The marks of a walk before those that another mark of the same entry makes needless are left out. -/
theorem mem_needs_list_iff (w : Walked) (dirty : Bool) (e : Pte) (d : Bool) :
    (e, d) ∈ (w.marks.map (fun e => (e, dirty)) ++ w.through.map (fun e => (e, false)) ++
      (if (w.marks.head?).any (fun e => e.lacks dirty) then w.under.map (fun e => (e, true)) else [])).filter
        (fun x => x.1.lacks x.2) ↔ Due w dirty e d := by
  have hpair : ∀ (l : List Pte) (c : Bool), (e, d) ∈ l.map (fun e => (e, c)) ↔ e ∈ l ∧ d = c := by
    intro l c
    simp only [List.mem_map, Prod.mk.injEq]
    exact ⟨fun ⟨x, hx, hxe, hc⟩ => ⟨hxe ▸ hx, hc.symm⟩, fun ⟨he, hc⟩ => ⟨e, he, rfl, hc.symm⟩⟩
  have hany : (w.marks.head?).any (fun e => e.lacks dirty) = true ↔ ∃ m ∈ w.marks.head?, m.lacks dirty = true := by
    rw [Option.any_eq_true]
    rfl
  rw [List.mem_filter, List.mem_append, List.mem_append, hpair, hpair, and_comm, Due, or_assoc]
  refine and_congr_right fun _ => or_congr_right (or_congr_right ?_)
  split
  · rename_i h
    rw [hpair]
    exact ⟨fun ⟨he, hd⟩ => ⟨he, hd, hany.mp h⟩, fun ⟨he, hd, _⟩ => ⟨he, hd⟩⟩
  · rename_i h
    exact ⟨fun he => absurd he List.not_mem_nil, fun ⟨_, _, hm⟩ => absurd (hany.mpr hm) h⟩

/-- The entries that a walk marks are those that are due a mark, but that one which is due D is marked once. -/
theorem mem_needs_iff (w : Walked) (dirty : Bool) (e : Pte) (d : Bool) :
    (e, d) ∈ w.needs dirty ↔ Due w dirty e d ∧ (d = true ∨ ¬Due w dirty e true) := by
  simp only [Walked.needs, List.mem_filter, List.mem_eraseDups, Bool.or_eq_true, Bool.not_eq_true', ← Bool.not_eq_true,
    List.contains_iff_mem, ← mem_needs_list_iff]

/-- Some entry that a walk marks has changed at its home exactly when some entry that is due a mark has. -/
theorem needs_stale_iff (w : Walked) (dirty : Bool) (stale : Pte → Bool) :
    (w.needs dirty).any (fun x => stale x.1) = true ↔ ∃ e d, Due w dirty e d ∧ stale e = true := by
  rw [List.any_eq_true]
  constructor
  · rintro ⟨⟨e, d⟩, hm, hs⟩
    exact ⟨e, d, ((mem_needs_iff ..).mp hm).1, hs⟩
  · rintro ⟨e, d, hd, hs⟩
    by_cases ht : Due w dirty e true
    · exact ⟨(e, true), (mem_needs_iff ..).mpr ⟨ht, .inl rfl⟩, hs⟩
    · exact ⟨(e, d), (mem_needs_iff ..).mpr ⟨hd, .inr ht⟩, hs⟩

/-! ## Memory after the marks -/

/-- The bits that some marks set in the byte at an address. -/
def markBits (a : Nat) (needs : List (Pte × Bool)) : Byte :=
  (bif needs.any (fun x => x.1.addr == a && x.2) then 0x60 else 0) ||| (bif needs.any (fun x => x.1.addr == a) then 0x20 else 0)

theorem markBits_cons (a : Nat) (x : Pte × Bool) (needs : List (Pte × Bool)) : markBits a (x :: needs) =
    (bif x.1.addr == a then (bif x.2 then 0x60 else 0x20) else 0) ||| markBits a needs := by
  obtain ⟨e, d⟩ := x
  simp only [markBits, List.any_cons]
  generalize needs.any (fun x => x.1.addr == a && x.2) = p
  generalize needs.any (fun x => x.1.addr == a) = q
  generalize (e.addr == a) = h
  revert d p q h
  decide

theorem markBits_dirty {a : Nat} {needs : List (Pte × Bool)} (h : ∃ e, (e, true) ∈ needs ∧ e.addr = a) :
    markBits a needs = 0x60 := by
  obtain ⟨e, he, ha⟩ := h
  have h1 : needs.any (fun x => x.1.addr == a && x.2) = true := List.any_eq_true.mpr ⟨_, he, by simp [ha]⟩
  have h2 : needs.any (fun x => x.1.addr == a) = true := List.any_eq_true.mpr ⟨_, he, by simp [ha]⟩
  simp only [markBits, h1, h2]
  decide

theorem markBits_clean {a : Nat} {needs : List (Pte × Bool)} (hd : ∀ e, (e, true) ∈ needs → e.addr ≠ a)
    (h : ∃ e, (e, false) ∈ needs ∧ e.addr = a) : markBits a needs = 0x20 := by
  obtain ⟨e, he, ha⟩ := h
  have h1 : needs.any (fun x => x.1.addr == a && x.2) = false := by
    rw [List.any_eq_false]
    rintro ⟨x, d⟩ hx hxa
    simp only [Bool.and_eq_true, beq_iff_eq] at hxa
    obtain ⟨hxa, rfl⟩ := hxa
    exact hd x hx hxa
  have h2 : needs.any (fun x => x.1.addr == a) = true := List.any_eq_true.mpr ⟨_, he, by simp [ha]⟩
  simp only [markBits, h1, h2]
  decide

theorem markBits_none {a : Nat} {needs : List (Pte × Bool)} (h : ∀ x ∈ needs, x.1.addr ≠ a) : markBits a needs = 0 := by
  have h1 : needs.any (fun x => x.1.addr == a && x.2) = false := by
    rw [List.any_eq_false]
    exact fun x hx => by simp [h x hx]
  have h2 : needs.any (fun x => x.1.addr == a) = false := by
    rw [List.any_eq_false]
    exact fun x hx => by simp [h x hx]
  simp only [markBits, h1, h2]
  decide

/-- A write at home is a write of its bytes. -/
theorem after_writeHome_mem (w : Writer) (key : Nat) (bs : List Byte) (s : State) :
    (after (writeHome w key bs) s).mem = memWriteAll s.mem (cellsAt key bs) := by
  obtain ⟨hmem, -⟩ := touchWatches_rest (fun _ => true) key bs.length
    (after (putBytes key bs) (after (noteWrite w key (memBytes s key bs.length)) s))
  simp only [writeHome, after_ask, after_doAll_cons, after_doAll_nil]
  exact hmem

/-- The byte at an address, after the marks of a walk. -/
theorem memRead_markEntries (hs : s.Canonical) (die : Nat) (needs : List (Pte × Bool)) (a : Nat) :
    memRead (after (markEntries die needs) s).mem a = memRead s.mem a ||| markBits a needs := by
  induction needs generalizing s with
  | nil => simp [markEntries, markBits]
  | cons x needs ih =>
    set t := after (ask fun s => andThen (countWrite (unitWriter s (walkerParty die) true)) (writeHome
      (unitWriter s (walkerParty die) true) x.1.addr [memRead s.mem x.1.addr ||| (if x.2 then 0x60 else 0x20)])) s with ht
    have hmem : t.mem = memWrite s.mem x.1.addr (memRead s.mem x.1.addr ||| (if x.2 then 0x60 else 0x20)) := by
      rw [ht, after_ask, after_andThen, after_writeHome_mem]
      rfl
    have hstep : after (markEntries die (x :: needs)) s = after (markEntries die needs) t := after_forAll_cons ..
    rw [hstep, ih (after_canonical hs _), markBits_cons, ← BitVec.or_assoc, hmem]
    congr 1
    by_cases h : x.1.addr = a
    · subst h
      rw [memRead_memWrite_same hs, beq_self_eq_true]
      cases x.2 <;> rfl
    · rw [memRead_memWrite_other _ _ (Ne.symm h), beq_eq_false_iff_ne.mpr h]
      exact BitVec.or_zero.symm

/-! ## The translations that are held after a walk -/

/-- What flocks, dies and cores hold of translations. -/
def heldOf (u : State) : List (Nat × Flock) × List (Nat × Die) × (Nat → List TlbEntry) :=
  (u.flocks, u.diesT, fun c => (coreAt u c).tlb)

theorem heldOf_writeHome (w : Writer) (key : Nat) (bs : List Byte) (s : State) : heldOf (after (writeHome w key bs) s) = heldOf s := by
  simp only [writeHome, after_ask, after_doAll_cons, after_doAll_nil]
  set u := after (putBytes key bs) (after (noteWrite w key (memBytes s key bs.length)) s) with hu
  obtain ⟨hcore, hrest⟩ := touchWatches_spec (fun _ => true) key bs.length u
  have htlb : ∀ c, (coreAt (after (touchAll key bs.length) u) c).tlb = (coreAt u c).tlb := fun c => (congrArg Core.tlb (hcore c) :)
  have hflocks : (after (touchAll key bs.length) u).flocks = u.flocks := (congrArg State.flocks hrest :)
  have hdies : (after (touchAll key bs.length) u).diesT = u.diesT := (congrArg State.diesT hrest :)
  simp only [heldOf, htlb, hflocks, hdies]
  rfl

theorem heldOf_markEntries (die : Nat) (needs : List (Pte × Bool)) (s : State) :
    heldOf (after (markEntries die needs) s) = heldOf s :=
  forAll_keeps heldOf needs _ (fun x u => by rw [after_ask, after_andThen, heldOf_writeHome]; rfl) s

theorem heldOf_sawWords (r : Reader) (addrs : List Nat) (s : State) : heldOf (after (sawWords r addrs) s) = heldOf s := by
  rw [sawWords, after_ask]
  cases r.die with
  | none => rfl
  | some die => exact forAll_keeps heldOf addrs _ (fun _ _ => rfl) s

theorem sawWords_mem (r : Reader) (addrs : List Nat) (s : State) : (after (sawWords r addrs) s).mem = s.mem := by
  rw [sawWords, after_ask]
  cases r.die with
  | none => rfl
  | some die => exact forAll_keeps State.mem addrs _ (fun _ _ => rfl) s

/-- A translation is put in at every level of a core (R345). -/
structure Installed (u v : State) (core : Nat) (t : TlbEntry) : Prop where
  mem : v.mem = u.mem
  inCore : (coreAt v core).tlb = putTlb coreTlbSize t (coreAt u core).tlb
  inFlock : (flockAt v (flockOf core)).tlb = putTlb flockTlbSize t (flockAt u (flockOf core)).tlb
  inDie : (dieAt v (dieOf core)).tlb = putTlb dieTlbSize t (dieAt u (dieOf core)).tlb

theorem dieAt_letGo (die : Nat) (ts : List TlbEntry) (s : State) (k : Nat) :
    (dieAt (after (letGo die ts) s) k).tlb = (dieAt s k).tlb := by
  rw [letGo, after_onlyIf]
  split
  · rw [after_modDie]
    by_cases h : k = die
    · subst h
      simp [dieAt]
    · simp [dieAt, h]
  · rfl

theorem letGo_rest (die : Nat) (ts : List TlbEntry) (s : State) :
    (after (letGo die ts) s).mem = s.mem ∧ (after (letGo die ts) s).cores = s.cores ∧ (after (letGo die ts) s).flocks = s.flocks := by
  rw [letGo, after_onlyIf]
  split <;> exact ⟨rfl, rfl, rfl⟩

theorem installDie_held (die : Nat) (t : TlbEntry) (us : List UpperEntry) (s : State) (ht : t.permitsSome = true) :
    (dieAt (after (installDie die t us) s) die).tlb = putTlb dieTlbSize t (dieAt s die).tlb ∧
    (after (installDie die t us) s).mem = s.mem ∧ (after (installDie die t us) s).cores = s.cores ∧
    (after (installDie die t us) s).flocks = s.flocks := by
  simp only [installDie, after_ask, ht, after_onlyIf_true, after_andThen, after_modDie]
  obtain ⟨hmem, hcores, hflocks⟩ := letGo_rest die (pushedOut dieTlbSize t (dieAt s die).tlb) s
  exact ⟨by rw [dieAt, applyUpd_die_diesT, lookup_assign_same, dieAt_letGo], hmem, hcores, hflocks⟩

theorem installTlb_installed (core : Nat) (t : TlbEntry) (us : List UpperEntry) (s : State) (ht : t.permitsSome = true) :
    Installed s (after (installTlb core t us) s) core t := by
  simp only [installTlb, after_ask, ht, after_onlyIf_true, after_doAll_cons, after_doAll_nil]
  set gone := pushedOut coreTlbSize t (coreAt s core).tlb ++ pushedOut flockTlbSize t (flockAt s (flockOf core)).tlb
  obtain ⟨hmem, hcores, hflocks⟩ := letGo_rest (dieOf core) gone s
  set u := after (letGo (dieOf core) gone) s with hu
  set v := after (modFlock (flockOf core) fun f => { f with tlb := putTlb flockTlbSize t f.tlb })
    (after (modCore core fun c => { c with tlb := putTlb coreTlbSize t c.tlb }) u) with hv
  obtain ⟨hdie, hmem', hcores', hflocks'⟩ := installDie_held (dieOf core) t us v ht
  have hcoreU : coreAt u core = coreAt s core := by rw [coreAt, hcores]; rfl
  have hflockU : flockAt u (flockOf core) = flockAt s (flockOf core) := by rw [flockAt, hflocks]; rfl
  refine ⟨hmem'.trans hmem, ?_, ?_, ?_⟩
  · rw [coreAt, hcores', ← hcoreU]
    simp [hv, coreAt]
  · rw [flockAt, hflocks', ← hflockU]
    simp [hv, flockAt]
  · rw [hdie, ← dieAt_letGo (dieOf core) gone s]
    rfl

/-! ## A translation put in -/

theorem putTlb_head {size : Nat} (h : 0 < size) (t : TlbEntry) (l : List TlbEntry) : (putTlb size t l).head? = some t := by
  obtain ⟨n, rfl⟩ := Nat.exists_eq_add_of_lt h
  simp [putTlb]

theorem putTlb_length (size : Nat) (t : TlbEntry) (l : List TlbEntry) : (putTlb size t l).length ≤ size := by
  simp [putTlb]

/-- What stands behind a translation that has been put in was held before and does not overlap it. -/
theorem mem_putTlb_tail {size : Nat} {t x : TlbEntry} {l : List TlbEntry} (h : x ∈ (putTlb size t l).tail) :
    x ∈ l ∧ t.overlaps x = false := by
  cases size with
  | zero => simp [putTlb] at h
  | succ n =>
    rw [putTlb, List.take_succ_cons, List.tail_cons] at h
    simpa using List.mem_filter.mp (List.mem_of_mem_take h)

/-! ## The way out of a flock (R333, R334) -/

theorem modFlock_butForFlocks (k : Nat) (f : Flock → Flock) (s : State) : ButForFlocks (after (modFlock k f) s) s := rfl

theorem onlyIf_butForFlocks {f : Micro} (h : ∀ s, ButForFlocks (after f s) s) (c : Bool) (s : State) :
    ButForFlocks (after (onlyIf c f) s) s := by
  rw [after_onlyIf]
  split
  · exact h s
  · exact .refl s

theorem payNow_butForFlocks {u : State} {flock ctx line : Nat} {f : Micro} (h : payNow u flock ctx line = some f) (s : State) :
    ButForFlocks (after f s) s := by
  simp only [payNow] at h
  split at h
  · cases h
    rfl
  · cases h

/-- A way out that is paid changes only what the flocks hold. -/
theorem payOut_butForFlocks {u : State} {core ctx : Nat} {t : Target} {write : Bool} {f : Micro}
    (h : payOut u core ctx t write = some f) (s : State) : ButForFlocks (after f s) s := by
  simp only [payOut] at h
  split at h
  · cases h
    exact onlyIf_butForFlocks (fun _ => modFlock_butForFlocks ..) _ s
  · obtain ⟨g, hg, rfl⟩ := Option.map_eq_some_iff.mp h
    rw [after_andThen]
    exact .trans (onlyIf_butForFlocks (fun _ => modFlock_butForFlocks ..) _ _) (payNow_butForFlocks hg s)

end Sys2Proof.Proofs

/-! PROOF. Table walks and instruction fetches (R79, R149, R338, R339, R341, R344, R345, R347, R348). -/

namespace Sys2Proof.Proofs

open Sys2Proof.Machine Sys2Proof.Certificates

variable {s : State} {core slot : Nat}

/-! ## What a finished walk comes to -/

section
variable {w : Walker} {m : Mode} {va : Nat} {k : Access} {r : Walked}

theorem finishWalk_error {c : Nat} (h : walkTables s w va = .error c) : finishWalk s core w m va k = .error c := by
  simp only [finishWalk, h]

theorem finishWalk_refused {c : Nat} (h : walkTables s w va = .ok r) (hc : refusal s r.entry m k va = some c) :
    finishWalk s core w m va k = .error c := by
  simp only [finishWalk, h, hc]

theorem finishWalk_stale (h : walkTables s w va = .ok r) (hn : refusal s r.entry m k va = none)
    (hs : (r.needs (setsDirty k)).any (fun x => x.1.stale s) = true) : finishWalk s core w m va k = .error 0 := by
  simp only [finishWalk, h, hn, if_pos hs]

/-- The translation that a walk gives to hold, with A seen, and D if it is set. -/
def Walked.seen (r : Walked) (dirty : Bool) : TlbEntry :=
  { r.entry with aSeen := true, dSeen := dirty || r.marks.all (fun e => e.bits.testBit 6) }

theorem finishWalk_ok (h : walkTables s w va = .ok r) (hn : refusal s r.entry m k va = none)
    (hs : ¬(r.needs (setsDirty k)).any (fun x => x.1.stale s) = true) : finishWalk s core w m va k =
      .ok (Walked.seen r (setsDirty k), doAll [sawWords w.reader r.reads, markEntries w.die (r.needs (setsDirty k)),
        installTlb core (Walked.seen r (setsDirty k)) r.upper]) := by
  simp only [finishWalk, h, hn, if_neg hs, Walked.seen, Pte.has_eq_testBit]

end

/-- A translation that refuses no access of some kind permits some access (R346). -/
theorem permitsSome_of_not_refused {t : TlbEntry} {m : Mode} {k : Access} {va : Nat} (h : refusal s t m k va = none) :
    t.permitsSome = true := by
  have hp : permits t m k = true := by
    by_contra hp
    rw [refusal_of_not_permits (Bool.eq_false_iff.mpr hp)] at h
    cases h
  unfold permits at hp
  cases k <;> simp_all [TlbEntry.permitsSome]

theorem setsDirty_eq (k : Access) : setsDirty k = decide (k ≠ .read ∧ k ≠ .fetch) := by
  cases k <;> simp [setsDirty]

/-! ## The event -/

theorem exec_pageWalkComplete (core slot : Nat) (s : State) :
    exec (.pageWalkComplete core slot) s = execPageWalkComplete core slot s := rfl

/-- The state in which a slot is replaced, as an update. -/
theorem putSlot_eq (s : State) (core slot : Nat) (v : Slot) : putSlot s core slot v = applyUpd s (.slot core slot v) := rfl

/-- A walk that has its walker goes on. -/
theorem walks_of_room {going : Bool} {die ctx va : Nat} (hg : going = true ∨ walkRoom s die ctx va 64 = true) :
    (!going && !walkRoom s die ctx va walkLimit) = false := by
  rcases hg with h | h <;> simp [h, walkLimit]

section
variable {va report : Word} {k : Access} {going : Bool} (hup : coreUp s core = true) (hslot : slot < 16)
  (hw : (slotAt s core slot).wait = .walk va k report going)
include hup hslot hw

theorem walkComplete_noRoom (hg : ¬(going = true ∨ walkRoom s (dieOf core) (slotAt s core slot).ctx va.toNat 64 = true)) :
    exec (.pageWalkComplete core slot) s = .next s := by
  rw [not_or, Bool.not_eq_true, Bool.not_eq_true] at hg
  rw [exec_pageWalkComplete, execPageWalkComplete, slotStep_up _ hup hslot, after_ask]
  simp only [hw, hg.1, walkLimit, hg.2, Bool.not_false, Bool.and_self, if_true, after_skip]

variable (hg : going = true ∨ walkRoom s (dieOf core) (slotAt s core slot).ctx va.toNat 64 = true)
include hg

theorem walkComplete_held {t : Target}
    (ht : Machine.translate s core (slotAt s core slot).ctx (slotAt s core slot).mode va.toNat k = .ok t) :
    exec (.pageWalkComplete core slot) s = .next (putSlot s core slot { slotAt s core slot with wait := .none }) := by
  rw [exec_pageWalkComplete, execPageWalkComplete, slotStep_up _ hup hslot, after_ask]
  simp only [hw, walks_of_room hg, Bool.false_eq_true, if_false, ht, after_modSlot, putSlot_eq]

variable (ht : ∀ t, Machine.translate s core (slotAt s core slot).ctx (slotAt s core slot).mode va.toNat k ≠ .ok t)
include ht

theorem walkComplete_found {x : TlbEntry × Micro}
    (hf : finishWalk s core (slotWalker s core slot) (slotAt s core slot).mode va.toNat k = .ok x) :
    exec (.pageWalkComplete core slot) s =
      .next (after (modSlot core slot fun v => { v with wait := .none }) (after x.2 s)) := by
  rw [exec_pageWalkComplete, execPageWalkComplete, slotStep_up _ hup hslot, after_ask]
  simp only [hw, walks_of_room hg, Bool.false_eq_true, if_false, hf, after_andThen]

theorem walkComplete_again
    (hf : finishWalk s core (slotWalker s core slot) (slotAt s core slot).mode va.toNat k = .error 0) :
    exec (.pageWalkComplete core slot) s =
      .next (putSlot s core slot { slotAt s core slot with wait := .walk va k report true }) := by
  rw [exec_pageWalkComplete, execPageWalkComplete, slotStep_up _ hup hslot, after_ask]
  simp only [hw, walks_of_room hg, Bool.false_eq_true, if_false, hf, after_modSlot, putSlot_eq]

theorem walkComplete_fails {c : Nat} (hc : c ≠ 0) (hfmt : (slotAt s core slot).fmtPending = false)
    (hf : finishWalk s core (slotWalker s core slot) (slotAt s core slot).mode va.toNat k = .error c) :
    exec (.pageWalkComplete core slot) s = .next (after (if k = .fetch then fetchFault core slot c
      else raiseC core slot { cause := c, value := report, write := setsDirty k }) s) := by
  rw [exec_pageWalkComplete, execPageWalkComplete, slotStep_up _ hup hslot, after_ask]
  simp only [hw, walks_of_room hg, Bool.false_eq_true, if_false, hf, hfmt]

end

/-- What a walk that ends in a translation leaves of memory and of the translations that are held. -/
theorem walkMarks_leave (hs : s.Canonical) (r : Walked) (reader : Reader) (dirty : Bool) {held : TlbEntry}
    (hp : held.permitsSome = true) :
    let t := after (doAll [sawWords reader r.reads, markEntries (dieOf core) (r.needs dirty), installTlb core held r.upper]) s
    (coreAt t core).tlb = putTlb coreTlbSize held (coreAt s core).tlb ∧
      (flockAt t (flockOf core)).tlb = putTlb flockTlbSize held (flockAt s (flockOf core)).tlb ∧
      (dieAt t (dieOf core)).tlb = putTlb dieTlbSize held (dieAt s (dieOf core)).tlb ∧
      ∀ a, memRead t.mem a = memRead s.mem a ||| markBits a (r.needs dirty) := by
  intro t
  set u := after (sawWords reader r.reads) s with hu
  set v := after (markEntries (dieOf core) (r.needs dirty)) u with hv
  have ht : t = after (installTlb core held r.upper) v := by simp [t, hu, hv]
  have hheld : heldOf v = heldOf s := by rw [hv, heldOf_markEntries, hu, heldOf_sawWords]
  simp only [heldOf, Prod.mk.injEq] at hheld
  obtain ⟨hflocks, hdies, hcores⟩ := hheld
  have hin := installTlb_installed core held r.upper v hp
  rw [← ht] at hin
  have hu' : u.mem = s.mem := sawWords_mem ..
  have hcanon : u.Canonical := by rw [State.Canonical, hu']; exact hs
  have hflock : flockAt s (flockOf core) = flockAt v (flockOf core) := by rw [flockAt, flockAt, hflocks]
  have hdie : dieAt s (dieOf core) = dieAt v (dieOf core) := by rw [dieAt, dieAt, hdies]
  refine ⟨?_, hflock ▸ hin.inFlock, hdie ▸ hin.inDie, fun a => ?_⟩
  · rw [← congrFun hcores core]
    exact hin.inCore
  · rw [hin.mem, hv, memRead_markEntries hcanon, hu']

/-- The state that a walk with its translation leaves, its slot ready. -/
theorem walkComplete_installs (hs : s.Canonical) {reader : Reader} {r : Walked} {dirty : Bool} {held : TlbEntry}
    (hp : held.permitsSome = true) :
    let die := dieOf core
    let t := after (modSlot core slot fun v => { v with wait := .none })
      (after (doAll [sawWords reader r.reads, markEntries die (r.needs dirty), installTlb core held r.upper]) s)
    slotAt t core slot = { slotAt s core slot with wait := .none } ∧ SameSlots s t core slot ∧
      (coreAt t core).tlb.head? = some held ∧ (flockAt t (flockOf core)).tlb.head? = some held ∧
      (dieAt t die).tlb.head? = some held ∧
      (∀ x ∈ (dieAt t die).tlb.tail, x ∈ (dieAt s die).tlb ∧ held.overlaps x = false) ∧
      (coreAt t core).tlb.length ≤ 64 ∧ (flockAt t (flockOf core)).tlb.length ≤ 2048 ∧ (dieAt t die).tlb.length ≤ 16384 ∧
      ∀ a, memRead t.mem a = memRead s.mem a ||| markBits a (r.needs dirty) := by
  intro die t
  obtain ⟨hcore, hflock, hdie, hmem⟩ := walkMarks_leave (core := core) hs r reader dirty hp
  have honly : OnlyWalks (doAll [sawWords reader r.reads, markEntries die (r.needs dirty), installTlb core held r.upper]) :=
    .andThen (sawWords_onlyWalks ..) (.andThen (markEntries_onlyWalks ..) (.andThen (installTlb_onlyWalks ..) .skip))
  obtain ⟨hslots, -⟩ := honly.keeps s
  set u := after (doAll [sawWords reader r.reads, markEntries die (r.needs dirty), installTlb core held r.upper]) s with hu
  have hslot : slotAt u core slot = slotAt s core slot := by rw [slotAt, hslots]; rfl
  have htcore : coreAt t core = coreAt u core := rfl
  have htflock : flockAt t (flockOf core) = flockAt u (flockOf core) := rfl
  have htdie : dieAt t die = dieAt u die := rfl
  rw [htcore, htflock, htdie, hcore, hflock, hdie]
  refine ⟨?_, fun k hk => ?_, putTlb_head (by decide) .., putTlb_head (by decide) .., putTlb_head (by decide) ..,
    fun x hx => mem_putTlb_tail hx, putTlb_length .., putTlb_length .., putTlb_length .., hmem⟩
  · exact (slotAt_slot_same u core slot _).trans (by rw [hslot])
  · exact (lookup_assign_other _ _ _ hk).trans (by rw [hslots])

/-- The byte at an address after the marks of a walk: A and D set where an entry is due both, A where one is due A alone. -/
theorem markBits_needs (w : Walked) (dirty : Bool) (a : Nat) :
    ((∃ e, Due w dirty e true ∧ e.addr = a) → markBits a (w.needs dirty) = 0x60) ∧
    ((∀ e, Due w dirty e true → e.addr ≠ a) → (∃ e, Due w dirty e false ∧ e.addr = a) →
      markBits a (w.needs dirty) = 0x20) ∧
    ((∀ e d, Due w dirty e d → e.addr ≠ a) → markBits a (w.needs dirty) = 0) := by
  refine ⟨fun ⟨e, he, ha⟩ => ?_, fun hd ⟨e, he, ha⟩ => ?_, fun hn => ?_⟩
  · exact markBits_dirty ⟨e, (mem_needs_iff ..).mpr ⟨he, .inl rfl⟩, ha⟩
  · exact markBits_clean (fun x hx => hd x ((mem_needs_iff ..).mp hx).1)
      ⟨e, (mem_needs_iff ..).mpr ⟨he, .inr fun ht => hd e ht ha⟩, ha⟩
  · exact markBits_none fun x hx => hn x.1 x.2 ((mem_needs_iff ..).mp hx).1

theorem overlaps_eq_false_iff (t x : TlbEntry) :
    t.overlaps x = false ↔ ¬(x.ctx = t.ctx ∧ x.va < t.va + t.size ∧ t.va < x.va + x.size) := by
  simp [TlbEntry.overlaps]

/-- A fetch's fault is raised at the slot's pc (R33). -/
theorem after_fetchFault (core slot c : Nat) (s : State) : after (fetchFault core slot c) s =
    after (raiseAt core slot (slotAt s core slot).regs.pc { cause := c, value := (slotAt s core slot).regs.pc, write := false }
      (killSelf core slot)) s := by
  rw [fetchFault, after_ask]
  rfl

/-- PAGE_WALK_COMPLETE (R341, R344, R345, R348). -/
theorem pageWalkCompletes (hup : coreUp s core = true) (hslot : slot < 16) (hs : s.Canonical) {va report : Word} {k : Access}
    {going : Bool} (hw : (slotAt s core slot).wait = .walk va k report going) :
    let sl := slotAt s core slot
    let die := dieOf core
    let ready := { sl with wait := .none }
    let event := exec (.pageWalkComplete core slot) s
    let walk := walkTables s (slotWalker s core slot) va.toNat
    let dirty := setsDirty k
    let works := going = true ∨ walkRoom s die sl.ctx va.toNat 64 = true
    (¬works → event = .next s) ∧
    (∀ tgt, works → Machine.translate s core sl.ctx sl.mode va.toNat k = .ok tgt → event = .next (putSlot s core slot ready)) ∧
    (works → (∀ tgt, Machine.translate s core sl.ctx sl.mode va.toNat k ≠ .ok tgt) →
      (∀ w, walk = .ok w → refusal s w.entry sl.mode k va.toNat = none →
        ((∃ e d, Due w dirty e d ∧ e.stale s = true) →
          event = .next (putSlot s core slot { sl with wait := .walk va k report true })) ∧
        ((∀ e d, Due w dirty e d → ¬e.stale s = true) →
          let held := Walked.seen w dirty
          ∃ t, event = .next t ∧ slotAt t core slot = ready ∧ SameSlots s t core slot ∧
            (coreAt t core).tlb.head? = some held ∧ (flockAt t (flockOf core)).tlb.head? = some held ∧
            (dieAt t die).tlb.head? = some held ∧
            (∀ x ∈ (dieAt t die).tlb.tail, x ∈ (dieAt s die).tlb ∧
              ¬(x.ctx = w.entry.ctx ∧ x.va < w.entry.va + w.entry.size ∧ w.entry.va < x.va + x.size)) ∧
            (coreAt t core).tlb.length ≤ 64 ∧ (flockAt t (flockOf core)).tlb.length ≤ 2048 ∧
            (dieAt t die).tlb.length ≤ 16384 ∧
            ∀ a, ((∃ e, Due w dirty e true ∧ e.addr = a) → memRead t.mem a = memRead s.mem a ||| 0x60) ∧
              ((∀ e, Due w dirty e true → e.addr ≠ a) → (∃ e, Due w dirty e false ∧ e.addr = a) →
                memRead t.mem a = memRead s.mem a ||| 0x20) ∧
              ((∀ e d, Due w dirty e d → e.addr ≠ a) → memRead t.mem a = memRead s.mem a))) ∧
      (walk = .error 0 → event = .next (putSlot s core slot { sl with wait := .walk va k report true })) ∧
      (∀ c, c ≠ 0 → walk = .error c ∨ (∃ w, walk = .ok w ∧ refusal s w.entry sl.mode k va.toNat = some c) →
        sl.fmtPending = false →
        (k ≠ .fetch → event = .next (after (raiseC core slot { cause := c, value := report, write := dirty }) s)) ∧
        (k = .fetch → event = .next (after (raiseAt core slot sl.regs.pc
          { cause := c, value := sl.regs.pc, write := false } (killSelf core slot)) s)))) := by
  intro sl die ready event walk dirty works
  refine ⟨walkComplete_noRoom hup hslot hw, fun tgt hg ht => walkComplete_held hup hslot hw hg ht, fun hg ht =>
    ⟨fun w hwalk hn => ⟨fun hstale => ?stale, fun hfresh => ?ends⟩, fun he => ?again, fun c hc hfail hfmt => ?fails⟩⟩
  case stale =>
    exact walkComplete_again hup hslot hw hg ht (finishWalk_stale hwalk hn ((needs_stale_iff w dirty _).mpr hstale))
  case again => exact walkComplete_again hup hslot hw hg ht (finishWalk_error he)
  case ends =>
    have hnot : ¬(w.needs (setsDirty k)).any (fun x => x.1.stale s) = true := by
      rw [needs_stale_iff]
      rintro ⟨e, d, hd, hst⟩
      exact hfresh e d hd hst
    obtain ⟨hready, hslots, hcore, hflock, hdie, htail, hlc, hlf, hld, hmem⟩ :=
      walkComplete_installs (core := core) (slot := slot) hs (reader := (slotWalker s core slot).reader) (r := w)
        (dirty := dirty) (held := Walked.seen w dirty) (permitsSome_of_not_refused (t := w.entry) hn)
    refine ⟨_, walkComplete_found hup hslot hw hg ht (finishWalk_ok hwalk hn hnot), hready, hslots, hcore, hflock, hdie,
      fun x hx => ?_, hlc, hlf, hld, fun a => ?_⟩
    · obtain ⟨hin, hover⟩ := htail x hx
      exact ⟨hin, (overlaps_eq_false_iff _ x).mp hover⟩
    · obtain ⟨hboth, hone, hnone⟩ := markBits_needs w dirty a
      exact ⟨fun h => (hmem a).trans (by rw [hboth h]), fun hd h => (hmem a).trans (by rw [hone hd h]),
        fun h => (hmem a).trans (by rw [hnone h]; exact BitVec.or_zero)⟩
  case fails =>
    have hf : finishWalk s core (slotWalker s core slot) sl.mode va.toNat k = .error c := by
      rcases hfail with h | ⟨w, h, hr⟩
      · exact finishWalk_error h
      · exact finishWalk_refused h hr
    have hevent : event = _ := walkComplete_fails hup hslot hw hg ht hc hfmt hf
    refine ⟨fun hk => by rw [hevent, if_neg hk], fun hk => ?_⟩
    rw [hevent, if_pos hk, after_fetchFault]

/-! ## Instruction fetches (R79, R149) -/

theorem exec_ifetchFill (core slot : Nat) (s : State) : exec (.ifetchFill core slot) s = execIfetchFill core slot s := rfl

/-- An access whose way out is open is paid for (R333, R334). -/
theorem payOut_of_wayOut {core ctx : Nat} {t : Target} (h : WayOut s core ctx t) (write : Bool) :
    ∃ f, payOut s core ctx t write = some f := by
  rcases h with h | h
  · exact ⟨_, if_pos h⟩
  · have hnow : ∃ g, payNow s (flockOf core) ctx (lineOf (keyOf t)) = some g := ⟨_, if_pos h⟩
    obtain ⟨g, hg⟩ := hnow
    simp only [payOut, hg]
    split <;> exact ⟨_, rfl⟩

/-- A translation that is held serves a fetch once A has been seen. -/
theorem translate_fetch {ctx va : Nat} {m : Mode} {t : TlbEntry} (hpt : (ctxAt s ctx).ptbase ≠ 0)
    (ht : tlbFind s core ctx va = some t) (hn : refusal s t m .fetch va = none) (ha : t.aSeen = true) :
    Machine.translate s core ctx m va .fetch = .ok (.phys (t.phys va) t.dev) := by
  rw [translate_of_allowed hpt ht hn, ha]
  rfl

/-- It serves a fetch in U mode exactly when it refuses none there. -/
theorem translate_fetch_iff {ctx va : Nat} {m : Mode} {t : TlbEntry} (hpt : (ctxAt s ctx).ptbase ≠ 0)
    (ht : tlbFind s core ctx va = some t) (ha : t.aSeen = true) :
    (Machine.translate s core ctx m va .fetch == .ok (.phys (t.phys va) t.dev)) = true ↔ refusal s t m .fetch va = none := by
  rw [beq_iff_eq]
  cases hr : refusal s t m .fetch va with
  | none => simp [translate_fetch hpt ht hr ha]
  | some c => simp [translate_of_refused hpt ht hr]

section
variable (hup : coreUp s core = true) (hslot : slot < 16) (hw : (slotAt s core slot).wait = .fetch)
include hup hslot hw

theorem fetch_misses (hm : Machine.translate s core (slotAt s core slot).ctx (slotAt s core slot).mode
      (fetchUnit (slotAt s core slot).regs.pc.toNat) .fetch = .miss (fetchUnit (slotAt s core slot).regs.pc.toNat)) :
    let sl := slotAt s core slot
    let va := fetchUnit sl.regs.pc.toNat
    exec (.ifetchFill core slot) s = .next (putSlot s core slot { sl with
      wait := .walk (word va) .fetch sl.regs.pc (walkRoom s (dieOf core) sl.ctx (word va).toNat 64) }) := by
  rw [exec_ifetchFill, execIfetchFill, slotStep_up _ hup hslot, after_ask]
  simp only [hw, hm, after_modSlot]
  rfl

variable {t : Target} (ht : Machine.translate s core (slotAt s core slot).ctx (slotAt s core slot).mode
  (fetchUnit (slotAt s core slot).regs.pc.toNat) .fetch = .ok t)
include ht

theorem fetch_poisoned (hp : poisonedIn s (keyOf t) 8 = true ∨ unreachable s t = true) :
    exec (.ifetchFill core slot) s = .next (after (fetchFault core slot 0x0A) s) := by
  rw [exec_ifetchFill, execIfetchFill, slotStep_up _ hup hslot, after_ask]
  simp only [hw, ht]
  rw [if_pos (by simpa using hp)]

theorem fetch_fills (hp : poisonedIn s (keyOf t) 8 = false) (hr : unreachable s t = false) {pay : Micro}
    (hpay : payOut s core (slotAt s core slot).ctx t false = some pay) :
    exec (.ifetchFill core slot) s = .next (after (doAll [pay,
      holdUnit core (codeUnit s core slot (fetchUnit (slotAt s core slot).regs.pc.toNat) t),
      modSlot core slot (fun x => { x with wait := .none })]) s) := by
  rw [exec_ifetchFill, execIfetchFill, slotStep_up _ hup hslot, after_ask]
  simp only [hw, ht, hp, hr, hpay, Bool.or_self, Bool.false_eq_true, if_false]

end

/-- What a filled unit leaves: the slot ready, memory as before, and the unit at the head of the core's cache. -/
theorem fetchFilled {pay : Micro} (hpay : ∀ u, ButForFlocks (after pay u) u) (c : CodeUnit) :
    let u := after (doAll [pay, holdUnit core c, modSlot core slot (fun x => { x with wait := .none })]) s
    slotAt u core slot = { slotAt s core slot with wait := .none } ∧ SameSlots s u core slot ∧ SameMemory s u ∧
      (coreAt u core).code.length ≤ 4096 ∧ (coreAt u core).code.head? = some c := by
  intro u
  have hu : u = after (modSlot core slot (fun x => { x with wait := .none })) (after (holdUnit core c) (after pay s)) := by
    simp only [u, after_doAll_cons, after_doAll_nil]
  have hrest := (hpay s).eq
  set p := after pay s
  have hslots : p.slots = s.slots := by rw [hrest]
  have hmem : p.mem = s.mem := by rw [hrest]
  have hpoison : p.poison = s.poison := by rw [hrest]
  have hcode : (coreAt u core).code =
      (c :: (coreAt p core).code.filter (fun x => !(x.ctx == c.ctx && x.va == c.va))).take codeSize := by
    rw [hu, holdUnit, after_modCore, after_modSlot, coreAt_slot, coreAt_core_same]
  have hslot : slotAt (after (holdUnit core c) p) core slot = slotAt s core slot := by
    rw [slotAt, slotAt, ← hslots]
    rfl
  refine ⟨?_, fun k hk => ?_, ⟨by rw [hu]; exact hpoison, fun a => by rw [hu, ← hmem]; rfl⟩, ?_, ?_⟩
  · rw [hu, after_modSlot, slotAt_slot_same, hslot]
  · rw [← hslots, hu, after_modSlot, applyUpd_slot_slots, lookup_assign_other _ _ _ hk]
    rfl
  · rw [hcode]
    exact List.length_take_le ..
  · rw [hcode]
    rfl

/-- IFETCH_FILL (R79, R149). -/
theorem ifetchFills (hup : coreUp s core = true) (hslot : slot < 16) (hw : (slotAt s core slot).wait = .fetch)
    (hpt : (ctxAt s (slotAt s core slot).ctx).ptbase ≠ 0) :
    let sl := slotAt s core slot
    let die := dieOf core
    let va := fetchUnit sl.regs.pc.toNat
    let event := exec (.ifetchFill core slot) s
    (∀ t, tlbFind s core sl.ctx va = some t → refusal s t sl.mode .fetch va = none → t.aSeen = true →
      let pa := t.pa + va % t.size
      let tgt := Target.phys pa t.dev
      let bs := viewBytes s (codeReader s core slot) die pa 8 0
      (poisonedIn s pa 8 = false → unreachable s tgt = false → WayOut s core sl.ctx tgt →
        ∃ u, event = .next u ∧ slotAt u core slot = { sl with wait := .none } ∧ SameSlots s u core slot ∧ SameMemory s u ∧
          (coreAt u core).code.length ≤ 4096 ∧
          ∃ c, (coreAt u core).code.head? = some c ∧ c.ctx = sl.ctx ∧ c.va = va ∧
            c.word0 = BitVec.ofNat 32 (leNat (bs.take 4)) ∧ c.word1 = BitVec.ofNat 32 (leNat (bs.drop 4)) ∧
            (c.user = true ↔ refusal s t .user .fetch va = none)) ∧
      (poisonedIn s pa 8 = true ∨ unreachable s tgt = true → event = .next (after (raiseAt core slot sl.regs.pc
        { cause := 0x0A, value := sl.regs.pc, write := false } (killSelf core slot)) s))) ∧
    (tlbFind s core sl.ctx va = none → event = .next (putSlot s core slot { sl with
      wait := .walk (word va) .fetch sl.regs.pc (walkRoom s die sl.ctx (word va).toNat 64) })) := by
  intro sl die va event
  refine ⟨fun t ht hn ha => ?held, fun hnone => fetch_misses hup hslot hw ?_⟩
  case held =>
    intro pa tgt bs
    have htr : Machine.translate s core sl.ctx sl.mode va .fetch = .ok tgt := translate_fetch hpt ht hn ha
    refine ⟨fun hp hr hway => ?_, fun hbad => ?_⟩
    · obtain ⟨pay, hpay⟩ := payOut_of_wayOut hway false
      obtain ⟨hready, hslots, hmem, hlen, hhead⟩ := fetchFilled (s := s) (core := core) (slot := slot)
        (payOut_butForFlocks hpay) (codeUnit s core slot va tgt)
      exact ⟨_, fetch_fills hup hslot hw htr hp hr hpay, hready, hslots, hmem, hlen, _, hhead, rfl, rfl, rfl, rfl,
        translate_fetch_iff hpt ht ha⟩
    · exact (fetch_poisoned hup hslot hw htr hbad).trans (by rw [after_fetchFault])
  · rw [Machine.translate, if_neg hpt, show tlbFind s core sl.ctx va = none from hnone]

/-- Settles the part of O43 about the steps that end walks and fetches. -/
theorem walksAndFetchesEnd : WalksAndFetchesEnd := by
  intro s core slot hup hslot hs sl die ready
  refine ⟨fun va k report going hw => ?walk, fun hw hpt => ifetchFills hup hslot hw hpt⟩
  case walk =>
    intro event walk dirty lacks due stale works
    have hdirty : dirty = setsDirty k := (setsDirty_eq k).symm
    have hlacks : ∀ e d, lacks e d ↔ e.lacks d = true := fun e d => (Pte.lacks_iff e d).symm
    have hdue : ∀ w e d, due w e d ↔ Due w (setsDirty k) e d := fun w e d => by
      simp only [due, Due, hlacks, hdirty]
    have hstale : ∀ e, stale e ↔ e.stale s = true := fun e => (Pte.stale_iff s e).symm
    have h := pageWalkCompletes hup hslot hs hw
    simp only [Walked.seen] at h
    simp only [hdue, hstale, hdirty]
    exact h

/-! ## The tables (R338, R339, R341, R345, R347) -/

/-- The entry that a die holds for a step is the one of the walker's context, its stage and its index. -/
theorem upperFind_eq (s : State) (w : Walker) (second : Bool) (step va : Nat) :
    upperFind s w second step va = ((dieAt s w.die).upper.find? (fun x => decide
      (x.ctx = w.ctx ∧ x.second = second ∧ x.step = step ∧ x.index = va / 2 ^ (48 - 9 * step)))).map
        (fun u => { addr := u.addr, bits := u.bits }) := by
  unfold upperFind upperIndex
  have htest : (fun x : UpperEntry => x.ctx == w.ctx && x.second == second && x.step == step &&
      x.index == va / 2 ^ (48 - 9 * step)) = fun x => decide
        (x.ctx = w.ctx ∧ x.second = second ∧ x.step = step ∧ x.index = va / 2 ^ (48 - 9 * step)) := by
    funext x
    simp only [Bool.decide_and, Bool.beq_eq_decide_eq, Bool.and_assoc]
  rw [htest]

theorem stepEntry_held {w : Walker} {second : Bool} {va step a : Nat} {rd : Nat → Except Nat Pte} {e : Pte}
    (h : upperFind s w second step va = some e) : stepEntry s w second va rd step a = .ok e := by
  simp only [stepEntry, h]

theorem stepEntry_read {w : Walker} {second : Bool} {va step a : Nat} {rd : Nat → Except Nat Pte}
    (h : upperFind s w second step va = none) : stepEntry s w second va rd step a = rd a := by
  simp only [stepEntry, h]

/-- An entry is read where the tables may lie, its line is sound, and no buffered store of the walker's touches it. -/
theorem readPte_eq (s : State) (w : Walker) (pa : Nat) : readPte s w pa =
    if 0x00C000000000 ≤ pa then .error 0x08
    else if poisonedIn s pa 8 = true then .error 0x0A
    else if w.sb.any (fun e => e.touches pa 8) = true then .error 0
    else .ok { addr := pa, bits := leNat (viewBytes s w.reader w.die pa 8 pa) } := by
  have hin : (!inSilo pa) = true ↔ 0x00C000000000 ≤ pa := by
    rw [inSilo, siloEnd, Bool.not_eq_true', decide_eq_false_iff_not, Nat.not_lt]
  simp only [readPte, hin]

section
variable {rd : Nat → Nat → Except Nat Pte} {va fuel step table : Nat} {path : List (Nat × Pte)}

theorem walkFrom_error {c : Nat} (h : rd step (table + 8 * stepIndex va step) = .error c) :
    walkFrom rd va (fuel + 1) step table path = .error c := by
  simp only [walkFrom, h]

theorem walkFrom_entry {e : Pte} (h : rd step (table + 8 * stepIndex va step) = .ok e) :
    walkFrom rd va (fuel + 1) step table path =
      if e.v = false then .error 0x07
      else if e.malformed step = true then .error 0x08
      else if e.pointer = true then walkFrom rd va fuel (step + 1) e.frame (path ++ [(step, e)])
      else .ok { step := step, pte := e, path := path } := by
  simp only [walkFrom, h, Bool.not_eq_true']

end

theorem Pte.pointer_iff (e : Pte) : e.pointer = true ↔
    ¬e.bits / 2 ^ 1 % 2 = 1 ∧ ¬e.bits / 2 ^ 2 % 2 = 1 ∧ ¬e.bits / 2 ^ 3 % 2 = 1 := by
  simp only [Pte.pointer, Bool.and_eq_true, Bool.not_eq_true', ← Bool.not_eq_true, Pte.has_iff, and_assoc]

theorem Pte.v_iff (e : Pte) : e.v = true ↔ e.bits / 2 ^ 0 % 2 = 1 := Pte.has_iff e 0

/-- A bit of [63:61] makes an entry malformed (R341). -/
theorem malformed_of_reserved {e : Pte} {step k : Nat} (hk : 61 ≤ k) (hb : e.bits / 2 ^ k % 2 = 1) :
    e.malformed step = true := by
  have hne : e.bits / 2 ^ 61 ≠ 0 := by
    intro h0
    rw [Nat.div_eq_zero_iff] at h0
    have hlt : e.bits < 2 ^ k := (h0.resolve_left (by norm_num)).trans_le (Nat.pow_le_pow_right (by norm_num) hk)
    rw [Nat.div_eq_of_lt hlt] at hb
    cases hb
  rw [Pte.malformed, decide_eq_true hne, Bool.true_or]

/-- A leaf of the first two steps, or one whose frame is not aligned to what it maps, is malformed (R338, R341). -/
theorem malformed_of_misplaced {e : Pte} {step : Nat} (hleaf : e.pointer = false) (hstep : step < 4)
    (h : step < 2 ∨ e.frame % 2 ^ (48 - 9 * step) ≠ 0) : e.malformed step = true := by
  have hbad : step < 2 ∨ e.frame % stepSize step ≠ 0 := by
    rcases Nat.lt_or_ge step 2 with h2 | h2
    · exact .inl h2
    · have hsize : stepSize step = 2 ^ (48 - 9 * step) := by interval_cases step <;> rfl
      exact .inr (hsize ▸ h.resolve_left (by omega))
  rcases hbad with h | h <;> simp [Pte.malformed, hleaf, h]

/-- A leaf that is written and not read is malformed (R341). -/
theorem malformed_of_writeOnly {e : Pte} {step : Nat} (hw : e.has 2 = true) (hr : e.has 1 = false) :
    e.malformed step = true := by
  simp [Pte.malformed, Pte.pointer, hw, hr]

/-- Settles the part of O43 about the entries that a walk reads. -/
theorem tableWalk : TableWalk := by
  refine ⟨fun s w second rd va => rfl, fun s w second va step a u rd => ?held, fun s w va step fuel table path e => ?walk⟩
  case held =>
    intro mine
    refine ⟨fun h => stepEntry_held ?_, fun h => stepEntry_read ?_⟩
    · rw [upperFind_eq]
      exact congrArg (Option.map _) h
    · rw [upperFind_eq, Option.map_eq_none_iff, List.find?_eq_none]
      exact fun x hx => by rw [decide_eq_true_iff]; exact h x hx
  case walk =>
    intro at_ rd walk he bit frame
    have hread : rd step (table + 8 * stepIndex va step) = readPte s w at_ := rfl
    have hok : at_ < 0x00C000000000 → poisonedIn s at_ 8 = false → w.sb.any (fun x => x.touches at_ 8) = false →
        rd step (table + 8 * stepIndex va step) = .ok e := by
      intro hlt hp ht
      rw [hread, readPte_eq, if_neg hlt.not_ge, hp, ht, he]
      rfl
    have hframe : e.frame = frame := rfl
    refine ⟨fun h => walkFrom_error ?_, fun hlt hp => walkFrom_error ?_, fun hlt hp ht => walkFrom_error ?_,
      fun hlt hp ht => ⟨fun hv => ?_, fun hv hm => ?_, fun hv hm h1 h2 h3 => ?_, fun hv hm hleaf => ?_⟩,
      fun _ ⟨k, hk, _, hb⟩ => malformed_of_reserved hk hb, fun _ hstep hleaf h => ?_, fun _ h2 h1 => ?_⟩
    · rw [hread, readPte_eq, if_pos h]
    · rw [hread, readPte_eq, if_neg hlt.not_ge, if_pos hp]
    · rw [hread, readPte_eq, if_neg hlt.not_ge, hp, if_neg Bool.false_ne_true, if_pos ht]
    · have hv' : e.v = false := by rw [← Bool.not_eq_true, Pte.v_iff]; exact hv
      exact (walkFrom_entry (hok hlt hp ht)).trans (if_pos hv')
    · have hv' : e.v = true := (Pte.v_iff e).mpr hv
      exact (walkFrom_entry (hok hlt hp ht)).trans (by rw [hv', hm]; rfl)
    · have hv' : e.v = true := (Pte.v_iff e).mpr hv
      have hptr : e.pointer = true := (Pte.pointer_iff e).mpr ⟨h1, h2, h3⟩
      exact (walkFrom_entry (hok hlt hp ht)).trans (by rw [hv', hm, hptr, hframe]; rfl)
    · have hv' : e.v = true := (Pte.v_iff e).mpr hv
      have hptr : e.pointer = false := by
        rw [← Bool.not_eq_true, Pte.pointer_iff]
        exact fun ⟨h1, h2, h3⟩ => hleaf.elim h1 (fun h => h.elim h2 h3)
      exact (walkFrom_entry (hok hlt hp ht)).trans (by rw [hv', hm, hptr]; rfl)
    · have hptr : e.pointer = false := by
        rw [← Bool.not_eq_true, Pte.pointer_iff]
        exact fun ⟨h1, h2, h3⟩ => hleaf.elim h1 (fun h => h.elim h2 h3)
      exact malformed_of_misplaced hptr hstep h
    · exact malformed_of_writeOnly ((Pte.has_iff e 2).mpr h2) (by rw [← Bool.not_eq_true, Pte.has_iff]; exact h1)

/-- Settles O43: the steps that end walks and fetches by what each comes to, and the walk by its next entry. -/
theorem walksAndFetches : Obligations.WalksAndFetches := ⟨walksAndFetchesEnd, tableWalk⟩

end Sys2Proof.Proofs

/-! PROOF. What reading and writing memory leaves alone: slots, jobs, requests and rings. -/

namespace Sys2Proof.Proofs

open Sys2Proof.Machine

/-- Two states with the same slots, jobs and requests on their way, the same contexts resident on each core with the same rings, and
the same bundle being issued. -/
structure Beside (u t : State) : Prop where
  slots     : t.slots = u.slots
  issuing   : t.issuing = u.issuing
  jobs      : t.jobs = u.jobs
  reqs      : t.reqs = u.reqs
  residents : ∀ c, (coreAt t c).residents = (coreAt u c).residents

theorem Beside.refl (u : State) : Beside u u := ⟨rfl, rfl, rfl, rfl, fun _ => rfl⟩

theorem Beside.trans {u t v : State} (h : Beside u t) (g : Beside t v) : Beside u v :=
  ⟨g.slots.trans h.slots, g.issuing.trans h.issuing, g.jobs.trans h.jobs, g.reqs.trans h.reqs,
    fun c => (g.residents c).trans (h.residents c)⟩

theorem Beside.slotAt {u t : State} (h : Beside u t) (core slot : Nat) : slotAt t core slot = slotAt u core slot := by
  rw [Machine.slotAt, h.slots]; rfl

theorem Beside.jobAt {u t : State} (h : Beside u t) (order : Nat) : jobAt t order = jobAt u order := by
  rw [Machine.jobAt, h.jobs]; rfl

theorem Beside.residentOf {u t : State} (h : Beside u t) (core ctx : Nat) :
    residentOf (coreAt t core) ctx = residentOf (coreAt u core) ctx := by
  rw [Machine.residentOf, h.residents]; rfl

theorem Beside.ringAt {u t : State} (h : Beside u t) (core ctx n : Nat) : ringAt t core ctx n = ringAt u core ctx n := by
  rw [Machine.ringAt, h.residentOf]; rfl

/-- Where only the flocks differ. -/
theorem beside_of_butForFlocks {u t : State} (h : ButForFlocks t u) : Beside u t := by
  have := h.eq
  rw [this]
  exact ⟨rfl, rfl, rfl, rfl, fun _ => rfl⟩

/-- A piece that leaves slots, jobs, requests and rings alone. -/
structure Quiet (f : Micro) : Prop where
  beside : ∀ u, Beside u (after f u)

namespace Quiet

theorem skip : Quiet skip := ⟨fun u => .refl u⟩

theorem andThen {f g : Micro} (hf : Quiet f) (hg : Quiet g) : Quiet (andThen f g) :=
  ⟨fun u => by rw [after_andThen]; exact (hf.beside u).trans (hg.beside _)⟩

theorem ask {k : State → Micro} (h : ∀ v, Quiet (k v)) : Quiet (ask k) := ⟨fun u => (h u).beside u⟩

theorem onlyIf {f : Micro} (h : Quiet f) (c : Bool) : Quiet (onlyIf c f) := by
  cases c
  · exact skip
  · exact h

theorem forAll {α : Type} {f : α → Micro} (h : ∀ x, Quiet (f x)) (l : List α) : Quiet (forAll l f) :=
  ⟨fun u => by
    induction l generalizing u with
    | nil => exact .refl u
    | cons x l ih => rw [after_forAll_cons]; exact ((h x).beside u).trans (ih _)⟩

theorem modCore (core : Nat) {f : Core → Core} (h : ∀ c, (f c).residents = c.residents) : Quiet (modCore core f) :=
  ⟨fun u => ⟨rfl, rfl, rfl, rfl, fun c => by
    rw [after_modCore]
    by_cases hc : c = core
    · subst hc; simp [h]
    · rw [coreAt_core_other u _ hc]⟩⟩

theorem modCtx (k : Nat) (f : Ctx → Ctx) : Quiet (modCtx k f) := ⟨fun _ => ⟨rfl, rfl, rfl, rfl, fun _ => rfl⟩⟩
theorem modFlock (k : Nat) (f : Flock → Flock) : Quiet (modFlock k f) := ⟨fun _ => ⟨rfl, rfl, rfl, rfl, fun _ => rfl⟩⟩
theorem modPkg (f : Pkg → Pkg) : Quiet (modPkg f) := ⟨fun _ => ⟨rfl, rfl, rfl, rfl, fun _ => rfl⟩⟩
theorem modKnows (party : Nat) (f : Knows → Knows) : Quiet (modKnows party f) := ⟨fun _ => ⟨rfl, rfl, rfl, rfl, fun _ => rfl⟩⟩
theorem bump : Quiet bump := ⟨fun _ => ⟨rfl, rfl, rfl, rfl, fun _ => rfl⟩⟩
theorem postRecord (r : Record) : Quiet (postRecord r) := ⟨fun _ => ⟨rfl, rfl, rfl, rfl, fun _ => rfl⟩⟩
theorem putBytes (a : Nat) (bs : List Byte) : Quiet (putBytes a bs) := ⟨fun _ => ⟨rfl, rfl, rfl, rfl, fun _ => rfl⟩⟩
theorem noteWrite (w : Writer) (key : Nat) (was : List Byte) : Quiet (noteWrite w key was) :=
  ⟨fun _ => ⟨rfl, rfl, rfl, rfl, fun _ => rfl⟩⟩

/-! ## Reads -/

theorem sawFound (core slot loc n : Nat) (f : Found) : Quiet (sawFound core slot loc n f) :=
  .andThen (.ask fun _ => .modKnows ..) (.forAll (fun _ => .ask fun _ => .modKnows ..) _)

theorem useSlice (ctx va : Nat) : Quiet (useSlice ctx va) := .ask fun _ => .onlyIf (.andThen (.modCtx ..) .bump) _

theorem readBy (core slot : Nat) (addr : Word) (t : Target) (n : Nat) (f : Found) : Quiet (readBy core slot addr t n f) :=
  .ask fun _ => .andThen (.sawFound ..) (.useSlice ..)

theorem saw (w : Party) (addr : Word) (t : Target) (n : Nat) (f : Found) : Quiet (w.saw addr t n f) := by
  unfold Party.saw
  split
  · exact .readBy ..
  · exact .useSlice ..

/-! ## Writes -/

theorem touchAll (key n : Nat) : Quiet (touchAll key n) := by
  unfold Machine.touchAll touchWatches
  refine .ask fun _ => .forAll (fun _ => ?_) _
  exact .modCore _ fun _ => rfl

theorem countWrite (w : Writer) : Quiet (countWrite w) := .modKnows ..

theorem putPhys (pa : Nat) (bs : List Byte) : Quiet (putPhys pa bs) := by
  unfold Machine.putPhys
  split
  · split
    · exact .modPkg _
    · split
      · exact .skip
      · exact .putBytes ..
  · exact .putBytes ..

theorem performWrite {s : State} {ctx : Nat} {t : Target} {w : Writer} {bs : List Byte} {g : Micro}
    (h : performWrite s ctx t w bs = some g) : Quiet g := by
  unfold Machine.performWrite at h
  simp only at h
  split at h
  · split at h
    · cases h; exact .andThen (.noteWrite ..) (.putBytes ..)
    · cases h; exact .modCore _ fun _ => rfl
    · cases h
  · cases h; exact .putBytes ..
  · cases h; exact .andThen (.noteWrite ..) (.putPhys ..)

theorem lostEngineWrite (w : Party) (addr : Word) : Quiet (lostEngineWrite w addr) := by
  refine .ask fun s => ?_
  dsimp only
  split
  · split
    · exact .postRecord _
    · exact .skip
  · exact .postRecord _
  · exact .skip

end Quiet

/-! ## Reaching a location -/

theorem residents_of_butWalks {c d : Core} (h : c.butWalks = d.butWalks) : c.residents = d.residents :=
  (congrArg Core.residents h : )

theorem quiet_of_onlyWalks {f : Micro} (h : OnlyWalks f) : Quiet f :=
  ⟨fun u => by
    obtain ⟨hslots, hreqs, -, hjobs, hissuing, -⟩ := h.keeps u
    exact ⟨hslots, hissuing, hjobs, hreqs, fun c => residents_of_butWalks (h.core u c)⟩⟩

/-- Reaching a location for a party changes nothing but what a walk changes. -/
theorem reached_onlyWalks {s : State} {w : Party} {addr : Word} {k : Access} {t : Target} {f : Micro}
    (h : w.reach s addr k = .ok (t, f)) : OnlyWalks f := by
  unfold Party.reach at h
  split at h
  · split at h
    · cases h; exact .skip
    · cases h
    · exact translateNow_onlyWalks h
    · cases h
    · cases h
  · exact reach_onlyWalks h

/-- The way out of an access changes nothing here either. -/
theorem payOut_quiet {u : State} {core ctx : Nat} {t : Target} {write : Bool} {f : Micro}
    (h : payOut u core ctx t write = some f) : Quiet f :=
  ⟨fun s => beside_of_butForFlocks (payOut_butForFlocks h s)⟩

/-- Nor does that of a whole range. -/
theorem payRange_beside {s : State} {core ctx : Nat} {t : Target} {write : Bool} {n : Nat} {us : List Upd}
    (h : payRange core ctx t write n s = some us) : Beside s (applyAll s us) := by
  induction n generalizing us with
  | zero => cases h; exact .refl s
  | succ n ih =>
    simp only [payRange] at h
    split at h
    · cases h
    · rename_i vs hv
      split at h
      · obtain ⟨g, hg, rfl⟩ := Option.map_eq_some_iff.mp h
        rw [applyAll_append]
        exact (ih hv).trans ((payOut_quiet hg).beside _)
      · cases h; exact ih hv

end Sys2Proof.Proofs

/-! PROOF. Words that read a structure whole (R20, R180, R181): how they fail, and how they go on once it is read. -/

namespace Sys2Proof.Proofs

open Sys2Proof.Machine Sys2Proof.Certificates

variable {s : State} {core slot : Nat} {iss : Issue} {o : Option AOut}

/-- A slot issues its bundle on in a state with the same slots. -/
theorem issues_of_beside {u : State} (h : Issues s core slot iss o) (hb : Beside s u) : Issues u core slot iss o := by
  have hslot := hb.slotAt core slot
  exact { issuing := hb.issuing.trans h.issuing, bundle := by rw [hslot]; exact h.bundle
          idle := by rw [hslot]; exact h.idle, partner := by rw [hslot]; exact h.partner }

section Read

variable {addr : Word} {align n : Nat} {t : Target} {bs : List Byte} {us : List Upd}

/-- Reading a structure leaves slots, jobs and rings alone. -/
theorem beside_of_readsStruct (hr : ReadsStruct s core slot addr align n t bs us) : Beside s (applyAll s us) := by
  obtain ⟨f, pay, -, -, hpay, rfl⟩ := hr.found
  rw [applyAll_append]
  exact (payRange_beside hpay).trans ((Quiet.readBy ..).beside _)

/-! ## How a word goes on with what it has read -/

section Goes

variable {k : Nat → Nat → State → CRes} {g : List Byte → CRes}

/-- It faults. -/
theorem cWord_struct_fault (h : Issues s core slot iss o) (hr : ReadsStruct s core slot addr align n t bs us)
    (hk : k core slot s = withStruct core slot s addr align n g) {x : Trouble} (hg : g bs = .fault x) :
    Machine.cWord s k = .next (stepEnd (applyAll s us) (raiseC core slot x)) := by
  obtain ⟨pay, rfl, hw⟩ := withStruct_reads hr g
  rw [cWord_turn h (f := andThen pay (raiseC core slot x)) (by rw [hk, hw, hg]; rfl)]
  simp only [stepEnd, after_andThen]; rfl

/-- It waits and is issued again. -/
theorem cWord_struct_again (h : Issues s core slot iss o) (hr : ReadsStruct s core slot addr align n t bs us)
    (hk : k core slot s = withStruct core slot s addr align n g) {c : Cond} (hg : g bs = .again (.cond c) 0) :
    Machine.cWord s k = .next (retrying (applyAll s us) core slot c none) := by
  obtain ⟨pay, rfl, hw⟩ := withStruct_reads hr g
  rw [cWord_turn h (f := andThen pay (waitAgain core slot (.cond c) 0)) (by rw [hk, hw, hg]; rfl)]
  have := waitAgain_retrying (applyAll s (pay s)) core slot c 0
  simp only [stepEnd, stallOf, if_true] at this
  simp only [stepEnd, after_andThen, ← this]; rfl

/-- It acts. -/
theorem cWord_struct_act (h : Issues s core slot iss o) (hr : ReadsStruct s core slot addr align n t bs us)
    (hk : k core slot s = withStruct core slot s addr align n g) {f : Micro} (hg : g bs = .act f) :
    Machine.cWord s k = .next (stepEnd (applyAll s us) f) := by
  obtain ⟨pay, rfl, hw⟩ := withStruct_reads hr g
  rw [cWord_act h (f := andThen pay f) (by rw [hk, hw, hg]; rfl)]
  simp only [stepEnd, after_andThen]; rfl

end Goes

end Read

/-! ## How it fails before it has read it -/

/-- What becomes of a word that cannot read its structure. -/
theorem structFails_of_withStruct (h : Issues s core slot iss o) {i : Instr} {k : Nat → Nat → State → CRes}
    {g : List Byte → CRes} {addr : Word} {align n : Nat} (hi : exec i s = Machine.cWord s k)
    (hk : k core slot s = withStruct core slot s addr align n g) : StructFails s core slot i addr align n := by
  refine ⟨fun c hc => ?_, fun va hva => ?_, fun t ht => ⟨fun hb => ?_, fun hb hp => ?_⟩⟩
  · rw [hi, cWord_fault h (by rw [hk, withStruct, hc]; rfl)]; rfl
  · rw [hi, cWord_wait h.toIssuing h.goodA (by rw [hk, withStruct, hva]; rfl)]; rfl
  · rw [hi, cWord_again h.toIssuing h.goodA (c := .drained t n) (n := 0) (by rw [hk]; simp [withStruct, ht, onTarget, structWait, hb])]
    simp [stallOf]
  · rw [hi, cWord_fault h (t := Trouble.of 0x0A addr) (by rw [hk]; simp [withStruct, ht, onTarget, structWait, hb, hp])]; rfl

end Sys2Proof.Proofs

/-! PROOF. The words of the rings (R76, R77, R222, R230–R232). -/

namespace Sys2Proof.Proofs

open Sys2Proof.Machine Sys2Proof.Certificates

variable {s : State} {core slot : Nat} {iss : Issue} {o : Option AOut}

/-! ## Ring records -/

theorem ringCountOk_iff (n : Nat) : ringCountOk n = true ↔ ∃ k, k ≤ 6 ∧ n = 2 ^ k := by
  constructor
  · intro h
    simp only [ringCountOk, List.contains_eq_mem, List.mem_cons, List.not_mem_nil, or_false, decide_eq_true_eq] at h
    rcases h with h | h | h | h | h | h | h
    exacts [⟨0, by omega, h⟩, ⟨1, by omega, h⟩, ⟨2, by omega, h⟩, ⟨3, by omega, h⟩, ⟨4, by omega, h⟩, ⟨5, by omega, h⟩,
      ⟨6, by omega, h⟩]
  · rintro ⟨k, hk, rfl⟩
    interval_cases k <;> rfl

/-- The banks that a range touches are its offsets' banks. -/
theorem banksOwned_iff (c : Core) (part off n : Nat) (h0 : 0 < n) (h : off + n ≤ 0x40000) :
    banksOwned c part off n = true ↔ ∀ a, off ≤ a → a < off + n → bankPart c (a / 0x4000) = part := by
  simp only [banksOwned, List.all_eq_true, List.mem_range, Bool.or_eq_true, Bool.not_eq_true', beq_iff_eq, overlaps,
    Bool.and_eq_false_iff, decide_eq_false_iff_not]
  constructor
  · intro hall a hlo hhi
    exact (hall (a / 0x4000) (by omega)).resolve_left (by omega)
  · intro hall b hb
    by_cases ht : off < b * 0x4000 + 0x4000 ∧ b * 0x4000 < off + n
    · right
      have hbank := hall (max off (b * 0x4000)) (by omega) (by omega)
      rwa [show max off (b * 0x4000) / 0x4000 = b by omega] at hbank
    · left; omega

/-- A record that R76 accepts, and no other, gives its ring. -/
theorem ringOf_rules (c : Core) (part : Nat) (bs : List Byte) :
    let u := fun (off n : Nat) => leNat ((bs.drop off).take n)
    let good := u 0 4 % 256 = 0 ∧ u 4 4 % 256 = 0 ∧ 256 ≤ u 4 4 ∧ u 4 4 ≤ 0x10000 ∧
      (∃ k, k ≤ 6 ∧ u 8 2 = 2 ^ k) ∧ u 10 2 < 2 * u 8 2 ∧ u 12 2 < 2 * u 8 2 ∧ u 14 2 = 0 ∧
      u 0 4 + u 4 4 * u 8 2 ≤ 0x40000 ∧
      (∀ a, u 0 4 ≤ a → a < u 0 4 + u 4 4 * u 8 2 → bankPart c (a / 0x4000) = part)
    (good → ringOf c part bs = some
      { base := u 0 4, size := u 4 4, count := u 8 2, head := u 10 2, tail := u 12 2, marks := [] }) ∧
    (¬good → ringOf c part bs = none) := by
  intro u good
  have hgood : (fieldAt bs 0 4 % 256 = 0 ∧ fieldAt bs 4 4 % 256 = 0 ∧ 256 ≤ fieldAt bs 4 4 ∧ fieldAt bs 4 4 ≤ 0x10000 ∧
      ringCountOk (fieldAt bs 8 2) = true ∧ fieldAt bs 10 2 < 2 * fieldAt bs 8 2 ∧ fieldAt bs 12 2 < 2 * fieldAt bs 8 2 ∧
      fieldAt bs 0 4 + fieldAt bs 4 4 * fieldAt bs 8 2 ≤ 0x40000 ∧
      banksOwned c part (fieldAt bs 0 4) (fieldAt bs 4 4 * fieldAt bs 8 2) = true ∧ fieldAt bs 14 2 = 0) ↔ good := by
    constructor
    · rintro ⟨h1, h2, h3, h4, h5, h6, h7, h8, h9, h10⟩
      have h0 : 0 < fieldAt bs 4 4 * fieldAt bs 8 2 := Nat.mul_pos (by omega) (by omega)
      exact ⟨h1, h2, h3, h4, (ringCountOk_iff _).mp h5, h6, h7, h10, h8, (banksOwned_iff c part _ _ h0 h8).mp h9⟩
    · rintro ⟨h1, h2, h3, h4, h5, h6, h7, h10, h8, h9⟩
      have h0 : 0 < fieldAt bs 4 4 * fieldAt bs 8 2 :=
        Nat.mul_pos (Nat.lt_of_lt_of_le (by norm_num) h3) (Nat.pos_of_mul_pos_left (Nat.zero_lt_of_lt h6))
      exact ⟨h1, h2, h3, h4, (ringCountOk_iff _).mpr h5, h6, h7, h8, (banksOwned_iff c part _ _ h0 h8).mpr h9, h10⟩
  exact ⟨fun h => if_pos (hgood.mpr h), fun h => if_neg (fun hc => h (hgood.mp hc))⟩

/-! ## The words -/

/-- A bundle that ends with a ring replaced. -/
theorem setRing_finishPlain_ended (h : Issues s core slot iss o) (ctx n : Nat) (r : Ring) :
    stepEnd s (andThen (setRing core ctx n r) (finishPlain core slot)) =
      ended (withRing s core ctx n r) core slot o (slotAt s core slot) iss.after := by
  have hring : after (setRing core ctx n r) s = withRing s core ctx n r := rfl
  have hset : Issues (withRing s core ctx n r) core slot iss o :=
    { issuing := h.issuing, bundle := h.bundle, idle := h.idle, partner := h.partner }
  rw [stepEnd, after_andThen, hring]
  exact finishPlain_ended hset

theorem cWordValue_of_issues (h : Issues s core slot iss o) :
    cWordValue (slotAt s core slot) = iss.word0.zeroExtend 64 := by
  simp [cWordValue, h.bundle]

/-- A C word that is illegal raises 0x04 with itself as the value. -/
theorem fails_of_illegal (h : Issues s core slot iss o) {i : Instr} {k : Nat → Nat → State → CRes}
    (hi : exec i s = Machine.cWord s k) (hk : k core slot s = .illegal (slotAt s core slot) 0x04) :
    Fails s core slot i 0x04 (iss.word0.zeroExtend 64) := by
  unfold Fails
  rw [hi, cWord_fault h (t := Trouble.of 0x04 (cWordValue (slotAt s core slot))) hk, cWordValue_of_issues h]; rfl

theorem bitsNat_high_ne_zero (v : Word) : bitsNat v 63 16 ≠ 0 ↔ 2 ^ 16 ≤ v.toNat := by
  have := v.isLt
  simp only [bitsNat]; omega

theorem ringAt_past (s : State) (core ctx : Nat) {n : Nat} (h : 16 ≤ n) : ringAt s core ctx n = none := by
  simp only [ringAt, Option.bind_eq_none_iff]
  intro r _
  exact List.getD_eq_default _ _ (by simpa using h)

/-- RINGSET's meaning (R230). -/
theorem exec_ringset (a n : Fin 32) (s : State) : exec (.ringset a n) s = execRingset a n s := rfl

/-- RINGADV's meaning (R231). -/
theorem exec_ringadv (a n : Fin 32) (s : State) : exec (.ringadv a n) s = execRingadv a n s := rfl

/-- RINGQ's meaning (R232). -/
theorem exec_ringq (d n : Fin 32) (s : State) : exec (.ringq d n) s = execRingq d n s := rfl

/-- A ring number past 15 is illegal (R230–R232). -/
theorem ring_past_illegal (h : Issues s core slot iss o) (d a n : Fin 32) (hn : 16 ≤ n.val) :
    Fails s core slot (.ringset a n) 0x04 (iss.word0.zeroExtend 64) ∧
    Fails s core slot (.ringadv a n) 0x04 (iss.word0.zeroExtend 64) ∧
    Fails s core slot (.ringq d n) 0x04 (iss.word0.zeroExtend 64) :=
  ⟨fails_of_illegal h (exec_ringset a n s) (if_pos hn),
    fails_of_illegal h (exec_ringadv a n s) (by simp only [ringAt_past _ _ _ hn]),
    fails_of_illegal h (exec_ringq d n s) (if_pos hn)⟩

/-- RINGSET once its record can be read, or cannot (R230). -/
theorem ringset_rules (h : Issues s core slot iss o) (a n : Fin 32) (hn : n.val < 16) :
    StructFails s core slot (.ringset a n) (gRead (slotAt s core slot) a) 16 16 ∧
    ∀ t bs us, ReadsStruct s core slot (gRead (slotAt s core slot) a) 16 16 t bs us →
      let u := applyAll s us
      let rec_ := ringOf (coreAt s core) (partOf (coreAt s core) slot) bs
      let ctx := (slotAt s core slot).ctx
      (rec_ = none → FailsAfter s u core slot (.ringset a n) 0x04 (iss.word0.zeroExtend 64)) ∧
      (∀ r, rec_ = some r → ringBusy s core ctx n.val = true →
        exec (.ringset a n) s = .next (retrying u core slot (.ringFree n.val) none)) ∧
      (∀ r, rec_ = some r → ringBusy s core ctx n.val = false →
        exec (.ringset a n) s =
          .next (ended (withRing u core ctx n.val r) core slot o (slotAt s core slot) iss.after)) := by
  refine ⟨structFails_of_withStruct h (exec_ringset a n s) (if_neg (by omega)), fun t bs us hr => ?_⟩
  have hb := beside_of_readsStruct hr
  refine ⟨fun hnone => ?_, fun r hsome hbusy => ?_, fun r hsome hbusy => ?_⟩
  · unfold FailsAfter
    rw [exec_ringset, execRingset, cWord_struct_fault h hr (if_neg (by omega))
      (x := Trouble.of 0x04 (cWordValue (slotAt s core slot))) (by simp only [hnone]; rfl), cWordValue_of_issues h]
    rfl
  · rw [exec_ringset, execRingset, cWord_struct_again h hr (if_neg (by omega)) (c := .ringFree n.val)
      (by simp only [hsome, hbusy, if_true])]
  · rw [exec_ringset, execRingset, cWord_struct_act h hr (if_neg (by omega)) (f := andThen (setRing core (slotAt s core slot).ctx n.val r) (finishPlain core slot))
      (by simp [hsome, hbusy]), setRing_finishPlain_ended (issues_of_beside h hb), hb.slotAt]

/-- RINGADV and RINGQ of an unloaded ring (R231, R232). -/
theorem ring_unloaded_rules (h : Issues s core slot iss o) (d a n : Fin 32) (hn : n.val < 16)
    (hr : ringAt s core (slotAt s core slot).ctx n.val = none) :
    Fails s core slot (.ringadv a n) 0x04 (iss.word0.zeroExtend 64) ∧
    exec (.ringq d n) s = .next (ended s core slot o (gWrite (slotAt s core slot) d 0) iss.after) := by
  refine ⟨fails_of_illegal h (exec_ringadv a n s) (by simp only [hr]), ?_⟩
  rw [exec_ringq, execRingq, cWord_act h (if_neg (by omega)), finishBundle_ended h]
  simp [ringWord, hr]

/-- RINGADV of a loaded ring (R231). -/
theorem ringadv_rules (h : Issues s core slot iss o) (a n : Fin 32) (hn : n.val < 16) {r : Ring}
    (hr : ringAt s core (slotAt s core slot).ctx n.val = some r) :
    let sl := slotAt s core slot
    let v := (gRead sl a).toNat
    let push := v % 256
    let pop := v / 256 % 256
    let occ := (r.tail + 2 * r.count - r.head) % (2 * r.count)
    let bad := 2 ^ 16 ≤ v ∨ r.count < occ + push ∨ occ + push < pop ∨
      feedInUse s core sl.ctx (fun f => f == .fed n.val) = true
    (bad → Fails s core slot (.ringadv a n) 0x04 (iss.word0.zeroExtend 64)) ∧
    (¬bad → exec (.ringadv a n) s = .next (ended (withRing s core sl.ctx n.val
      (r.advance push pop (slot, sl.sbIn, releaseClock s core slot))) core slot o sl iss.after)) := by
  intro sl v push pop occ bad
  have hpush : bitsNat (gRead sl a) 7 0 = push := by simp only [bitsNat, push, v]; omega
  have hpop : bitsNat (gRead sl a) 15 8 = pop := rfl
  have hbad : (16 ≤ n.val ∨ bitsNat (gRead sl a) 63 16 ≠ 0 ∨ r.count < r.occ + bitsNat (gRead sl a) 7 0 ∨
      r.occ + bitsNat (gRead sl a) 7 0 < bitsNat (gRead sl a) 15 8 ∨
      feedInUse s core sl.ctx (fun f => f == .fed n.val) = true) ↔ bad := by
    rw [hpush, hpop, bitsNat_high_ne_zero]
    exact or_iff_right (by omega)
  refine ⟨fun hb => fails_of_illegal h (exec_ringadv a n s) ?_, fun hb => ?_⟩
  · simp only [hr]; exact if_pos (hbad.mpr hb)
  · rw [exec_ringadv, execRingadv, cWord_act h (f := andThen (setRing core sl.ctx n.val
      (r.advance push pop (slot, sl.sbIn, releaseClock s core slot))) (finishPlain core slot)),
      setRing_finishPlain_ended h]
    simp only [hr]
    rw [← hpush, ← hpop]
    exact if_neg (fun hc => hb (hbad.mp hc))

/-- RINGQ of a loaded ring (R232). -/
theorem ringq_loaded (h : Issues s core slot iss o) (d n : Fin 32) (hn : n.val < 16) {r : Ring}
    (hr : ringAt s core (slotAt s core slot).ctx n.val = some r) :
    exec (.ringq d n) s = .next (ended s core slot o (gWrite (slotAt s core slot) d (BitVec.ofNat 64 (r.head + r.tail * 2 ^ 16 +
      r.count * 2 ^ 32 + (r.tail + 2 * r.count - r.head) % (2 * r.count) % 128 * 2 ^ 48 +
      (if ringBusy s core (slotAt s core slot).ctx n.val then 2 ^ 55 else 0)))) iss.after) := by
  rw [exec_ringq, execRingq, cWord_act h (if_neg (by omega)), finishBundle_ended h]
  have hword : ringWord s core (slotAt s core slot).ctx n.val = BitVec.ofNat 64 (r.head + r.tail * 2 ^ 16 +
      r.count * 2 ^ 32 + (r.tail + 2 * r.count - r.head) % (2 * r.count) % 128 * 2 ^ 48 +
      (if ringBusy s core (slotAt s core slot).ctx n.val then 2 ^ 55 else 0)) := by
    simp only [ringWord, hr, word, bitIf, Ring.occ]
    congr 1; omega
  rw [hword]; rfl

/-- RINGSET, RINGADV and RINGQ, and the records that R76 accepts. -/
theorem ringWords : RingWords := by
  refine ⟨fun c part bs _ => ringOf_rules c part bs, fun s core slot iss o h d a n => ⟨ring_past_illegal h d a n, fun hn => ?_⟩⟩
  obtain ⟨hfails, hreads⟩ := ringset_rules h a n hn
  exact ⟨hfails, hreads, ring_unloaded_rules h d a n hn, fun r hr =>
    ⟨(ringadv_rules h a n hn hr).1, (ringadv_rules h a n hn hr).2, ringq_loaded h d n hn hr⟩⟩

end Sys2Proof.Proofs

/-! PROOF. The engine takes a job (R100, R217, R218, R223). -/

namespace Sys2Proof.Proofs

open Sys2Proof.Machine Sys2Proof.Certificates

variable {s : State} {flock : Nat} {j : Job}

/-! ## Lists in rising order of a key -/

theorem mem_insertOn {α : Type} (f : α → Nat) (a x : α) (l : List α) : x ∈ insertOn f a l ↔ x = a ∨ x ∈ l := by
  induction l with
  | nil => simp [insertOn]
  | cons b t ih =>
    rw [insertOn]
    split
    · simp
    · simp only [List.mem_cons, ih]; tauto

theorem mem_sortOn {α : Type} (f : α → Nat) (x : α) (l : List α) : x ∈ sortOn f l ↔ x ∈ l := by
  induction l with
  | nil => simp [sortOn]
  | cons a t ih => rw [sortOn, List.foldr_cons, ← sortOn, mem_insertOn, ih, List.mem_cons]

theorem pairwise_insertOn {α : Type} (f : α → Nat) (a : α) {l : List α} (h : l.Pairwise (fun x y => f x ≤ f y)) :
    (insertOn f a l).Pairwise (fun x y => f x ≤ f y) := by
  induction l with
  | nil => simp [insertOn]
  | cons b t ih =>
    rw [insertOn]
    obtain ⟨hb, ht⟩ := List.pairwise_cons.mp h
    split
    case isTrue hab =>
      refine List.pairwise_cons.mpr ⟨fun x hx => ?_, h⟩
      rcases List.mem_cons.mp hx with rfl | hx
      · exact hab
      · exact hab.trans (hb x hx)
    case isFalse hab =>
      refine List.pairwise_cons.mpr ⟨fun x hx => ?_, ih ht⟩
      rcases (mem_insertOn f a x t).mp hx with rfl | hx
      · omega
      · exact hb x hx

theorem pairwise_sortOn {α : Type} (f : α → Nat) (l : List α) : (sortOn f l).Pairwise (fun x y => f x ≤ f y) := by
  induction l with
  | nil => simp [sortOn]
  | cons a t ih => rw [sortOn, List.foldr_cons, ← sortOn]; exact pairwise_insertOn f a ih

/-- The first that passes of a list in order has the least key of those that pass. -/
theorem find?_sortOn {α : Type} {f : α → Nat} {l : List α} {p : α → Bool} {x : α} (h : (sortOn f l).find? p = some x) :
    x ∈ l ∧ p x = true ∧ ∀ y ∈ l, p y = true → f x ≤ f y := by
  obtain ⟨hp, as, bs, hl, has⟩ := List.find?_eq_some_iff_append.mp h
  refine ⟨(mem_sortOn f x l).mp (by simp [hl]), hp, fun y hy hpy => ?_⟩
  have hsorted := pairwise_sortOn f l
  rw [hl] at hsorted
  have hmem : y ∈ as ++ x :: bs := hl ▸ (mem_sortOn f y l).mpr hy
  rcases List.mem_append.mp hmem with hy | hy
  · have := has y hy; simp [hpy] at this
  · rcases List.mem_cons.mp hy with rfl | hy
    · exact le_rfl
    · exact (List.pairwise_cons.mp (List.pairwise_append.mp hsorted).2.1).1 y hy

/-- The first answer over the numbers below a bound is that of the least number that has one. -/
theorem findSome?_range {α : Type} {g : Nat → Option α} {n : Nat} {x : α} (h : (List.range n).findSome? g = some x) :
    ∃ k < n, g k = some x ∧ ∀ i < k, g i = none := by
  obtain ⟨as, k, bs, hl, hk, has⟩ := List.findSome?_eq_some_iff.mp h
  have hlt : k < n := List.mem_range.mp (hl ▸ by simp)
  refine ⟨k, hlt, hk, fun i hi => has i ?_⟩
  have hsorted : (as ++ k :: bs).Pairwise (· < ·) := hl ▸ List.pairwise_lt_range
  have hmem : i ∈ as ++ k :: bs := hl ▸ List.mem_range.mpr (by omega)
  rcases List.mem_append.mp hmem with hm | hm
  · exact hm
  · rcases List.mem_cons.mp hm with rfl | hm
    · omega
    · have := (List.pairwise_cons.mp (List.pairwise_append.mp hsorted).2.1).1 i hm; omega

/-! ## The job that comes next -/

/-- Jobs of an engine that it does not run. -/
def resting (s : State) (flock : Nat) : List Job := (engineJobs s flock).filter (fun j => j.state != .running)

/-- How many cores come before a job's in the engine's turn. -/
def engineTurn (s : State) (flock : Nat) (j : Job) : Nat := (j.core % 8 + 15 - (flockAt s flock).mxLast % 8) % 8

/-- A job is the first, in the engine's turn and its core's order, of those that no other holds up (R217). -/
def ComesFirst (s : State) (flock : Nat) (j : Job) : Prop :=
  j ∈ engineJobs s flock ∧ j.state = .queued ∧ heldBehind (resting s flock) j = false ∧
    ∀ k ∈ engineJobs s flock, k.state = .queued → heldBehind (resting s flock) k = false →
      engineTurn s flock j ≤ engineTurn s flock k ∧ (k.core = j.core → j.order ≤ k.order)

theorem flockOf_of_engineJobs (h : j ∈ engineJobs s flock) : flockOf j.core = flock := by
  simp only [engineJobs, List.mem_filter, Bool.and_eq_true, beq_iff_eq] at h
  exact h.2.1.1

/-- What the engine looks for on the core that comes `k`th in its turn. -/
def oldestOf (s : State) (flock k : Nat) : Option Job :=
  (sortOn (fun (j : Job) => j.order)
    ((resting s flock).filter (fun j => j.core == flock * 8 + ((flockAt s flock).mxLast + 1 + k) % 8))).find?
      (fun j => j.state == .queued && !heldBehind (resting s flock) j)

theorem oldestQueued_eq (s : State) (flock : Nat) :
    oldestQueued s flock = (List.range 8).findSome? (oldestOf s flock) := by
  rw [oldestQueued, List.findSome?_map]; rfl

theorem core_eq_iff_engineTurn (h : flockOf j.core = flock) {k : Nat} (hk : k < 8) :
    j.core = flock * 8 + ((flockAt s flock).mxLast + 1 + k) % 8 ↔ engineTurn s flock j = k := by
  simp only [flockOf, engineTurn] at *; omega

/-- A queued job that none holds up is one that the engine finds when its core's turn comes. -/
theorem passes_iff {k : Nat} (hk : k < 8) (x : Job) :
    (x ∈ (resting s flock).filter (fun j => j.core == flock * 8 + ((flockAt s flock).mxLast + 1 + k) % 8) ∧
      (x.state == .queued && !heldBehind (resting s flock) x) = true) ↔
    x ∈ engineJobs s flock ∧ x.state = .queued ∧ heldBehind (resting s flock) x = false ∧ engineTurn s flock x = k := by
  simp only [List.mem_filter, beq_iff_eq, Bool.and_eq_true, Bool.not_eq_true']
  constructor
  · rintro ⟨⟨hx, hc⟩, hq, hh⟩
    have hx := (List.mem_filter.mp hx).1
    exact ⟨hx, hq, hh, (core_eq_iff_engineTurn (flockOf_of_engineJobs hx) hk).mp hc⟩
  · rintro ⟨hx, hq, hh, ht⟩
    exact ⟨⟨List.mem_filter.mpr ⟨hx, by simp [hq]⟩, (core_eq_iff_engineTurn (flockOf_of_engineJobs hx) hk).mpr ht⟩, hq, hh⟩

theorem comesFirst_of_oldestQueued (h : oldestQueued s flock = some j) : ComesFirst s flock j := by
  rw [oldestQueued_eq] at h
  obtain ⟨k, hk, hj, hbefore⟩ := findSome?_range h
  obtain ⟨hmem, hpass, hleast⟩ := find?_sortOn hj
  obtain ⟨hmine, hq, hheld, hturn⟩ := (passes_iff hk j).mp ⟨hmem, hpass⟩
  refine ⟨hmine, hq, hheld, fun x hx hxq hxh => ?_⟩
  have ht8 : engineTurn s flock x < 8 := Nat.mod_lt _ (by norm_num)
  obtain ⟨hxmem, hxpass⟩ := (passes_iff ht8 x).mpr ⟨hx, hxq, hxh, rfl⟩
  constructor
  · by_contra hlt
    have hnone := hbefore (engineTurn s flock x) (by omega)
    have := List.find?_eq_none.mp hnone x ((mem_sortOn _ _ _).mpr hxmem)
    exact this hxpass
  · intro hc
    have hxk : engineTurn s flock x = k := by rw [← hturn, engineTurn, engineTurn, hc]
    obtain ⟨hxmem, hxpass⟩ := (passes_iff hk x).mpr ⟨hx, hxq, hxh, hxk⟩
    exact hleast x hxmem hxpass

theorem oldestQueued_of_comesFirst (h : ComesFirst s flock j)
    (hunique : ∀ k ∈ engineJobs s flock, k.order = j.order → k = j) : oldestQueued s flock = some j := by
  obtain ⟨hmine, hq, hheld, hleast⟩ := h
  rcases ho : oldestQueued s flock with _ | x
  · exfalso
    rw [oldestQueued_eq, List.findSome?_eq_none_iff] at ho
    have ht8 : engineTurn s flock j < 8 := Nat.mod_lt _ (by norm_num)
    obtain ⟨hmem, hpass⟩ := (passes_iff ht8 j).mpr ⟨hmine, hq, hheld, rfl⟩
    exact List.find?_eq_none.mp (ho _ (List.mem_range.mpr ht8)) j ((mem_sortOn _ _ _).mpr hmem) hpass
  · obtain ⟨hxmine, hxq, hxheld, hxleast⟩ := comesFirst_of_oldestQueued ho
    have hturn : engineTurn s flock x = engineTurn s flock j :=
      le_antisymm (hxleast j hmine hq hheld).1 (hleast x hxmine hxq hxheld).1
    have hcore : x.core = j.core := by
      have hx := flockOf_of_engineJobs hxmine
      have hj := flockOf_of_engineJobs hmine
      simp only [flockOf, engineTurn] at hx hj hturn; omega
    have horder : x.order = j.order :=
      le_antisymm ((hxleast j hmine hq hheld).2 hcore.symm) ((hleast x hxmine hxq hxheld).2 hcore)
    rw [hunique x hxmine horder]

theorem nextEngineJob_some_iff : nextEngineJob s flock = some j ↔ oldestQueued s flock = some j ∧ j.ready s = true := by
  unfold nextEngineJob
  rcases oldestQueued s flock with _ | x
  · simp
  · simp only [Option.some.injEq]
    constructor
    · intro h; split at h
      case isTrue hr => cases h; exact ⟨rfl, hr⟩
      case isFalse => cases h
    · rintro ⟨rfl, hr⟩; exact if_pos hr

theorem ready_iff (s : State) (j : Job) : j.ready s = true ↔ j.state = .queued ∧ j.mark ≤ (slotAt s j.core j.slot).sbOut := by
  simp [Job.ready, Job.released]

theorem comesFirst_of_nextEngineJob (h : nextEngineJob s flock = some j) :
    ComesFirst s flock j ∧ j.mark ≤ (slotAt s j.core j.slot).sbOut := by
  obtain ⟨ho, hr⟩ := nextEngineJob_some_iff.mp h
  exact ⟨comesFirst_of_oldestQueued ho, ((ready_iff s j).mp hr).2⟩

theorem nextEngineJob_none (h : ComesFirst s flock j) (hunique : ∀ k ∈ engineJobs s flock, k.order = j.order → k = j)
    (hmark : (slotAt s j.core j.slot).sbOut < j.mark) : nextEngineJob s flock = none := by
  have hr : j.ready s = false := by
    rw [← Bool.not_eq_true, ready_iff]; omega
  unfold nextEngineJob
  rw [oldestQueued_of_comesFirst h hunique]
  simp [hr]

/-! ## A job taken -/

/-- The engine has taken a job, of whose body it has made what `f` says. -/
def running (s : State) (flock : Nat) (j : Job) (f : JobBody → JobBody) : State :=
  { s with
    jobs := s.jobs.map (fun x => if x.order = j.order then { x with state := .running, body := f x.body } else x)
    flocks := assign s.flocks flock { flockAt s flock with mxLast := j.core % 8 } }

/-- A matrix job's body, its accumulator opened. -/
def openBody : JobBody → JobBody
  | .matrix m => .matrix { m with opened := true }
  | b => b

theorem exec_matrixJobStart (flock : Nat) (s : State) : exec (.matrixJobStart flock) s = execMatrixJobStart flock s := rfl

/-- What a job's start does once it runs. -/
def startBody (j : Job) : Micro :=
  match j.body with
  | .matrix m => openAccum j m
  | .accStore n _ => claimAccum j n
  | _ => skip

theorem matrixJobStart_idle (hup : flockUp s flock = true) (h : runningJob s flock ≠ none ∨ nextEngineJob s flock = none) :
    exec (.matrixJobStart flock) s = .next s := by
  rw [exec_matrixJobStart, execMatrixJobStart, flockStep_up _ hup, after_ask]
  rcases hr : runningJob s flock with _ | x
  · simp only [h.resolve_left (by simp [hr]), after_skip]
  · simp only [after_skip]

theorem matrixJobStart_taken (hup : flockUp s flock = true) (hr : runningJob s flock = none)
    (hn : nextEngineJob s flock = some j) :
    exec (.matrixJobStart flock) s = .next (after (startBody j) (running s flock j id)) := by
  rw [exec_matrixJobStart, execMatrixJobStart, flockStep_up _ hup, after_ask]
  simp only [hr, hn, after_doAll_cons, after_doAll_nil]
  rfl

theorem modMat_running (f : JobBody → JobBody) :
    after (modMat j.order (fun x => { x with opened := true })) (running s flock j f) = running s flock j (openBody ∘ f) := by
  simp only [modMat, modJob, after_modJobs, running, applyUpd, List.map_map]
  congr 1
  refine List.map_congr_left fun x _ => ?_
  simp only [Function.comp_apply]
  by_cases hx : x.order = j.order
  · simp only [hx, if_true]
    rcases hb : f x.body <;> simp [openBody]
  · simp only [hx, if_false]

/-- An accumulator is not changed by the taking of a job. -/
theorem jobAccum_running (f : JobBody → JobBody) (n : Nat) : jobAccum (running s flock j f) j n = jobAccum s j n := by
  unfold jobAccum
  congr 1
  simp only [flockAt, running]
  by_cases hf : flockOf j.core = flock
  · rw [hf, lookup_assign_same]
  · rw [lookup_assign_other _ _ _ hf]

theorem jobAccum_setAccum (j : Job) (n : Nat) (v : Accum) (s : State) : jobAccum (after (setAccum j n v) s) j n = v := by
  simp [jobAccum, setAccum]

/-- Opening a matrix job's accumulator (R218, R223). -/
theorem openAccum_rules (m : MatJob) :
    let acc := jobAccum s j m.shape.acc
    let tag := accTag (bitsNat m.fdA 7 4)
    let fresh := acc.owner ≠ some j.ctx ∨ bitAt m.shape.flags 0 = false
    let kept := m.opened = true ∧ acc.owner = some j.ctx
    let t := after (openAccum j m) (running s flock j id)
    let opened := running s flock j openBody
    (kept → t = running s flock j id) ∧
    (¬kept → fresh → { t with flocks := opened.flocks } = opened ∧
      jobAccum t j m.shape.acc = { vals := [], tag := tag, owner := some j.ctx }) ∧
    (m.opened = false → ¬fresh → acc.tag = tag → t = opened) ∧
    (m.opened = false → ¬fresh → acc.tag ≠ tag → t = after (jobFault j.order 0x04 m.shape.record false) opened) := by
  intro acc tag fresh kept t opened
  have hkept : (m.opened && acc.owner == some j.ctx) = true ↔ kept := by simp [kept]
  have hmod : after (modMat j.order (fun x => { x with opened := true })) (running s flock j id) = opened := modMat_running id
  refine ⟨fun hk => ?_, fun hk hf => ?_, fun ho hf ht => ?_, fun ho hf ht => ?_⟩
  · simp only [t, openAccum, after_ask, jobAccum_running]
    rw [if_pos (hkept.mpr hk), after_skip]
  · have ht : t = after (setAccum j m.shape.acc (zeroAccum j.ctx (bitsNat m.fdA 7 4))) opened := by
      simp only [t, openAccum, after_ask, jobAccum_running]
      rw [if_neg (fun hc => hk (hkept.mp hc)), after_andThen, hmod, if_pos hf]
    rw [ht]
    exact ⟨rfl, jobAccum_setAccum ..⟩
  · simp only [t, openAccum, after_ask, jobAccum_running]
    rw [if_neg (by simp [ho]), after_andThen, hmod, if_neg hf]
    simp [acc, tag] at ht
    simp [ht]
  · simp only [t, openAccum, after_ask, jobAccum_running]
    rw [if_neg (by simp [ho]), after_andThen, hmod, if_neg hf]
    have : (acc.tag != tag) = true := by simpa using ht
    simp only [acc, tag] at this
    rw [this, after_onlyIf_true]

/-- Claiming an MXST's accumulator (R218, R227). -/
theorem claimAccum_rules (n : Nat) :
    let acc := jobAccum s j n
    let taken := running s flock j id
    let t := after (claimAccum j n) taken
    (acc.owner = some j.ctx → t = taken) ∧
    (acc.owner ≠ some j.ctx → { t with flocks := taken.flocks } = taken ∧
      jobAccum t j n = { vals := [], tag := acc.tag, owner := some j.ctx }) := by
  intro acc taken t
  have ht : t = after (onlyIf (acc.owner != some j.ctx)
      (setAccum j n { acc with vals := [], owner := some j.ctx })) taken := by
    simp only [t, taken, claimAccum, after_ask, jobAccum_running]; rfl
  refine ⟨fun ho => ?_, fun ho => ?_⟩
  · rw [ht, show (acc.owner != some j.ctx) = false by simp [ho], after_onlyIf_false]
  · rw [ht, show (acc.owner != some j.ctx) = true by simp [ho], after_onlyIf_true]
    exact ⟨rfl, jobAccum_setAccum ..⟩

/-- The engine takes its jobs in turn, and opens their accumulators. -/
theorem matrixJobsStart : MatrixJobsStart := by
  intro s flock hup
  refine ⟨matrixJobStart_idle hup, fun j hn => comesFirst_of_nextEngineJob hn, fun j hf hu hm => nextEngineJob_none hf hu hm,
    fun j hr hn => ⟨fun m hb => ?_, fun n addr hb => ?_, fun hm hs => ?_⟩⟩
  all_goals
    have htaken := matrixJobStart_taken hup hr hn
  · have hstart : startBody j = openAccum j m := by simp only [startBody, hb]
    rw [hstart] at htaken
    obtain ⟨hkept, hfresh, hsame, hother⟩ := openAccum_rules (s := s) (flock := flock) (j := j) m
    exact ⟨fun h => htaken.trans (congrArg _ (hkept h)), fun h h' => ⟨_, htaken, hfresh h h'⟩,
      fun ho h h' => htaken.trans (congrArg _ (hsame ho h h')), fun ho h h' => htaken.trans (congrArg _ (hother ho h h'))⟩
  · have hstart : startBody j = claimAccum j n := by simp only [startBody, hb]
    rw [hstart] at htaken
    obtain ⟨hkept, hclaimed⟩ := claimAccum_rules (s := s) (flock := flock) (j := j) n
    exact ⟨fun h => htaken.trans (congrArg _ (hkept h)), fun h => ⟨_, htaken, hclaimed h⟩⟩
  · have hstart : startBody j = skip := by
      rcases hb : j.body <;> simp_all [startBody]
    rw [hstart, after_skip] at htaken
    exact htaken

end Sys2Proof.Proofs

/-! PROOF. The accesses that engines make for their jobs (R180, R221, R236, R373). -/

namespace Sys2Proof.Proofs

open Sys2Proof.Machine Sys2Proof.Certificates

variable {s : State} {w : Party} {addr : Word} {n : Nat} {bs : List Byte} {t : Target} {f : Micro}

/-! ## Where a write leads -/

/-- A target is no parison buffer. -/
def Target.writable : Target → Prop
  | .parison .. => False
  | _ => True

theorem padCheck_writable {owner part off : Nat} (h : padCheck s owner part off = .ok t) : Target.writable t := by
  unfold padCheck at h
  split at h
  · cases h; trivial
  · cases h

theorem apertureCheck_writable {core ctx part va : Nat} (h : apertureCheck s core ctx part va = .ok t) : Target.writable t := by
  unfold apertureCheck at h
  simp only at h
  split at h
  · cases h
  · split at h
    · cases h
    · exact padCheck_writable h

theorem translate_writable {core ctx : Nat} {m : Mode} {va : Nat} {k : Access}
    (h : Machine.translate s core ctx m va k = .ok t) : Target.writable t := by
  rcases hr : tlbFind s core ctx va with _ | x
  · unfold Machine.translate at h
    simp only [hr] at h
    split at h <;> cases h
  · rcases hf : refusal s x m k va with _ | c
    · unfold Machine.translate at h
      simp only [hr, hf] at h
      split at h
      · cases h
      · split at h
        · cases h; trivial
        · cases h
    · unfold Machine.translate at h
      simp only [hr, hf] at h
      split at h <;> cases h

theorem translateNow_writable {core : Nat} {x : Walker} {m : Mode} {va : Nat} {k : Access}
    (h : translateNow s core x m va k = .ok (t, f)) : Target.writable t := by
  unfold translateNow at h
  split at h
  · rename_i ht; cases h; exact translate_writable ht
  · cases h
  · split at h
    · rcases hf : finishWalk s core x m va k with c | y <;> rw [hf] at h
      · cases h
      · cases h; trivial
    · cases h

theorem reach_writable {x : Walker} {core part : Nat} {m : Mode} {size : Nat} {k : Access}
    (h : Machine.reach s x core part m addr size k = .ok (t, f)) : Target.writable t := by
  unfold Machine.reach at h
  simp only at h
  split at h
  · cases h
  · split at h
    · cases h
    · split at h <;> cases h
      rename_i hp; exact padCheck_writable hp
  · split at h
    · cases h
    · split at h <;> cases h
      rename_i hp; exact apertureCheck_writable hp
  · cases h
  · split at h
    · cases h
    · split at h
      · cases h
      · rcases hb : backing (ctxAt s x.ctx).escbase addr.toNat with c | a <;> rw [hb] at h
        · cases h
        · exact translateNow_writable h
  · split at h
    · cases h
    · exact translateNow_writable h

theorem checkAddr_write_writable {core slot size : Nat} (h : checkAddr s core slot addr size .write = .ok t) :
    Target.writable t := by
  unfold checkAddr at h
  simp only [reduceCtorEq, if_false, ne_eq, not_false_eq_true, true_or, if_true] at h
  split at h
  · cases h
  · split at h
    · cases h
    · split at h
      · cases h
      · split at h
        · exact padCheck_writable h
        · exact apertureCheck_writable h
        · cases h
        · cases h
        · exact translate_writable h
        · cases h

/-- No party writes a parison buffer (R75). -/
theorem reached_write_writable (h : w.reach s addr .write = .ok (t, f)) : Target.writable t := by
  unfold Party.reach at h
  split at h
  · split at h
    · rename_i hc; cases h; exact checkAddr_write_writable hc
    · cases h
    · exact translateNow_writable h
    · cases h
    · cases h
  · exact reach_writable h

/-! ## Reads -/

theorem eReadLine_later (h : w.reach s addr .read = .error 0) (r : State → Reader) : eReadLine w r addr n s = .later := by
  simp only [eReadLine, h]

theorem eReadLine_refused {c : Nat} (hc : c ≠ 0) (h : w.reach s addr .read = .error c) (r : State → Reader) :
    eReadLine w r addr n s = .fault c addr false [] := by
  rcases c with _ | c
  · exact absurd rfl hc
  · simp only [eReadLine, h]

section Reached

variable (h : w.reach s addr .read = .ok (t, f)) (r : State → Reader)
include h

theorem eReadLine_poisoned (hbad : badBytes s w.ctx t n = true) : eReadLine w r addr n s = .fault 0x0A addr false [] := by
  simp only [eReadLine, h, hbad, if_true]

theorem eReadLine_held (hbad : badBytes s w.ctx t n = false) (hr : routedRead s (r s) w.core w.ctx t n = none) :
    eReadLine w r addr n s = .later := by
  simp [eReadLine, h, hbad, hr]

theorem eReadLine_found (hbad : badBytes s w.ctx t n = false) {x : Found}
    (hr : routedRead s (r s) w.core w.ctx t n = some x) :
    eReadLine w r addr n s = .done x.bytes (andThen f (w.saw addr t n x) s) := by
  simp [eReadLine, h, hbad, hr]

/-- A line read: the bytes found, and what the party has seen by it. -/
theorem eReadLine_rules (hbad : badBytes s w.ctx t n = false) {x : Found}
    (hr : routedRead s (r s) w.core w.ctx t n = some x) :
    ∃ us, eReadLine w r addr n s = .done x.bytes us ∧
      (∀ k, w.who = .slot k → applyAll s us = after (readBy w.core k addr t n x) (after f s)) ∧
      ((∀ k, w.who ≠ .slot k) → applyAll s us = after (useSlice w.ctx addr.toNat) (after f s)) ∧
      (applyAll s us).slots = s.slots ∧ (applyAll s us).jobs = s.jobs ∧ (applyAll s us).reqs = s.reqs := by
  refine ⟨_, eReadLine_found h r hbad hr, ?_⟩
  have hafter : applyAll s (andThen f (w.saw addr t n x) s) = after (w.saw addr t n x) (after f s) := after_andThen ..
  have hb : Beside s (after (w.saw addr t n x) (after f s)) :=
    ((quiet_of_onlyWalks (reached_onlyWalks h)).beside s).trans ((Quiet.saw w addr t n x).beside _)
  rw [hafter]
  refine ⟨fun k hk => ?_, fun hk => ?_, hb.slots, hb.jobs, hb.reqs⟩
  · simp only [Party.saw, hk]
  · rcases hw : w.who with _ | _ | k
    · simp only [Party.saw, hw]
    · simp only [Party.saw, hw]
    · exact absurd hw (hk k)

end Reached

/-! ## Writes -/

theorem eWriteLine_later (h : w.reach s addr .write = .error 0) : eWriteLine w addr bs s = .later := by
  simp only [eWriteLine, h]

theorem eWriteLine_refused {c : Nat} (hc : c ≠ 0) (h : w.reach s addr .write = .error c) :
    eWriteLine w addr bs s = .fault c addr true [] := by
  rcases c with _ | c
  · exact absurd rfl hc
  · simp only [eWriteLine, h]

/-- What a write performed at once changes: its bytes, the cores not at all, and the order of writes by one, its own. -/
theorem performWrite_bank (hw : Target.writable t) (hroute : routeOf s w.ctx t = .bank) (x : Writer)
    (hbox : ∀ pa dev, t = .phys pa dev → ∀ k, k < bs.length → mailboxOffset (pa + k) = none) :
    ∃ g, performWrite s w.ctx t x bs = some g ∧ ∀ u : State,
      (after g u).mem = memWriteAll u.mem (cellsAt (keyOf t) bs) ∧ (after g u).cores = u.cores ∧
      ∃ y, (after g u).order.writes = y :: u.order.writes ∧ y.key = locOf w.ctx t ∧ y.by_ = x := by
  rcases t with ⟨core, off⟩ | ⟨core, buf, off⟩ | ⟨pa, dev⟩
  · have hr : padRoute (coreAt s core) w.ctx off = .bank := hroute
    refine ⟨andThen (noteWrite x (locOf w.ctx (.pad core off)) (memBytes s (keyOf (.pad core off)) bs.length))
      (putBytes (keyOf (.pad core off)) bs), by simp only [performWrite, hr], fun u => ?_⟩
    exact ⟨rfl, rfl, _, rfl, rfl, rfl⟩
  · exact hw.elim
  · refine ⟨_, rfl, fun u => ?_⟩
    rw [after_andThen]
    rcases bs with _ | ⟨b, bs⟩
    · simp only [cellsAt, memWriteAll, List.foldl_nil]
      unfold putPhys
      split
      · split
        · exact ⟨rfl, rfl, _, rfl, rfl, rfl⟩
        · split <;> exact ⟨rfl, rfl, _, rfl, rfl, rfl⟩
      · exact ⟨rfl, rfl, _, rfl, rfl, rfl⟩
    · have hput : putPhys pa (b :: bs) = putBytes pa (b :: bs) := by
        simp only [putPhys, show mailboxOffset pa = none from hbox pa dev rfl 0 (by simp)]
      rw [hput]
      exact ⟨rfl, rfl, _, rfl, rfl, rfl⟩

section Written

variable (h : w.reach s addr .write = .ok (t, f))
include h

theorem eWriteLine_unreachable (hu : unreachable s t = true) {j : Job} {clock : Clock} (hw : w.who = .job j.order clock)
    (hj : jobAt s j.order = some j) :
    ∃ us r, eWriteLine w addr bs s = .done () us ∧ applyAll s us = { after f s with records := s.records ++ [r] } ∧
      r.cause = 0x0A ∧ r.value = addr ∧ r.handle = j.handle ∧ r.who = j.who := by
  have hf := reached_onlyWalks h
  have hj' : jobAt (after f s) j.order = some j := ((quiet_of_onlyWalks hf).beside s).jobAt j.order ▸ hj
  have hrecords : (after f s).records = s.records := by
    obtain ⟨-, -, -, -, -, -, -, hr, -⟩ := hf.keeps s
    exact hr
  have hdone : eWriteLine w addr bs s = .done () (andThen f (lostEngineWrite w addr) s) := by
    simp only [eWriteLine, h, hu, if_true]
  refine ⟨_, { cause := 0x0A, flags := recordFlags false false false true true, wait := 0, handle := j.handle,
               value := addr, pc := 0, who := j.who }, hdone, ?_, rfl, rfl, rfl, rfl⟩
  have hafter : applyAll s (andThen f (lostEngineWrite w addr) s) = after (lostEngineWrite w addr) (after f s) :=
    after_andThen ..
  rw [hafter, ← hrecords]
  simp only [lostEngineWrite, after_ask, hw, hj']
  rfl

theorem eWriteLine_busy (hu : unreachable s t = false) (hb : dieBusy s (dieOf w.core) (locOf w.ctx t) bs.length = true) :
    eWriteLine w addr bs s = .later := by
  simp [eWriteLine, h, hu, hb]

/-- A line written: its bytes and no others change, its watches see it, and it takes its place among the writes. -/
theorem eWriteLine_written (hu : unreachable s t = false) (hb : dieBusy s (dieOf w.core) (locOf w.ctx t) bs.length = false)
    (hroute : routeOf s w.ctx t = .bank)
    (hbox : ∀ pa dev, t = .phys pa dev → ∀ k, k < bs.length → mailboxOffset (pa + k) = none) (hs : s.Canonical) :
    ∃ us, eWriteLine w addr bs s = .done () us ∧ Stored (after f s) (applyAll s us) (keyOf t) bs ∧
      Watched (after f s) (applyAll s us) (fun _ => true) (keyOf t) bs.length ∧ (applyAll s us).slots = s.slots ∧
      ∃ x, (applyAll s us).order.writes = x :: (after f s).order.writes ∧ x.key = locOf w.ctx t ∧ x.by_ = w.writer s := by
  obtain ⟨g, hg, hput⟩ := performWrite_bank (s := s) (w := w) (reached_write_writable h) hroute (w.writer s) hbox
  have hdone : eWriteLine w addr bs s =
      .done () (doAll [f, countWrite (w.writer s), g, touchAll (keyOf t) bs.length] s) := by
    simp [eWriteLine, h, hu, hb, hg]
  have hafter : applyAll s (doAll [f, countWrite (w.writer s), g, touchAll (keyOf t) bs.length] s) =
      after (touchAll (keyOf t) bs.length) (after g (after (countWrite (w.writer s)) (after f s))) := by
    change after _ s = _
    simp only [after_doAll_cons, after_doAll_nil]
  obtain ⟨hmem, hcores, y, hy, hykey, hyby⟩ := hput (after (countWrite (w.writer s)) (after f s))
  set u := after g (after (countWrite (w.writer s)) (after f s))
  obtain ⟨htouched, hrest⟩ := touchWatches_spec (fun _ => true) (keyOf t) bs.length u
  have hquiet := (quiet_of_onlyWalks (reached_onlyWalks h)).andThen ((Quiet.countWrite (w.writer s)).andThen
    ((Quiet.performWrite hg).andThen (Quiet.touchAll (keyOf t) bs.length)))
  refine ⟨_, hdone, ?_, ?_, ?_, y, ?_, hykey, hyby⟩ <;> rw [hafter]
  · refine stored_cellsAt (after_canonical hs f) _ _ _ (Eq.trans ?_ hmem)
    exact (congrArg State.mem hrest : )
  · intro c
    have hc : coreAt u c = coreAt (after f s) c := by
      rw [coreAt, hcores]; rfl
    rw [← hc]
    exact htouched c
  · have := (hquiet.beside s).slots
    simpa only [after_andThen] using this
  · exact (congrArg (fun v => v.order.writes) hrest : ).trans hy

end Written

/-- The accesses that engines make. -/
theorem engineAccesses : EngineAccesses := by
  intro s w addr n bs
  refine ⟨fun h r => eReadLine_later h r, eWriteLine_later, fun c hc h r => eReadLine_refused hc h r, fun t f h r =>
    ⟨eReadLine_poisoned h r, eReadLine_held h r, fun hbad x hx => eReadLine_rules h r hbad hx⟩,
    fun c hc h => eWriteLine_refused hc h, fun t f h => ⟨fun hu j clock hw hj => eWriteLine_unreachable h hu hw hj,
    eWriteLine_busy h, eWriteLine_written h⟩⟩

end Sys2Proof.Proofs

/-! PROOF. A C word that takes its slot's random state in RSR (R61, R235; log entry 60): its A word raises no fault for that, and keeps
its writes but for the advance of RSEED. -/

namespace Sys2Proof.Proofs

open Sys2Proof.Machine Sys2Proof.Certificates

/-- A slot with another random state. -/
def withSeed (sl : Slot) (r : Word) : Slot := { sl with ctl := { sl.ctl with rseed := r } }

variable {core : Nat} {sl : Slot} {r : Word}

/-! ## Whether an A word faults does not depend on the random state -/

theorem guarded_isOk (gp : Fin 8) (a : AOut) : (guarded gp sl (.ok a)).isOk = true := by
  unfold guarded
  split <;> rfl

/-- A guarded word raises no fault, whatever the random state. -/
theorem guarded_withSeed_isOk (gp : Fin 8) (a b : AOut) :
    (guarded gp (withSeed sl r) (.ok a)).isOk = (guarded gp sl (.ok b)).isOk := by
  rw [guarded_isOk, guarded_isOk]

theorem blockEnv_withSeed : blockEnv core (withSeed sl r) =
    (blockEnv core sl).map (fun e => { e with seed := r.toNat % 2 ^ 32 }) := by
  simp only [blockEnv, Option.map_map]; rfl

theorem isOk_map {ε α β : Type} (f : α → β) (x : Except ε α) : (x.map f).isOk = x.isOk := by cases x <;> rfl

/-- A block word faults by its format and its operands' places. -/
theorem blockWord_withSeed_isOk {ok : Elem → Bool} {ops : List (Fin 64)} {h : Fin 4} {w : Fin 16} {occ : Nat}
    {k k' : BEnv → Except Nat AEffect} (hk : ∀ e n, (k' { e with seed := n }).isOk = (k e).isOk) :
    (blockWord core (withSeed sl r) ok ops h w occ k').isOk = (blockWord core sl ok ops h w occ k).isOk := by
  unfold blockWord
  rw [blockEnv_withSeed]
  rcases blockEnv core sl with _ | e
  · rfl
  · simp only [Option.map_some]
    split
    · rw [isOk_map, isOk_map]; exact hk e _
    · rfl

theorem lanewise_withSeed_isOk (f f' : BEnv → Nat → Nat → Nat → LaneRes) (ok : Elem → Bool) (d a b : Fin 64) (h : Fin 4)
    (w : Fin 16) (occ : Nat) :
    (lanewise f' ok d a b h w occ core (withSeed sl r)).isOk = (lanewise f ok d a b h w occ core sl).isOk :=
  blockWord_withSeed_isOk fun _ _ => rfl

theorem effBcvt_withSeed_isOk (d a : Fin 64) (f : Fin 16) (h : Fin 4) (w : Fin 16) :
    (effBcvt d a f h w core (withSeed sl r)).isOk = (effBcvt d a f h w core sl).isOk :=
  blockWord_withSeed_isOk fun _ _ => by split <;> rfl

theorem effBdot_withSeed_isOk (d a b : Fin 64) (h : Fin 4) (w : Fin 16) :
    (effBdot d a b h w core (withSeed sl r)).isOk = (effBdot d a b h w core sl).isOk := by
  have hf : dotFormats (withSeed sl r) = dotFormats sl := rfl
  unfold effBdot
  rw [blockEnv_withSeed, hf]
  rcases dotFormats sl with _ | ⟨fa, fb, acc, n⟩ <;> rcases blockEnv core sl with _ | e
  · rfl
  · rfl
  · rfl
  · simp only [Option.map_some]
    split <;> rfl

theorem effBgnorm_withSeed_isOk (d a : Fin 64) (g : Fin 32) (h : Fin 4) (w : Fin 16) :
    (effBgnorm d a g h w core (withSeed sl r)).isOk = (effBgnorm d a g h w core sl).isOk := by
  unfold effBgnorm
  refine blockWord_withSeed_isOk fun e n => ?_
  dsimp only [Except.isOk, Except.toBool]

theorem effBshuf_withSeed_isOk (d a : Fin 64) (g : Fin 32) (h : Fin 4) (w : Fin 16) :
    (effBshuf d a g h w core (withSeed sl r)).isOk = (effBshuf d a g h w core sl).isOk := by
  unfold effBshuf
  exact blockWord_withSeed_isOk fun _ _ => rfl

/-- An instruction that is an A word faults with any random state, or with none. -/
theorem aEffect_withSeed_isOk (core : Nat) (sl : Slot) (r : Word) (i : Instr) :
    (aEffect core (withSeed sl r) i).map Except.isOk = (aEffect core sl i).map Except.isOk := by
  cases i with
  | fadd | fsub | fmul | fdiv | fsqrt | fmin | fmax | ffma | fabs | fneg | fclass | fcvti | fcvtf | fcvtp
  | fcmpeq | fcmplt | fcmple | fcmpun => exact congrArg some (guarded_withSeed_isOk ..)
  | badd | bsub | bmul | bfma | bmin | bmax | band | bor | bxor | bcmplt | bsel | bmov | bneg | babs | bexp2 | blog2
  | brcp | brsq | bsigm | btanh | bsqrt | brelu | bscal | badds | bbcst | bscl => exact congrArg some (lanewise_withSeed_isOk ..)
  | bgnorm => exact congrArg some (effBgnorm_withSeed_isOk ..)
  | bshuf => exact congrArg some (effBshuf_withSeed_isOk ..)
  | bred | bget | bset => exact congrArg some (blockWord_withSeed_isOk fun _ _ => rfl)
  | bcvt => exact congrArg some (effBcvt_withSeed_isOk ..)
  | bdot => exact congrArg some (effBdot_withSeed_isOk ..)
  | _ => rfl

/-! ## The companion under another random state -/

variable {iss : Issue} {o : Option AOut}

/-- A bundle without an A word, or with one that is none, stays without. -/
theorem companion_withSeed_none (h : companion core sl iss = .ok none) : companion core (withSeed sl r) iss = .ok none := by
  rcases hover : iss.aOver with _ | e
  · rcases hbad : iss.aBad with _ | _
    · rcases ha : iss.a with _ | i
      · simp [companion, hover, hbad, ha]
      · have hok := aEffect_withSeed_isOk core sl r i
        rcases he : aEffect core sl i with _ | _ | x
        · rw [he] at hok
          simp [companion, hover, hbad, ha, Option.map_eq_none_iff.mp hok]
        · simp [companion, hover, hbad, ha, he] at h
        · simp [companion, hover, hbad, ha, he] at h
    · simp [companion, hover, hbad] at h
  · simp [companion, hover] at h

/-- An A word that raises no fault raises none under another random state. -/
theorem companion_withSeed_ok (h : companion core sl iss = .ok o) : ∃ o', companion core (withSeed sl r) iss = .ok o' := by
  rcases hover : iss.aOver with _ | e
  · rcases hbad : iss.aBad with _ | _
    · rcases ha : iss.a with _ | i
      · exact ⟨none, by simp [companion, hover, hbad, ha]⟩
      · have hok := aEffect_withSeed_isOk core sl r i
        rcases he : aEffect core sl i with _ | _ | x
        · exact ⟨none, by simp [companion, hover, hbad, ha, Option.map_eq_none_iff.mp (hok.trans (by rw [he]; rfl))]⟩
        · simp [companion, hover, hbad, ha, he] at h
        · rw [he] at hok
          obtain ⟨y, hy, hyok⟩ := Option.map_eq_some_iff.mp hok
          rcases y with _ | y
          · cases hyok
          · exact ⟨some y, by simp [companion, hover, hbad, ha, hy]⟩
    · simp [companion, hover, hbad] at h
  · exact ⟨some { eff := e, kind := .now }, by simp only [companion, hover]⟩

/-! ## The random state taken -/

variable {s : State} {slot : Nat}

/-- The random state after one draw. -/
def nextSeed (sl : Slot) : Word := word (draw (sl.ctl.rseed.toNat % 2 ^ 32)).2

/-- What an A word does but for its advance of RSEED (log entry 60). -/
def unseeded (o : Option AOut) : Option AOut := o.map (fun x => { x with eff := { x.eff with rseed := none } })

theorem takeSeed_other {mode : Nat} (h : mode ≠ 5) (core slot : Nat) (s : State) : after (takeSeed core slot mode) s = s := by
  simp [takeSeed, h]

/-- Writing a general register commutes with what a unit holds and with the bundle. -/
theorem gWrite_frame (v : Slot) (i : Option Issue) (a : AWait) (d : Fin 32) (x : Word) :
    gWrite { v with issue := i, await := a } d x = { gWrite v d x with issue := i, await := a } := by
  unfold gWrite
  split
  · rfl
  · split <;> rfl

/-- A bundle whose A word a unit has taken ends as its C word leaves it. -/
theorem finishBundle_held {w : AWait} (hi : (slotAt s core slot).issue = some iss)
    (hc : companion core (slotAt s core slot) iss = .ok o) (hw : (slotAt s core slot).await = w)
    (hunit : (∃ e, w = .long e) ∨ ∃ e r, w = .block e r) (f : Slot → Slot) :
    after (finishBundle core slot f none) s =
      applyUpd s (.slot core slot { (f (slotAt s core slot)).doneAt iss.after with await := w }) := by
  have hfault : companionFault core (slotAt s core slot) = none := by simp [companionFault, hi, hc]
  rcases hunit with ⟨e, rfl⟩ | ⟨e, r, rfl⟩ <;>
    simp [finishBundle, finishOwn, unlessA, endBundle, hfault, finishWith, hi, hw, Issue.after]

/-- The slot's random state becomes `r`, and the A word `out` is begun without its advance of RSEED. -/
def takenSeed (core slot : Nat) (r : Word) (out : Option AOut) : Micro :=
  let set := modSlot core slot (fun x => withSeed x r)
  match out with
  | none => set
  | some a => match a.kind with
    | .now => andThen set (modSlot core slot (fun x =>
        { x with issue := x.issue.map (fun i => { i with aOver := some (a.eff.keepSeed true) }) }))
    | k => andThen set (startUnit core slot (a.eff.keepSeed true) k)

theorem after_takeSeed (core slot : Nat) (s : State) : after (takeSeed core slot 5) s =
    after (takenSeed core slot (nextSeed (slotAt s core slot)) (companionOut core (slotAt s core slot))) s := by
  simp only [takeSeed, after_ask]
  rw [if_neg (by simp)]
  rcases companionOut core (slotAt s core slot) with _ | ⟨e, _ | _ | occ⟩ <;> rfl

/-- A slot put twice is the last one put. -/
theorem slot_slot (s : State) (core slot : Nat) (v w : Slot) :
    applyUpd (applyUpd s (.slot core slot v)) (.slot core slot w) = applyUpd s (.slot core slot w) := by
  simp [applyUpd]

/-- A bundle whose A word a unit has taken with its slot's random state taken, and that ends by writing a general register. -/
theorem finishBundle_seeded (hi : (slotAt s core slot).issue = some iss) (hc : companion core (slotAt s core slot) iss = .ok o)
    {w : AWait} (hunit : (∃ e, w = .long e) ∨ ∃ e r, w = .block e r) (r : Word) (c : Core) (d : Fin 32) (x : Word) :
    stepEnd (applyUpd (applyUpd s (.slot core slot { withSeed (slotAt s core slot) r with await := w })) (.core core c))
        (finishBundle core slot (fun y => gWrite y d x) none) =
      { s with
        slots := assign s.slots (core * 16 + slot)
          { (gWrite (withSeed (slotAt s core slot) r) d x).doneAt iss.after with await := w }
        cores := assign s.cores core c
        issuing := none } := by
  obtain ⟨o', ho'⟩ := companion_withSeed_ok (r := r) hc
  set v : Slot := { withSeed (slotAt s core slot) r with await := w } with hv
  set u := applyUpd (applyUpd s (.slot core slot v)) (.core core c) with hu
  have hslot : slotAt u core slot = v := by simp [hu]
  have hend := finishBundle_held (s := u) (o := o') (iss := iss) (w := w) (by rw [hslot]; exact hi)
    (by rw [hslot]; exact (companion_congr core _ _ iss rfl rfl rfl).trans ho') (by rw [hslot]) hunit (fun y => gWrite y d x)
  rw [stepEnd, hend, hslot]
  rw [hv, gWrite_frame (withSeed (slotAt s core slot) r) (withSeed (slotAt s core slot) r).issue _ d x]
  simp [applyUpd, Slot.doneAt, hu]

/-- A bundle whose A word is begun without its advance of RSEED, and that ends by writing a general register. -/
theorem takenSeed_finishBundle (h : Issues s core slot iss o) (r : Word) (d : Fin 32) (x : Word) :
    stepEnd s (andThen (takenSeed core slot r o) (finishBundle core slot (fun y => gWrite y d x) none)) =
      ended s core slot (unseeded o) (gWrite (withSeed (slotAt s core slot) r) d x) iss.after := by
  rcases o with _ | ⟨e, _ | _ | occ⟩
  case none =>
    have hset : after (takenSeed core slot r none) s = applyUpd s (.slot core slot (withSeed (slotAt s core slot) r)) := rfl
    have hissues : Issues (applyUpd s (.slot core slot (withSeed (slotAt s core slot) r))) core slot iss none :=
      { issuing := h.issuing, bundle := by rw [slotAt_slot_same]; exact h.bundle
        idle := by rw [slotAt_slot_same]; exact h.idle
        partner := by rw [slotAt_slot_same]; exact companion_withSeed_none h.partner }
    have := finishBundle_ended hissues (fun y => gWrite y d x) none
    rw [stepEnd, after_andThen, hset]
    refine Eq.trans this ?_
    rw [slotAt_slot_same]
    simp [ended, withUnit, unseeded, applyUpd]
  case some.now =>
    set iss' := { iss with aOver := some (e.keepSeed true) }
    set v := withSeed (slotAt s core slot) r
    have hset : after (takenSeed core slot r (some { eff := e, kind := .now })) s =
        applyUpd s (.slot core slot { v with issue := some iss' }) := by
      have hv : v.issue = some iss := h.bundle
      simp only [takenSeed, after_andThen, after_modSlot, slotAt_slot_same, slot_slot]
      rw [hv]; rfl
    have hissues : Issues (applyUpd s (.slot core slot { v with issue := some iss' })) core slot iss'
        (some { eff := e.keepSeed true, kind := .now }) :=
      { issuing := h.issuing, bundle := by rw [slotAt_slot_same]
        idle := by rw [slotAt_slot_same]; exact h.idle
        partner := rfl }
    have := finishBundle_ended hissues (fun y => gWrite y d x) none
    rw [stepEnd, after_andThen, hset]
    refine Eq.trans this ?_
    rw [slotAt_slot_same, gWrite_frame v (some iss') v.await d x]
    simp [ended, withUnit, unseeded, applyUpd, AEffect.keepSeed, Slot.doneAt, Issue.after, iss']
  case some.long =>
    have hset : after (takenSeed core slot r (some { eff := e, kind := .long })) s = applyUpd (applyUpd s (.slot core slot
        { withSeed (slotAt s core slot) r with await := .long (e.keepSeed true) })) (.core core
        { coreAt s core with longQ := (coreAt s core).longQ.filter (fun k => k != slot) ++ [slot] }) := by
      simp only [takenSeed, startUnit, after_andThen, after_modSlot, after_modCore, slotAt_slot_same, slot_slot]; rfl
    have hend := finishBundle_seeded h.bundle h.partner (w := .long (e.keepSeed true)) (Or.inl ⟨_, rfl⟩) r
      { coreAt s core with longQ := (coreAt s core).longQ.filter (fun k => k != slot) ++ [slot] } d x
    rw [stepEnd, after_andThen, hset]
    exact hend
  case some.block =>
    have hset : after (takenSeed core slot r (some { eff := e, kind := .block occ })) s = applyUpd (applyUpd s (.slot core slot
        { withSeed (slotAt s core slot) r with
          await := .block (e.keepSeed true) (max (coreAt s core).cycle (coreAt s core).blockFree + occ + 7) })) (.core core
        { coreAt s core with blockFree := max (coreAt s core).cycle (coreAt s core).blockFree + occ }) := by
      simp only [takenSeed, startUnit, after_andThen, after_ask, after_modSlot, after_modCore, slotAt_slot_same, slot_slot]; rfl
    have hend := finishBundle_seeded h.bundle h.partner
      (w := .block (e.keepSeed true) (max (coreAt s core).cycle (coreAt s core).blockFree + occ + 7)) (Or.inr ⟨_, _, rfl⟩) r
      { coreAt s core with blockFree := max (coreAt s core).cycle (coreAt s core).blockFree + occ } d x
    rw [stepEnd, after_andThen, hset]
    exact hend

end Sys2Proof.Proofs

/-! PROOF. The matrix engine's words at issue (R217, R219, R220, R226–R229). -/

namespace Sys2Proof.Proofs

open Sys2Proof.Machine Sys2Proof.Certificates

variable {s : State} {core slot : Nat} {iss : Issue} {o : Option AOut}

/-! ## A job started (R211) -/

theorem find?_map_key {α : Type} (l : List α) (f : α → α) (p : α → Bool) (h : ∀ x, p (f x) = p x) :
    (l.map f).find? p = (l.find? p).map f := by
  rw [List.find?_map]
  congr 2
  exact funext h

/-- The row of a resident context changed. -/
theorem residentOf_modResident (core ctx : Nat) (f : Resident → Resident) (h : ∀ r, (f r).ctx = r.ctx) (s : State) :
    residentOf (coreAt (after (modResident core ctx f) s) core) ctx = (residentOf (coreAt s core) ctx).map f := by
  simp only [modResident, after_modCore, coreAt_core_same, residentOf]
  rw [find?_map_key _ _ _ (fun r => by split <;> simp [h])]
  rcases hr : (coreAt s core).residents.find? (fun r => r.ctx == ctx) with _ | r <;> rw [hr]
  · rfl
  · have hctx : r.ctx = ctx := by simpa using List.find?_some hr
    simp [hctx]

/-- Jobs of a context that are dropped when it has started one more than `n`; where it is not resident, `n` is 0 and none is. -/
theorem dropped_started {s : State} {core ctx : Nat} (j : Job) :
    j.dropped (((residentOf (coreAt s core) ctx).map (fun r => r.jobs + 1)).getD 0) =
      (j.state == .done && (j.kind == 0 || decide (j.n + 1024 < startedJobs s core ctx + 1))) := by
  unfold Job.dropped startedJobs jobLimit
  rcases residentOf (coreAt s core) ctx with _ | r <;> simp

/-- A new job is not dropped. -/
theorem dropped_newJob (s : State) (core slot kind n : Nat) (b : JobBody) (m : Nat) :
    (newJob s core slot kind n b).dropped m = false := by simp [Job.dropped, newJob]

/-- Jobs dropped from a list to which one that stays is added. -/
theorem filter_append_stays {α : Type} (p : α → Bool) (l : List α) {x : α} (hx : p x = false) :
    (l ++ [x]).filter p = l.filter p := by simp [hx]

/-- Records that are no longer kept are dropped; what the jobs wrote can still be acquired (R101, R211). -/
theorem after_pruneJobs (core ctx : Nat) (s : State) : after (pruneJobs core ctx) s = { s with
    jobs := s.jobs.filter (fun j => !(j.core == core && j.ctx == ctx && j.dropped (startedJobs s core ctx)))
    order := { s.order with ended := ((s.jobs.filter (fun j =>
      j.core == core && j.ctx == ctx && j.dropped (startedJobs s core ctx))).filter (fun j => j.kind != 0)).map (fun j =>
        ((j.core, j.ctx, j.n), jobClock s j.order)) ++ s.order.ended } } := rfl

theorem startJob_started (core slot kind : Nat) (b : JobBody) (s : State) :
    after (startJob core slot kind b) s = started s core slot kind b := by
  set ctx := (slotAt s core slot).ctx with hctx
  set n := startedJobs s core ctx with hn
  set new := newJob s core slot kind n b with hnew
  set v := after (modResident core ctx (fun r => { r with jobs := r.jobs + 1 })) (applyUpd s (.jobs (s.jobs ++ [new]))) with hv
  have hafter : after (startJob core slot kind b) s = after bump (after (pruneJobs core ctx) v) := by
    simp only [startJob, after_ask, after_doAll_cons, after_doAll_nil, after_modJobs]; rfl
  have hstarted : startedJobs v core ctx = ((residentOf (coreAt s core) ctx).map (fun r => r.jobs + 1)).getD 0 := by
    rw [startedJobs, hv, residentOf_modResident core ctx (fun r => { r with jobs := r.jobs + 1 }) (fun _ => rfl), Option.map_map]
    rfl
  have hdrop : ∀ j : Job, j.dropped (startedJobs v core ctx) =
      (j.state == .done && (j.kind == 0 || decide (j.n + 1024 < n + 1))) := fun j => by
    rw [hstarted, dropped_started]
  have hkept : v.jobs.filter (fun j => !(j.core == core && j.ctx == ctx && j.dropped (startedJobs v core ctx))) =
      (started s core slot kind b).jobs := by
    simp only [hdrop, ← Bool.and_assoc]; rfl
  have hended : ((v.jobs.filter (fun j => j.core == core && j.ctx == ctx && j.dropped (startedJobs v core ctx))).filter
        (fun j => j.kind != 0)).map (fun j => ((j.core, j.ctx, j.n), jobClock v j.order)) ++ v.order.ended =
      (started s core slot kind b).order.ended := by
    have hgone : v.jobs.filter (fun j => j.core == core && j.ctx == ctx && j.dropped (startedJobs v core ctx)) =
        s.jobs.filter (fun j => j.core == core && j.ctx == ctx && j.dropped (startedJobs v core ctx)) :=
      filter_append_stays _ s.jobs (by rw [hnew, dropped_newJob, Bool.and_false])
    have hsame : (fun j : Job => j.kind != 0 && (j.core == core && j.ctx == ctx && j.dropped (startedJobs v core ctx))) =
        fun j => j.core == core && j.ctx == ctx && j.state == .done && j.kind != 0 && decide (j.n + 1024 < n + 1) := by
      funext j
      rw [hdrop]
      cases j.core == core <;> cases j.ctx == ctx <;> rcases j.kind with _ | k <;> simp
    rw [hgone, List.filter_filter, hsame]; rfl
  rw [hafter, after_pruneJobs, hkept, hended]
  rfl

/-! ## Rooms -/

theorem unfinished_eq (s : State) (core ctx : Nat) : unfinished s core ctx =
    s.jobs.filter (fun j => j.kind != 0 && j.core == core && j.ctx == ctx && j.state != .done) := by
  rw [unfinished, jobsOf, List.filter_filter]
  congr 1
  exact funext fun j => Bool.and_comm ..

theorem queuedJobs_eq (s : State) (core : Nat) : queuedJobs s (flockOf core) =
    s.jobs.filter (fun j => flockOf j.core == flockOf core && (engineAcc j.body).isSome && j.state == .queued) := by
  rw [queuedJobs, engineJobs, List.filter_filter]
  congr 1
  funext j
  rw [Bool.eq_iff_iff]
  simp only [Bool.and_eq_true, beq_iff_eq, bne_iff_ne]
  constructor
  · rintro ⟨hq, ha, -⟩; exact ⟨ha, hq⟩
  · rintro ⟨ha, hq⟩; exact ⟨hq, ha, by rw [hq]; decide⟩

theorem withRoom_full (h : 1024 ≤ (unfinished s core (slotAt s core slot).ctx).length) (x : CRes) :
    withRoom s core slot x = .again (.cond .jobRoom) 0 := if_pos h

theorem withRoom_free (h : (unfinished s core (slotAt s core slot).ctx).length < 1024) (x : CRes) :
    withRoom s core slot x = x := if_neg (by unfold jobLimit; omega)

theorem withEntry_full (h : 32 ≤ (queuedJobs s (flockOf core)).length) (x : CRes) :
    withEntry s core x = .again (.cond .engineRoom) 0 := if_pos h

theorem withEntry_free (h : (queuedJobs s (flockOf core)).length < 32) (x : CRes) : withEntry s core x = x :=
  if_neg (by unfold queueEntries; omega)

/-! ## Bundles that start a job -/

/-- The slot issues on once a job has been started. -/
theorem issues_started (h : Issues s core slot iss o) (kind : Nat) (b : JobBody) :
    Issues (started s core slot kind b) core slot iss o :=
  { issuing := h.issuing, bundle := h.bundle, idle := h.idle, partner := h.partner }

/-- The slot after a word that takes the random state in RSR (R61, R235). -/
def seededSlot (sl : Slot) : Slot := if modeOf sl = 5 then withSeed sl (nextSeed sl) else sl

/-- What the A word then does (log entry 60). -/
def seededOut (sl : Slot) (o : Option AOut) : Option AOut := if modeOf sl = 5 then unseeded o else o

/-- MXMA's bundle ends with its handle written. -/
theorem mxma_ended (h : Issues s core slot iss o) (b : JobBody) (d : Fin 32) (x : Word) :
    stepEnd s (doAll [startJob core slot 1 b, takeSeed core slot (modeOf (slotAt s core slot)),
        finishBundle core slot (fun y => gWrite y d x) none]) =
      ended (started s core slot 1 b) core slot (seededOut (slotAt s core slot) o)
        (gWrite (seededSlot (slotAt s core slot)) d x) iss.after := by
  have hi := issues_started h 1 b
  have hend : stepEnd s (doAll [startJob core slot 1 b, takeSeed core slot (modeOf (slotAt s core slot)),
        finishBundle core slot (fun y => gWrite y d x) none]) = stepEnd (started s core slot 1 b)
        (andThen (takeSeed core slot (modeOf (slotAt s core slot))) (finishBundle core slot (fun y => gWrite y d x) none)) := by
    simp only [stepEnd, after_doAll_cons, after_doAll_nil, after_andThen, startJob_started]
  rw [hend, seededOut, seededSlot]
  by_cases hm : modeOf (slotAt s core slot) = 5
  · rw [if_pos hm, if_pos hm, hm, stepEnd, after_andThen, after_takeSeed, hi.out]
    have := takenSeed_finishBundle hi (nextSeed (slotAt s core slot)) d x
    rw [stepEnd, after_andThen] at this
    exact this
  · rw [if_neg hm, if_neg hm, stepEnd, after_andThen, takeSeed_other hm]
    exact finishBundle_ended hi (fun y => gWrite y d x) none

/-! ## Bundles that wait for a job -/

/-- A unit's start leaves jobs and the control registers alone. -/
theorem startUnit_keeps (core slot : Nat) (e : AEffect) (k : AKind) (s : State) :
    (after (startUnit core slot e k) s).jobs = s.jobs ∧
    (slotAt (after (startUnit core slot e k) s) core slot).ctl = (slotAt s core slot).ctl := by
  cases k <;> simp [startUnit, applyUpd] <;> simp [slotAt]

theorem beginA_keeps (core slot : Nat) (s : State) :
    (after (beginA core slot) s).jobs = s.jobs ∧
    (slotAt (after (beginA core slot) s) core slot).ctl = (slotAt s core slot).ctl := by
  simp only [beginA, after_ask]
  split
  · exact startUnit_keeps ..
  · exact ⟨rfl, rfl⟩

theorem takenSeed_keeps (core slot : Nat) (r : Word) (out : Option AOut) (s : State) :
    (after (takenSeed core slot r out) s).jobs = s.jobs ∧
    (slotAt (after (takenSeed core slot r out) s) core slot).ctl = (withSeed (slotAt s core slot) r).ctl := by
  rcases out with _ | ⟨e, k⟩
  · exact ⟨rfl, by simp [takenSeed]⟩
  · have hunit := startUnit_keeps core slot (e.keepSeed true) k
      (applyUpd s (.slot core slot (withSeed (slotAt s core slot) r)))
    rw [slotAt_slot_same] at hunit
    cases k with
    | now => exact ⟨rfl, by simp [takenSeed]⟩
    | long => exact hunit
    | block occ => exact hunit

/-- MXMAB's bundle waits for its job. -/
theorem mxmab_waits (h : Issues s core slot iss o) (b : JobBody) (n : Nat) :
    let t := stepEnd s (doAll [startJob core slot 1 b, takeSeed core slot (modeOf (slotAt s core slot)),
      waitFor core slot (.job n) 0])
    (modeOf (slotAt s core slot) ≠ 5 → t = waiting (started s core slot 1 b) core slot o (slotAt s core slot) (.job n)) ∧
    t.jobs = (started s core slot 1 b).jobs ∧ (slotAt t core slot).wait = .job n ∧
    (slotAt t core slot).ctl = (seededSlot (slotAt s core slot)).ctl := by
  intro t
  have hi := issues_started h 1 b
  set u := after (takeSeed core slot (modeOf (slotAt s core slot))) (started s core slot 1 b) with hu
  have ht : t = stepEnd u (waitFor core slot (.job n) 0) := by
    simp only [t, hu, stepEnd, after_doAll_cons, after_doAll_nil, startJob_started]
  have hkept : u.jobs = (started s core slot 1 b).jobs ∧
      (slotAt u core slot).ctl = (seededSlot (slotAt s core slot)).ctl := by
    by_cases hm : modeOf (slotAt s core slot) = 5
    · rw [hu, hm, after_takeSeed, seededSlot, if_pos hm]
      exact takenSeed_keeps ..
    · rw [hu, takeSeed_other hm, seededSlot, if_neg hm]
      exact ⟨rfl, rfl⟩
  obtain ⟨hjobs, hctl⟩ := beginA_keeps core slot u
  have hwait : t = { applyUpd (after (beginA core slot) u) (.slot core slot
      { slotAt (after (beginA core slot) u) core slot with
        wait := .job n, stall := stallOf (after (beginA core slot) u) core (slotAt (after (beginA core slot) u) core slot) 0 })
      with issuing := none } := by
    rw [ht, stepEnd, waitFor, after_andThen, after_ask, after_modSlot]
  refine ⟨fun hm => ?_, ?_, ?_, ?_⟩
  · rw [ht, hu, takeSeed_other hm]
    exact waitFor_waiting hi _
  · rw [hwait]; exact hjobs.trans hkept.1
  · rw [hwait]
    exact congrArg Slot.wait (slotAt_slot_same ..)
  · rw [hwait]
    exact (congrArg Slot.ctl (slotAt_slot_same ..)).trans (hctl.trans hkept.2)

end Sys2Proof.Proofs

/-! PROOF. MXMA, MXMAB, MXLD, MXST, MXZERO and MXQ (R217, R219, R220, R226–R229). -/

namespace Sys2Proof.Proofs

open Sys2Proof.Machine Sys2Proof.Certificates

variable {s : State} {core slot : Nat} {iss : Issue} {o : Option AOut}

/-! ## MXMA and MXMAB (R220, R226) -/

/-- The job that a shape record asks for. -/
def shapeJob (sl : Slot) (record : Word) (bs : List Byte) : JobBody := .matrix
  { shape := shapeOf record bs, fdA := descriptorAt sl 0, fdB := descriptorAt sl 1, mode := modeOf sl, step := 0, fedA := 0,
    fedB := 0, rowsA := 0, rowsB := 0, opened := false, rseed := sl.ctl.rseed, failed := false, rows := 0 }

/-- What a record that has been read comes to, in the order of R220: `k` goes on with the job. -/
def shapeChecked (s : State) (core slot : Nat) (record : Word) (bs : List Byte) (k : JobBody → CRes) : CRes :=
  let sl := slotAt s core slot
  let h := shapeOf record bs
  match matFormats (descriptorAt sl 0) (descriptorAt sl 1) with
  | none => .illegal sl 0x04
  | some (fa, fb, _, _) =>
    if 12 ≤ h.cFormat ∧ h.cFormat < 16 then .illegal sl 0x04
    else if shapeBad s core sl.ctx (partOf (coreAt s core) slot) h bs fa fb then .fault (Trouble.of 0x0C record)
    else withRoom s core slot (withEntry s core (k (shapeJob sl record bs)))

theorem withShape_eq (core slot : Nat) (a : Fin 32) (s : State) (k : JobBody → CRes) : withShape core slot a s k =
    withStruct core slot s (gRead (slotAt s core slot) a) 64 64
      (fun bs => shapeChecked s core slot (gRead (slotAt s core slot) a) bs k) := rfl

theorem cFormat_reserved_iff (n : Nat) : n ∈ [12, 13, 14, 15] ↔ 12 ≤ n ∧ n < 16 := by
  simp only [List.mem_cons, List.not_mem_nil, or_false]; omega

section Shape

variable {i : Instr} {a : Fin 32} {k : Nat → Nat → State → JobBody → CRes}
  (h : Issues s core slot iss o)
  (hexec : exec i s = Machine.cWord s (fun core slot s => withShape core slot a s (k core slot s)))
include h hexec

theorem shapeWord_structFails : StructFails s core slot i (gRead (slotAt s core slot) a) 64 64 :=
  structFails_of_withStruct h hexec (withShape_eq core slot a s _)

section Read

variable {t : Target} {bs : List Byte} {us : List Upd}
  (hr : ReadsStruct s core slot (gRead (slotAt s core slot) a) 64 64 t bs us)
include hr

theorem shapeWord_noFormats (hf : matFormats (descriptorAt (slotAt s core slot) 0) (descriptorAt (slotAt s core slot) 1) = none) :
    FailsAfter s (applyAll s us) core slot i 0x04 (iss.word0.zeroExtend 64) := by
  unfold FailsAfter
  rw [hexec, cWord_struct_fault h hr (withShape_eq core slot a s _) (x := Trouble.of 0x04 (cWordValue (slotAt s core slot)))
    (by simp only [shapeChecked, hf]; rfl), cWordValue_of_issues h]
  rfl

variable {fa fb acc : Elem} {n : Nat}
  (hf : matFormats (descriptorAt (slotAt s core slot) 0) (descriptorAt (slotAt s core slot) 1) = some (fa, fb, acc, n))
include hf

theorem shapeWord_reserved (hc : (shapeOf (gRead (slotAt s core slot) a) bs).cFormat ∈ [12, 13, 14, 15]) :
    FailsAfter s (applyAll s us) core slot i 0x04 (iss.word0.zeroExtend 64) := by
  unfold FailsAfter
  rw [hexec, cWord_struct_fault h hr (withShape_eq core slot a s _) (x := Trouble.of 0x04 (cWordValue (slotAt s core slot)))
    (by simp only [shapeChecked, hf]; rw [if_pos ((cFormat_reserved_iff _).mp hc)]; rfl), cWordValue_of_issues h]
  rfl

variable (hc : (shapeOf (gRead (slotAt s core slot) a) bs).cFormat ∉ [12, 13, 14, 15])
include hc

theorem shapeWord_bad (hb : shapeBad s core (slotAt s core slot).ctx (partOf (coreAt s core) slot)
    (shapeOf (gRead (slotAt s core slot) a) bs) bs fa fb = true) :
    FailsAfter s (applyAll s us) core slot i 0x0C (gRead (slotAt s core slot) a) := by
  unfold FailsAfter
  rw [hexec, cWord_struct_fault h hr (withShape_eq core slot a s _) (x := Trouble.of 0x0C (gRead (slotAt s core slot) a))
    (by simp only [shapeChecked, hf]; rw [if_neg (fun hx => hc ((cFormat_reserved_iff _).mpr hx)), if_pos hb])]
  rfl

variable (hb : shapeBad s core (slotAt s core slot).ctx (partOf (coreAt s core) slot)
    (shapeOf (gRead (slotAt s core slot) a) bs) bs fa fb = false)
include hb

omit h hexec hr in
/-- A record that passes every check asks for room. -/
theorem shapeChecked_passed (g : JobBody → CRes) :
    shapeChecked s core slot (gRead (slotAt s core slot) a) bs g =
      withRoom s core slot (withEntry s core (g (shapeJob (slotAt s core slot) (gRead (slotAt s core slot) a) bs))) := by
  simp only [shapeChecked, hf]
  rw [if_neg (fun hx => hc ((cFormat_reserved_iff _).mpr hx)), if_neg (by rw [hb]; simp)]

theorem shapeWord_noRoom (hroom : 1024 ≤ (unfinished s core (slotAt s core slot).ctx).length) :
    exec i s = .next (retrying (applyAll s us) core slot .jobRoom none) := by
  rw [hexec, cWord_struct_again h hr (withShape_eq core slot a s _) (c := .jobRoom)
    (by rw [shapeChecked_passed hf hc hb, withRoom_full hroom])]

theorem shapeWord_noEntry (hroom : (unfinished s core (slotAt s core slot).ctx).length < 1024)
    (hentry : 32 ≤ (queuedJobs s (flockOf core)).length) :
    exec i s = .next (retrying (applyAll s us) core slot .engineRoom none) := by
  rw [hexec, cWord_struct_again h hr (withShape_eq core slot a s _) (c := .engineRoom)
    (by rw [shapeChecked_passed hf hc hb, withRoom_free hroom, withEntry_full hentry])]

theorem shapeWord_starts (hroom : (unfinished s core (slotAt s core slot).ctx).length < 1024)
    (hentry : (queuedJobs s (flockOf core)).length < 32) {f : Micro}
    (hk : k core slot s (shapeJob (slotAt s core slot) (gRead (slotAt s core slot) a) bs) = .act f) :
    exec i s = .next (stepEnd (applyAll s us) f) := by
  rw [hexec, cWord_struct_act h hr (withShape_eq core slot a s _) (f := f)
    (by rw [shapeChecked_passed hf hc hb, withRoom_free hroom, withEntry_free hentry, hk])]

end Read

end Shape

/-- MXMA or MXMAB until its job is started: the faults and the waits (R220). -/
theorem shapeWord_rules {i : Instr} {a : Fin 32} {k : Nat → Nat → State → JobBody → CRes} (h : Issues s core slot iss o)
    (hexec : exec i s = Machine.cWord s (fun core slot s => withShape core slot a s (k core slot s)))
    {t : Target} {bs : List Byte} {us : List Upd}
    (hr : ReadsStruct s core slot (gRead (slotAt s core slot) a) 64 64 t bs us) :
    let sl := slotAt s core slot
    let z := applyAll s us
    let record := gRead sl a
    let h := shapeOf record bs
    let word0 := iss.word0.zeroExtend 64
    let open_ := (unfinished s core sl.ctx).length
    let queue := queuedJobs s (flockOf core)
    (matFormats (descriptorAt sl 0) (descriptorAt sl 1) = none → FailsAfter s z core slot i 0x04 word0) ∧
    (∀ fa fb acc n, matFormats (descriptorAt sl 0) (descriptorAt sl 1) = some (fa, fb, acc, n) →
      (h.cFormat ∈ [12, 13, 14, 15] → FailsAfter s z core slot i 0x04 word0) ∧
      (h.cFormat ∉ [12, 13, 14, 15] → shapeBad s core sl.ctx (partOf (coreAt s core) slot) h bs fa fb = true →
        FailsAfter s z core slot i 0x0C record) ∧
      (h.cFormat ∉ [12, 13, 14, 15] → shapeBad s core sl.ctx (partOf (coreAt s core) slot) h bs fa fb = false →
        (1024 ≤ open_ → exec i s = .next (retrying z core slot .jobRoom none)) ∧
        (open_ < 1024 → 32 ≤ queue.length → exec i s = .next (retrying z core slot .engineRoom none)))) :=
  ⟨shapeWord_noFormats h hexec hr, fun _ _ _ _ hf => ⟨shapeWord_reserved h hexec hr hf, shapeWord_bad h hexec hr hf,
    fun hc hb => ⟨shapeWord_noRoom h hexec hr hf hc hb, shapeWord_noEntry h hexec hr hf hc hb⟩⟩⟩

/-- What MXMA does with its job. -/
def mxmaAct (d : Fin 32) (core slot : Nat) (s : State) (b : JobBody) : CRes :=
  .act (doAll [startJob core slot 1 b, takeSeed core slot (modeOf (slotAt s core slot)),
    finishBundle core slot (fun x => gWrite x d (nextHandle s core slot 1)) none])

/-- What MXMAB does with its job. -/
def mxmabAct (core slot : Nat) (s : State) (b : JobBody) : CRes :=
  .act (doAll [startJob core slot 1 b, takeSeed core slot (modeOf (slotAt s core slot)),
    waitFor core slot (.job (startedJobs s core (slotAt s core slot).ctx % 65536)) 0])

theorem exec_mxma (d a : Fin 32) (s : State) : exec (.mxma d a) s =
    Machine.cWord s (fun core slot s => withShape core slot a s (mxmaAct d core slot s)) := rfl

theorem exec_mxmab (a : Fin 32) (s : State) : exec (.mxmab a) s =
    Machine.cWord s (fun core slot s => withShape core slot a s (mxmabAct core slot s)) := rfl

theorem exec_shapeWord {d a : Fin 32} {i : Instr} (s : State) (hi : i ∈ ([.mxma d a, .mxmab a] : List Instr)) :
    ∃ k : Nat → Nat → State → JobBody → CRes,
      exec i s = Machine.cWord s (fun core slot s => withShape core slot a s (k core slot s)) := by
  simp only [List.mem_cons, List.not_mem_nil, or_false] at hi
  rcases hi with rfl | rfl
  · exact ⟨_, exec_mxma d a s⟩
  · exact ⟨_, exec_mxmab a s⟩

theorem nextHandle_matrix (s : State) (core slot : Nat) : nextHandle s core slot 1 =
    BitVec.ofNat 64 (65536 + startedJobs s core (slotAt s core slot).ctx % 65536) := by
  simp [nextHandle, handleOf, word]

section Taken

variable {d a : Fin 32} (h : Issues s core slot iss o)
  {t : Target} {bs : List Byte} {us : List Upd} (hr : ReadsStruct s core slot (gRead (slotAt s core slot) a) 64 64 t bs us)
  {fa fb acc : Elem} {n : Nat}
  (hf : matFormats (descriptorAt (slotAt s core slot) 0) (descriptorAt (slotAt s core slot) 1) = some (fa, fb, acc, n))
  (hc : (shapeOf (gRead (slotAt s core slot) a) bs).cFormat ∉ [12, 13, 14, 15])
  (hb : shapeBad s core (slotAt s core slot).ctx (partOf (coreAt s core) slot)
    (shapeOf (gRead (slotAt s core slot) a) bs) bs fa fb = false)
  (hroom : (unfinished s core (slotAt s core slot).ctx).length < 1024) (hentry : (queuedJobs s (flockOf core)).length < 32)
include h hr hf hc hb hroom hentry

/-- MXMA's job is started, and its handle written. -/
theorem mxma_starts : exec (.mxma d a) s = .next (ended
    (started (applyAll s us) core slot 1 (shapeJob (slotAt s core slot) (gRead (slotAt s core slot) a) bs)) core slot
    (seededOut (slotAt s core slot) o) (gWrite (seededSlot (slotAt s core slot)) d
      (BitVec.ofNat 64 (65536 + startedJobs s core (slotAt s core slot).ctx % 65536))) iss.after) := by
  have hslot := (beside_of_readsStruct hr).slotAt core slot
  have hend := mxma_ended (issues_of_beside h (beside_of_readsStruct hr))
    (shapeJob (slotAt s core slot) (gRead (slotAt s core slot) a) bs) d (nextHandle s core slot 1)
  rw [hslot] at hend
  rw [shapeWord_starts h (exec_mxma d a s) hr hf hc hb hroom hentry rfl, hend, nextHandle_matrix]

/-- MXMAB's job is started, and its slot waits for it. -/
theorem mxmab_starts : ∃ u, exec (.mxmab a) s = .next u ∧
    (modeOf (slotAt s core slot) ≠ 5 → u = waiting
      (started (applyAll s us) core slot 1 (shapeJob (slotAt s core slot) (gRead (slotAt s core slot) a) bs)) core slot o
      (slotAt s core slot) (.job (startedJobs s core (slotAt s core slot).ctx % 65536))) ∧
    u.jobs = (started (applyAll s us) core slot 1 (shapeJob (slotAt s core slot) (gRead (slotAt s core slot) a) bs)).jobs ∧
    (slotAt u core slot).wait = .job (startedJobs s core (slotAt s core slot).ctx % 65536) ∧
    (slotAt u core slot).ctl = (seededSlot (slotAt s core slot)).ctl := by
  have hslot := (beside_of_readsStruct hr).slotAt core slot
  have hwait := mxmab_waits (issues_of_beside h (beside_of_readsStruct hr))
    (shapeJob (slotAt s core slot) (gRead (slotAt s core slot) a) bs)
    (startedJobs s core (slotAt s core slot).ctx % 65536)
  rw [hslot] at hwait
  exact ⟨_, shapeWord_starts h (exec_mxmab a s) hr hf hc hb hroom hentry rfl, hwait⟩

end Taken

/-! ## MXLD and MXST (R227) -/

/-- A transfer started: a job without a handle. -/
def transferring (s : State) (core slot : Nat) (b : JobBody) : State :=
  { s with jobs := s.jobs ++ [newJob s core slot 0 s.tick b], tick := s.tick + 1 }

section Transfer

variable {i : Instr} {a n : Fin 32} {body : Slot → Word → JobBody} (h : Issues s core slot iss o)
  (hexec : exec i s = Machine.cWord s (transferWord n a body))
include h hexec

theorem transferWord_illegal (hn : 4 ≤ n.val) : Fails s core slot i 0x04 (iss.word0.zeroExtend 64) :=
  fails_of_illegal h hexec (if_pos hn)

variable (hn : n.val < 4)
include hn

theorem transferWord_barred (hb : regionOf (gRead (slotAt s core slot) a).toNat = .reserved ∨
    ((slotAt s core slot).pair = .execute ∧
      regionOf (gRead (slotAt s core slot) a).toNat ∈ [.pad, .parison, .aperture])) :
    Fails s core slot i 0x06 (gRead (slotAt s core slot) a) := by
  unfold Fails
  rw [hexec, cWord_fault h (t := Trouble.of 0x06 (gRead (slotAt s core slot) a))]
  · rfl
  · simp only [List.mem_cons, List.not_mem_nil, or_false] at hb
    simp only [transferWord]
    rw [if_neg (by omega), if_pos hb]

variable (hb : ¬(regionOf (gRead (slotAt s core slot) a).toNat = .reserved ∨
    ((slotAt s core slot).pair = .execute ∧
      regionOf (gRead (slotAt s core slot) a).toNat ∈ [.pad, .parison, .aperture])))
include hb

theorem transferWord_misaligned (ha : (gRead (slotAt s core slot) a).toNat % 256 ≠ 0) :
    Fails s core slot i 0x05 (gRead (slotAt s core slot) a) := by
  unfold Fails
  rw [hexec, cWord_fault h (t := Trouble.of 0x05 (gRead (slotAt s core slot) a))]
  · rfl
  · simp only [List.mem_cons, List.not_mem_nil, or_false] at hb
    simp only [transferWord]
    rw [if_neg (by omega), if_neg hb, if_pos ha]

variable (ha : (gRead (slotAt s core slot) a).toNat % 256 = 0)
include ha

omit h hexec in
theorem transferWord_checked : transferWord n a body core slot s = withEntry s core (.access (andThen
    (startTransfer core slot (body (slotAt s core slot) (gRead (slotAt s core slot) a)))
    (waitFor core slot (.transfer s.tick) 0))) := by
  simp only [List.mem_cons, List.not_mem_nil, or_false] at hb
  simp only [transferWord]
  rw [if_neg (by omega), if_neg hb, if_neg (by omega)]

theorem transferWord_noEntry (hentry : 32 ≤ (queuedJobs s (flockOf core)).length) :
    exec i s = .next (retrying s core slot .engineRoom none) := by
  rw [hexec, cWord_again h.toIssuing h.goodA (c := .engineRoom) (n := 0)
    (by rw [transferWord_checked hn hb ha, withEntry_full hentry])]
  rfl

theorem transferWord_waits (hentry : (queuedJobs s (flockOf core)).length < 32) :
    exec i s = .next (waiting (transferring s core slot (body (slotAt s core slot) (gRead (slotAt s core slot) a)))
      core slot o (slotAt s core slot) (.transfer s.tick)) := by
  have hi : Issues (transferring s core slot (body (slotAt s core slot) (gRead (slotAt s core slot) a))) core slot iss o :=
    { issuing := h.issuing, bundle := h.bundle, idle := h.idle, partner := h.partner }
  have hwait := waitFor_waiting hi (.transfer s.tick)
  rw [hexec, cWord_access h.toIssuing h.goodA (f := andThen
    (startTransfer core slot (body (slotAt s core slot) (gRead (slotAt s core slot) a)))
    (waitFor core slot (.transfer s.tick) 0)) (by rw [transferWord_checked hn hb ha, withEntry_free hentry])]
  exact congrArg Host.Outcome.next ((congrArg (fun v => { v with issuing := none }) (after_andThen ..)).trans hwait)

end Transfer

theorem exec_mxld (a n : Fin 32) (s : State) : exec (.mxld a n) s =
    Machine.cWord s (transferWord n a (fun sl addr => .accLoad n.val addr (bitsNat (descriptorAt sl 0) 7 4))) := rfl

theorem exec_mxst (a n : Fin 32) (s : State) : exec (.mxst a n) s =
    Machine.cWord s (transferWord n a (fun _ addr => .accStore n.val addr)) := rfl

/-! ## MXZERO (R228) -/

theorem exec_mxzero (n : Fin 32) (s : State) : exec (.mxzero n) s = execMxzero n s := rfl

theorem mxzero_illegal (h : Issues s core slot iss o) {n : Fin 32} (hn : 4 ≤ n.val) :
    Fails s core slot (.mxzero n) 0x04 (iss.word0.zeroExtend 64) :=
  fails_of_illegal h (exec_mxzero n s) (if_pos hn)

/-- MXZERO of an accumulator that exists: it waits for room, or its job is started. -/
theorem mxzero_rules (h : Issues s core slot iss o) {n : Fin 32} (hn : n.val < 4) :
    let open_ := (unfinished s core (slotAt s core slot).ctx).length
    let queue := queuedJobs s (flockOf core)
    (1024 ≤ open_ → exec (.mxzero n) s = .next (retrying s core slot .jobRoom none)) ∧
    (open_ < 1024 → 32 ≤ queue.length → exec (.mxzero n) s = .next (retrying s core slot .engineRoom none)) ∧
    (open_ < 1024 → queue.length < 32 → exec (.mxzero n) s = .next (ended (started s core slot 1
      (.accZero n.val (bitsNat (descriptorAt (slotAt s core slot) 0) 7 4))) core slot o (slotAt s core slot) iss.after)) := by
  intro open_ queue
  have hn' : ¬4 ≤ n.val := by omega
  refine ⟨fun hroom => ?_, fun hroom hentry => ?_, fun hroom hentry => ?_⟩
  · rw [exec_mxzero, execMxzero, cWord_again h.toIssuing h.goodA (c := .jobRoom) (n := 0)
      (by simp only [hn', if_false]; rw [withRoom_full hroom])]
    rfl
  · rw [exec_mxzero, execMxzero, cWord_again h.toIssuing h.goodA (c := .engineRoom) (n := 0)
      (by simp only [hn', if_false]; rw [withRoom_free hroom, withEntry_full hentry])]
    rfl
  · rw [exec_mxzero, execMxzero, cWord_act h (f := andThen
      (startJob core slot 1 (.accZero n.val (bitsNat (descriptorAt (slotAt s core slot) 0) 7 4))) (finishPlain core slot))
      (by simp only [hn', if_false]; rw [withRoom_free hroom, withEntry_free hentry])]
    rw [stepEnd, after_andThen, startJob_started]
    exact congrArg Host.Outcome.next (finishPlain_ended (issues_started h 1 _))

/-! ## MXQ (R229) -/

/-- The least of some numbers is one of them, and none is below it. -/
theorem foldl_min_spec {α : Type} (f : α → Nat) (l : List α) (a : Nat) :
    l.foldl (fun m x => min m (f x)) a ≤ a ∧ (∀ x ∈ l, l.foldl (fun m x => min m (f x)) a ≤ f x) ∧
    (l.foldl (fun m x => min m (f x)) a = a ∨ ∃ x ∈ l, l.foldl (fun m x => min m (f x)) a = f x) := by
  induction l generalizing a with
  | nil => simp
  | cons y l ih =>
    obtain ⟨hle, hall, heq⟩ := ih (min a (f y))
    simp only [List.foldl_cons, List.mem_cons, forall_eq_or_imp, exists_eq_or_imp]
    refine ⟨by omega, ⟨by omega, hall⟩, ?_⟩
    rcases heq with heq | heq
    · rcases min_choice a (f y) with hm | hm <;> omega
    · exact Or.inr (Or.inr heq)

/-- The number of the oldest unfinished job of a context on a core, or of the next where there is none. -/
def oldestNumber (s : State) (core ctx : Nat) : Nat :=
  match unfinished s core ctx with
  | [] => startedJobs s core ctx
  | j :: t => t.foldl (fun m x => min m x.n) j.n

theorem oldestNumber_le {ctx : Nat} {j : Job} (hj : j ∈ unfinished s core ctx) : oldestNumber s core ctx ≤ j.n := by
  unfold oldestNumber
  rcases hu : unfinished s core ctx with _ | ⟨x, t⟩
  · rw [hu] at hj; cases hj
  · obtain ⟨hle, hall, -⟩ := foldl_min_spec (fun x : Job => x.n) t x.n
    rw [hu] at hj
    rcases List.mem_cons.mp hj with rfl | hj
    · exact hle
    · exact hall j hj

theorem oldestNumber_mem {ctx : Nat} (h : unfinished s core ctx ≠ []) :
    ∃ j ∈ unfinished s core ctx, oldestNumber s core ctx = j.n := by
  unfold oldestNumber
  rcases hu : unfinished s core ctx with _ | ⟨x, t⟩
  · exact absurd hu h
  · obtain ⟨-, -, heq⟩ := foldl_min_spec (fun x : Job => x.n) t x.n
    rcases heq with heq | ⟨y, hy, heq⟩
    · exact ⟨x, List.mem_cons_self, heq⟩
    · exact ⟨y, List.mem_cons_of_mem _ hy, heq⟩

theorem mem_unfinished {ctx : Nat} {j : Job} : j ∈ unfinished s core ctx ↔
    j ∈ s.jobs ∧ j.kind ≠ 0 ∧ j.core = core ∧ j.ctx = ctx ∧ j.state ≠ .done := by
  simp only [unfinished_eq, List.mem_filter, Bool.and_eq_true, bne_iff_ne, beq_iff_eq, ne_eq, and_assoc]

theorem exec_mxq (d : Fin 32) (s : State) : exec (.mxq d) s = execMxq d s := rfl

/-- MXQ's number. -/
theorem queueWord_eq (s : State) (core ctx : Nat) : queueWord s core ctx = BitVec.ofNat 64 (
    (32 - (queuedJobs s (flockOf core)).length) +
    min 32 ((queuedJobs s (flockOf core)).filter (fun j => j.core == core)).length * 2 ^ 8 +
    min 1024 (unfinished s core ctx).length * 2 ^ 16 + oldestNumber s core ctx % 65536 * 2 ^ 32) := by
  change word (oldestNumber s core ctx % 65536 * 2 ^ 32 + min (unfinished s core ctx).length 1024 * 2 ^ 16 +
    min ((queuedJobs s (flockOf core)).filter (fun j => j.core == core)).length 32 * 2 ^ 8 +
    (32 - (queuedJobs s (flockOf core)).length)) = _
  rw [word]
  congr 1
  omega

theorem mxq_ended (h : Issues s core slot iss o) (d : Fin 32) : exec (.mxq d) s =
    .next (ended s core slot o (gWrite (slotAt s core slot) d (queueWord s core (slotAt s core slot).ctx)) iss.after) := by
  rw [exec_mxq, execMxq, cWord_act h rfl, finishBundle_ended h]
  rfl

/-! ## The words together -/

/-- MXMA, MXMAB, MXLD, MXST, MXZERO and MXQ. -/
theorem matrixWords : MatrixWords := by
  intro s core slot iss o h d a n
  have hopen := unfinished_eq s core (slotAt s core slot).ctx
  have hqueue := queuedJobs_eq s core
  simp only [← hopen, ← hqueue]
  refine ⟨fun i hi => ?_, fun hn => ⟨transferWord_illegal h (exec_mxld a n s) hn, transferWord_illegal h (exec_mxst a n s) hn,
    mxzero_illegal h hn⟩, fun hn hb => ⟨transferWord_barred h (exec_mxld a n s) hn hb, transferWord_barred h (exec_mxst a n s) hn hb⟩,
    fun hn hb ha => ⟨transferWord_misaligned h (exec_mxld a n s) hn hb ha, transferWord_misaligned h (exec_mxst a n s) hn hb ha⟩,
    fun hn hb ha => ⟨fun he => ⟨transferWord_noEntry h (exec_mxld a n s) hn hb ha he, transferWord_noEntry h (exec_mxst a n s) hn hb ha he⟩,
      fun he => ⟨transferWord_waits h (exec_mxld a n s) hn hb ha he, transferWord_waits h (exec_mxst a n s) hn hb ha he⟩⟩,
    fun hn => mxzero_rules h hn, oldestNumber s core (slotAt s core slot).ctx, ?_, fun j hj hk hc hx hs => ?_, fun ho => ?_, fun ho => ?_⟩
  · obtain ⟨k, hexec⟩ := exec_shapeWord s hi
    refine ⟨shapeWord_structFails h hexec, fun t bs us hr => ?_⟩
    obtain ⟨hnone, hsome⟩ := shapeWord_rules h hexec hr
    refine ⟨hnone, fun fa fb acc n hf => ?_⟩
    obtain ⟨hreserved, hbad, hwait⟩ := hsome fa fb acc n hf
    refine ⟨hreserved, hbad, fun hc hb => ⟨(hwait hc hb).1, (hwait hc hb).2, fun hroom hentry => ⟨?_, ?_, ?_⟩⟩⟩
    · rintro rfl
      exact mxma_starts h hr hf hc hb hroom hentry
    · rintro rfl hm
      obtain ⟨u, hu, hwaits, -⟩ := mxmab_starts h hr hf hc hb hroom hentry
      rw [hu, hwaits hm]; rfl
    · rintro rfl
      obtain ⟨u, hu, -, hkeeps⟩ := mxmab_starts h hr hf hc hb hroom hentry
      exact ⟨u, hu, hkeeps⟩
  · rw [mxq_ended h, queueWord_eq]
  · exact oldestNumber_le (mem_unfinished.mpr ⟨hj, hk, hc, hx, hs⟩)
  · obtain ⟨j, hj, hn⟩ := oldestNumber_mem (s := s) (core := core) (ctx := (slotAt s core slot).ctx)
      (fun he => ho (by rw [he]; rfl))
    obtain ⟨hmem, hk, hc, hx, hs⟩ := mem_unfinished.mp hj
    exact ⟨j, hmem, hk, hc, hx, hs, hn⟩
  · unfold oldestNumber
    rw [List.length_eq_zero_iff.mp ho]

end Sys2Proof.Proofs

/-! PROOF. An integer step of the matrix engine: exact sums of products modulo 2^32 (R65, R66, R223). -/

namespace Sys2Proof.Proofs

open Sys2Proof.Machine Sys2Proof.Certificates

/-! ## Lists of a tile -/

theorem eq_map_getD {α : Type} {l : List α} {n : Nat} (h : l.length = n) (d : α) : l = (List.range n).map (fun i => l.getD i d) := by
  subst h
  refine List.ext_getElem (by simp) fun i hi _ => ?_
  simp [hi]

theorem zip_flatMap {ι α β : Type} (l : List ι) (f : ι → List α) (g : ι → List β) (h : ∀ i, (f i).length = (g i).length) :
    (l.flatMap f).zip (l.flatMap g) = l.flatMap (fun i => (f i).zip (g i)) := by
  induction l with
  | nil => rfl
  | cons i l ih => rw [List.flatMap_cons, List.flatMap_cons, List.flatMap_cons, List.zip_append (h i), ih]

/-- The pairs of rows and columns of a tile with its values, row by row. -/
theorem zip_tile {α β : Type} {a : List α} {b : List β} {m n : Nat} (ha : a.length = m) (hb : b.length = n) (x : α) (y : β)
    (v : Nat → Nat → Nat) :
    (a.flatMap (fun x => b.map (fun y => (x, y)))).zip ((List.range m).flatMap (fun i => (List.range n).map (v i))) =
      (List.range m).flatMap (fun i => (List.range n).map (fun j => ((a.getD i x, b.getD j y), v i j))) := by
  conv_lhs => rw [eq_map_getD ha x, eq_map_getD hb y]
  rw [List.flatMap_map, zip_flatMap _ _ _ (fun i => by simp)]
  congr 1
  funext i
  rw [List.map_map, List.zip_map']
  rfl

/-! ## Integer sums of products -/

/-- A sum of products of two rows does not change where a row ends and zeros follow. -/
theorem foldl_products (f g : Nat → Int) (hf : f 0 = 0) (hg : g 0 = 0) (n : Nat) (x y : List Nat) (z : Int) :
    ((x.take n).zip (y.take n)).foldl (fun s p => s + f p.1 * g p.2) z =
      z + ((List.range n).map (fun k => f (x.getD k 0) * g (y.getD k 0))).sum := by
  induction n generalizing x y z with
  | zero => simp
  | succ n ih =>
    rw [List.range_succ_eq_map, List.map_cons, List.sum_cons, List.map_map]
    rcases x with _ | ⟨a, x⟩
    · simp [hf, Function.comp_def]
    · rcases y with _ | ⟨b, y⟩
      · simp [hg, Function.comp_def]
      · rw [List.take_succ_cons, List.take_succ_cons, List.zip_cons_cons, List.foldl_cons, ih]
        simp [Function.comp_def, Int.add_assoc]

theorem elemInt_zero {f : Elem} (h : f = .int8 ∨ f = .uint8 ∨ f = .int16) : elemInt f 0 = 0 := by
  rcases h with rfl | rfl | rfl <;> rfl

/-! ## An integer step -/

theorem elemOf_int32 {c : Nat} (h : elemOf c = some .int32) : c = 2 := by
  unfold elemOf at h
  split at h <;> simp_all

theorem classOf_int32 {f : Elem} {k n : Nat} (h : classOf f = some (k, n, 2)) :
    k = 4 ∧ n = 32 ∧ (f = .int8 ∨ f = .uint8 ∨ f = .int16) := by
  cases f <;> simp_all [classOf]

theorem classOf_four {f : Elem} {n c : Nat} (h : classOf f = some (4, n, c)) : f = .int8 ∨ f = .uint8 ∨ f = .int16 := by
  cases f <;> simp_all [classOf]

/-- Formats whose accumulator is INT32 are 8- or 16-bit integers in groups of 32 (Table 3.6). -/
theorem matFormats_int32 {fdA fdB : Word} {fa fb : Elem} {n : Nat} (h : matFormats fdA fdB = some (fa, fb, .int32, n)) :
    n = 32 ∧ (fa = .int8 ∨ fa = .uint8 ∨ fa = .int16) ∧ (fb = .int8 ∨ fb = .uint8 ∨ fb = .int16) := by
  unfold matFormats at h
  rcases ha : fdElem fdA with _ | fa' <;> rcases hb : fdElem fdB with _ | fb' <;>
    rcases hc : elemOf (bitsNat fdA 7 4) with _ | acc <;> simp only [ha, hb, hc, reduceCtorEq] at h
  rcases hka : classOf fa' with _ | ⟨ka, na, code⟩ <;> rcases hkb : classOf fb' with _ | ⟨kb, nb, code'⟩ <;>
    simp only [hka, hkb, reduceCtorEq] at h
  split at h
  case isFalse => cases h
  case isTrue hk =>
    cases h
    obtain ⟨hk, hcode⟩ := hk
    rw [elemOf_int32 hc] at hcode
    subst hcode hk
    obtain ⟨rfl, hn, hfa⟩ := classOf_int32 hka
    exact ⟨hn, hfa, classOf_four hkb⟩

/-- An integer group over a tile takes no random bits. -/
theorem groupTile_int32 (fa fb : Elem) (core group mode n k : Nat) (l : List ((List Nat × Nat) × (List Nat × Nat) × Nat))
    (seed : Nat) : (groupTile .int32 fa fb core group mode false n k l seed).1 = l.map (fun p =>
      ((elemInt .int32 p.2.2 + intDot fa fb (((p.1.1.drop (k * n)).take n).zip ((p.2.1.1.drop (k * n)).take n))) % 2 ^ 32).toNat) := by
  induction l generalizing seed with
  | nil => rfl
  | cons p l ih =>
    obtain ⟨x, y, v⟩ := p
    rw [List.map_cons, ← ih seed]
    rfl

/-- The values after an integer step. -/
theorem stepTile_int32 (core : Nat) (m : MatJob) (acc : Accum) (a b : Panel) (fa fb : Elem) (n : Nat)
    (hf : matFormats m.fdA m.fdB = some (fa, fb, .int32, n)) (hsat : m.fdA.getLsbD 9 = false)
    (ha : a.length = m.shape.m) (hb : b.length = m.shape.n) :
    (stepTile core m acc a b).1 = (List.range m.shape.m).flatMap (fun i => (List.range m.shape.n).map (fun j =>
      ((elemInt .int32 (acc.at i j) + ((List.range 32).map (fun k =>
        elemInt fa ((a.getD i ([], 0)).1.getD k 0) * elemInt fb ((b.getD j ([], 0)).1.getD k 0))).sum) % 2 ^ 32).toNat)) := by
  obtain ⟨rfl, hfa, hfb⟩ := matFormats_int32 hf
  have hsat' : bitAt m.fdA 9 = false := hsat
  have hstep : (stepTile core m acc a b).1 = (groupTile .int32 fa fb core (32 * m.step / 32 + 0) m.mode false 32 0
      (((a.flatMap (fun x => b.map (fun y => (x, y)))).zip
        ((List.range m.shape.m).flatMap (fun i => (List.range m.shape.n).map (acc.at i)))).map
          (fun p => (p.1.1, p.1.2, p.2))) (m.rseed.toNat % 2 ^ 32)).1 := by
    simp only [stepTile, hf, hsat']
    rfl
  rw [hstep, groupTile_int32, zip_tile ha hb ([], 0) ([], 0) acc.at, List.map_map, List.map_flatMap]
  congr 1
  funext i
  rw [List.map_map]
  refine List.map_congr_left fun j _ => ?_
  have := foldl_products (elemInt fa) (elemInt fb) (elemInt_zero hfa) (elemInt_zero hfb) 32
    (a.getD i ([], 0)).1 (b.getD j ([], 0)).1 0
  simp only [Function.comp_apply, Nat.zero_mul, List.drop_zero, intDot, this, Int.zero_add]

end Sys2Proof.Proofs

/-! PROOF. Steps of an engine: pieces put together, and a step that is made whole (R236, R333). -/

namespace Sys2Proof.Proofs

open Sys2Proof.Machine Sys2Proof.Certificates

variable {α β : Type} {s : State}

/-! ## Pieces put together -/

theorem eThen_done {f : Eng α} {g : α → Eng β} {a : α} {b : β} {us vs : List Upd} (hf : f s = .done a us)
    (hg : g a (applyAll s us) = .done b vs) : eThen f g s = .done b (us ++ vs) := by
  simp only [eThen, hf, hg]

theorem eThen_done_iff {f : Eng α} {g : α → Eng β} {b : β} {ws : List Upd} : eThen f g s = .done b ws ↔
    ∃ a us vs, f s = .done a us ∧ g a (applyAll s us) = .done b vs ∧ ws = us ++ vs := by
  constructor
  · intro h
    unfold eThen at h
    rcases hf : f s with ⟨a, us⟩ | _ | _ <;> simp only [hf, reduceCtorEq] at h
    rcases hg : g a (applyAll s us) with ⟨b', vs⟩ | _ | _ <;> simp only [hg, reduceCtorEq] at h
    cases h
    exact ⟨a, us, vs, rfl, hg, rfl⟩
  · rintro ⟨a, us, vs, hf, hg, rfl⟩
    exact eThen_done hf hg

theorem eGive_done_iff {a b : α} {us : List Upd} : eGive a s = .done b us ↔ a = b ∧ us = [] := by
  simp [eGive, eq_comm]

/-! ## What pieces leave alone -/

/-- A piece of an engine's step that leaves slots, jobs, requests and rings alone. -/
structure QuietEng (e : Eng α) : Prop where
  beside : ∀ s v us, e s = .done v us → Beside s (applyAll s us)

namespace QuietEng

theorem give (a : α) : QuietEng (eGive a) := ⟨fun s v us h => by
  obtain ⟨-, rfl⟩ := eGive_done_iff.mp h
  exact .refl s⟩

theorem andThen {f : Eng α} {g : α → Eng β} (hf : QuietEng f) (hg : ∀ a, QuietEng (g a)) : QuietEng (eThen f g) :=
  ⟨fun s v us h => by
    obtain ⟨a, us, vs, hfa, hga, rfl⟩ := eThen_done_iff.mp h
    rw [applyAll_append]
    exact (hf.beside s a us hfa).trans ((hg a).beside _ v vs hga)⟩

theorem each {f : α → Eng β} (hf : ∀ a, QuietEng (f a)) (l : List α) : QuietEng (eEach f l) := by
  induction l with
  | nil => exact give _
  | cons a l ih => exact andThen (hf a) fun b => andThen ih fun bs => give _

theorem readLine (w : Party) (r : State → Reader) (addr : Word) (n : Nat) : QuietEng (eReadLine w r addr n) :=
  ⟨fun s v us h => by
    rcases hr : w.reach s addr .read with c | ⟨t, f⟩
    · rcases c with _ | c <;> simp [eReadLine, hr] at h
    · rcases hb : badBytes s w.ctx t n with _ | _
      · rcases hx : routedRead s (r s) w.core w.ctx t n with _ | x
        · simp [eReadLine, hr, hb, hx] at h
        · rw [eReadLine_found hr r hb hx] at h
          cases h
          exact ((quiet_of_onlyWalks (reached_onlyWalks hr)).andThen (Quiet.saw w addr t n x)).beside s
      · simp [eReadLine, hr, hb] at h⟩

theorem writeLine (w : Party) (addr : Word) (bs : List Byte) : QuietEng (eWriteLine w addr bs) :=
  ⟨fun s v us h => by
    rcases hr : w.reach s addr .write with c | ⟨t, f⟩
    · rcases c with _ | c <;> simp [eWriteLine, hr] at h
    · have hf := quiet_of_onlyWalks (reached_onlyWalks hr)
      rcases hu : unreachable s t with _ | _
      · rcases hd : dieBusy s (dieOf w.core) (locOf w.ctx t) bs.length with _ | _
        · rcases hg : performWrite s w.ctx t (w.writer s) bs with _ | g
          · simp [eWriteLine, hr, hu, hd, hg] at h
          · simp only [eWriteLine, hr, hu, hd, hg, Bool.false_eq_true, if_false] at h
            cases h
            exact (hf.andThen ((Quiet.countWrite _).andThen ((Quiet.performWrite hg).andThen
              ((Quiet.touchAll ..).andThen .skip)))).beside s
        · simp [eWriteLine, hr, hu, hd] at h
      · simp only [eWriteLine, hr, hu, if_true] at h
        cases h
        exact (hf.andThen (Quiet.lostEngineWrite w addr)).beside s⟩

theorem read (w : Party) (addr : Word) (n : Nat) : QuietEng (eRead w addr n) :=
  andThen (each (fun _ => readLine ..) _) fun _ => give _

theorem nat (w : Party) (addr : Word) (n : Nat) : QuietEng (eNat w addr n) := andThen (read ..) fun _ => give _

theorem write (w : Party) (addr : Word) (bs : List Byte) : QuietEng (eWrite w addr bs) :=
  andThen (each (fun _ => writeLine ..) _) fun _ => give _

theorem panel (j : Job) (o : Operand) (groups step : Nat) (rows : List Word) : QuietEng (readPanel j o groups step rows) :=
  andThen (each (fun _ => andThen (read ..) fun _ => give _) _) fun _ => andThen (each (fun _ => nat ..) _) fun _ => give _

end QuietEng

/-- Paying for lines leaves slots, jobs, requests and rings alone. -/
theorem payLines_beside {w : Party} {l : List (Word × Nat × Access)} {paid p : List Nat} {b : Bool} {us : List Upd}
    (h : payLines w l paid s = (b, p, us)) : Beside s (applyAll s us) := by
  induction l generalizing s paid p b us with
  | nil => cases h; exact .refl s
  | cons x l ih =>
    obtain ⟨addr, n, k⟩ := x
    rcases hr : w.reach s addr k with c | ⟨t, f⟩
    · simp only [payLines, hr] at h
      cases h; exact .refl s
    · simp only [payLines, hr] at h
      split at h
      · exact ih h
      · split at h
        · cases h; exact .refl s
        · rename_i g hg
          rcases hrest : payLines w l (lineOf (keyOf t) :: paid) (applyAll s (andThen f g s)) with ⟨ok, p2, vs⟩
          rw [hrest] at h
          cases h
          rw [applyAll_append]
          exact (((quiet_of_onlyWalks (reached_onlyWalks hr)).andThen (payOut_quiet hg)).beside s).trans (ih hrest)

/-! ## A step made whole -/

/-- A step of a job that is made whole: what it pays and what it does, and then nothing more is paid. -/
theorem after_jobStep {j : Job} {spans : Job → State → List Span} {f : Job → Eng Unit} (hj : jobAt s j.order = some j)
    {p : List Nat} {us vs : List Upd}
    (hpay : payLines j.party ((spans j s).flatMap (fun x => (piecesOf x.addr x.len).map (fun q => (q.1, q.2, x.kind)))) j.paid s =
      (true, p, us)) (hf : f j (applyAll s us) = .done () vs) :
    after (jobStep j.order spans f) s =
      after (modJob j.order (fun x => { x with paid := [] })) (applyAll (applyAll s us) vs) := by
  simp only [jobStep, after_ask, hj, hpay, hf, Bool.not_true, Bool.false_eq_true, if_false, after_doAll_cons, after_doAll_nil,
    after_const]

/-- A whole step leaves alone what its pieces leave alone. -/
theorem beside_of_whole {j : Job} {spans : List Span} {f : Eng α} {v : α} {u : State} (h : Whole s j spans f v u)
    (hf : QuietEng f) : Beside s u := by
  obtain ⟨p, us, vs, hpay, hdone, rfl⟩ := h
  exact (payLines_beside hpay).trans (hf.beside _ v vs hdone)

/-- A step that goes on by `ws` from a whole step of its accesses. -/
theorem after_jobStep_whole {j : Job} {spans : Job → State → List Span} {f : Job → Eng Unit} {g : Eng α} {v : α} {u : State}
    (hj : jobAt s j.order = some j) (hw : Whole s j (spans j s) g v u) {ws : List Upd}
    (hf : ∀ z vs, g z = .done v vs → applyAll z vs = u → f j z = .done () (vs ++ ws)) :
    after (jobStep j.order spans f) s = after (modJob j.order (fun x => { x with paid := [] })) (applyAll u ws) := by
  obtain ⟨p, us, vs, hpay, hdone, rfl⟩ := hw
  rw [after_jobStep hj hpay (hf _ vs hdone rfl), applyAll_append]

/-! ## Jobs changed -/

theorem after_modJob (order : Nat) (f : Job → Job) (s : State) :
    after (modJob order f) s = { s with jobs := s.jobs.map (fun x => if x.order = order then f x else x) } := rfl

/-- A job changed, as it is then found. -/
theorem jobAt_modJob (order : Nat) (f : Job → Job) (h : ∀ x, (f x).order = x.order) (s : State) :
    jobAt (after (modJob order f) s) order = (jobAt s order).map f := by
  rw [after_modJob, jobAt, List.find?_map]
  have hp : ((fun j : Job => j.order == order) ∘ fun x => if x.order = order then f x else x) = fun j => j.order == order := by
    funext x
    simp only [Function.comp_apply]
    split <;> simp [h]
  rw [hp, jobAt]
  rcases hx : s.jobs.find? (fun j => j.order == order) with _ | x <;> rw [hx]
  · rfl
  · have : x.order = order := by simpa using List.find?_some hx
    simp [this]

/-- A matrix job changed. -/
theorem jobAt_modMat {order : Nat} {j : Job} {m : MatJob} (hj : jobAt s order = some j) (hb : j.body = .matrix m)
    (f : MatJob → MatJob) : jobAt (after (modMat order f) s) order = some { j with body := .matrix (f m) } := by
  rw [modMat, jobAt_modJob _ _ (fun x => by split <;> rfl), hj]
  simp [hb]

/-! ## Rings changed -/

theorem ringAt_of_cores {u t : State} (h : t.cores = u.cores) (core ctx n : Nat) : ringAt t core ctx n = ringAt u core ctx n := by
  rw [ringAt, coreAt, h]; rfl

theorem jobAt_of_jobs {u t : State} (h : t.jobs = u.jobs) (order : Nat) : jobAt t order = jobAt u order := by
  rw [jobAt, h]; rfl

theorem jobAccum_of_flocks {u t : State} (h : t.flocks = u.flocks) (j : Job) (n : Nat) : jobAccum t j n = jobAccum u j n := by
  rw [jobAccum, flockAt, h]; rfl

theorem ringAt_lt {core ctx n : Nat} {r : Ring} (h : ringAt s core ctx n = some r) : n < 16 := by
  by_contra hn
  simp only [ringAt, Option.bind_eq_some_iff] at h
  obtain ⟨x, -, hx⟩ := h
  rw [List.getD_eq_default _ _ (by simp; omega)] at hx
  cases hx

end Sys2Proof.Proofs

/-! PROOF. Panels and steps of the matrix engine (R221–R224, R236). -/

namespace Sys2Proof.Proofs

open Sys2Proof.Machine Sys2Proof.Certificates

variable {s : State} {flock : Nat} {j : Job} {m : MatJob}

/-! ## Rings replaced -/

/-- What a ring's replacement does to a resident context. -/
theorem residentOf_setRing (core ctx n : Nat) (v : Ring) (s : State) :
    residentOf (coreAt (after (setRing core ctx n v) s) core) ctx = (residentOf (coreAt s core) ctx).map (fun r =>
      if h : n < 16 then { r with rings := r.rings.set n (some v) h } else r) :=
  residentOf_modResident core ctx _ (fun r => by split <;> rfl) s

theorem ringAt_setRing_same {core ctx n : Nat} {r : Ring} (h : ringAt s core ctx n = some r) (v : Ring) :
    ringAt (after (setRing core ctx n v) s) core ctx n = some v := by
  have hn := ringAt_lt h
  rw [ringAt, residentOf_setRing]
  rcases hx : residentOf (coreAt s core) ctx with _ | x
  · simp [ringAt, hx] at h
  · simp [hn]

theorem ringAt_setRing_other {core ctx n k : Nat} (h : k ≠ n) (v : Ring) :
    ringAt (after (setRing core ctx n v) s) core ctx k = ringAt s core ctx k := by
  rw [ringAt, residentOf_setRing, ringAt]
  rcases residentOf (coreAt s core) ctx with _ | x
  · rfl
  · simp only [Option.map_some, Option.bind_some]
    split
    · simp [List.getD_eq_getElem?_getD, h.symm]
    · rfl

/-! ## The job whose panel is fetched next -/

/-- A ring that may be fed is one that the job's context has loaded. -/
theorem ringAt_of_feedable {x : Operand × Nat × Ring} (h : x ∈ feedable s j m) : ringAt s j.core j.ctx x.2.1 = some x.2.2 := by
  simp only [feedable, List.mem_filterMap] at h
  obtain ⟨o, -, ho⟩ := h
  rcases hf : o.feed with n | n | _ <;> simp only [hf, reduceCtorEq] at ho
  rcases hr : ringAt s j.core j.ctx n with _ | r <;> simp only [hr, reduceCtorEq] at ho
  simp only [Option.ite_none_right_eq_some, Option.some.injEq] at ho
  obtain ⟨-, rfl⟩ := ho
  exact hr

theorem ringAt_of_panelMovers {core : Nat} {o : Operand} {n : Nat} {r : Ring} (h : Mover.panel j m o n r ∈ panelMovers s core) :
    ringAt s j.core j.ctx n = some r := by
  simp only [panelMovers, List.mem_flatMap] at h
  obtain ⟨x, -, hx⟩ := h
  rcases hb : x.body <;> simp only [hb, List.not_mem_nil, List.mem_map] at hx
  obtain ⟨y, hy, heq⟩ := hx
  cases heq
  exact ringAt_of_feedable hy

theorem mem_of_nextMover {x : Mover} (h : nextMover s flock = some x) : ∃ core, x ∈ turnMovers s core := by
  simp only [nextMover, List.findSome?_map] at h
  obtain ⟨k, -, hk⟩ := List.exists_of_findSome?_eq_some h
  simp only [Function.comp_apply] at hk
  split at hk
  · rename_i y hy
    cases hk
    exact ⟨_, List.mem_of_find?_eq_some hy⟩
  · exact ⟨_, List.mem_of_head? hk⟩

/-- The copy unit feeds a ring that is loaded. -/
theorem ringAt_of_nextMover {o : Operand} {n : Nat} {r : Ring} (h : nextMover s flock = some (.panel j m o n r)) :
    ringAt s j.core j.ctx n = some r := by
  obtain ⟨core, hx⟩ := mem_of_nextMover h
  rw [turnMovers, mem_sortOn, List.mem_append] at hx
  rcases hx with hx | hx
  · simp only [List.mem_filterMap] at hx
    obtain ⟨y, -, hy⟩ := hx
    rcases hb : y.body <;> simp only [hb, reduceCtorEq] at hy
    split at hy <;> cases hy
  · exact ringAt_of_panelMovers hx

/-! ## A panel's turn (R221, R236) -/

theorem exec_matrixPanelFetch (flock : Nat) (s : State) : exec (.matrixPanelFetch flock) s = execMatrixPanelFetch flock s := rfl

theorem tookTurn_quiet (flock : Nat) (x : Mover) : Quiet (tookTurn flock x) :=
  .andThen (.modFlock ..) (.modCore _ fun _ => rfl)

theorem fed_eq (m : MatJob) (o : Operand) (n : Nat) (last : Bool) : m.fed o n last =
    if o.isA then (if last then { m with rowsA := 0, fedA := m.fedA + 1 } else { m with rowsA := (if o.isA then m.rowsA else m.rowsB) + n })
    else (if last then { m with rowsB := 0, fedB := m.fedB + 1 } else { m with rowsB := (if o.isA then m.rowsA else m.rowsB) + n }) := by
  rcases ha : o.isA with _ | _ <;> cases last <;> simp [MatJob.fed, ha]

/-- A panel's rows have come into its ring's tile: what is noted of it. -/
def panelNoted (j : Job) (o : Operand) (n : Nat) (r : Ring) (rows : Nat) (last : Bool) : Micro :=
  andThen (onlyIf last (setRing j.core j.ctx n (r.advance 1 0 (0, 0, [])))) (modMat j.order (fun x => x.fed o rows last))

theorem panelNoted_spec {o : Operand} {n : Nat} {r : Ring} {rows : Nat} {last : Bool} {w : State}
    (hr : ringAt w j.core j.ctx n = some r) (hj : jobAt w j.order = some j) (hb : j.body = .matrix m) :
    let t := after (modJob j.order (fun x => { x with paid := [] })) (after (panelNoted j o n r rows last) w)
    SameMemory w t ∧ ringAt t j.core j.ctx n = (if last then some (r.advance 1 0 (0, 0, [])) else some r) ∧
    (jobAt t j.order).map (fun x => x.body) = some (.matrix (m.fed o rows last)) := by
  intro t
  set v := after (onlyIf last (setRing j.core j.ctx n (r.advance 1 0 (0, 0, [])))) w with hv
  have ht : t = after (modJob j.order (fun x => { x with paid := [] })) (after (modMat j.order (fun x => x.fed o rows last)) v) := by
    simp only [t, panelNoted, after_andThen, hv]
  have hring : ringAt v j.core j.ctx n = (if last then some (r.advance 1 0 (0, 0, [])) else some r) := by
    cases last
    · exact hr
    · exact ringAt_setRing_same hr _
  have hvj : jobAt v j.order = some j := by
    cases last <;> exact hj
  have hmem : SameMemory w v := by
    cases last <;> exact ⟨rfl, fun _ => rfl⟩
  refine ⟨?_, ?_, ?_⟩
  · rw [ht]; exact hmem
  · rw [ht]; exact (ringAt_of_cores rfl ..).trans hring
  · rw [ht, jobAt_modJob j.order (fun x => { x with paid := [] }) (fun _ => rfl), jobAt_modMat hvj hb]
    rfl

/-- A panel's turn that is made whole. -/
theorem matrixPanelFetch_whole (hup : flockUp s flock = true) {o : Operand} {k : Nat} {r : Ring}
    (hn : nextMover s flock = some (.panel j m o k r)) (hj : jobAt s j.order = some j) :
    let size := panelRow o.fmt
    let had := if o.isA then m.rowsA else m.rowsB
    let rows := ((o.memRows (if o.isA then m.fedA else m.fedB)).drop had).take (256 / size)
    let last := decide (o.rows ≤ had + rows.length)
    ∀ (l : List (List Byte)) (u w : State),
    Whole (after (tookTurn flock (.panel j m o k r)) s) j (rows.map (fun a => { addr := a, len := size, kind := .read }))
      (eEach (fun a => eRead j.party a size) rows) l u →
    (∃ vs, eWrite j.party (word (r.base + r.tail % r.count * r.size + had * size)) l.flatten u = .done () vs ∧ w = applyAll u vs) →
    exec (.matrixPanelFetch flock) s = .next (after (modJob j.order (fun x => { x with paid := [] }))
      (after (panelNoted j o k r rows.length last) w)) ∧
    ringAt w j.core j.ctx k = some r ∧ jobAt w j.order = some j := by
  intro size had rows last l u w hw hwrite
  obtain ⟨ws, hdone, rfl⟩ := hwrite
  have htook := (tookTurn_quiet flock (.panel j m o k r)).beside s
  have hread : QuietEng (eEach (fun a => eRead j.party a size) rows) := .each (fun _ => .read ..) _
  have hbeside : Beside s (applyAll u ws) :=
    (htook.trans (beside_of_whole hw hread)).trans ((QuietEng.write ..).beside _ _ _ hdone)
  refine ⟨?_, (hbeside.ringAt ..).trans (ringAt_of_nextMover hn), (hbeside.jobAt _).trans hj⟩
  have hstep : exec (.matrixPanelFetch flock) s =
      .next (after (fetchPanel j m o k r) (after (tookTurn flock (.panel j m o k r)) s)) := by
    rw [exec_matrixPanelFetch, execMatrixPanelFetch, flockStep_up _ hup, after_ask]
    simp only [hn, after_andThen]
  rw [hstep, fetchPanel]
  refine congrArg Host.Outcome.next (after_jobStep_whole ((htook.jobAt _).trans hj) hw
    (ws := ws ++ panelNoted j o k r rows.length last (applyAll u ws)) (fun z vs hz hu => ?_) |>.trans ?_)
  · subst hu
    exact eThen_done hz (eThen_done hdone rfl)
  · rw [applyAll_append]; rfl

/-! ## Rings popped -/

/-- One ring popped. -/
def popRing (core ctx : Nat) (feed : Feed) : Micro := ask (fun s =>
  match feed.ring with
  | none => skip
  | some n => match ringAt s core ctx n with
    | none => skip
    | some r => setRing core ctx n (r.advance 0 1 (0, 0, [])))

theorem popRings_eq (j : Job) (m : MatJob) :
    popRings j m = doAll (m.operands.map (fun o => popRing j.core j.ctx o.feed)) := rfl

/-- Two states agree but for the cores. -/
def ButForCores (t u : State) : Prop := { t with cores := u.cores } = u

theorem ButForCores.trans {t u v : State} (h : ButForCores t u) (g : ButForCores u v) : ButForCores t v := by
  cases t; cases u; cases v; simp [ButForCores] at *; simp_all

theorem ButForCores.keeps {t u : State} (h : ButForCores t u) :
    t.mem = u.mem ∧ t.poison = u.poison ∧ t.flocks = u.flocks ∧ t.jobs = u.jobs ∧ t.records = u.records := by
  cases t; cases u; simp [ButForCores] at *; simp_all

/-- Popping changes nothing but the cores' rings. -/
theorem popRing_cores (core ctx : Nat) (feed : Feed) (s : State) : ButForCores (after (popRing core ctx feed) s) s := by
  simp only [popRing, after_ask]
  rcases feed.ring with _ | n
  · rfl
  · dsimp only
    split <;> rfl

theorem popRing_same {core ctx k : Nat} {feed : Feed} (hf : feed.ring = some k) {r : Ring} (hr : ringAt s core ctx k = some r) :
    ringAt (after (popRing core ctx feed) s) core ctx k = some (r.advance 0 1 (0, 0, [])) := by
  simp only [popRing, after_ask, hf, hr]
  exact ringAt_setRing_same hr _

theorem popRing_other {core ctx k : Nat} {feed : Feed} (hf : feed.ring ≠ some k) :
    ringAt (after (popRing core ctx feed) s) core ctx k = ringAt s core ctx k := by
  simp only [popRing, after_ask]
  rcases hn : feed.ring with _ | n
  · rfl
  · dsimp only
    split
    · rfl
    · exact ringAt_setRing_other (fun h => hf (by rw [hn, h])) _

/-- The rings of two operands that a state has popped since another. -/
def Popped (j : Job) (oa ob : Operand) (u t : State) : Prop :=
  ∀ o ∈ [oa, ob], ∀ k r, o.feed.ring = some k → oa.feed.ring ≠ ob.feed.ring →
    ringAt u j.core j.ctx k = some r → ringAt t j.core j.ctx k = some (r.advance 0 1 (0, 0, []))

theorem popRings_popped {oa ob : Operand} (ho : m.operands = [oa, ob]) (s : State) :
    Popped j oa ob s (after (popRings j m) s) := by
  have hafter : after (popRings j m) s =
      after (popRing j.core j.ctx ob.feed) (after (popRing j.core j.ctx oa.feed) s) := by
    simp only [popRings_eq, ho, List.map_cons, List.map_nil, after_doAll_cons, after_doAll_nil]
  intro o hmem k r hk hne hr
  rw [hafter]
  simp only [List.mem_cons, List.not_mem_nil, or_false] at hmem
  rcases hmem with rfl | rfl
  · rw [popRing_other (fun h => hne (hk.trans h.symm))]
    exact popRing_same hk hr
  · exact popRing_same hk ((popRing_other (fun h => hne (h.trans hk.symm))).trans hr)

theorem popRings_cores {oa ob : Operand} (ho : m.operands = [oa, ob]) (s : State) :
    ButForCores (after (popRings j m) s) s := by
  simp only [popRings_eq, ho, List.map_cons, List.map_nil, after_doAll_cons, after_doAll_nil]
  exact (popRing_cores ..).trans (popRing_cores ..)

/-! ## The end of a step -/

/-- A step's rings are popped, and it is counted. -/
def closeStep (j : Job) (m : MatJob) : Micro := andThen (popRings j m) (modMat j.order (fun x => { x with step := x.step + 1 }))

theorem closeStep_spec {oa ob : Operand} (ho : m.operands = [oa, ob]) {z : Job} {mz : MatJob}
    (hz : jobAt s j.order = some z) (hb : z.body = .matrix mz) :
    let t := after (closeStep j m) s
    Popped j oa ob s t ∧ t.flocks = s.flocks ∧ t.records = s.records ∧ SameMemory s t ∧
      jobAt t j.order = some { z with body := .matrix { mz with step := mz.step + 1 } } := by
  intro t
  obtain ⟨hmem, hpoison, hflocks, hjobs, hrecords⟩ := (popRings_cores (j := j) ho s).keeps
  have ht : t = after (modMat j.order (fun x => { x with step := x.step + 1 })) (after (popRings j m) s) := after_andThen ..
  refine ⟨fun o hmem k r hk hne hr => ?_, ?_, ?_, ?_, ?_⟩
  · rw [ht]
    exact (ringAt_of_cores rfl ..).trans (popRings_popped ho s o hmem k r hk hne hr)
  · rw [ht]; exact hflocks
  · rw [ht]; exact hrecords
  · rw [ht]
    exact ⟨hpoison, fun x => congrArg (fun l => memRead l x) hmem⟩
  · rw [ht]
    exact jobAt_modMat ((jobAt_of_jobs hjobs _).trans hz) hb (fun x => { x with step := x.step + 1 })

/-! ## Values of an accumulator -/

theorem getD_flatMap_range {α : Type} (g : Nat → Nat → α) (d : α) (n : Nat) {a i k : Nat} (hi : i < a) (hk : k < n) :
    ((List.range a).flatMap (fun i => (List.range n).map (g i))).getD (i * n + k) d = g i k := by
  induction a with
  | zero => omega
  | succ a ih =>
    have hlen : ((List.range a).flatMap (fun i => (List.range n).map (g i))).length = a * n := by simp
    rw [List.range_succ, List.flatMap_append, List.getD_eq_getElem?_getD]
    rcases Nat.lt_succ_iff_lt_or_eq.mp hi with hlt | rfl
    · have : i * n + k < a * n := by nlinarith
      rw [List.getElem?_append_left (by rw [hlen]; exact this), ← List.getD_eq_getElem?_getD, ih hlt]
    · rw [List.getElem?_append_right (by rw [hlen]; omega), hlen]
      simp [hk]

theorem with_at (acc : Accum) (m n : Nat) (f : Nat → Nat → Nat) {i k : Nat} (hi : i < 64) (hk : k < 64) :
    (acc.with m n f).at i k = if i < m ∧ k < n then f i k % 2 ^ 64 else acc.at i k := by
  rw [Accum.at, Accum.with]
  simp only []
  rw [getD_flatMap_range (fun i k => if i < m ∧ k < n then word (f i k) else word (acc.at i k)) 0 64 hi hk]
  split
  · simp [word]
  · simp only [word, BitVec.toNat_ofNat]
    exact Nat.mod_eq_of_lt (BitVec.isLt _)

/-! ## The verdict of a step (R223, R224) -/

@[simp] theorem modJob_frame (order : Nat) (f : Job → Job) (s : State) :
    (after (modJob order f) s).cores = s.cores ∧ (after (modJob order f) s).flocks = s.flocks ∧
    (after (modJob order f) s).records = s.records ∧ (after (modJob order f) s).mem = s.mem ∧
    (after (modJob order f) s).poison = s.poison := ⟨rfl, rfl, rfl, rfl, rfl⟩

@[simp] theorem modMat_frame (order : Nat) (f : MatJob → MatJob) (s : State) :
    (after (modMat order f) s).cores = s.cores ∧ (after (modMat order f) s).flocks = s.flocks ∧
    (after (modMat order f) s).records = s.records ∧ (after (modMat order f) s).mem = s.mem ∧
    (after (modMat order f) s).poison = s.poison := ⟨rfl, rfl, rfl, rfl, rfl⟩

@[simp] theorem setAccum_frame (j : Job) (n : Nat) (v : Accum) (s : State) :
    (after (setAccum j n v) s).cores = s.cores ∧ (after (setAccum j n v) s).jobs = s.jobs ∧
    (after (setAccum j n v) s).records = s.records ∧ (after (setAccum j n v) s).mem = s.mem ∧
    (after (setAccum j n v) s).poison = s.poison := ⟨rfl, rfl, rfl, rfl, rfl⟩

@[simp] theorem bumpBy_frame (n : Nat) (s : State) :
    (after (bumpBy n) s).cores = s.cores ∧ (after (bumpBy n) s).flocks = s.flocks ∧ (after (bumpBy n) s).jobs = s.jobs ∧
    (after (bumpBy n) s).records = s.records ∧ (after (bumpBy n) s).mem = s.mem ∧
    (after (bumpBy n) s).poison = s.poison := ⟨rfl, rfl, rfl, rfl, rfl, rfl⟩

/-- The record of a report of the engine (R224). -/
def reportRecord (j : Job) (m : MatJob) (cause : Nat) : Record :=
  { cause := cause, flags := recordFlags false false false true false, wait := 0, handle := j.handle,
    value := m.shape.record, pc := 0, who := j.who }

@[simp] theorem checksumReport_frame (j : Job) (m : MatJob) (cause : Nat) (s : State) :
    (after (checksumReport j m cause) s).cores = s.cores ∧ (after (checksumReport j m cause) s).flocks = s.flocks ∧
    (after (checksumReport j m cause) s).jobs = s.jobs ∧
    (after (checksumReport j m cause) s).records = s.records ++ [reportRecord j m cause] ∧
    (after (checksumReport j m cause) s).mem = s.mem ∧ (after (checksumReport j m cause) s).poison = s.poison :=
  ⟨rfl, rfl, rfl, rfl, rfl, rfl⟩

/-- What becomes of a step whose values and random state are `tile`: they are put into the accumulator, unless the rerun of a step that
was wrong is wrong too. -/
def stepVerdict (j : Job) (m : MatJob) (tile : List Nat × Nat) (wrong again : Bool) : Micro := ask (fun s =>
  andThen (onlyIf wrong (checksumReport j m 0x13))
    (if wrong && again then doAll [
      checksumReport j m 0x14,
      setAccum j m.shape.acc (failedAccum s j m),
      bumpBy 4096,
      modJob j.order (fun x => { x with status := 7 }),
      modMat j.order (fun x => { x with failed := true })]
    else doAll [
      setAccum j m.shape.acc ((jobAccum s j m.shape.acc).with m.shape.m m.shape.n (fun i k => tile.1.getD (i * m.shape.n + k) 0)),
      modMat j.order (fun x => { x with rseed := word tile.2 }),
      onlyIf wrong (modJob j.order (fun x => { x with status := 6 }))]))

theorem after_computeStep (j : Job) (m : MatJob) (a b : Panel) (mismatch again : Bool) (s : State) :
    after (computeStep j m a b mismatch again) s = after (closeStep j m) (after (stepVerdict j m
      (stepTile j.core m (jobAccum s j m.shape.acc) a b) (bitAt m.shape.flags 2 && mismatch) again) s) := by
  unfold computeStep
  generalize stepTile j.core m = tile
  rw [after_ask]
  extract_lets check acc
  rcases tile acc a b with ⟨vs, seed⟩
  dsimp only
  rw [after_doAll_cons, after_doAll_cons, after_doAll_cons, after_doAll_cons, after_doAll_nil, stepVerdict, after_ask,
    after_andThen, closeStep, after_andThen]

/-- The values of a failed step stand in the valid part of the tile alone. -/
theorem failedAccum_with (s : State) (j : Job) (m : MatJob) :
    ∃ f, failedAccum s j m = (jobAccum s j m.shape.acc).with m.shape.m m.shape.n f := by
  unfold failedAccum
  dsimp only
  split
  · exact ⟨_, rfl⟩
  · exact ⟨_, rfl⟩

/-- The causes of the reports of a step (Table 16.7). -/
def reportCauses : Bool → Bool → List Nat
  | false, _ => []
  | true, false => [0x13]
  | true, true => [0x13, 0x14]

/-- What a step's verdict changes: the reports, the values of the valid part of the tile, and the job. -/
structure Judged (j : Job) (m : MatJob) (tile : List Nat × Nat) (wrong again : Bool) (u t : State) : Prop where
  cores   : t.cores = u.cores
  memory  : SameMemory u t
  records : ∃ q, t.records = u.records ++ q ∧ q.map (fun z => z.cause) = reportCauses wrong again ∧
    ∀ z ∈ q, z.handle = j.handle ∧ z.value = m.shape.record
  accum   : ∃ f, jobAccum t j m.shape.acc = (jobAccum u j m.shape.acc).with m.shape.m m.shape.n f ∧
    (wrong = false ∨ again = false → f = fun i k => tile.1.getD (i * m.shape.n + k) 0)
  job     : ∀ z, jobAt u j.order = some z → z.body = .matrix m → ∃ z', jobAt t j.order = some z' ∧ z'.clock = z.clock ∧
    z'.body = .matrix (if wrong && again then { m with failed := true } else { m with rseed := word tile.2 }) ∧
    (wrong = true → again = true → z'.status = 7)

theorem sameMemory_of_mem {u t : State} (hp : t.poison = u.poison) (hm : t.mem = u.mem) : SameMemory u t :=
  ⟨hp, fun a => congrArg (fun l => memRead l a) hm⟩

/-- A failed step, whatever its values `v` are in the valid part of the tile. -/
theorem judged_failed (tile : List Nat × Nat) {v : Accum}
    (hv : ∃ f, v = (jobAccum s j m.shape.acc).with m.shape.m m.shape.n f) :
    Judged j m tile true true s (after (modMat j.order (fun x => { x with failed := true }))
      (after (modJob j.order (fun x => { x with status := 7 })) (after (bumpBy 4096) (after (setAccum j m.shape.acc v)
        (after (checksumReport j m 0x14) (after (checksumReport j m 0x13) s)))))) := by
  obtain ⟨f, hf⟩ := hv
  set u := after (setAccum j m.shape.acc v) (after (checksumReport j m 0x14) (after (checksumReport j m 0x13) s)) with hu
  have hjobs : (after (bumpBy 4096) u).jobs = s.jobs := by simp [hu]
  refine { cores := by simp [hu], memory := sameMemory_of_mem (by simp [hu]) (by simp [hu])
           records := ⟨[reportRecord j m 0x13, reportRecord j m 0x14], by simp [hu], rfl, by simp [reportRecord]⟩
           accum := ⟨f, ?_, by simp⟩, job := fun z hz hb => ?_ }
  · rw [jobAccum_of_flocks (u := u) (by simp), jobAccum_setAccum, hf]
  · have hstatus := (jobAt_modJob j.order (fun x => { x with status := 7 }) (fun _ => rfl) (after (bumpBy 4096) u)).trans
      (congrArg (Option.map fun x : Job => { x with status := 7 }) ((jobAt_of_jobs hjobs _).trans hz))
    exact ⟨_, jobAt_modMat (j := { z with status := 7 }) hstatus hb (fun x => { x with failed := true }), rfl, rfl, fun _ _ => rfl⟩

/-- A step whose values are put into the accumulator, whether its rerun was asked for or not. -/
theorem judged_passed (tile : List Nat × Nat) {wrong again : Bool} (h : wrong = false ∨ again = false) :
    Judged j m tile wrong again s (after (onlyIf wrong (modJob j.order (fun x => { x with status := 6 })))
      (after (modMat j.order (fun x => { x with rseed := word tile.2 }))
        (after (setAccum j m.shape.acc ((jobAccum s j m.shape.acc).with m.shape.m m.shape.n
            (fun i k => tile.1.getD (i * m.shape.n + k) 0)))
          (after (onlyIf wrong (checksumReport j m 0x13)) s)))) := by
  set v := (jobAccum s j m.shape.acc).with m.shape.m m.shape.n (fun i k => tile.1.getD (i * m.shape.n + k) 0) with hv
  set u := after (setAccum j m.shape.acc v) (after (onlyIf wrong (checksumReport j m 0x13)) s) with hu
  have hjobs : u.jobs = s.jobs := by cases wrong <;> simp [hu]
  have hmat : ∀ z, jobAt s j.order = some z → z.body = .matrix m →
      jobAt (after (modMat j.order (fun x => { x with rseed := word tile.2 })) u) j.order =
        some { z with body := .matrix { m with rseed := word tile.2 } } := fun z hz hb =>
    jobAt_modMat ((jobAt_of_jobs hjobs _).trans hz) hb (fun x => { x with rseed := word tile.2 })
  rcases wrong with _ | _
  case false =>
    refine { cores := by simp [hu], memory := sameMemory_of_mem (by simp [hu]) (by simp [hu])
             records := ⟨[], by simp [hu], rfl, by simp⟩, accum := ⟨_, ?_, fun _ => rfl⟩
             job := fun z hz hb => ⟨_, hmat z hz hb, rfl, rfl, by simp⟩ }
    rw [after_onlyIf_false, jobAccum_of_flocks (u := u) (by simp), jobAccum_setAccum]
  case true =>
    obtain rfl : again = false := by simpa using h
    refine { cores := by simp [hu], memory := sameMemory_of_mem (by simp [hu]) (by simp [hu])
             records := ⟨[reportRecord j m 0x13], by simp [hu], rfl, by simp [reportRecord]⟩, accum := ⟨_, ?_, fun _ => rfl⟩
             job := fun z hz hb => ?_ }
    · rw [after_onlyIf_true, jobAccum_of_flocks (u := u) (by simp), jobAccum_setAccum]
    · have hstatus := (jobAt_modJob j.order (fun x => { x with status := 6 }) (fun _ => rfl) _).trans
        (congrArg (Option.map fun x : Job => { x with status := 6 }) (hmat z hz hb))
      exact ⟨_, hstatus, rfl, rfl, by simp⟩

theorem stepVerdict_judged (j : Job) (m : MatJob) (tile : List Nat × Nat) (wrong again : Bool) (u : State) :
    Judged j m tile wrong again u (after (stepVerdict j m tile wrong again) u) := by
  simp only [stepVerdict, after_ask, after_andThen]
  rcases again with _ | _
  case false =>
    simpa only [Bool.and_false, Bool.false_eq_true, if_false, after_doAll_cons, after_doAll_nil] using
      judged_passed tile (Or.inr rfl)
  case true =>
    rcases wrong with _ | _
    case false =>
      simpa only [Bool.false_and, Bool.false_eq_true, if_false, after_doAll_cons, after_doAll_nil] using
        judged_passed tile (Or.inl rfl)
    case true =>
      simpa only [after_onlyIf_true, Bool.and_self, if_true, after_doAll_cons, after_doAll_nil] using
        judged_failed tile (failedAccum_with u j m)

/-! ## A step of the running job -/

theorem exec_matrixStep (flock : Nat) (x y : Bool) (s : State) : exec (.matrixStep flock x y) s = execMatrixStep flock x y s := rfl

/-- The ranges that an operand's panel is read from. -/
def panelSpans (m : MatJob) (o : Operand) (rows : List Word) : List Span :=
  rows.map (fun a => ({ addr := a, len := panelRow o.fmt, kind := .read } : Span)) ++
    (o.scaleAddrs m.shape.groups m.step).map (fun a => { addr := a, len := 1, kind := .read })

/-- Both panels of a step read. -/
def readPanels (j : Job) (m : MatJob) (oa ob : Operand) (ra rb : List Word) : Eng (Panel × Panel) :=
  eThen (readPanel j oa m.shape.groups m.step ra) (fun a =>
    eThen (readPanel j ob m.shape.groups m.step rb) (fun b => eGive (a, b)))

/-- Both panels read, and then an update that they give. -/
theorem readPanels_then {j : Job} {oa ob : Operand} {ra rb : List Word} {a b : Panel} {vs : List Upd}
    (h : readPanels j m oa ob ra rb s = .done (a, b) vs) (k : Panel → Panel → Micro) :
    eThen (readPanel j oa m.shape.groups m.step ra) (fun a => eThen (readPanel j ob m.shape.groups m.step rb)
      (fun b => eDo (k a b))) s = .done () (vs ++ k a b (applyAll s vs)) := by
  obtain ⟨a', us, ws, ha, hrest, rfl⟩ := eThen_done_iff.mp h
  obtain ⟨b', us', ws', hb, hgive, rfl⟩ := eThen_done_iff.mp hrest
  obtain ⟨heq, rfl⟩ := eGive_done_iff.mp hgive
  cases heq
  rw [eThen_done ha (eThen_done hb rfl)]
  simp only [List.append_nil, applyAll_append, List.append_assoc]

theorem readPanels_quiet (j : Job) (m : MatJob) (oa ob : Operand) (ra rb : List Word) : QuietEng (readPanels j m oa ob ra rb) :=
  .andThen (.panel ..) fun _ => .andThen (.panel ..) fun _ => .give _

section Step

variable {oa ob : Operand} {ra rb : List Word} (hup : flockUp s flock = true) (hr : runningJob s flock = some j)
  (hj : jobAt s j.order = some j) (hb : j.body = .matrix m) (ho : m.operands = [oa, ob])
  (hstep : m.step < m.shape.groups) (hra : oa.stepRows s j m.step = some ra) (hrb : ob.stepRows s j m.step = some rb)
include hup hr hb hstep

theorem matrixStep_running (x y : Bool) : exec (.matrixStep flock x y) s = .next (after (matStep j m x y) s) := by
  rw [exec_matrixStep, execMatrixStep, flockStep_up _ hup, after_ask]
  simp only [hr, hb, hstep, decide_true, after_onlyIf_true]

include ho hra hrb

/-- After a failed check a step is counted without computing (R224). -/
theorem matrixStep_failed (hfailed : m.failed = true) (x y : Bool) :
    exec (.matrixStep flock x y) s = .next (after (closeStep j m) s) := by
  rw [matrixStep_running hup hr hb hstep, matStep, after_ask]
  simp only [ho, hra, hrb, hfailed, if_true]
  rfl

include hj

/-- A step of the engine made whole (R223, R224). -/
theorem matrixStep_whole (hfailed : m.failed = false) (x y : Bool) {a b : Panel} {u : State}
    (hw : Whole s j (panelSpans m oa ra ++ panelSpans m ob rb)
      (readPanels { j with clock := m.tileClock s j } m oa ob ra rb) (a, b) u) :
    exec (.matrixStep flock x y) s = .next (after (modJob j.order (fun z => { z with paid := [] }))
      (after (computeStep { j with clock := m.tileClock s j } m a b x y)
        (after (modJob j.order (fun z => { z with clock := m.tileClock s j })) u))) := by
  rw [matrixStep_running hup hr hb hstep, matStep, after_ask]
  simp only [ho, hra, hrb, hfailed, Bool.false_eq_true, if_false]
  refine congrArg Host.Outcome.next ((after_jobStep_whole hj hw (ws := andThen (modJob j.order (fun z =>
    { z with clock := m.tileClock s j })) (computeStep { j with clock := m.tileClock s j } m a b x y) u)
    (fun z vs hz hu => ?_)).trans ?_)
  · subst hu
    exact readPanels_then hz (fun a b => andThen (modJob j.order (fun z => { z with clock := m.tileClock s j }))
      (computeStep { j with clock := m.tileClock s j } m a b x y))
  · exact congrArg _ (after_andThen ..)

end Step

end Sys2Proof.Proofs

/-! PROOF. The engine's steps settled (R221–R224, R236). -/

namespace Sys2Proof.Proofs

open Sys2Proof.Machine Sys2Proof.Certificates

variable {s : State} {flock : Nat} {j : Job} {m : MatJob}

theorem sameMemory_trans {u v t : State} (h : SameMemory u v) (g : SameMemory v t) : SameMemory u t :=
  ⟨g.1.trans h.1, fun a => (g.2 a).trans (h.2 a)⟩

/-- What stands of a step that was judged, in its own numbers. -/
theorem Judged.values {tile : List Nat × Nat} {wrong again : Bool} {u t : State} (h : Judged j m tile wrong again u t) :
    let acc := jobAccum u j m.shape.acc
    let acc' := jobAccum t j m.shape.acc
    acc'.tag = acc.tag ∧ acc'.owner = acc.owner ∧
    (∀ i k, i < 64 → k < 64 → ¬(i < m.shape.m ∧ k < m.shape.n) → acc'.at i k = acc.at i k) ∧
    (wrong = false ∨ again = false → ∀ i k, i < m.shape.m → k < m.shape.n → m.shape.m ≤ 64 → m.shape.n ≤ 64 →
      acc'.at i k = tile.1.getD (i * m.shape.n + k) 0 % 2 ^ 64) := by
  obtain ⟨f, hacc, hf⟩ := h.accum
  simp only [hacc]
  refine ⟨rfl, rfl, fun i k hi hk hout => ?_, fun hgood i k hi hk hm hn => ?_⟩
  · rw [with_at _ _ _ _ hi hk, if_neg hout]
  · rw [with_at _ _ _ _ (by omega) (by omega), if_pos ⟨hi, hk⟩, hf hgood]

/-- A step computed and closed: what stands then of the job, the reports, the values and the rings. -/
structure Stepped (j : Job) (m : MatJob) (oa ob : Operand) (tile : List Nat × Nat) (wrong again : Bool) (u t : State) : Prop where
  popped : Popped j oa ob u t
  judged : ∃ v, Judged j m tile wrong again u v ∧ t.flocks = v.flocks ∧ t.records = v.records ∧ SameMemory v t
  job    : ∃ z, jobAt t j.order = some z ∧ z.clock = j.clock ∧ (wrong = true → again = true → z.status = 7) ∧
    z.body = .matrix (if wrong && again then { m with step := m.step + 1, failed := true }
      else { m with step := m.step + 1, rseed := word tile.2 })

theorem computeStep_stepped {oa ob : Operand} (ho : m.operands = [oa, ob]) (hj : jobAt s j.order = some j)
    (hb : j.body = .matrix m) (a b : Panel) (mismatch again : Bool) :
    Stepped j m oa ob (stepTile j.core m (jobAccum s j m.shape.acc) a b) (bitAt m.shape.flags 2 && mismatch) again s
      (after (computeStep j m a b mismatch again) s) := by
  rw [after_computeStep]
  generalize stepTile j.core m (jobAccum s j m.shape.acc) a b = tile
  generalize (bitAt m.shape.flags 2 && mismatch) = wrong
  have hjudged := stepVerdict_judged j m tile wrong again s
  generalize after (stepVerdict j m tile wrong again) s = v at hjudged ⊢
  obtain ⟨z, hz, hclock, hbody, hstatus⟩ := hjudged.job j hj hb
  obtain ⟨hpopped, hflocks, hrecords, hmemory, hjob⟩ := closeStep_spec ho hz hbody
  refine ⟨fun o hmem k r hk hne hr => hpopped o hmem k r hk hne ((ringAt_of_cores hjudged.cores ..).trans hr),
    ⟨v, hjudged, hflocks, hrecords, hmemory⟩, _, hjob, hclock, hstatus, ?_⟩
  rcases wrong && again <;> rfl

theorem Stepped.records {oa ob : Operand} {tile : List Nat × Nat} {wrong again : Bool} {u t : State}
    (h : Stepped j m oa ob tile wrong again u t) :
    ∃ q, t.records = u.records ++ q ∧ q.map (fun z => z.cause) = reportCauses wrong again ∧
      ∀ z ∈ q, z.handle = j.handle ∧ z.value = m.shape.record := by
  obtain ⟨v, hjudged, -, hrecords, -⟩ := h.judged
  rw [hrecords]
  exact hjudged.records

theorem Stepped.memory {oa ob : Operand} {tile : List Nat × Nat} {wrong again : Bool} {u t : State}
    (h : Stepped j m oa ob tile wrong again u t) : SameMemory u t := by
  obtain ⟨v, hjudged, -, -, hmemory⟩ := h.judged
  exact sameMemory_trans hjudged.memory hmemory

/-- The values in terms of the state in which the step ends. -/
theorem Stepped.values {oa ob : Operand} {tile : List Nat × Nat} {wrong again : Bool} {u t : State}
    (h : Stepped j m oa ob tile wrong again u t) :
    let acc := jobAccum u j m.shape.acc
    let acc' := jobAccum t j m.shape.acc
    acc'.tag = acc.tag ∧ acc'.owner = acc.owner ∧
    (∀ i k, i < 64 → k < 64 → ¬(i < m.shape.m ∧ k < m.shape.n) → acc'.at i k = acc.at i k) ∧
    (wrong = false ∨ again = false → ∀ i k, i < m.shape.m → k < m.shape.n → m.shape.m ≤ 64 → m.shape.n ≤ 64 →
      acc'.at i k = tile.1.getD (i * m.shape.n + k) 0 % 2 ^ 64) := by
  obtain ⟨v, hjudged, hflocks, -, -⟩ := h.judged
  rw [jobAccum_of_flocks hflocks]
  exact hjudged.values

/-- Having paid changes none of it. -/
theorem Stepped.paid {oa ob : Operand} {tile : List Nat × Nat} {wrong again : Bool} {u t : State}
    (h : Stepped j m oa ob tile wrong again u t) :
    Stepped j m oa ob tile wrong again u (after (modJob j.order (fun z => { z with paid := [] })) t) := by
  obtain ⟨v, hjudged, hflocks, hrecords, hmemory⟩ := h.judged
  obtain ⟨z, hz, hclock, hstatus, hbody⟩ := h.job
  exact ⟨fun o hmem k r hk hne hr => (ringAt_of_cores rfl ..).trans (h.popped o hmem k r hk hne hr),
    ⟨v, hjudged, hflocks, hrecords, hmemory⟩, { z with paid := [] },
    (jobAt_modJob j.order (fun z => { z with paid := [] }) (fun _ => rfl) t).trans (by rw [hz]; rfl), hclock, hstatus, hbody⟩

/-- A step that computes, as it leaves the machine, the clock of its job being that of its tiles. -/
theorem matrixStep_stepped {oa ob : Operand} {ra rb : List Word} (hup : flockUp s flock = true) (hr : runningJob s flock = some j)
    (hj : jobAt s j.order = some j) (hb : j.body = .matrix m) (ho : m.operands = [oa, ob])
    (hstep : m.step < m.shape.groups) (hra : oa.stepRows s j m.step = some ra) (hrb : ob.stepRows s j m.step = some rb)
    (hfailed : m.failed = false) (x y : Bool) {a b : Panel} {u : State}
    (hw : Whole s j (panelSpans m oa ra ++ panelSpans m ob rb)
      (readPanels { j with clock := m.tileClock s j } m oa ob ra rb) (a, b) u) :
    ∃ w t, exec (.matrixStep flock x y) s = .next t ∧ w.cores = u.cores ∧ w.flocks = u.flocks ∧ w.records = u.records ∧
      SameMemory u w ∧ Stepped { j with clock := m.tileClock s j } m oa ob
        (stepTile j.core m (jobAccum u j m.shape.acc) a b) (bitAt m.shape.flags 2 && x) y w t := by
  set j' : Job := { j with clock := m.tileClock s j } with hj'
  set w := after (modJob j.order (fun z => { z with clock := m.tileClock s j })) u with hwdef
  have hu : jobAt u j.order = some j := ((beside_of_whole hw (readPanels_quiet ..)).jobAt _).trans hj
  have hz : jobAt w j'.order = some j' := by
    exact (jobAt_modJob j.order (fun z => { z with clock := m.tileClock s j }) (fun _ => rfl) u).trans (by rw [hu]; rfl)
  have hsteps := computeStep_stepped ho hz (j := j') hb a b x y
  refine ⟨w, _, matrixStep_whole hup hr hj hb ho hstep hra hrb hfailed x y hw, rfl, rfl, rfl, ⟨rfl, fun _ => rfl⟩, ?_⟩
  have hacc : jobAccum w j' m.shape.acc = jobAccum u j m.shape.acc := jobAccum_of_flocks (rfl : w.flocks = u.flocks) j' m.shape.acc
  rw [hacc] at hsteps
  exact hsteps.paid

/-- Steps of the engine. -/
theorem matrixSteps : MatrixSteps := by
  refine ⟨stepTile_int32, ?_, ?_⟩
  · intro s flock j m o k r hup hn hk hj hb size had rows l u w hw hwrite
    obtain ⟨hexec, hring, hjob⟩ := matrixPanelFetch_whole hup hn hj l u w hw hwrite
    obtain ⟨hmemory, hrings, hbody⟩ := panelNoted_spec (o := o) (n := k) (rows := rows.length)
      (last := decide (o.rows ≤ had + rows.length)) hring hjob hb
    refine ⟨_, hexec, hmemory, fun hlast => ?_, fun hlast => ?_, ?_⟩
    · rw [hrings, if_pos (decide_eq_true hlast), hring]; rfl
    · rw [hrings, if_neg (by simpa using hlast), hring]
    · rw [hbody, fed_eq]
      simp only [decide_eq_true_eq, had]
  · intro s flock j m hup hr hj hb oa ob ho x y ra rb hstep hra hrb
    refine ⟨fun hfailed => ?_, fun hfailed a b u hw => ?_⟩
    · obtain ⟨hpopped, hflocks, -, hmemory, hjob⟩ := closeStep_spec ho hj hb
      exact ⟨_, matrixStep_failed hup hr hb ho hstep hra hrb hfailed x y, hpopped, hflocks, hmemory, 
        congrArg (Option.map (fun z => z.body)) hjob⟩
    · obtain ⟨w, t, hexec, hcores, hflocks, hrecords, hmemory, hsteps⟩ :=
        matrixStep_stepped hup hr hj hb ho hstep hra hrb hfailed x y hw
      generalize stepTile j.core m (jobAccum u j m.shape.acc) a b = tile at hsteps ⊢
      have hflag : bitAt m.shape.flags 2 = m.shape.flags.getLsbD 2 := rfl
      rw [hflag] at hsteps
      generalize (m.shape.flags.getLsbD 2 && x) = wrong at hsteps ⊢
      obtain ⟨z, hz, hclock, hstatus, hbody⟩ := hsteps.job
      obtain ⟨htag, howner, hkept, hvals⟩ := hsteps.values
      obtain ⟨q, hq, hcauses, hreports⟩ := hsteps.records
      have hacc : jobAccum w { j with clock := m.tileClock s j } m.shape.acc = jobAccum u j m.shape.acc :=
        jobAccum_of_flocks hflocks j m.shape.acc
      rw [hacc] at htag howner hkept
      rw [hrecords] at hq
      refine ⟨t, hexec, fun o hmem k r hk hne hring => hsteps.popped o hmem k r hk hne
        ((ringAt_of_cores hcores ..).trans hring), sameMemory_trans hmemory hsteps.memory, by rw [hz]; exact congrArg some hclock,
        htag, howner, hkept, fun hgood => ?_, fun hwrong => ⟨q, hq, ?_, hreports⟩, fun hgood => ⟨?_, hvals hgood⟩,
        fun hwrong hagain => ⟨?_, ?_⟩⟩
      · subst hgood
        obtain rfl : q = [] := by simpa [reportCauses] using hcauses
        simpa using hq
      · subst hwrong
        rw [hcauses]
        cases y <;> rfl
      · have : (wrong && y) = false := by rcases hgood with rfl | rfl <;> simp
        simp [hz, hbody, this]
      · simp [hz, hbody, hwrong, hagain]
      · simp [hz, hstatus hwrong hagain]

end Sys2Proof.Proofs

/-! PROOF. The ends of the matrix engine's jobs (R211, R223, R226–R228). -/

namespace Sys2Proof.Proofs

open Sys2Proof.Machine Sys2Proof.Certificates

variable {s : State} {flock : Nat} {j : Job} {m : MatJob}

theorem exec_matrixJobComplete (flock : Nat) (s : State) :
    exec (.matrixJobComplete flock) s = execMatrixJobComplete flock s := rfl

theorem exec_accumTransferComplete (flock : Nat) (s : State) :
    exec (.accumTransferComplete flock) s = execAccumTransferComplete flock s := rfl

theorem exec_mxzeroJob (flock : Nat) (s : State) : exec (.mxzeroJob flock) s = execMxzeroJob flock s := rfl

/-! ## A job ended (R211) -/

theorem after_endJob (j : Job) (s : State) : after (endJob j id) s = endedJob s j := by
  set v := after (modJob j.order (fun x => { x with state := .done, paid := [] })) s with hv
  have hafter : after (endJob j id) s = after (pruneJobs j.core j.ctx) v := after_andThen ..
  have hgone : (fun x : Job => x.kind != 0 && (x.core == j.core && x.ctx == j.ctx && x.dropped (startedJobs s j.core j.ctx))) =
      fun x => x.core == j.core && x.ctx == j.ctx && x.dropped (startedJobs s j.core j.ctx) && x.kind != 0 :=
    funext fun x => Bool.and_comm ..
  rw [hafter, after_pruneJobs, List.filter_filter]
  have hstarted : startedJobs v j.core j.ctx = startedJobs s j.core j.ctx := rfl
  rw [hstarted, hgone]
  rfl

/-- A job that is there once one has ended was there before, as it was but for its end. -/
theorem of_mem_closedJobs {x : Job} (h : x ∈ closedJobs s j) :
    ∃ y ∈ s.jobs, x = (if y.order = j.order then { y with state := .done, paid := [] } else y) ∧
      (x.core == j.core && x.ctx == j.ctx && x.dropped (startedJobs s j.core j.ctx)) = false := by
  obtain ⟨hx, hkept⟩ := List.mem_filter.mp h
  obtain ⟨y, hy, rfl⟩ := List.mem_map.mp hx
  exact ⟨y, hy, rfl, by rwa [Bool.not_eq_true'] at hkept⟩

theorem mem_of_jobAt {order : Nat} (h : jobAt s order = some j) : j ∈ s.jobs := List.mem_of_find?_eq_some h

/-- A job without a handle is gone once it has ended. -/
theorem closedJobs_gone (hkind : j.kind = 0) (hj : j ∈ s.jobs) (hunique : ∀ a b, a ∈ s.jobs → b ∈ s.jobs → a.order = b.order → a = b)
    {x : Job} (hx : x ∈ closedJobs s j) : x.order ≠ j.order := by
  obtain ⟨y, hy, rfl, hkept⟩ := of_mem_closedJobs hx
  by_cases ho : y.order = j.order
  · obtain rfl := hunique y j hy hj ho
    simp [Job.dropped, hkind] at hkept
  · rwa [if_neg ho]

/-! ## C stored (R223, R226) -/

/-- The jobs of a state are those of another, by order and by whether they have faulted. -/
def SameFaults (s u : State) : Prop := ∀ y ∈ u.jobs, ∃ x ∈ s.jobs, y.order = x.order ∧ y.faulted = x.faulted

theorem SameFaults.refl (s : State) : SameFaults s s := fun y hy => ⟨y, hy, rfl, rfl⟩

theorem SameFaults.trans {u v : State} (h : SameFaults s u) (g : SameFaults u v) : SameFaults s v := fun z hz => by
  obtain ⟨y, hy, ho, hf⟩ := g z hz
  obtain ⟨x, hx, ho', hf'⟩ := h y hy
  exact ⟨x, hx, ho.trans ho', hf.trans hf'⟩

theorem sameFaults_of_beside {u : State} (h : Beside s u) : SameFaults s u := fun y hy => ⟨y, h.jobs ▸ hy, rfl, rfl⟩

theorem sameFaults_modMat (order : Nat) (f : MatJob → MatJob) (s : State) : SameFaults s (after (modMat order f) s) := fun y hy => by
  obtain ⟨x, hx, rfl⟩ := List.mem_map.mp (show y ∈ s.jobs.map _ from hy)
  refine ⟨x, hx, ?_⟩
  by_cases ho : x.order = order
  · rw [if_pos ho]
    dsimp only
    split <;> exact ⟨rfl, rfl⟩
  · rw [if_neg ho]
    exact ⟨rfl, rfl⟩

theorem storeRow_sameFaults {f : Elem} {i : Nat} {v : Unit} {us : List Upd} (h : storeRow m f i j s = .done v us) :
    SameFaults s (applyAll s us) := by
  unfold storeRow eAsk at h
  obtain ⟨_, vs, ws, hwrite, hnote, rfl⟩ := eThen_done_iff.mp h
  cases hnote
  rw [applyAll_append]
  exact (sameFaults_of_beside ((QuietEng.write ..).beside _ _ _ hwrite)).trans (sameFaults_modMat j.order _ _)

theorem storeRows_sameFaults {f : Elem} {l : List Nat} {v : List Unit} {us : List Upd}
    (h : eEach (fun i => storeRow m f i j) l s = .done v us) : SameFaults s (applyAll s us) := by
  induction l generalizing s v us with
  | nil =>
    obtain ⟨-, rfl⟩ := eGive_done_iff.mp h
    exact .refl s
  | cons i l ih =>
    obtain ⟨_, vs, ws, hrow, hrest, rfl⟩ := eThen_done_iff.mp h
    obtain ⟨_, vs', ws', hrows, hgive, rfl⟩ := eThen_done_iff.mp hrest
    obtain ⟨-, rfl⟩ := eGive_done_iff.mp hgive
    rw [List.append_nil, applyAll_append]
    exact (storeRow_sameFaults hrow).trans (ih hrows)

/-- C stored whole: its job is complete. -/
theorem matFinish_whole (hj : jobAt s j.order = some j) (hflag : bitAt m.shape.flags 1 = true) {f : Elem}
    (hf : elemOf m.shape.cFormat = some f) {v : List Unit} {u : State}
    (hw : Whole s j (((List.range m.shape.m).drop m.rows).map (fun i =>
      { addr := m.shape.c + word (i * m.shape.cStride), len := bytesFor f m.shape.n, kind := .write }))
      (eEach (fun i => storeRow m f i j) ((List.range m.shape.m).drop m.rows)) v u) :
    after (matFinish j m) s = after (modJob j.order (fun x => { x with paid := [] })) (endedJob u j) ∧ SameFaults s u := by
  refine ⟨?_, ?_⟩
  · simp only [matFinish, hflag, hf]
    refine (after_jobStep_whole hj hw (ws := endJob j id u) (fun z vs hz hu => ?_)).trans ?_
    · subst hu
      exact eThen_done hz rfl
    · exact congrArg _ (after_endJob j u)
  · obtain ⟨p, us, vs, hpay, hdone, rfl⟩ := hw
    exact (sameFaults_of_beside (payLines_beside hpay)).trans (storeRows_sameFaults hdone)

/-- The job that has ended is done, and has faulted as it had. -/
theorem closedJobs_done {u : State} (hj : j ∈ s.jobs) (hunique : ∀ a b, a ∈ s.jobs → b ∈ s.jobs → a.order = b.order → a = b)
    (h : SameFaults s u) {x : Job} (hx : x ∈ closedJobs u j) (ho : x.order = j.order) : x.state = .done ∧ x.faulted = j.faulted := by
  obtain ⟨y, hy, rfl, -⟩ := of_mem_closedJobs hx
  have hy' : y.order = j.order := by
    by_contra hne
    rw [if_neg hne] at ho
    exact hne ho
  obtain ⟨z, hz, hzo, hzf⟩ := h y hy
  obtain rfl := hunique z j hz hj (hzo.symm.trans hy')
  rw [if_pos hy']
  exact ⟨rfl, hzf⟩

theorem matrixJobComplete_eq (hup : flockUp s flock = true) (hr : runningJob s flock = some j) (hb : j.body = .matrix m) :
    exec (.matrixJobComplete flock) s = .next (after (onlyIf (m.step == m.shape.groups) (matFinish j m)) s) := by
  rw [exec_matrixJobComplete, execMatrixJobComplete, flockStep_up _ hup, after_ask]
  simp only [hr, hb]

/-! ## Bundles ended: what is not theirs -/

/-- A piece of a bundle's end: memory, flocks and jobs stay. -/
structure OfBundle (f : Micro) : Prop where
  keeps : ∀ u, (after f u).mem = u.mem ∧ (after f u).poison = u.poison ∧ (after f u).flocks = u.flocks ∧ (after f u).jobs = u.jobs

namespace OfBundle

theorem skip : OfBundle skip := ⟨fun _ => ⟨rfl, rfl, rfl, rfl⟩⟩
theorem modSlot (core slot : Nat) (f : Slot → Slot) : OfBundle (modSlot core slot f) := ⟨fun _ => ⟨rfl, rfl, rfl, rfl⟩⟩
theorem modCore (core : Nat) (f : Core → Core) : OfBundle (modCore core f) := ⟨fun _ => ⟨rfl, rfl, rfl, rfl⟩⟩
theorem modKnows (party : Nat) (f : Knows → Knows) : OfBundle (modKnows party f) := ⟨fun _ => ⟨rfl, rfl, rfl, rfl⟩⟩
theorem ask {k : State → Micro} (h : ∀ v, OfBundle (k v)) : OfBundle (ask k) := ⟨fun u => (h u).keeps u⟩

theorem andThen {f g : Micro} (hf : OfBundle f) (hg : OfBundle g) : OfBundle (andThen f g) := ⟨fun u => by
  obtain ⟨fm, fp, ff, fj⟩ := hf.keeps u
  obtain ⟨gm, gp, gf, gj⟩ := hg.keeps (after f u)
  rw [after_andThen]
  exact ⟨gm.trans fm, gp.trans fp, gf.trans ff, gj.trans fj⟩⟩

theorem startUnit (core slot : Nat) (e : AEffect) (k : AKind) : OfBundle (startUnit core slot e k) := by
  unfold Machine.startUnit
  cases k with
  | now => exact .skip
  | long => exact .andThen (.modSlot ..) (.modCore ..)
  | block occ => exact .ask fun _ => .andThen (.modSlot ..) (.modCore ..)

theorem finishWith (core slot : Nat) (a : Option AOut) (f : Slot → Slot) (n : Option Word) (own : Bool) :
    OfBundle (finishWith core slot a f n own) := by
  unfold Machine.finishWith
  refine .ask fun s => ?_
  dsimp only
  rcases (slotAt s core slot).issue with _ | iss
  · exact .skip
  · rcases (slotAt s core slot).await with _ | e | ⟨e, r⟩ | e
    · rcases a with _ | ⟨e, _ | _ | occ⟩
      · exact .modSlot ..
      · exact .modSlot ..
      · exact .andThen (.modSlot ..) (.startUnit ..)
      · exact .andThen (.modSlot ..) (.startUnit ..)
    · exact .modSlot ..
    · exact .modSlot ..
    · exact .modSlot ..

end OfBundle

/-- The end of a bundle whose A word does not fault. -/
theorem finishPlain_keeps {core slot : Nat} (h : companionFault core (slotAt s core slot) = none) :
    let t := after (finishPlain core slot) s
    t.mem = s.mem ∧ t.poison = s.poison ∧ t.flocks = s.flocks ∧ t.jobs = s.jobs := by
  intro t
  have ht : t = after (finishWith core slot (companionOut core (slotAt s core slot)) id none false) s := by
    simp only [t, finishPlain, finishBundle, finishOwn, unlessA, after_ask, h, endBundle]
  rw [ht]
  exact (OfBundle.finishWith ..).keeps s

/-! ## The slot of a transfer (R227) -/

theorem wakeTransfer_keeps
    (h : (slotAt s j.core j.slot).wait = .transfer j.n → companionFault j.core (slotAt s j.core j.slot) = none) :
    let t := after (wakeTransfer j) s
    t.mem = s.mem ∧ t.poison = s.poison ∧ t.flocks = s.flocks ∧ t.jobs = s.jobs := by
  simp only [wakeTransfer, after_ask]
  split
  · rename_i n hwait
    by_cases hn : n = j.n
    · subst hn
      rw [beq_self_eq_true, after_onlyIf_true, after_andThen]
      exact finishPlain_keeps (s := after (acquireClock j.core j.slot (jobClock s j.order)) s) (h hwait)
    · rw [show (n == j.n) = false by simpa using hn, after_onlyIf_false]
      exact ⟨rfl, rfl, rfl, rfl⟩
  · exact ⟨rfl, rfl, rfl, rfl⟩

/-- The slots after a bundle that has waited, by slots and cores alone. -/
theorem closed_slots {u v : State} (hslots : v.slots = u.slots) (hcores : v.cores = u.cores) (core slot : Nat) (o : Option AOut)
    (x : Slot) (next : Word) : (closed v core slot o x next).slots = (closed u core slot o x next).slots := by
  have hslot : slotAt v core slot = slotAt u core slot := by rw [slotAt, hslots]; rfl
  have hcore : coreAt v core = coreAt u core := by rw [coreAt, hcores]; rfl
  unfold closed
  rw [hslot]
  rcases (slotAt u core slot).await with _ | e | ⟨e, r⟩ | e
  · rcases o with _ | ⟨e, _ | _ | occ⟩ <;> simp only [ended, withUnit, hslots, hcore]
  all_goals simp only [hslots]

/-- The slot of a transfer goes on: its bundle ends. -/
theorem wakeTransfer_wakes {iss : Issue} {o : Option AOut} (hwaits : Waits s j.core j.slot iss o)
    (hwait : (slotAt s j.core j.slot).wait = .transfer j.n) :
    (after (wakeTransfer j) s).slots = (closed s j.core j.slot o (slotAt s j.core j.slot) iss.after).slots := by
  set v := after (acquireClock j.core j.slot (jobClock s j.order)) s with hv
  have hafter : after (wakeTransfer j) s = after (finishPlain j.core j.slot) v := by
    simp only [wakeTransfer, after_ask, hwait, beq_self_eq_true, after_onlyIf_true, after_andThen, hv]
  have hw : Waits v j.core j.slot iss o := { between := hwaits.between, bundle := hwaits.bundle, partner := hwaits.partner }
  rw [hafter, finishPlain_closed hw]
  exact closed_slots (u := s) (v := v) rfl rfl ..

/-! ## Transfers ended (R227) -/

/-- A transfer whose run is made whole, `k` being what comes of its accesses. -/
theorem endTransfer_whole {α : Type} (hj : jobAt s j.order = some j) {spans : List Span} {g : Eng α} {v : α} {u : State}
    (hw : Whole s j spans g v u) (hg : QuietEng g) {run : Job → Eng Unit} {k : Micro}
    (hrun : ∀ z vs, g z = .done v vs → run j z = .done () (vs ++ k (applyAll z vs)))
    (hsound : (slotAt s j.core j.slot).wait = .transfer j.n → companionFault j.core (slotAt s j.core j.slot) = none) :
    after (jobStep j.order (fun _ _ => spans) (fun j => endTransfer j (run j))) s =
      after (modJob j.order (fun x => { x with paid := [] })) (after (wakeTransfer j) (endedJob (after k u) j)) := by
  refine (after_jobStep_whole hj hw (ws := andThen k (andThen (endJob j id) (wakeTransfer j)) u) (fun z vs hz hu => ?_)).trans ?_
  · have hslot : slotAt z j.core j.slot = slotAt s j.core j.slot := by
      rw [← (hg.beside z v vs hz).slotAt, hu]
      exact (beside_of_whole hw hg).slotAt ..
    have hnone : (if (slotAt s j.core j.slot).wait = .transfer j.n then companionFault j.core (slotAt s j.core j.slot) else none) =
        none := by
      split
      · rename_i h; exact hsound h
      · rfl
    subst hu
    simp only [endTransfer, hrun z vs hz, hslot, hnone, applyAll_append, andThen, List.append_assoc]
  · refine congrArg _ ?_
    exact (after_andThen ..).trans ((after_andThen ..).trans (congrArg _ (after_endJob ..)))

/-- What stands of a transfer's end, `w` being the state that its accesses and its accumulator have left. -/
theorem transferEnded_spec {u w : State} (hu : Beside s u) (hw : ButForFlocks w u) (hj : jobAt s j.order = some j)
    (hunique : ∀ a b, a ∈ s.jobs → b ∈ s.jobs → a.order = b.order → a = b)
    (hsound : (slotAt s j.core j.slot).wait = .transfer j.n → companionFault j.core (slotAt s j.core j.slot) = none) :
    let t := after (modJob j.order (fun x => { x with paid := [] })) (after (wakeTransfer j) (endedJob w j))
    t.flocks = w.flocks ∧ SameMemory u t ∧ (j.kind = 0 → ∀ x ∈ t.jobs, x.order ≠ j.order) ∧
    ∀ iss o, Waits u j.core j.slot iss o → (slotAt u j.core j.slot).wait = .transfer j.n →
      t.slots = (closed u j.core j.slot o (slotAt u j.core j.slot) iss.after).slots := by
  intro t
  have hsame := hw.eq
  have hslot : slotAt (endedJob w j) j.core j.slot = slotAt u j.core j.slot := by rw [hsame]; rfl
  have hmem : w.mem = u.mem ∧ w.poison = u.poison ∧ w.jobs = s.jobs := by
    rw [hsame]; exact ⟨rfl, rfl, hu.jobs⟩
  obtain ⟨kmem, kpoison, kflocks, kjobs⟩ := wakeTransfer_keeps (s := endedJob w j) (j := j)
    (by rw [hslot, hu.slotAt]; exact hsound)
  refine ⟨kflocks, sameMemory_of_mem (kpoison.trans hmem.2.1) (kmem.trans hmem.1), fun hkind x hx => ?_,
    fun iss o hwaits hwait => ?_⟩
  · have hjobs : t.jobs = (closedJobs w j).map (fun x => if x.order = j.order then { x with paid := [] } else x) :=
      congrArg (List.map _) kjobs
    obtain ⟨y, hy, rfl⟩ := List.mem_map.mp (hjobs ▸ hx)
    have hgone := closedJobs_gone (s := w) hkind (by rw [hmem.2.2]; exact mem_of_jobAt hj) (by rw [hmem.2.2]; exact hunique) hy
    rwa [if_neg hgone]
  · have hw' : Waits (endedJob w j) j.core j.slot iss o :=
      { between := by rw [hsame]; exact hwaits.between, bundle := by rw [hslot]; exact hwaits.bundle
        partner := by rw [hslot]; exact hwaits.partner }
    have hwoken := wakeTransfer_wakes hw' (by rw [hslot]; exact hwait)
    rw [hslot] at hwoken
    exact hwoken.trans (closed_slots (by rw [hsame]; rfl) (by rw [hsame]; rfl) ..)

/-! ## The ends of the engine's jobs -/

theorem accBytes_accTag (code : Nat) : accBytes (accTag code) = if code = 4 then 8 else 4 := by
  unfold accBytes accTag
  by_cases h4 : code = 4
  · simp [h4]
  · by_cases h2 : code = 2 <;> simp [h4, h2]

theorem setAccum_butForFlocks (j : Job) (n : Nat) (v : Accum) (u : State) : ButForFlocks (after (setAccum j n v) u) u := rfl

/-- MXLD's block read whole: it is the accumulator's, and the slot goes on. -/
theorem accumLoad_whole (hup : flockUp s flock = true) (hr : runningJob s flock = some j) (hj : jobAt s j.order = some j)
    {n code : Nat} {addr : Word} (hb : j.body = .accLoad n addr code) {size : Nat} (hsize : accBytes (accTag code) = size)
    (hsound : (slotAt s j.core j.slot).wait = .transfer j.n → companionFault j.core (slotAt s j.core j.slot) = none)
    {bs : List Byte} {u : State} (hw : Whole s j [{ addr := addr, len := 4096 * size, kind := .read }]
      (eRead j.party addr (4096 * size)) bs u) :
    exec (.accumTransferComplete flock) s = .next (after (modJob j.order (fun x => { x with paid := [] }))
      (after (wakeTransfer j) (endedJob (after (setAccum j n
        { vals := (chunks size bs).map (fun b => word (leNat b)), tag := accTag code, owner := some j.ctx }) u) j))) := by
  rw [exec_accumTransferComplete, execAccumTransferComplete, flockStep_up _ hup, after_ask]
  simp only [hr, hb, hsize]
  exact congrArg Host.Outcome.next (endTransfer_whole hj hw (.read ..) (k := setAccum j n _)
    (fun z vs hdone => eThen_done hdone rfl) hsound)

/-- MXST's block written whole: the slot goes on. -/
theorem accumStore_whole (hup : flockUp s flock = true) (hr : runningJob s flock = some j) (hj : jobAt s j.order = some j)
    {n : Nat} {addr : Word} (hb : j.body = .accStore n addr)
    (hsound : (slotAt s j.core j.slot).wait = .transfer j.n → companionFault j.core (slotAt s j.core j.slot) = none)
    {u : State} :
    let size := accBytes (jobAccum s j n).tag
    Whole s j [{ addr := addr, len := 4096 * size, kind := .write }] (eWrite j.party addr
      ((List.range 4096).flatMap (fun k => leBytes size ((jobAccum s j n).vals.getD k 0).toNat))) () u →
    exec (.accumTransferComplete flock) s = .next (after (modJob j.order (fun x => { x with paid := [] }))
      (after (wakeTransfer j) (endedJob u j))) := by
  intro size hw
  rw [exec_accumTransferComplete, execAccumTransferComplete, flockStep_up _ hup, after_ask]
  simp only [hr, hb]
  exact congrArg Host.Outcome.next (endTransfer_whole hj hw (.write ..) (k := skip)
    (fun z vs hdone => hdone.trans (by rw [skip, List.append_nil])) hsound)

theorem mxzeroJob_eq (hup : flockUp s flock = true) (hr : runningJob s flock = some j) {n code : Nat} (hb : j.body = .accZero n code) :
    exec (.mxzeroJob flock) s = .next (endedJob (after (setAccum j n (zeroAccum j.ctx code)) s) j) := by
  rw [exec_mxzeroJob, execMxzeroJob, flockStep_up _ hup, after_ask]
  simp only [hr, hb]
  rw [after_andThen, after_endJob]

/-- The ends of the engine's jobs. -/
theorem matrixJobsEnd : MatrixJobsEnd := by
  intro s flock j hup hr hj hunique wakes sound
  refine ⟨fun m hb => ⟨fun hstep => ?_, fun hstep hflag => ?_, fun hstep hflag f hf _ u hw => ?_⟩,
    ?_, ?_, fun n code hb => ?_⟩
  · rw [matrixJobComplete_eq hup hr hb, beq_false_of_ne hstep, after_onlyIf_false]
  · rw [matrixJobComplete_eq hup hr hb, beq_iff_eq.mpr hstep, after_onlyIf_true, matFinish,
      show bitAt m.shape.flags 1 = false from hflag]
    exact congrArg Host.Outcome.next (after_endJob j s)
  · obtain ⟨hafter, hfaults⟩ := matFinish_whole hj hflag hf hw
    refine ⟨after (modJob j.order (fun x => { x with paid := [] })) (endedJob u j),
      by rw [matrixJobComplete_eq hup hr hb, beq_iff_eq.mpr hstep, after_onlyIf_true, hafter], ⟨rfl, fun _ => rfl⟩, fun x hx ho => ?_⟩
    obtain ⟨y, hy, rfl⟩ := List.mem_map.mp (show x ∈ (closedJobs u j).map _ from hx)
    by_cases hyo : y.order = j.order
    · have hdone := closedJobs_done (mem_of_jobAt hj) hunique hfaults hy hyo
      rwa [if_pos hyo]
    · rw [if_neg hyo] at ho
      exact absurd ho hyo
  · intro n addr code hb tag size hsound bs u hw
    obtain ⟨hflocks, -, hgone, hwakes⟩ := transferEnded_spec (beside_of_whole hw (.read ..)) (setAccum_butForFlocks j n _ u)
      hj hunique hsound
    exact ⟨_, accumLoad_whole hup hr hj hb (accBytes_accTag code) hsound hw,
      (jobAccum_of_flocks hflocks ..).trans (jobAccum_setAccum ..), hgone, hwakes⟩
  · intro n addr hb acc size v hsound u hw
    obtain ⟨-, hmemory, hgone, hwakes⟩ := transferEnded_spec (w := u) (beside_of_whole hw (.write ..)) rfl hj hunique hsound
    exact ⟨_, accumStore_whole hup hr hj hb hsound hw, hmemory, hgone, hwakes⟩
  · exact ⟨_, mxzeroJob_eq hup hr hb, rfl, rfl, rfl, jobAccum_setAccum ..⟩

end Sys2Proof.Proofs

/-! PROOF. The matrix engine and the rings. -/

namespace Sys2Proof.Proofs

/-- Settles O50: each of its parts is a theorem of its own, of the words at issue, an engine's accesses, and its jobs from start to end. -/
theorem matrixEngine : Obligations.MatrixEngine :=
  ⟨ringWords, matrixWords, engineAccesses, matrixJobsStart, matrixSteps, matrixJobsEnd⟩

end Sys2Proof.Proofs
